-- ==== Sys2Proof/Word.lean ====
section
/-! DEFINITION. The machine word and the small closed vocabularies that the instruction syntax uses:
register numbers, spaces, views, mask operands, atomics, scopes (spec/00 R4, spec/01 R10, spec/04 R104,
spec/08 R203 to R211). -/

namespace Sys2Proof

/-- A 64-bit scalar word (R221). -/
abbrev Word := BitVec 64

/-- One byte of memory (R5). -/
abbrev Byte := BitVec 8

/-- A scalar register number s0 to s31 (R203). -/
abbrev SReg := BitVec 5

/-- A grid row, column or diagonal number (R209). -/
abbrev GReg := BitVec 7

/-- A mask register number m0 to m7 (R139). -/
abbrev MReg := BitVec 3

/-- A queue number q0 to q3 (R142). -/
abbrev QReg := BitVec 2

/-- The privilege levels of R4, F the most privileged. -/
inductive Level where
  | u | s | f
  deriving DecidableEq, Repr

/-- The spaces an M operation may name (R10); code 3 is an illegal encoding. -/
inductive Space where
  /-- 0: device virtual. -/
  | dv
  /-- 1: local scratch. -/
  | ls
  /-- 2: cluster scratch. -/
  | cs
  deriving DecidableEq, Repr

/-- The views of the grid (R132, R209); code 3 is an illegal encoding. -/
inductive View where
  | row | col | diag
  deriving DecidableEq, Repr

/-- The mask operand of a maskable operation: mask-enable bit 0; bit 1 in a bundle without a header, where
MSEL names the mask; bit 1 in a bundle whose header's HMASK names it (R139, R199). -/
inductive MaskUse where
  | off
  | msel
  | hdr (k : MReg)
  deriving DecidableEq, Repr

/-- The sub-operations of AMO and AMOS, codes 0 to 10 (R205, R253). -/
inductive AmoOp where
  | add | swap | cas | and | or | xor | min | max | minu | maxu | fadd
  deriving DecidableEq, Repr

/-- The orderings of an atomic, codes 0 to 3 (R114, R205). -/
inductive AmoOrd where
  | relaxed | acquire | release | acqRel
  deriving DecidableEq, Repr

/-- The scopes, codes 0 to 5 (R104); 6 and 7 are illegal encodings. -/
inductive Scope where
  | hart | core | cluster | die | package | system
  deriving DecidableEq, Repr

end Sys2Proof
end

