-- ==== Sys2Proof/Config.lean ====
section
/-! DEFINITION. What the spec leaves open, as constants without a body: nothing can evaluate them or prove a value
of them. Each is applied to the step count or to the operands that the open value depends on (logs 7, 9, 11 to 14, 75). -/

namespace Sys2Proof.Config

/-- The ATIME ticks that pass in one step of the model, fewer than 2^32 (R100 fixes a rate in ticks, not in steps; log 7). -/
opaque ticks : Nat → BitVec 32

/-- The ATIME of a peer part's home, which stands off the package's by offsets that the spec does not bound (R102, R127;
log 75). -/
opaque peerAtime : Nat → Nat → BitVec 64

/-- How far a die's copy of ATIME stands ahead of the master count, taken modulo 9 (R102; log 11). -/
opaque dieSkew : Nat → Nat → Nat

/-- Sync intervals that end in a step without an accepted Sync message: the grandmaster sets their length, from 1/128 s to 1 s
(R101, R103; log 83). -/
opaque syncIntervals : Nat → BitVec 16

/-- What a read under another key or tweak returns: a fixed function of the block's bytes, the key and tweak that
wrote them and those that read them, for the byte at an offset (R66; log 9). -/
opaque scramble : List (BitVec 8) → Option (Nat × Nat) → Option (Nat × Nat) → Nat → BitVec 8

/-- A fresh random key (R364; log 13). -/
opaque freshKey : Nat → Nat

/-- The key that a wrapped key block holds (R364; log 13). -/
opaque unwrapKey : Nat → Nat

/-- The undefined elements of a row after VFILL (R139, R265; log 12). -/
opaque undefRow : Nat → Nat → BitVec 2048

/-- Power and thermal telemetry words (R361, R365; log 13). -/
opaque telemetry : Nat → Nat → BitVec 64

/-- The keyed 256-bit hash of a 4 KiB block's bytes for an owner (R62; log 13). -/
opaque blockHash : Nat → List (BitVec 8) → Nat

/-- Whether the HBM of a fenced die still answers for a block, and whether a receiver still holds the content that a reference
to a block names, at a step (R43, R62, R63; logs 20, 53). -/
opaque hbmAnswers : Nat → Nat → Bool
opaque manifestHolds : Nat → Nat → Bool

/-- SHA-384 of a byte string (R362, R363; log 13). -/
opaque sha384 : List (BitVec 8) → Nat

/-- The ECDSA P-384 signature of a digest under the identity key (R363; log 13). -/
opaque sign : Nat → BitVec 768

/-- The part's identity and its fused security version (R363; log 13). -/
opaque partIdentity : BitVec 64
opaque securityVersion : BitVec 32

/-- The digests of the four images that boot measures (R362; log 13). -/
opaque bootDigest : Nat → Nat

/-- Which of M4 to M7 (0 to 3) a write of the mailbox by the supervisor extends, and by which digest, from the mailbox's words and
the offset written (R362; log 18). -/
opaque mailboxExtend : List (Nat × BitVec 64) → Nat → Option (Nat × Nat)

/-- Whether the signatures of the boot images verify (R362; log 13). -/
opaque bootVerifies : Nat → Bool

/-- Whether debug access of the part is unlocked (R363; log 13). -/
opaque debugUnlocked : Bool

/-- Bits that an entry of the context save area beyond a queue's count holds (R187; log 12). -/
opaque staleEntry : Nat → BitVec 2048

end Sys2Proof.Config
end

