-- ==== Sys2Proof/Machine/Table.lean ====
section
/-! DEFINITION. Sparse tables of plain data: a sorted list of (key, value) pairs and a default for the keys it
does not list. The register files, the cores and the dies of State are such tables. -/

namespace Sys2Proof.Machine

/-- A table from numbers to values; a key it does not list has the type's default value. -/
abbrev Tbl (α : Type) := List (Nat × α)

/-- The value of a key, `d` where none is listed. -/
def Tbl.getD {α : Type} (t : Tbl α) (k : Nat) (d : α) : α :=
  match t with
  | [] => d
  | (j, v) :: rest => if j = k then v else Tbl.getD rest k d

/-- The value of a key, the type's default where none is listed. -/
def Tbl.get {α : Type} [Inhabited α] (t : Tbl α) (k : Nat) : α := Tbl.getD t k default

/-- The table with one key's value replaced, its keys still rising. -/
def Tbl.put {α : Type} (t : Tbl α) (k : Nat) (v : α) : Tbl α :=
  match t with
  | [] => [(k, v)]
  | (j, w) :: rest =>
    if j = k then (k, v) :: rest else if k < j then (k, v) :: (j, w) :: rest else (j, w) :: Tbl.put rest k v

/-- The table with one key's value changed by a function. -/
def Tbl.mod {α : Type} [Inhabited α] (t : Tbl α) (k : Nat) (f : α → α) : Tbl α := t.put k (f (t.get k))

/-- The table without one key. -/
def Tbl.del {α : Type} (t : Tbl α) (k : Nat) : Tbl α := t.filter (fun p => p.1 != k)

/-- The element of a list at a position, with its neighbours kept, changed by a function. -/
def modAt {α : Type} : List α → Nat → (α → α) → List α
  | [], _, _ => []
  | x :: xs, 0, f => f x :: xs
  | x :: xs, n + 1, f => x :: modAt xs n f

/-- The list without the element at a position. -/
def dropAt {α : Type} : List α → Nat → List α
  | [], _ => []
  | _ :: xs, 0 => xs
  | x :: xs, n + 1 => x :: dropAt xs n

/-- The index of the first element with a property. -/
def indexWhere {α : Type} (p : α → Bool) : List α → Option Nat
  | [] => none
  | x :: xs => if p x then some 0 else (indexWhere p xs).map (· + 1)

/-- The bytes of a number, least significant first (R5). -/
def bytesOf (v : Nat) : Nat → List Byte
  | 0 => []
  | n + 1 => BitVec.ofNat 8 v :: bytesOf (v / 256) n

end Sys2Proof.Machine
end

