-- ==== Sys2Proof/Syntax.lean ====
section
/-! DEFINITION. The ONE inductive of instructions: a constructor for every row of spec/opcode_table.json.
The first 208 are the encoded operations of spec/08, with their operands as the decoder delivers them (immediates with
the header's extension byte applied, R200; mask operands resolved between header and MSEL, R199). The last 103 are the
table's steps of other agents (spec/95); their operands name the agent or the waiting item the step is about. -/

namespace Sys2Proof

/-- The instructions and steps of the ZM-9; each docstring cites the rule of its effect. -/
inductive Instr where
  /-- NOP (R198). An all-zero slot does nothing. -/
  | nop
  /-- ADD (R222). sd := (a + b) mod 2^64. -/
  | add (d : SReg) (a : SReg) (b : SReg)
  /-- SUB (R222). sd := (a - b) mod 2^64. -/
  | sub (d : SReg) (a : SReg) (b : SReg)
  /-- AND (R222). sd := a and b. -/
  | and (d : SReg) (a : SReg) (b : SReg)
  /-- OR (R222). sd := a or b. -/
  | or (d : SReg) (a : SReg) (b : SReg)
  /-- XOR (R222). sd := a xor b. -/
  | xor (d : SReg) (a : SReg) (b : SReg)
  /-- SLL (R222). sd := a shifted left by b[5:0]. -/
  | sll (d : SReg) (a : SReg) (b : SReg)
  /-- SRL (R222). sd := a shifted right logically by b[5:0]. -/
  | srl (d : SReg) (a : SReg) (b : SReg)
  /-- SRA (R222). sd := a shifted right arithmetically by b[5:0]. -/
  | sra (d : SReg) (a : SReg) (b : SReg)
  /-- SLT (R222). sd := 1 when a < b signed, else 0. -/
  | slt (d : SReg) (a : SReg) (b : SReg)
  /-- SLTU (R222). sd := 1 when a < b unsigned, else 0. -/
  | sltu (d : SReg) (a : SReg) (b : SReg)
  /-- MIN (R222). sd := signed lesser of a and b. -/
  | min (d : SReg) (a : SReg) (b : SReg)
  /-- MAX (R222). sd := signed greater of a and b. -/
  | max (d : SReg) (a : SReg) (b : SReg)
  /-- MINU (R222). sd := unsigned lesser of a and b. -/
  | minu (d : SReg) (a : SReg) (b : SReg)
  /-- MAXU (R222). sd := unsigned greater of a and b. -/
  | maxu (d : SReg) (a : SReg) (b : SReg)
  /-- CSEL (R224). sd := a when s[sc] is nonzero, otherwise b. -/
  | csel (d : SReg) (a : SReg) (b : SReg) (c : SReg)
  /-- MUL (R222). sd := (a × b) mod 2^64. -/
  | mul (d : SReg) (a : SReg) (b : SReg)
  /-- MULH (R222). sd := high 64 bits of the signed product. -/
  | mulh (d : SReg) (a : SReg) (b : SReg)
  /-- MULHU (R222). sd := high 64 bits of the unsigned product. -/
  | mulhu (d : SReg) (a : SReg) (b : SReg)
  /-- DIV (R223). Signed division truncating towards zero, saturating on division by zero or overflow. -/
  | div (d : SReg) (a : SReg) (b : SReg)
  /-- DIVU (R223). Unsigned division; division by zero gives all ones. -/
  | divu (d : SReg) (a : SReg) (b : SReg)
  /-- REM (R223). Signed remainder with the dividend's sign; by zero gives the dividend. -/
  | rem (d : SReg) (a : SReg) (b : SReg)
  /-- REMU (R223). Unsigned remainder; by zero gives the dividend. -/
  | remu (d : SReg) (a : SReg) (b : SReg)
  /-- ADD32 (R222). sd := sign-extended low 32 bits of a + b. -/
  | add32 (d : SReg) (a : SReg) (b : SReg)
  /-- CLZ (R224). sd := leading zero bits of a, 64 for zero. -/
  | clz (d : SReg) (a : SReg)
  /-- CTZ (R224). sd := trailing zero bits of a, 64 for zero. -/
  | ctz (d : SReg) (a : SReg)
  /-- POPC (R224). sd := number of 1 bits of a. -/
  | popc (d : SReg) (a : SReg)
  /-- FSHL (R224). Funnel shift left of a:b by n, keeping the high 64 bits. -/
  | fshl (d : SReg) (a : SReg) (b : SReg) (n : BitVec 6)
  /-- FSHR (R224). Funnel shift right of a:b by n, keeping the low 64 bits. -/
  | fshr (d : SReg) (a : SReg) (b : SReg) (n : BitVec 6)
  /-- BEXT (R224). Extracts the bit field of a at pos and len given by b. -/
  | bext (d : SReg) (a : SReg) (b : SReg)
  /-- BINS (R224). Inserts a into the bit field of sd at pos and len given by b. -/
  | bins (d : SReg) (a : SReg) (b : SReg)
  /-- SEXT (R224). Sign-extends the low w bits of a. -/
  | sext (d : SReg) (a : SReg) (n : BitVec 6)
  /-- ADDI (R225). sd := a + imm. -/
  | addi (d : SReg) (a : SReg) (imm : BitVec 20)
  /-- ANDI (R225). sd := a and sign-extended imm. -/
  | andi (d : SReg) (a : SReg) (imm : BitVec 20)
  /-- ORI (R225). sd := a or sign-extended imm. -/
  | ori (d : SReg) (a : SReg) (imm : BitVec 20)
  /-- XORI (R225). sd := a xor sign-extended imm. -/
  | xori (d : SReg) (a : SReg) (imm : BitVec 20)
  /-- SLLI (R225). sd := a shifted left by an immediate count. -/
  | slli (d : SReg) (a : SReg) (n : BitVec 6)
  /-- SRLI (R225). sd := a shifted right logically by an immediate count. -/
  | srli (d : SReg) (a : SReg) (n : BitVec 6)
  /-- SRAI (R225). sd := a shifted right arithmetically by an immediate count. -/
  | srai (d : SReg) (a : SReg) (n : BitVec 6)
  /-- SLTI (R225). sd := 1 when a < imm signed. -/
  | slti (d : SReg) (a : SReg) (imm : BitVec 20)
  /-- SLTIU (R225). sd := 1 when a < imm unsigned. -/
  | sltiu (d : SReg) (a : SReg) (imm : BitVec 20)
  /-- LUI (R225). sd := imm × 4,096. -/
  | lui (d : SReg) (imm : BitVec 20)
  /-- ADDPC (R225). sd := PC + imm in bytes. -/
  | addpc (d : SReg) (imm : BitVec 20)
  /-- FADD (R227). FP32 addition rounded once. -/
  | fadd (d : SReg) (a : SReg) (b : SReg) (rm : BitVec 3)
  /-- FSUB (R227). FP32 subtraction rounded once. -/
  | fsub (d : SReg) (a : SReg) (b : SReg) (rm : BitVec 3)
  /-- FMUL (R227). FP32 multiplication rounded once. -/
  | fmul (d : SReg) (a : SReg) (b : SReg) (rm : BitVec 3)
  /-- FDIV (R227). FP32 division rounded once, with DZ and NV cases. -/
  | fdiv (d : SReg) (a : SReg) (b : SReg) (rm : BitVec 3)
  /-- FSQRT (R227). FP32 square root rounded once. -/
  | fsqrt (d : SReg) (a : SReg) (rm : BitVec 3)
  /-- FMIN (R228). IEEE minimumNumber of two FP32 values. -/
  | fmin (d : SReg) (a : SReg) (b : SReg)
  /-- FMAX (R228). IEEE maximumNumber of two FP32 values. -/
  | fmax (d : SReg) (a : SReg) (b : SReg)
  /-- FMA (R227). sd := round(a × b + old sd) with one rounding. -/
  | fma (d : SReg) (a : SReg) (b : SReg) (rm : BitVec 3)
  /-- FCVTIF (R229). Converts signed 64-bit integer to FP32. -/
  | fcvtif (d : SReg) (a : SReg) (rm : BitVec 3)
  /-- FCVTFI (R229). Converts FP32 to a saturated signed 64-bit integer. -/
  | fcvtfi (d : SReg) (a : SReg) (rm : BitVec 3)
  /-- FEQ (R228). Quiet FP32 equality comparison. -/
  | feq (d : SReg) (a : SReg) (b : SReg)
  /-- FLT (R228). Signalling FP32 less-than comparison. -/
  | flt (d : SReg) (a : SReg) (b : SReg)
  /-- FLE (R228). Signalling FP32 less-or-equal comparison. -/
  | fle (d : SReg) (a : SReg) (b : SReg)
  /-- FCLASS (R228). Writes 2^k for the class k of an FP32 value. -/
  | fclass (d : SReg) (a : SReg)
  /-- FCVTBF (R229). Rounds FP32 to BF16. -/
  | fcvtbf (d : SReg) (a : SReg) (rm : BitVec 3)
  /-- FCVTFB (R229). Widens BF16 exactly to FP32. -/
  | fcvtfb (d : SReg) (a : SReg)
  /-- BEQ (R230). Branches when a equals b. -/
  | beq (a : SReg) (b : SReg) (o : BitVec 23)
  /-- BNE (R230). Branches when a differs from b. -/
  | bne (a : SReg) (b : SReg) (o : BitVec 23)
  /-- BLT (R230). Branches when a < b signed. -/
  | blt (a : SReg) (b : SReg) (o : BitVec 23)
  /-- BGE (R230). Branches when a ≥ b signed. -/
  | bge (a : SReg) (b : SReg) (o : BitVec 23)
  /-- BLTU (R230). Branches when a < b unsigned. -/
  | bltu (a : SReg) (b : SReg) (o : BitVec 23)
  /-- BGEU (R230). Branches when a ≥ b unsigned. -/
  | bgeu (a : SReg) (b : SReg) (o : BitVec 23)
  /-- JAL (R231). Writes PC + 16 to sd and jumps by a bundle offset. -/
  | jal (d : SReg) (o : BitVec 28)
  /-- JALR (R231). Writes PC + 16 to sd and jumps to a + imm with bits [3:0] cleared. -/
  | jalr (d : SReg) (a : SReg) (imm : BitVec 23)
  /-- LOOP (R232). Pushes a counted zero-overhead loop entry and runs its body. -/
  | loop (a : SReg) (o : BitVec 23)
  /-- VLOOP (R235). Runs a strip-mined loop over an element count, setting VL per pass. -/
  | vloop (a : SReg) (o : BitVec 23)
  /-- SETVL (R236). Sets VTYPE and VL := min(a, g × VLMAX) and writes VL to sd. -/
  | setvl (d : SReg) (a : SReg) (e : BitVec 3) (g : BitVec 2)
  /-- GETC (R237). Reads a control word into sd. -/
  | getc (d : SReg) (c : BitVec 12)
  /-- SETC (R237). Writes a into a control word under its write rule. -/
  | setc (a : SReg) (c : BitVec 12)
  /-- SETCI (R237). Writes a zero-extended immediate into a control word. -/
  | setci (imm : BitVec 21) (c : BitVec 12)
  /-- LDB (R249). Loads one byte sign-extended. -/
  | ldb (p : Space) (d : SReg) (a : SReg) (imm : BitVec 20)
  /-- LDBU (R249). Loads one byte zero-extended. -/
  | ldbu (p : Space) (d : SReg) (a : SReg) (imm : BitVec 20)
  /-- LDH (R249). Loads two bytes sign-extended. -/
  | ldh (p : Space) (d : SReg) (a : SReg) (imm : BitVec 20)
  /-- LDHU (R249). Loads two bytes zero-extended. -/
  | ldhu (p : Space) (d : SReg) (a : SReg) (imm : BitVec 20)
  /-- LDW (R249). Loads four bytes sign-extended. -/
  | ldw (p : Space) (d : SReg) (a : SReg) (imm : BitVec 20)
  /-- LDWU (R249). Loads four bytes zero-extended. -/
  | ldwu (p : Space) (d : SReg) (a : SReg) (imm : BitVec 20)
  /-- LDD (R249). Loads eight bytes. -/
  | ldd (p : Space) (d : SReg) (a : SReg) (imm : BitVec 20)
  /-- STB (R249). Stores one byte. -/
  | stb (p : Space) (b : SReg) (a : SReg) (imm : BitVec 20)
  /-- STH (R249). Stores two bytes. -/
  | sth (p : Space) (b : SReg) (a : SReg) (imm : BitVec 20)
  /-- STW (R249). Stores four bytes. -/
  | stw (p : Space) (b : SReg) (a : SReg) (imm : BitVec 20)
  /-- STD (R249). Stores eight bytes. -/
  | std (p : Space) (b : SReg) (a : SReg) (imm : BitVec 20)
  /-- LDNB (R251). Timed load held at the home until its not-before time. -/
  | ldnb (d : SReg) (a : SReg) (t : SReg) (z : BitVec 2)
  /-- STVA (R251). Timed store performed at its home at its visible-at time. -/
  | stva (b : SReg) (a : SReg) (t : SReg) (z : BitVec 2)
  /-- AMO (R253). Atomic read-modify-write of an aligned word at the range's home, returning the old value. -/
  | amo (d : SReg) (a : SReg) (w : BitVec 1) (op : AmoOp) (ord : AmoOrd) (sc : Scope)
  /-- AMOS (R254). Atomic read-modify-write on a cluster-scratch word at the target scratchpad. -/
  | amos (d : SReg) (a : SReg) (w : BitVec 1) (op : AmoOp) (ord : AmoOrd) (sc : Scope)
  /-- FENCE (R256). Typed fence ordering predecessor classes before successor classes at a scope. -/
  | fence (p : BitVec 8) (q : BitVec 8) (sc : Scope)
  /-- VLD (R259). Unit-stride vector load into a row group, decoding the range format. -/
  | vld (p : Space) (v : GReg) (a : SReg) (imm : BitVec 17) (m : MaskUse)
  /-- VLDS (R259). Strided vector load. -/
  | vlds (p : Space) (v : GReg) (a : SReg) (b : SReg) (m : MaskUse)
  /-- VLDX (R259). Indexed vector load with offsets from an index row. -/
  | vldx (p : Space) (v : GReg) (a : SReg) (x : GReg) (m : MaskUse)
  /-- VST (R259). Unit-stride vector store from a row group. -/
  | vst (p : Space) (v : GReg) (a : SReg) (imm : BitVec 17) (m : MaskUse)
  /-- VSTS (R259). Strided vector store. -/
  | vsts (p : Space) (v : GReg) (a : SReg) (b : SReg) (m : MaskUse)
  /-- VSTX (R259). Indexed vector store. -/
  | vstx (p : Space) (v : GReg) (a : SReg) (x : GReg) (m : MaskUse)
  /-- VSTB (R261). Stores the bytes of one row selected by a byte-mask register. -/
  | vstb (p : Space) (v : GReg) (a : SReg) (k : MReg)
  /-- VLDC (R262). Decodes a DBP32 stream into 32-bit elements up to a byte bound, setting VL and the bytes consumed. -/
  | vldc (p : Space) (v : GReg) (a : SReg) (b : SReg)
  /-- VSPILL (R264). Saves the live elements of a row group in a compact frame. -/
  | vspill (p : Space) (v : GReg) (a : SReg) (g : BitVec 2)
  /-- VFILL (R265). Restores a row group from a spill frame after checking its header. -/
  | vfill (p : Space) (v : GReg) (a : SReg) (g : BitVec 2)
  /-- VSTVA (R266). Timed vector store performed at the home at its time. -/
  | vstva (v : GReg) (a : SReg) (t : SReg) (m : MaskUse)
  /-- SBIND (R269). Binds a queue to a layout record for reading or storing. -/
  | sbind (a : SReg) (r : BitVec 1) (q : QReg)
  /-- SUNBIND (R272). Unbinds a queue. -/
  | sunbind (q : QReg)
  /-- SSTAT (R275). Writes a queue's stream state to sd. -/
  | sstat (d : SReg) (q : QReg)
  /-- SSKIP (R274). Advances a queue by a entries as if popped or pushed. -/
  | sskip (a : SReg) (q : QReg)
  /-- SFLUSH (R273). Waits for pushed entries to perform, or discards and refetches prefetched entries. -/
  | sflush (q : QReg)
  /-- CPY (R277). Issues the copy described by a command block and returns a ticket. -/
  | cpy (d : SReg) (a : SReg)
  /-- CPYW (R283). Blocks until a copy and its completion action have ended, then orders its writes. -/
  | cpyw (a : SReg)
  /-- CPYQ (R283). Writes a copy's status without waiting. -/
  | cpyq (d : SReg) (a : SReg)
  /-- CPYX (R284). Ends a copy before its next write and returns its final status. -/
  | cpyx (d : SReg) (a : SReg)
  /-- RGPROBE (R289). Translates an address as a load would and writes the translation word. -/
  | rgprobe (d : SReg) (a : SReg)
  /-- RGSPLIT (R286). Splits the range containing a at a and writes a status. -/
  | rgsplit (d : SReg) (a : SReg)
  /-- RGMERGE (R286). Merges the entry containing a with the next entry and writes a status. -/
  | rgmerge (d : SReg) (a : SReg)
  /-- RGINV (R288). Invalidates cached descriptors of an interval for the owner and blocks until complete. -/
  | rginv (a : SReg) (b : SReg)
  /-- RGTOUCH (R290). Starts a retriever search for a and commits at once. -/
  | rgtouch (a : SReg)
  /-- RGMOVE (R287). Asks the dredger to move a range to a new physical base and home die. -/
  | rgmove (d : SReg) (a : SReg) (b : SReg) (h : BitVec 4)
  /-- TIME (R291). Writes ATIME sampled at commit. -/
  | time (d : SReg)
  /-- TWAIT (R291). Blocks until the die's ATIME reaches a. -/
  | twait (a : SReg)
  /-- TSTAT (R291). Writes the die's time status word. -/
  | tstat (d : SReg)
  /-- GBAR (R292). Arrives at the gang barrier with a not-before time and blocks until it opens. -/
  | gbar (d : SReg) (a : SReg)
  /-- JPOST (R293). Posts a slice record and returns its handle or a refusal status. -/
  | jpost (d : SReg) (a : SReg)
  /-- JYIELD (R294). Marks the running entry as yielding and re-ranks the core's queue. -/
  | jyield
  /-- JDONE (R295). Ends the running instance with release, finishing the slice when it is the last. -/
  | jdone
  /-- JWAIT (R296). Blocks until a slice has finished, failed or been ended, then acquires. -/
  | jwait (a : SReg)
  /-- JDEC (R296). Decrements a slice's predecessor count with release. -/
  | jdec (a : SReg)
  /-- WAITA (R297). Blocks while the 8-byte word at a equals b. -/
  | waita (a : SReg) (b : SReg)
  /-- CAPQ (R298). Writes a capacity item for a die. -/
  | capq (d : SReg) (a : SReg) (x : BitVec 8)
  /-- CAPR (R298). Writes a capacity item for a core. -/
  | capr (d : SReg) (a : SReg) (x : BitVec 8)
  /-- TSHAPE (R300). Grants a tile shape into TSHP and writes the grant. -/
  | tshape (d : SReg) (a : SReg)
  /-- OPA (R303). Accumulates TK rank-one updates from two queues into a tile of one half. -/
  | opa (h : BitVec 1) (qa : QReg) (qb : QReg) (n : BitVec 1) (o : BitVec 1)
  /-- OPZ (R308). Clears the TSHP tile of a half. -/
  | opz (h : BitVec 1)
  /-- GMOV (R309). Copies all 64 cells of one row to another. -/
  | gmov (d : GReg) (r : GReg)
  /-- GTRN (R310). Transposes a whole half in place. -/
  | gtrn (h : BitVec 1)
  /-- GSTAT (R311). Writes the grid status word. -/
  | gstat (d : SReg)
  /-- GSAVE (R313). Stores rows to their save-area slots and clears their dirty bits. -/
  | gsave (f : GReg) (c : BitVec 7)
  /-- GLOAD (R313). Loads rows from their save-area slots. -/
  | gload (f : GReg) (c : BitVec 7)
  /-- GDIRTY (R312). Writes the row-dirty bits of one half. -/
  | gdirty (d : SReg) (h : BitVec 1)
  /-- GCLR (R308). Clears every cell of a half. -/
  | gclr (h : BitVec 1)
  /-- VADD (R321). Element-wise addition. -/
  | vadd (w : View) (d : GReg) (a : GReg) (b : GReg) (m : MaskUse)
  /-- VSUB (R321). Element-wise subtraction. -/
  | vsub (w : View) (d : GReg) (a : GReg) (b : GReg) (m : MaskUse)
  /-- VMUL (R321). Element-wise multiplication. -/
  | vmul (w : View) (d : GReg) (a : GReg) (b : GReg) (m : MaskUse)
  /-- VFMA (R321). Element-wise fused a × b + d. -/
  | vfma (w : View) (d : GReg) (a : GReg) (b : GReg) (m : MaskUse)
  /-- VFMS (R321). Element-wise fused d - a × b. -/
  | vfms (w : View) (d : GReg) (a : GReg) (b : GReg) (m : MaskUse)
  /-- VMIN (R321). Element-wise minimum. -/
  | vmin (w : View) (d : GReg) (a : GReg) (b : GReg) (m : MaskUse)
  /-- VMAX (R321). Element-wise maximum. -/
  | vmax (w : View) (d : GReg) (a : GReg) (b : GReg) (m : MaskUse)
  /-- VABS (R321). Element-wise absolute value. -/
  | vabs (w : View) (d : GReg) (a : GReg) (m : MaskUse)
  /-- VNEG (R321). Element-wise negation. -/
  | vneg (w : View) (d : GReg) (a : GReg) (m : MaskUse)
  /-- VDIV (R321). Element-wise division. -/
  | vdiv (w : View) (d : GReg) (a : GReg) (b : GReg) (m : MaskUse)
  /-- VAND (R322). Element-wise and. -/
  | vand (w : View) (d : GReg) (a : GReg) (b : GReg) (m : MaskUse)
  /-- VOR (R322). Element-wise or. -/
  | vor (w : View) (d : GReg) (a : GReg) (b : GReg) (m : MaskUse)
  /-- VXOR (R322). Element-wise xor. -/
  | vxor (w : View) (d : GReg) (a : GReg) (b : GReg) (m : MaskUse)
  /-- VNOT (R322). Element-wise not. -/
  | vnot (w : View) (d : GReg) (a : GReg) (m : MaskUse)
  /-- VSLL (R322). Element-wise shift left. -/
  | vsll (w : View) (d : GReg) (a : GReg) (b : GReg) (m : MaskUse)
  /-- VSRL (R322). Element-wise logical shift right. -/
  | vsrl (w : View) (d : GReg) (a : GReg) (b : GReg) (m : MaskUse)
  /-- VSRA (R322). Element-wise arithmetic shift right. -/
  | vsra (w : View) (d : GReg) (a : GReg) (b : GReg) (m : MaskUse)
  /-- VFSHL (R322). Element-wise funnel shift left. -/
  | vfshl (w : View) (d : GReg) (a : GReg) (b : GReg) (m : MaskUse)
  /-- VFSHR (R322). Element-wise funnel shift right. -/
  | vfshr (w : View) (d : GReg) (a : GReg) (b : GReg) (m : MaskUse)
  /-- VCMP (R324). Compares elements and writes the result bits into a mask register. -/
  | vcmp (w : View) (c : BitVec 4) (k : MReg) (a : GReg) (b : GReg) (m : MaskUse)
  /-- VSEL (R323). Selects a or b per element by the mask. -/
  | vsel (w : View) (d : GReg) (a : GReg) (b : GReg) (m : MaskUse)
  /-- VMV (R323). Copies elements. -/
  | vmv (w : View) (d : GReg) (a : GReg) (m : MaskUse)
  /-- VBCAST (R323). Broadcasts a scalar to every element. -/
  | vbcast (w : View) (d : GReg) (x : SReg) (m : MaskUse)
  /-- VADDS (R321). Adds a scalar to each element. -/
  | vadds (w : View) (d : GReg) (a : GReg) (x : SReg) (m : MaskUse)
  /-- VMULS (R321). Multiplies each element by a scalar. -/
  | vmuls (w : View) (d : GReg) (a : GReg) (x : SReg) (m : MaskUse)
  /-- VFMAS (R321). Fused multiply-add of each element by a scalar into vd. -/
  | vfmas (w : View) (d : GReg) (a : GReg) (x : SReg) (m : MaskUse)
  /-- VID (R323). Writes each element's index. -/
  | vid (w : View) (d : GReg) (m : MaskUse)
  /-- VCVT (R326). Converts each element to a target format. -/
  | vcvt (w : View) (d : GReg) (a : GReg) (k : BitVec 7) (m : MaskUse)
  /-- VQNT (R327). Quantises each element scaled by a scalar under QFMT. -/
  | vqnt (w : View) (d : GReg) (a : GReg) (x : SReg) (m : MaskUse)
  /-- VHAD (R332). One butterfly stage of a Walsh-Hadamard transform. -/
  | vhad (w : View) (d : GReg) (a : GReg) (k : BitVec 7) (m : MaskUse)
  /-- VSFU (R333). Applies a special function to each element, correctly rounded. -/
  | vsfu (w : View) (d : GReg) (a : GReg) (k : BitVec 7) (m : MaskUse)
  /-- VREDSUM (R334). Sums the active elements in the fixed tree. -/
  | vredsum (w : View) (d : SReg) (a : GReg) (m : MaskUse)
  /-- VREDMAX (R334). Maximum of the active elements in the fixed tree. -/
  | vredmax (w : View) (d : SReg) (a : GReg) (m : MaskUse)
  /-- VREDMIN (R334). Minimum of the active elements in the fixed tree. -/
  | vredmin (w : View) (d : SReg) (a : GReg) (m : MaskUse)
  /-- VREDAMAX (R334). Largest magnitude of the active elements. -/
  | vredamax (w : View) (d : SReg) (a : GReg) (m : MaskUse)
  /-- VSEGSUM (R336). Writes each segment's total to its active elements. -/
  | vsegsum (w : View) (d : GReg) (a : GReg) (k : MReg) (m : MaskUse)
  /-- VSEGSCAN (R336). Segmented running sum. -/
  | vsegscan (w : View) (d : GReg) (a : GReg) (k : MReg) (m : MaskUse)
  /-- VSCAN (R336). Left-to-right running sum. -/
  | vscan (w : View) (d : GReg) (a : GReg) (m : MaskUse)
  /-- VSLIDEUP (R337). Slides elements up by a scalar count, filling with FILL. -/
  | vslideup (w : View) (d : GReg) (a : GReg) (x : SReg) (m : MaskUse)
  /-- VSLIDEDN (R337). Slides elements down by a scalar count. -/
  | vslidedn (w : View) (d : GReg) (a : GReg) (x : SReg) (m : MaskUse)
  /-- VPERM (R338). Gathers source elements by per-element index. -/
  | vperm (w : View) (d : GReg) (a : GReg) (b : GReg) (m : MaskUse)
  /-- VUNPK (R329). Widens one part of narrow source elements. -/
  | vunpk (w : View) (d : GReg) (a : GReg) (k : BitVec 7) (m : MaskUse)
  /-- VPACK (R330). Narrows elements into one part of the destination. -/
  | vpack (w : View) (d : GReg) (a : GReg) (k : BitVec 7) (m : MaskUse)
  /-- VLUT (R338). Table lookup with clamped per-element index. -/
  | vlut (w : View) (d : GReg) (a : GReg) (b : GReg) (m : MaskUse)
  /-- VEXPAND (R339). Expands consecutive source elements into the active positions. -/
  | vexpand (w : View) (d : GReg) (a : GReg) (m : MaskUse)
  /-- VCOMPRESS (R339). Packs the active source elements to the front. -/
  | vcompress (w : View) (d : GReg) (a : GReg) (m : MaskUse)
  /-- VSPARSE (R340). Keeps the N largest magnitudes of each group of G and writes the keep bits to the next row. -/
  | vsparse (w : View) (d : GReg) (a : GReg) (k : BitVec 7) (m : MaskUse)
  /-- VPOP (R341). Pops one queue entry into a row, column or diagonal. -/
  | vpop (w : View) (d : GReg) (q : QReg) (m : MaskUse)
  /-- VPUSH (R342). Pushes all 256 bytes of a row onto a store queue. -/
  | vpush (q : QReg) (a : GReg) (m : MaskUse)
  /-- VMAND (R325). Mask and. -/
  | vmand (d : MReg) (a : MReg) (b : MReg)
  /-- VMOR (R325). Mask or. -/
  | vmor (d : MReg) (a : MReg) (b : MReg)
  /-- VMXOR (R325). Mask xor. -/
  | vmxor (d : MReg) (a : MReg) (b : MReg)
  /-- VMNOT (R325). Mask not. -/
  | vmnot (d : MReg) (a : MReg)
  /-- VMPOPC (R325). Counts set mask bits below VL. -/
  | vmpopc (d : SReg) (a : MReg)
  /-- VMFIRST (R325). Writes the index of the lowest set mask bit below VL. -/
  | vmfirst (d : SReg) (a : MReg)
  /-- VMFROM (R325). Sets mask bits for nonzero elements. -/
  | vmfrom (w : View) (k : MReg) (a : GReg) (m : MaskUse)
  /-- VMTO (R325). Writes mask bits as integer elements. -/
  | vmto (w : View) (d : GReg) (k : MReg) (m : MaskUse)
  /-- VEXT (R335). Extracts one element to a scalar register. -/
  | vext (w : View) (d : SReg) (a : GReg) (x : SReg) (m : MaskUse)
  /-- VNRW (R331). Rounding narrowing shift with saturation. -/
  | vnrw (w : View) (d : GReg) (a : GReg) (k : BitVec 7) (m : MaskUse)
  /-- VPOPC (R322). Counts 1 bits of each element. -/
  | vpopc (w : View) (d : GReg) (a : GReg) (m : MaskUse)
  /-- VSHRR (R322). Rounding arithmetic shift right. -/
  | vshrr (w : View) (d : GReg) (a : GReg) (b : GReg) (m : MaskUse)
  /-- VMULH (R322). High half of the signed element product. -/
  | vmulh (w : View) (d : GReg) (a : GReg) (b : GReg) (m : MaskUse)
  /-- VCLZ (R322). Counts leading zero bits of each element. -/
  | vclz (w : View) (d : GReg) (a : GReg) (m : MaskUse)
  /-- SVC (R241). Commits and traps to S with cause 0x18. -/
  | svc (c : BitVec 16)
  /-- BRK (R241). Takes the precise breakpoint trap 0x19. -/
  | brk (c : BitVec 16)
  /-- ERET (R182). Leaves a handler, returning to PREV or restoring the saved context. -/
  | eret
  /-- WFI (R242). Commits and issues nothing until a wake event or 4,096 cycles. -/
  | wfi
  /-- RCFLUSH (R243). Drops every entry of the core's range cache. -/
  | rcflush
  /-- KEYSEL (R244). Installs an owner's AES-256-XTS key after writing back its die-cache lines. -/
  | keysel (a : SReg) (b : SReg)
  /-- HALT (R245). Takes the core out of service until module reset, moving its queue entries. -/
  | halt
  /-- ERRLOG (R246). Reads an error-log word or the log status, optionally freeing. -/
  | errlog (d : SReg) (a : SReg)
  /-- BUNDLE_FETCH (R197). The control core fetches the 16-byte bundle at PC as one 64-byte block and decodes its slots and header. -/
  | bundleFetch
  /-- RETRIEVER_SEARCH_END (R22). A retriever search ends with a descriptor, no range, a malformed descriptor, or a data error of a probe. -/
  | retrieverSearchEnd (k : Nat)
  /-- ACCESS_AT_HOME (R105). An access arrives at its home and performs there, in the byte's coherence order. -/
  | accessAtHome (k : Nat)
  /-- ACCESS_REPLY (R107). The value or error response of a load, atomic or strict access returns to the core and lets its bundle commit. -/
  | accessReply (core : Nat)
  /-- MOVED_RESPONSE_RESEND (R40). A fabric interface that receives a moved response re-sends the access to the new home, keeping its ordering, scope and operands. -/
  | movedResponseResend (k : Nat)
  /-- DREDGER_LOCK_RETRY (R29). A move that the device began itself repeats the LOCK compare-and-swap every 4,000 ticks until it succeeds. -/
  | dredgerLockRetry (k : Nat)
  /-- HOLDER_DROP (R34). An invalidation reaches a holder and drops its range-cache entries of the owner that overlap the interval. -/
  | holderDrop (k : Nat) (agent : Nat)
  /-- RGINV_COMPLETE (R34). An invalidation completes when drops, accesses through dropped entries, searches in progress and earlier stores are all done. -/
  | rginvComplete (k : Nat)
  /-- FILL_RECORD (R37). A fill's (owner, BASE, END, die) message reaches the owner's translation-directory slice and sets the holder bit. -/
  | fillRecord (k : Nat)
  /-- SLICE_DROP_COMPLETE (R37). The harbourmaster's drop for a moved slice completes, and waiting fills and invalidations proceed. -/
  | sliceDropComplete (k : Nat)
  /-- DREDGER_MOVE (R38). A dredger starts moving a range to a new physical base and home, first taking the directory lock. -/
  | dredgerMove (owner : Nat) (va : Nat) (pbase : Nat) (home : Nat)
  /-- CHUNK_OPEN (R38). A chunk's copy completes and the chunk opens at the new home, releasing accesses held for it. -/
  | chunkOpen (k : Nat)
  /-- MOVE_FINISH (R38). When the move's invalidation completes the dredger releases LOCK and frees the old physical interval. -/
  | moveFinish (k : Nat)
  /-- SCRATCH_ACCESS_COMPLETE (R45). A scratchpad access returns its data or acknowledges its write 16 cycles after admission. -/
  | scratchAccessComplete (k : Nat)
  /-- CLUSTER_SCRATCH_ARRIVAL (R47). A cluster-scratch access reaches the target core's cluster port, is checked for owner, and waits for admission. -/
  | clusterScratchArrival (k : Nat)
  /-- GRID_HALF_RETIREMENT (R52). A grid half retires; CAPGRID reads 1 and the running hart faults at the next boundary when it needs that half. -/
  | gridHalfRetirement (core : Nat) (half : Nat)
  /-- SCRATCH_BANK_RETIREMENT (R53). A scratchpad bank retires; NSEG falls by 8 and affected segments are remapped and evacuated. -/
  | scratchBankRetirement (core : Nat) (bank : Nat)
  /-- DIE_CACHE_BANK_RETIREMENT (R51). A die-cache bank retires; its dirty lines are written back and lines are rehashed over the remaining banks. -/
  | dieCacheBankRetirement (die : Nat) (bank : Nat)
  /-- HBM_REGION_RETIREMENT (R51). A 256 MiB HBM region retires and its ranges are moved elsewhere by the dredger. -/
  | hbmRegionRetirement (die : Nat) (region : Nat)
  /-- EVACUATOR_SEGMENT_MOVE (R55). The evacuator sets MOVING on a segment and admits one read per line. -/
  | evacuatorSegmentMove (core : Nat)
  /-- EVACUATOR_LINE_READ_RETURN (R55). A line read by the evacuator returns and its write to the new physical segment is admitted. -/
  | evacuatorLineReadReturn (core : Nat)
  /-- EVACUATOR_SEGMENT_DONE (R55). After the last write passes its bank the evacuator writes the new PSEG and clears MOVING, admitting held accesses. -/
  | evacuatorSegmentDone (core : Nat)
  /-- OVER_CAPACITY_FAULT (R59). A hart takes the saving over-capacity fault 0x10 with its kind and detail in TRAPADDR. -/
  | overCapacityFault (core : Nat)
  /-- MANIFEST_REFERENCE (R62). A receiver performs a block sent by reference by copying content it holds. -/
  | manifestReference (k : Nat)
  /-- MANIFEST_REFUSAL (R62). A sender whose reference was refused sends the block in full. -/
  | manifestRefusal (k : Nat)
  /-- DIE_FENCE (R63). The harbourmaster fences a die off, evacuates its ranges, ends its instances and reissues or fails its slices. -/
  | dieFence (die : Nat)
  /-- SEGMENT_PLACEMENT (R63). An evacuated segment is placed, and accesses held for it at the harbourmaster proceed. -/
  | segmentPlacement (k : Nat)
  /-- PLACEMENT_GRACE_EXPIRY (R64). At T + 40,000,000 ticks every segment still unplaced becomes lost. -/
  | placementGraceExpiry (die : Nat)
  /-- PTP_SOURCE_ENABLE (R101). Firmware enables a PTP source and the discipline enters ACQUIRING. -/
  | ptpSourceEnable (source : Nat)
  /-- PTP_SOURCE_DISABLE (R101). Firmware disables the source and the discipline returns to FREE. -/
  | ptpSourceDisable
  /-- PTP_SYNC (R101). A timestamped Sync message updates the offset estimate and the discipline state. -/
  | ptpSync (twoStep : Bool) (offset : Int)
  /-- PTP_FOLLOW_UP (R101). A two-step Follow_Up message supplies the Sync origin timestamp. -/
  | ptpFollowUp (offset : Int)
  /-- PTP_DELAY_RESP (R101). An end-to-end delay response completes a delay measurement. -/
  | ptpDelayResp (delay : Int)
  /-- SYNC_TIMEOUT (R101). No Sync for 8 intervals moves LOCKED to HOLDOVER. -/
  | syncTimeout
  /-- TIMED_ACCESS_ARRIVAL (R118). A timed store or LDNB block reaches its home and is held for its time, or performs on arrival. -/
  | timedAccessArrival (k : Nat)
  /-- TIMED_ACCESS_DUE (R118). The home's ATIME reaches a held access's time and it performs, timed stores before LDNBs. -/
  | timedAccessDue (die : Nat)
  /-- TIMED_ACCESS_ACCEPT (R122). A full home gains room and accepts a timed access held at the issuing fabric interface. -/
  | timedAccessAccept (k : Nat)
  /-- MISSED_DEADLINE_REPORT (R354). A late-store report reaches the core and queues a 0x12 notice for the context, or the notice block when switched out. -/
  | missedDeadlineReport (k : Nat)
  /-- NOTICE_TAKEN (R181). One queued imprecise notice is taken at a bundle boundary with no other trap and handler state 0. -/
  | noticeTaken (core : Nat)
  /-- RESUMABLE_TRAP (R175). A fault met by an OPA after commit stops it as partial and is taken at the next boundary. -/
  | resumableTrap (core : Nat)
  /-- HOST_WRITE (R125). A host write through a host window is translated and applied at the range's home in the order of HORD. -/
  | hostWrite (offset : Nat) (data : List Byte) (relaxed : Bool)
  /-- HOST_READ (R357). A host read through a window is translated and answered, or returns all ones on failure. -/
  | hostRead (offset : Nat) (n : Nat)
  /-- HOST_COMPLETION (R126). The host's completion of a device read or AtomicOp returns to the home. -/
  | hostCompletion (k : Nat)
  /-- PEER_INBOUND_ACCESS (R358). An access from a peer part is performed only if a peer-table entry accepts it, else answered with an error. -/
  | peerInboundAccess (part : Nat) (pa : Nat) (n : Nat) (data : List Byte)
  /-- PEER_ACK (R127). A peer acknowledges a store, which then performs at SYSTEM scope. -/
  | peerAck (k : Nat)
  /-- GBAR_OPENING_TIME (R292). A member's die ATIME reaches O and its GBAR commits with acquire, writing O. -/
  | gbarOpeningTime (core : Nat)
  /-- OPA_STEP (R303). With both entries ready, an OPA step pops qa and qb and accumulates one rank-r update into the tile. -/
  | opaStep (core : Nat)
  /-- OPA_COMPLETE (R306). An OPA's last step retires and the busy bits of its half clear. -/
  | opaComplete (core : Nat) (half : Nat)
  /-- LONG_OPERATION_COMPLETE (R320). A long vector operation writes its last element, clears its busy bits and ORs its flags into FFLAGS. -/
  | longOperationComplete (core : Nat)
  /-- ARRIVAL_GROUP_LANDED (R135). A vector load group's data is written into its row and its arrival bit is set. -/
  | arrivalGroupLanded (k : Nat)
  /-- VLDC_DECODE_END (R263). VLDC's decoding ends and its VL and byte-count results are produced. -/
  | vldcDecodeEnd (core : Nat)
  /-- BLOCK_END (R131). Another agent acts and a blocked bundle issues. -/
  | blockEnd (core : Nat)
  /-- BLOCK_SWITCH_OUT (R146). A hart blocked for more than 4,096 cycles is switched out at its distributor's request. -/
  | blockSwitchOut (core : Nat)
  /-- BLOCKED_CAUSE_CLEAR (R146). The cause of a switched-out block clears and the hart becomes runnable in its queue. -/
  | blockedCauseClear (core : Nat) (area : Nat)
  /-- PLACEMENT (R157). A distributor places a runnable instance on the eligible core with fewest entries ranking at or above it, setting owner, save area and identity words. -/
  | placement (die : Nat) (slot : Nat)
  /-- GANG_PLACEMENT (R159). A gang is placed all at once on GANGW eligible cores chosen by fewest clusters, dies and lowest ids. -/
  | gangPlacement (die : Nat) (slot : Nat)
  /-- SWITCH_OUT (R185). The save sequencer stops issue and long operations and writes the context to the staging slot. -/
  | switchOut (core : Nat)
  /-- SWITCH_IN (R188). A staged context is loaded, loop bundles refetched and partial operations resumed, after the checks of R193 where they apply. -/
  | switchIn (core : Nat)
  /-- SAVE_DRAIN (R192). A staging slot drains header, body and the final release to the save area. -/
  | saveDrain (core : Nat)
  /-- ABSENT_BUNDLE_RESOLVED (R184). The reply to a bundle committed in absence arrives and the bundle's effects or trap are written into the save area. -/
  | absentBundleResolved (k : Nat)
  /-- SHARE_WINDOW_START (R155). A new 40,000,000-tick window begins and background share accounting restarts. -/
  | shareWindowStart (core : Nat)
  /-- SHARE_TURN (R155). After 5,760 cycles of class 0 or 1 work while a background entry is owed, the core grants it a share turn. -/
  | shareTurn (core : Nat)
  /-- SHARE_TURN_END (R155). 384 cycles into a share turn the core requests its switch-out. -/
  | shareTurnEnd (core : Nat)
  /-- SLICE_DEADLINE_PASSED (R156). ATIME passes a class-1 slice's deadline and each running instance gets a 0x12 notice. -/
  | sliceDeadlinePassed (die : Nat) (slot : Nat)
  /-- BUDGET_EXHAUSTED (R162). An instance's budget count reaches 0 and it takes the saving trap 0x11. -/
  | budgetExhausted (core : Nat)
  /-- SHEEPDOG_SAMPLE (R166). Every 4,000,000 ticks the sheepdog samples blocked-state records and finds deadlocked circles. -/
  | sheepdogSample
  /-- HEARTBEAT (R168). The harbourmaster sends a heartbeat to every die every 4,000 ticks. -/
  | heartbeat
  /-- HEARTBEAT_TIMEOUT (R169). Four missed heartbeats or replies make the routing die or harbourmaster fence a die. -/
  | heartbeatTimeout (die : Nat)
  /-- EVICTION (R183). A write of 1 to a core's eviction register saves the running context and enters S with cause 0x14. -/
  | eviction (core : Nat)
  /-- RELAUNCH (R195). A write of a save-area address to the relaunch register moves that entry to this core and writes a status. -/
  | relaunch (core : Nat) (area : Nat)
  /-- END_INSTANCE (R369). A write of a save-area address to the end register ends that instance and fails its slice. -/
  | endInstance (core : Nat) (area : Nat)
  /-- SAVE_RESTART (R192). A write of a save-area address to the save-restart register continues a held drain from PROGRESS. -/
  | saveRestart (core : Nat) (area : Nat)
  /-- COPY_START (R278). A lighter takes the waiting copy with the earliest deadline, reads and checks its records and starts moving. -/
  | copyStart (die : Nat)
  /-- COPY_END (R281). A copy ends after its last write, a stop or a start failure, and sets its final status. -/
  | copyEnd (core : Nat) (slot : Nat)
  /-- CPYX_ACK (R284). The lighter acknowledges a CPYX and the copy's final status is written to sd. -/
  | cpyxAck (core : Nat)
  /-- STREAM_PREFETCH (R269). The stream unit issues reads of the next strip of a read binding in walk order. -/
  | streamPrefetch (core : Nat) (q : Nat)
  /-- STREAM_ENTRY_ARRIVAL (R269). A prefetched strip's data arrives and a queue entry becomes ready to pop. -/
  | streamEntryArrival (core : Nat) (q : Nat)
  /-- STREAM_ENTRY_WRITE (R270). The stream unit writes a pushed entry's positions to memory in walk order. -/
  | streamEntryWrite (core : Nat) (q : Nat)
  /-- WAITA_REPORT (R297). The word's home reports a value different from the expected one and WAITA commits. -/
  | waitaReport (core : Nat)
  /-- TWAIT_EXPIRY (R291). The die's ATIME reaches TWAIT's time and it commits. -/
  | twaitExpiry (core : Nat)
  /-- WFI_WAKE (R242). WFI ends on a notice, pre-emption, eviction or a wait of another context ending, or after 4,096 cycles. -/
  | wfiWake (core : Nat)
  /-- FUNDAMENTAL_RESET (R366). A PCIe fundamental reset resets the module: dies in service, retirements cleared, keys erased, ATIME at 0 in FREE. -/
  | fundamentalReset
  /-- FUNCTION_LEVEL_RESET (R366). A function-level reset clears the host windows and MSI-X table only. -/
  | functionLevelReset
  /-- POWER_EXCESS (R365). Draw above the limit makes package power control lower core clocks in 100 MHz steps within 10 µs. -/
  | powerExcess (die : Nat)
  /-- THERMAL_THROTTLE (R365). A die at 105 °C junction temperature throttles its core clock. -/
  | thermalThrottle (die : Nat)
  /-- OVERPOWER_AT_FLOOR_TIMEOUT (R365). A die at 0.6 GHz still above the power limit for 100 ms trips the module. -/
  | overpowerAtFloorTimeout (die : Nat)
  /-- MODULE_TRIP (R365). A die reaching 115 °C trips the module, which holds itself in reset until a new fundamental reset. -/
  | moduleTrip (die : Nat)
  /-- HOST_WINDOW_WRITE (R357). A write to a host window's fields applies to later host accesses, or is ignored if it breaks a constraint. -/
  | hostWindowWrite (level : Level) (off : Nat) (val : Word)
  /-- CIRCUIT_REQUEST (R359). S writes STATE 1 to a free connection-table entry to request a direct circuit. -/
  | circuitRequest (entry : Nat) (val : Word)
  /-- CIRCUIT_TEARDOWN (R359). S writes STATE 3 to an active direct entry to drain and tear it down. -/
  | circuitTeardown (entry : Nat)
  /-- MESH_RESIZE (R359). S writes WAVES alone to an active mesh entry to resize it. -/
  | meshResize (entry : Nat) (waves : Nat)
  /-- CIRCUIT_ACTIVATION (R360). A requested circuit becomes active once both dies have the wavelengths free. -/
  | circuitActivation (entry : Nat)
  /-- CIRCUIT_DRAIN_COMPLETE (R360). A draining circuit or shrinking mesh link completes its drain and frees its wavelengths. -/
  | circuitDrainComplete (entry : Nat)
  /-- ROUTE_CHANGE_ACK (R360). The destination acknowledges every message on the old route, and the sender starts using the new route. -/
  | routeChangeAck (a : Nat) (b : Nat)
  /-- ATTESTATION_REQUEST (R363). A nonce written to the mailbox makes firmware return a signed measurement report. -/
  | attestationRequest (nonce : Nat)
  /-- SPDM_REQUEST (R363). An SPDM 1.3 request over PCIe DOE is answered with the same signed report. -/
  | spdmRequest (nonce : Nat)
  /-- OWNER_KEY_INSTALL (R364). At the supervisor's mailbox request firmware installs a fresh or unwrapped owner key by KEYSEL. -/
  | ownerKeyInstall (owner : Nat) (wrapped : Option Nat)
  /-- OWNER_KEY_RELEASE (R364). When an owner id is released firmware installs a fresh random key for it. -/
  | ownerKeyRelease (owner : Nat)
  /-- REGISTER_WRITE (R361). A write to a management register without a row of its own updates it, or is ignored where the writer may not write. -/
  | registerWrite (level : Option Level) (off : Nat) (val : Word)
  /-- CONTEXT_STAGED (R183). The distributor finishes staging a switched-out entry's context in the core's incoming slot, and only then raises the pre-emption event for the switch to it. -/
  | contextStaged (core : Nat)
  /-- DEPUTY_TAKEOVER_COMPLETE (R169). The deputy finishes taking over as harbourmaster, within 40,000 ticks, and the JPOSTs and placements that waited during the takeover proceed. -/
  | deputyTakeoverComplete
  /-- CLEAR_MOVE_TRANSPOSE_COMPLETE (R308). An OPZ, GCLR, GMOV or GTRN makes its last write within eight core cycles of commit and clears the busy bits of the rows it writes. -/
  | clearMoveTransposeComplete (core : Nat)
  /-- THROTTLE_RELEASE (R365). Package power control raises a throttled die's core clock back towards nominal once the power excess or over-temperature has passed. -/
  | throttleRelease (die : Nat)
  deriving DecidableEq, Repr

end Sys2Proof
end

