-- ==== Sys2Proof/Machine/State.lean ====
section
/-! DEFINITION. The state of the package as plain data: every hart's context, every core, every die, the package's
own units, memory, and the accesses on their way. Each field names its rule in spec/; reset values are at
`State.reset`. -/

namespace Sys2Proof.Machine

/-- Why the machine stands still. -/
inductive Fault where
  /-- Raised by `step` when the module has tripped or is in recovery and no outside event is due: it holds itself in
  reset until the host asserts a fundamental reset (R362, R365). Safe. -/
  | heldInReset
  deriving DecidableEq, Repr

/-- Why an instruction has no meaning here. -/
inductive Refusal where
  /-- Raised by an arm of exec whose instruction is not modelled yet. Safe. -/
  | notModelled (mnemonic : String)
  deriving DecidableEq, Repr

/-- A range descriptor: the four words of R14. -/
structure Desc where
  base : Word := 0
  lim : Word := 0
  phys : Word := 0
  attr : Word := 0
  deriving DecidableEq, Repr, Inhabited

/-- An entry of a range cache: a descriptor with its OWNER (R23), its place in the directory, which RGPROBE reports
(R289), and for a companion the BASE of the entry that it belongs to, which the search read (R22). The OWNER is that of
the hart in whose name the search was made, whatever the descriptor's own field says; RGINV and the records of the
translation directory go by it (log 65). -/
structure RcEnt where
  desc : Desc := {}
  owner : Nat := 0
  idx : Nat := 0
  parent : Option Word := none
  deriving DecidableEq, Repr, Inhabited

/-- Where one 64-byte block of an access lies. -/
inductive Loc where
  /-- Physical memory, with the home die and, under a key, the owner and tweak of R65. -/
  | mem (pa home : Nat) (cred : Option (Nat × Nat))
  /-- A core's scratchpad at a logical offset (R48). -/
  | scr (core off : Nat)
  /-- A block that answers with the error response, with its cause of R70 (R13, R64, R368). -/
  | bad (cause : Nat)
  deriving DecidableEq, Repr

/-- One 64-byte block of an access (R27): the block's address as the access named it, the lowest byte touched, its
place, whether a failure there is strict, and for a write the value and the bits written. -/
structure Piece where
  blk : Nat
  lo : Nat
  loc : Loc
  strict : Bool := false
  val : BitVec 512 := 0
  mask : BitVec 512 := 0
  deriving DecidableEq, Repr

/-- What an access does at its home (R105, R253). -/
inductive Act where
  | read
  | write
  | atomic (op : AmoOp) (bits : Nat) (arg new : Word)
  deriving DecidableEq, Repr

/-- How a loaded element is delivered (R257). -/
inductive Conv where
  /-- FILL and a format error, since its companion is exhausted (R257). -/
  | fill
  /-- The stored bits as they are. -/
  | raw
  /-- INT4G with its companion word's address (R83). -/
  | int4g (comp : Nat)
  /-- E4M3 or E5M2 (format code) with its scale's address (R82). -/
  | scaled (fmt comp : Nat)
  /-- A value known already: a cell of a frame that VFILL has read (R265). -/
  | value (x : Nat)
  deriving DecidableEq, Repr

/-- One element of a vector load: its place in the grid, its bit address as the access named it, its width in
memory and its delivery. -/
structure LElem where
  row : Nat
  lo : Nat
  w : Nat
  ba : Nat
  wm : Nat
  conv : Conv
  deriving DecidableEq, Repr

/-- An arrival group that a load fills: its row, its index in the row, and its elements (R135). -/
structure ArrGroup where
  row : Nat
  grp : Nat
  elems : List LElem
  deriving DecidableEq, Repr

/-- Where the result of an access goes when it has performed. -/
inductive Land where
  /-- Nowhere: a store. -/
  | drop
  /-- To the bundle that waits for it, with the groups that a vector load will fill (R107, R173). -/
  | ask (gs : List ArrGroup)
  /-- To VLDC's decoding, once every block has been read (R262, R263): a group of rows at a width, the bytes that it may
  read from an address, and the register that receives the count of bytes. -/
  | decode (row rows vlcap ea bound : Nat) (reg : SReg)
  /-- To VFILL's check of its frame's header, and then to its rows (R265): the group, a width, the frame's address, and the
  FILL captured at issue. -/
  | frame (row : Nat) (g : BitVec 2) (vlcap ea : Nat) (fill : BitVec 32)
  /-- To arrival groups of rows (R135), with the FILL captured at issue. -/
  | groups (fill : BitVec 32) (gs : List ArrGroup)
  /-- A row captured by GSAVE becomes dirty again where a block fails (R313). -/
  | saved (row : Nat)
  deriving DecidableEq, Repr

/-- A translation failure or data error met by an access: the address, the cause of R70, and whether it counts in
ERRCNT (a data error) or in VIOLCNT. -/
structure Fail where
  addr : Nat
  cause : Nat
  data : Bool
  strict : Bool
  deriving DecidableEq, Repr

/-- An access on its way (R105 to R114): the context that issued it, its classes under R112, what it is to do, the
blocks not yet performed, the blocks read, the failures met, and for a timed access its time (R118, R119). -/
structure Flight where
  core : Nat
  owner : Nat
  area : Nat
  lvl : Level
  cls : BitVec 8
  vec : Bool
  interval : Nat
  space : Nat
  kind : Nat
  pc : Word
  slot : Nat
  act : Act
  pieces : List Piece
  got : Tbl (BitVec 512) := []
  fails : List Fail := []
  done : List Nat := []
  time : Option Nat := none
  late : List Nat := []
  /-- A timed or cluster-scratch access has arrived (R47, R122), and as which one at its port. -/
  accepted : Bool := false
  port : Nat := 0
  /-- The time lay ahead of the issuing die's ATIME at issue (R120, R251). -/
  wasFuture : Bool := false
  acquire : Bool := false
  /-- The scope at which a release waits for what it releases (R114). -/
  release : Option Scope := none
  awaits : Bool := false
  /-- A block of it has been stored at a peer, which acknowledges the store when every block has performed (R127). -/
  owed : Bool := false
  /-- ATIME of the issuing die at issue, the time before which no answer from another die can arrive there, and that before
  which no moved response can (R102, R40). -/
  sent : Nat := 0
  heard : Nat := 0
  again : Nat := 0
  /-- The classes held behind it where they touch the same bytes: a FENCE at HART or CORE scope has committed (R105, R113). -/
  fenced : BitVec 8 := 0
  /-- A block of it is strict, so that its bundle waits for it (R107, R184). -/
  strict : Bool := false
  /-- The range-cache entries that its translation used, filled when its bundle commits (R24). -/
  used : List RcEnt := []
  land : Land
  deriving DecidableEq, Repr

/-- The control words open at U (R238). -/
structure Ctl where
  vl : Nat := 0
  vtype : BitVec 5 := 4
  fill : BitVec 32 := 0
  frm : BitVec 3 := 1
  fflags : BitVec 6 := 0
  qfmt : BitVec 10 := 0
  srseed : Word := 0
  strip : Word := 0
  tshp : BitVec 32 := 0x00014040
  msel : BitVec 3 := 1
  errcnt : BitVec 32 := 0
  violcnt : BitVec 32 := 0
  deriving DecidableEq, Repr, Inhabited

/-- The control words open at S and F (R179, R239). -/
structure Sup where
  vlcap : BitVec 12 := 2048
  owner : BitVec 12 := 0
  dirbase : Word := 0
  trapvec : Word := 0
  trapcause : BitVec 11 := 0
  trappc : Word := 0
  trapaddr : Word := 0
  trapslot : BitVec 4 := 0
  saveptr : Word := 0
  violmode : Bool := false
  deriving DecidableEq, Repr, Inhabited

/-- The identity words of R143 but for HARTID, the slice handle (R189) and whether BUDGET is counted (R161). -/
structure Ident where
  deadline : Word := 0
  budget : Word := 0
  counted : Bool := false
  gangid : Word := 0
  gangidx : BitVec 32 := 0
  gangw : BitVec 32 := 1
  arg : Word := 0
  handle : Word := 0
  indexed : Bool := false
  deriving DecidableEq, Repr, Inhabited

/-- An entry of the loop stack (R140, R187, R232): the count or, for a VLOOP, nothing (STRIP holds it), the address of
the loop's bundle and of the last bundle of its body. -/
structure LoopEnt where
  vloop : Bool
  count : Word
  start : Word
  last : Word
  deriving DecidableEq, Repr

/-- The grid and its scoreboards (R132 to R135, R190, R191): rows, arrival bitmaps (a row not listed has every bit
set), busy bits, row-dirty bits, H1, and the mask registers (R139). -/
structure Grid where
  rows : Tbl (BitVec 2048) := []
  missing : Tbl (BitVec 8) := []
  busy : BitVec 128 := 0
  dirty : BitVec 128 := 0
  h1 : Bool := false
  masks : Tbl (BitVec 8192) := []
  /-- The bits lost to an uncorrectable error, by row and cell (R67, log 94). -/
  bad : List (Nat × Nat × BitVec 32) := []
  deriving DecidableEq, Repr, Inhabited

/-- An entry of an operand queue: its window, its first walk position in it, its 256 bytes (R96, R187), and for a pushed
one the entries pushed or skipped before it (R276). -/
structure QWord where
  win : Nat
  pos : Nat
  data : BitVec 2048
  seq : Nat := 0
  deriving DecidableEq, Repr

/-- An operand queue and its binding (R142, R187, R269 to R276). -/
structure Queue where
  /-- 0 unbound, 1 read, 2 store. -/
  bind : Nat := 0
  /-- The twelve words of the layout record as bound. -/
  rcd : List Word := []
  /-- FILL, captured at SBIND (R99). -/
  fill : BitVec 32 := 0
  /-- The effective format, once the first strip has settled it (R301). -/
  fmt : Option Nat := none
  /-- Block length and block dimension of the effective format's scales, once settled (R84, R90). -/
  blen : Nat := 0
  bdim : Nat := 0
  /-- Entries ready to pop, or pushed and not yet written, oldest first. -/
  entries : List QWord := []
  /-- Entries read and not yet arrived. -/
  inbound : List QWord := []
  /-- Window and position of the next entry to fetch or push (R187). -/
  win : Nat := 0
  pos : Nat := 0
  /-- Entries popped or pushed since SBIND. -/
  count : Word := 0
  /-- Index of the next scale that an OPA will consume (R85, R86). -/
  scaleIdx : Nat := 0
  /-- The scale stream from that scale on, as far as it has been fetched: none where its companion is exhausted (R85, R269). -/
  scales : List (Option Nat) := []
  /-- The fault that prefetch stopped at: cause and address (R28, R91). -/
  fault : Option (Nat × Word) := none
  /-- That fault's trap has been raised: the stream resumes from its strip after ERET (R19, R91). -/
  taken : Bool := false
  claim : Bool := false
  /-- The access of the entry in hand, some lines of which have passed the bank of a scratchpad while others have still to
  (R45, log 77). -/
  part : Option Flight := none
  /-- The partner in a ring: its index in the gang, its queue and its handle (R164, R276). -/
  partner : Option (Nat × Nat × Word) := none
  /-- The SBIND's bundle and slot, for the error log (R69), and its cluster, 32 for one that may not pair any more (R276). -/
  pc : Word := 0
  slot : Nat := 0
  cluster : Nat := 0
  deriving DecidableEq, Repr, Inhabited

/-- An entry pushed to a store queue that is unbound, or whose context has left the core: the stream unit still writes
it, in that context's name (R147, R186, R272). -/
structure LeftEntry where
  owner : Nat
  area : Nat
  dirbase : Nat
  lvl : Level
  viol : Bool
  queue : Queue
  word : QWord
  deriving DecidableEq, Repr

/-- An imprecise notice (R181): cause and TRAPADDR. -/
structure Notice where
  cause : Nat
  addr : Word
  deriving DecidableEq, Repr, Inhabited

/-- A running or partial OPA (R303 to R307, R177), with the scales of the blocks in hand (R305). -/
structure OpaRun where
  half : Nat
  qa : Nat
  qb : Nat
  neg : Bool
  ovw : Bool
  fa : Nat
  fb : Nat
  blenA : Nat
  blenB : Nat
  tshp : BitVec 32
  step : Nat
  pc : Word
  slot : Nat
  heldA : List Nat := []
  heldB : List Nat := []
  deriving DecidableEq, Repr

/-- The modes that a long vector operation captures (R99, R177). -/
structure VCap where
  vl : Nat := 0
  vtype : BitVec 5 := 4
  vlcap : Nat := 2048
  fill : BitVec 32 := 0
  rm : BitVec 3 := 1
  qfmt : BitVec 10 := 0
  mask : Option MReg := none
  seed : Word := 0
  scalar : Word := 0
  deriving DecidableEq, Repr, Inhabited

/-- A long vector operation that has rows left to begin (R176, R320), or a partial one (R177): its instruction where
its bundle has been read, its bundle and slot, the next element and the captured modes; and, while it runs, the grid as it
stood before its bundle (R130) with the arrival groups that it still waits for (R135). -/
structure LongOp where
  instr : Option Instr
  pc : Word
  slot : Nat
  start : Nat
  cap : VCap
  src : Grid := {}
  needs : List (Nat × Nat) := []
  deriving DecidableEq, Repr

/-- What a bundle has found when an access that must not be lost is sent for it (R173): the bundle itself, where it was
fetched; the words of structures read; and the format of a pushed strip. Its other operations do not check again. -/
structure Passed where
  bundle : Option (Nat × List RcEnt) := none
  words : List Word := []
  more : List Word := []
  used : List RcEnt := []
  fmt : Option Nat := none
  deriving DecidableEq, Repr

/-- What the bundle at issue has started and now waits for. -/
inductive Wait where
  | none
  /-- A load, atomic or strict access sent (R107, R173). -/
  | ask
  /-- The answer to it. -/
  | answer (f : Flight)
  /-- The edit and invalidation with a number, and the status so far (R285, R29 to R41). -/
  | edit (id : Nat)
  | edited (status : Nat)
  /-- CPYX of a copy of a core's slot (R284). -/
  | cpyx (core slot : Nat)
  | cpyxDone (status : Word)
  /-- WAITA's word has been reported with another value (R297). -/
  | reported
  /-- The opening time of a barrier of width 1 that lies ahead (R292). -/
  | gbar (opening : Nat)
  /-- The word that WAITA watches: its block, its byte offset there and the value that it must differ from (R297). -/
  | watch (loc : Loc) (off : Nat) (want : Word)
  deriving DecidableEq, Repr

/-- A trap waiting for a bundle boundary (R52, R54, R162, R166, R167, R175, R184, R188). -/
structure DueTrap where
  cause : Nat
  addr : Word
  slot : Option Nat := none
  resumable : Bool := false
  deriving DecidableEq, Repr

/-- A hart's context (R143, R187 to R190, R238, R239). -/
structure Hart where
  pc : Word := 0
  level : Level := .u
  handler : Bool := false
  x : Tbl Word := []
  ctl : Ctl := {}
  sup : Sup := {}
  ident : Ident := {}
  /-- Oldest first. -/
  loops : List LoopEnt := []
  grid : Grid := {}
  queues : Tbl Queue := []
  notices : List Notice := []
  pend : Nat := 0
  opas : List OpaRun := []
  long : Option LongOp := none
  /-- The partial operations of R175 and R177. -/
  popa : Option OpaRun := none
  pvec : Option LongOp := none
  /-- Rows that a clearing, move or transpose is still writing (R308 to R310). -/
  clearing : BitVec 128 := 0
  /-- The half that the hart has lost to a retirement, 2 for both (R51). -/
  missingHalf : Option Nat := none
  /-- Which physical half h0 lies on (R51). -/
  swapped : Bool := false
  /-- The strip interval (R109). -/
  interval : Nat := 0
  /-- What the M operation, and what the E operation, of the bundle at issue has started and waits for (R131). -/
  wait : Wait := .none
  ewait : Wait := .none
  /-- The operations of the bundle at issue have passed their checks, and one of them has been sent (R173). -/
  passed : Option Passed := none
  due : List DueTrap := []
  /-- A fetch of the third and fourth steps of its switch-in has failed: they are made again when the handler of its trap returns
  (R188, R196, log 89). -/
  reread : Bool := false
  /-- The RGINV that the hart has issued and waits for (R35). -/
  inval : Option Nat := none
  deriving DecidableEq, Repr, Inhabited

/-- A blocked-state record (R163), with the queue whose cause the device watches (R146). -/
structure Blk where
  kind : Nat := 0
  obj : Word := 0
  episode : Nat := 0
  queue : Nat := 0
  deriving DecidableEq, Repr, Inhabited

/-- How an entry of a slice queue stands (R153, R154, R183); `ended` has executed JDONE and awaits what that releases (R117,
R295). -/
inductive EntrySt where
  | fresh | running | out | waiting | ended
  deriving DecidableEq, Repr

/-- An entry of a core's slice queue (R153, R157, R158, R163): an instance or gang member. -/
structure QEntry where
  handle : Word
  idx : Nat
  area : Nat
  owner : Nat
  cls : Nat
  deadline : Word
  seq : Nat
  width : Nat
  gangid : Nat
  entry : Word
  arg : Word
  budget : Word
  counted : Bool
  indexed : Bool
  minGrid : Nat
  dies : Nat
  alloc : Nat
  /-- DIRBASE, TRAPVEC, VIOLMODE and VLCAP of the owner table at placement (R158). -/
  dirbase : Word
  trapvec : Word
  violmode : Bool
  vlcap : Nat
  st : EntrySt := .fresh
  yielded : Bool := false
  blk : Blk := {}
  /-- The watch of a WAITA that stays set while the context is switched out (R146): none once it has reported. -/
  watch : Option (Loc × Nat × Word) := none
  relaunched : Bool := false
  staged : Bool := false
  /-- Blocked time of a context that is switched out (R146). -/
  waited : Nat := 0
  /-- Traps that its context takes when it next runs (R64, R166). -/
  due : List DueTrap := []
  deriving DecidableEq, Repr

/-- The context whose data a scratchpad holds (R12, R194). -/
structure Resident where
  area : Nat
  owner : Nat
  alloc : Nat
  deriving DecidableEq, Repr, Inhabited

/-- A segment that the evacuator moves (R55): its logical segment, its new physical segment, the lines read and the
lines written. -/
structure Evac where
  seg : Nat
  dst : Nat
  started : Bool := false
  lines : Nat := 0
  deriving DecidableEq, Repr, Inhabited

/-- An entry of an error log (R69): its four words. -/
structure LogEnt where
  addr : Word := 0
  time : Word := 0
  info : Word := 0
  pc : Word := 0
  deriving DecidableEq, Repr, Inhabited

/-- How a copy stands (R278, R281). -/
inductive CopySt where
  | waiting | running | ended
  deriving DecidableEq, Repr, Inhabited

/-- A copy slot (R277 to R284): the command block as read, what the issue captured, and the status. -/
structure Copy where
  seq : Nat := 0
  owner : Nat := 0
  area : Nat := 0
  lvl : Level := .u
  dirbase : Word := 0
  cmd : List Word := []
  src : List Word := []
  dst : List Word := []
  rnd : BitVec 3 := 1
  seed : Word := 0
  fill : BitVec 32 := 0
  /-- The effective formats of source and destination, captured at the start (R99). -/
  sfmt : Nat := 0
  dfmt : Nat := 0
  issued : Word := 0
  st : CopySt := .ended
  code : Nat := 0
  sat : Bool := false
  late : Bool := false
  written : Nat := 0
  stopping : Bool := false
  viol : Bool := false
  lighter : Nat := 0
  deriving DecidableEq, Repr, Inhabited

/-- A save in a core's outgoing staging slot (R185, R192): the area, its owner, the header and body bytes that it
writes (offset in the area, length in bytes, value), and what has drained. -/
structure Staging where
  area : Nat
  owner : Nat
  chunks : List (Nat × Nat × Nat)
  held : Bool := false
  progress : Nat := 0
  deriving DecidableEq, Repr, Inhabited

/-- A bundle committed in absence (R184): the context as it stood, kept until the answer comes. -/
structure Absent where
  core : Nat
  area : Nat
  hart : Hart
  deriving DecidableEq, Repr

/-- The share accounting of a core (R155): the window of the last start, core cycles elapsed in it, cycles that its
background entries have run in it, cycles of classes 0 and 1 while a background entry is owed, and cycles of the turn. -/
structure Share where
  window : Nat := 0
  elapsed : Nat := 0
  bg : Nat := 0
  fg : Nat := 0
  ran : Nat := 0
  deriving DecidableEq, Repr, Inhabited

/-- A core (R129, R23, R44 to R56, R69, R153, R185, R277). -/
structure Core where
  active : Bool := false
  hart : Hart := {}
  wfi : Bool := false
  inService : Bool := true
  cache : List RcEnt := []
  /-- Entries of the bank map that differ from reset (R48). -/
  bank : Tbl (BitVec 9) := []
  retired : BitVec 16 := 0
  evacuating : BitVec 16 := 0
  gridGone : BitVec 2 := 0
  alloc : BitVec 8 := 0
  /-- The scratchpad's bytes by physical segment and offset, canonical as memory is. -/
  scr : List Host.Cell := []
  scrMarks : Tbl Nat := []
  resident : Option Resident := none
  evac : List Evac := []
  errlog : Tbl LogEnt := []
  logOver : BitVec 32 := 0
  noticeDrops : BitVec 32 := 0
  fmtErrs : BitVec 32 := 0
  queue : List QEntry := []
  turn : Option (Word × Nat) := none
  staging : Option Staging := none
  /-- Pushed entries that the stream unit has still to write, oldest first. -/
  left : List LeftEntry := []
  copies : Tbl Copy := []
  copySeq : Nat := 0
  relStatus : Word := 0
  endStatus : Word := 0
  evict : Bool := false
  preempt : Bool := false
  /-- Core cycles in a row that the hart has been blocked, or has waited in WFI (R146, R242). -/
  waited : Nat := 0
  share : Share := {}
  deriving DecidableEq, Repr, Inhabited

/-- A slot of a die's slice table (R148 to R152, R159, R160, R167, R292). -/
structure Slot where
  live : Bool := false
  rcd : List Word := []
  seq : Nat := 0
  preds : Nat := 0
  succs : List Word := []
  handedOut : Nat := 0
  left : Nat := 0
  running : Nat := 0
  redo : List Nat := []
  failed : Bool := false
  finished : Bool := false
  late : Bool := false
  gangid : Nat := 0
  episode : Nat := 0
  arrived : List (Nat × Word) := []
  pending : Tbl Nat := []
  opens : Tbl Word := []
  gone : List Nat := []
  /-- ATIME since when it is runnable (R159). -/
  since : Word := 0
  /-- The die and slot that its handle names, where a fence has moved it to another die's table (R170, log 84). -/
  home : Option (Nat × Nat) := none
  deriving DecidableEq, Repr, Inhabited

/-- A die (R100, R118, R149, R361, R365). -/
structure Die where
  inService : Bool := true
  atime : Word := 0
  slots : Tbl Slot := []
  held : List Flight := []
  mlog : List LogEnt := []
  mlogOver : Word := 0
  misses : Word := 0
  stale : Word := 0
  /-- Blocks sent in full, by reference and refused, per destination (R62). -/
  sentFull : Tbl Word := []
  sentRef : Tbl Word := []
  sentNo : Tbl Word := []
  /-- The manifest cache per destination: owner, hash, and the content the receiver holds (R62). -/
  manifest : Tbl (List (Nat × Nat × Nat)) := []
  /-- The range caches of its three lighters (R23). -/
  lighters : Tbl (List RcEnt) := []
  mhz : Nat := 1800
  hot : Bool := false
  cacheGone : List Nat := []
  hbmGone : List Nat := []
  heartbeats : Nat := 0
  deriving DecidableEq, Repr, Inhabited

/-- A record of the translation directory (R37): the holder vector has a bit per die, bit 16 the host interface. -/
structure TdRec where
  owner : Nat
  lo : Nat
  hi : Nat
  holders : BitVec 17
  deriving DecidableEq, Repr

/-- What an invalidation completes (R34, R33, R37, R38). -/
inductive InvalFor where
  /-- An RGINV, or a split or merge, of a core's hart. -/
  | hart (core area : Nat)
  | edit (core area dirbase : Nat)
  /-- A dredger's move, by its number. -/
  | move (id : Nat)
  /-- A dropped record or a moved slice of the translation directory. -/
  | slice (die : Nat)
  deriving DecidableEq, Repr

/-- An invalidation under way (R34): the holders that have not dropped their entries yet, and the intervals of the entries
that it drops, beside its own. -/
structure Inval where
  id : Nat
  owner : Nat
  lo : Nat
  hi : Nat
  spans : List (Nat × Nat) := []
  holders : BitVec 17
  what : InvalFor
  deriving DecidableEq, Repr

/-- The stages of a dredger's move (R38). -/
inductive MoveSt where
  | lock | copying | inval | finish
  deriving DecidableEq, Repr

/-- A dredger's move (R38 to R41): range, old and new place, the number of chunks opened so far, and whether it is on its
way back. -/
structure Move where
  id : Nat
  owner : Nat
  dirbase : Nat
  index : Nat
  desc : Desc
  src : Nat
  dst : Nat
  homeA : Nat
  homeB : Nat
  chunk : Nat := 0
  /-- The next chunk has passed its move point and is incoming at the new home (R38). -/
  shut : Bool := false
  st : MoveSt := .lock
  back : Bool := false
  /-- Moves begun by the device itself retry the lock (R29). -/
  own : Bool := true
  requester : Option (Nat × Nat) := none
  deriving DecidableEq, Repr

/-- A 4 KiB block sent by reference (R62): sender, receiver, owner, hash, the physical address it goes to, the content that
the receiver holds, and whether it has been performed. -/
structure Xfer where
  src : Nat
  dst : Nat
  owner : Nat
  hash : Nat
  pa : Nat
  content : Nat
  done : Bool := false
  deriving DecidableEq, Repr

/-- A retriever search begun by RGTOUCH (R290). -/
structure Search where
  core : Nat
  owner : Nat
  dirbase : Nat
  va : Word
  deriving DecidableEq, Repr

/-- A segment of a range of a fenced die that waits for a new place (R63, R64). -/
structure Placing where
  owner : Nat
  dirbase : Nat
  index : Nat
  desc : Desc
  die : Nat
  grace : Nat
  told : Bool := false
  /-- What a move under way at the fence had brought elsewhere: old physical address, length, and the address there (log 84). -/
  elsewhere : List (Nat × Nat × Nat) := []
  deriving DecidableEq, Repr

/-- What the device keeps of a switched-out context beside its save area: its strip interval (R109, R110), and for each
bound queue the bundle, the slot and the cluster of its SBIND (R69, R276). -/
structure Kept where
  owner : Nat
  area : Nat
  interval : Nat
  binds : List (Nat × Word × Nat × Nat)
  deriving DecidableEq, Repr

/-- The PTP discipline (R101, R103). -/
structure Ptp where
  state : Nat := 0
  source : Nat := 0
  offset : Int := 0
  skew : Nat := 8
  age : Nat := 0xFFFF
  inLimit : Nat := 0
  stepped : Bool := false
  twoStep : Bool := false
  delay : Int := 0
  deriving DecidableEq, Repr, Inhabited

/-- The harbourmaster and its deputy (R168, R169), the post sequence, gang ids, areas in use of each owner's save
pool (R158), the fence report (R170), and the sheepdog's last sample and report (R166). -/
structure Harbour where
  master : Nat := 0
  deputy : Nat := 1
  takeover : Bool := false
  postSeq : Nat := 0
  gangSeq : Nat := 0
  pools : Tbl (List Nat) := []
  failed : List Word := []
  sample : List (List (Word × Nat × Nat)) := []
  report : List (Word × Nat) := []
  /-- Circles that have been reported and stand since (R166). -/
  told : List (List (Word × Nat × Nat)) := []
  /-- The 4,000,000-tick window of the last sample and the 4,000-tick window of the last heartbeat (R166, R168). -/
  sampled : Nat := 0
  beat : Nat := 0
  deriving DecidableEq, Repr, Inhabited

/-- The translation directory and the agents that keep it (R34 to R43, R62 to R64, R290). -/
structure Ranges where
  records : List TdRec := []
  fills : List TdRec := []
  /-- Owners mod 16 whose slice waits for its drop (R37). -/
  waiting : List Nat := []
  invals : List Inval := []
  moves : List Move := []
  xfers : List Xfer := []
  searches : List Search := []
  placing : List Placing := []
  /-- Lost segments: owner, first address, limit (R64). -/
  lost : List (Nat × Nat × Nat) := []
  deriving DecidableEq, Repr, Inhabited

/-- A host write that carries relaxed ordering and may be passed (R125). -/
structure HostWr where
  va : Word
  owner : Nat
  data : List Byte
  deriving DecidableEq, Repr

/-- The host link, scale-out, connection table, registers, keys and boot state (R126, R356 to R366). -/
structure Link where
  windows : Tbl Word := []
  msix : Tbl Word := []
  cache : List RcEnt := []
  held : List HostWr := []
  peers : Tbl Word := []
  /-- Entries of the connection table that differ from reset (R359). -/
  conn : Tbl Word := []
  /-- WAVES that a shrinking mesh entry holds until its drain completes (R360). -/
  resizing : Tbl Nat := []
  /-- The routes that have changed and wait for an acknowledgement: two dies, and the first ATIME of the sender at which a
  message is bound for the new route (R360). -/
  routes : List (Nat × Nat × Nat) := []
  owntab : Word := 0
  mailbox : Tbl Word := []
  /-- Words of the register map that no rule describes (log 18). -/
  words : Tbl Word := []
  /-- Key numbers of owners; an owner not listed has the erased key, number 0 (log 9). -/
  keys : Tbl Nat := []
  /-- Capacity of the CXL expanders in port order, in MiB (R356). -/
  expanders : List Nat := []
  /-- M0 to M7 as 384-bit numbers (R362). -/
  meas : Tbl Nat := []
  report : List Byte := []
  /-- What the device last answered the host, an SPDM requester or a peer: bytes, or an error response (R357, R358,
  R363). -/
  reply : Option (List Byte) := none
  tripped : Bool := false
  recovery : Bool := false
  deriving DecidableEq, Repr, Inhabited

/-- Memory: the bytes that differ from what an unlisted address reads as (zero, log 4), the key and tweak of each
64-byte block (R65), and the blocks with an uncorrectable error, poison or link error (R40, R67). -/
structure Mem where
  cells : List Host.Cell := []
  tags : Tbl (Nat × Nat) := []
  marks : Tbl Nat := []
  deriving DecidableEq, Repr, Inhabited

/-- Whose turn it is: an agent's event, a core's hart, or a change of how the fabric answers (logs 5, 6, 77). -/
inductive Turn where
  | event (i : Instr)
  | hart (core : Nat)
  | delay (on : Bool)
  | pick (n : Option Nat)
  deriving DecidableEq, Repr

/-- The package. -/
structure State where
  cores : Tbl Core
  dies : Tbl Die
  mem : Mem
  flights : List Flight
  absent : List Absent
  ranges : Ranges
  harbour : Harbour
  link : Link
  ptp : Ptp
  /-- The master count of ATIME (R100). -/
  master : Nat
  /-- The next number for invalidations, moves and strip intervals. -/
  uid : Nat
  /-- What is kept of switched-out contexts beside their save areas (R69, R109, R110, R276). -/
  kept : List Kept
  /-- The model's own: the core whose bundle is next (log 5). -/
  cur : Nat
  /-- The model's own: the turns that come before it (log 5). -/
  agenda : List Turn
  /-- The model's own: the fabric answers later, by the events of the agenda (log 6). -/
  delay : Bool
  /-- The model's own: which block of an access performs, which of its groups lands and after how many writes a stopped copy
  ends, where the spec fixes no order (log 77). -/
  pick : Option Nat
  /-- The model's own: steps taken, the argument of the free values (log 7). -/
  count : Nat
  /-- The model's own: flags that the operations of the bundle in hand raise (log 8). -/
  raised : BitVec 6
  deriving DecidableEq, Repr

/-- The core whose firmware hart runs after a reset (log 1): level F, at pc 0. -/
def Core.boot : Core := { active := true, hart := { level := .f } }

/-- A measurement register extended by a digest (R362). -/
def extended (m d : Nat) : Nat := Config.sha384 (bytesOf m 48 ++ bytesOf d 48)

/-- A measurement register once boot has extended the digest of its image into it (R362). -/
def bootMeasure (i : Nat) : Nat := extended 0 (Config.bootDigest i)

/-- M0 to M3 after a verified boot (R362). -/
def bootMeasures : Tbl Nat := [(0, bootMeasure 0), (1, bootMeasure 1), (2, bootMeasure 2), (3, bootMeasure 3)]

/-- The package right after a module reset (R366), with the context of log 1 and the values of log 3. -/
def State.reset : State :=
  { cores := [(0, Core.boot)], dies := [], mem := {}, flights := [], absent := [], ranges := {}, harbour := {},
    link := { meas := bootMeasures }, ptp := {}, master := 0, uid := 0, kept := [], cur := 0, agenda := [], delay := false, pick := none, count := 0, raised := 0 }

end Sys2Proof.Machine
end

