-- ==== Sys2Proof/Machine/Memory.lean ====
section
/-! DEFINITION. Bytes: the canonical list that memory and scratchpads are, 64-byte blocks, the physical address map of
R13, encryption by owner and tweak (R65, R66), and error marks (R40, R67). -/

namespace Sys2Proof.Machine

/-- The number that bytes, least significant first, stand for (R5). -/
def ofBytes : List Byte → Nat
  | [] => 0
  | b :: bs => b.toNat + 256 * ofBytes bs

/-- The canonical form: addresses strictly rise, and no entry is zero, which is what an unlisted address reads as. -/
def cellsWf : List Host.Cell → Bool
  | [] => true
  | [(_, b)] => b != 0
  | (a, b) :: (a', b') :: rest => b != 0 && decide (a < a') && cellsWf ((a', b') :: rest)

/-- The byte at an address; zero where none is listed (log 4). -/
def cellAt : List Host.Cell → Nat → Byte
  | [], _ => 0
  | (a, b) :: rest, k => if a = k then b else cellAt rest k

/-- The cells of the bytes of a number from an address on, zeros left out. -/
def cellsOf (a v : Nat) : Nat → List Host.Cell
  | 0 => []
  | n + 1 =>
    if v % 256 = 0 then cellsOf (a + 1) (v / 256) n
    else (a, BitVec.ofNat 8 v) :: cellsOf (a + 1) (v / 256) n

/-- The cells below an address. -/
def cellsBelow (k : Nat) : List Host.Cell → List Host.Cell
  | [] => []
  | (a, b) :: rest => if a < k then (a, b) :: cellsBelow k rest else cellsBelow k rest

/-- The cells at or above an address. -/
def cellsFrom (k : Nat) : List Host.Cell → List Host.Cell
  | [] => []
  | (a, b) :: rest => if a < k then cellsFrom k rest else (a, b) :: cellsFrom k rest

/-- The value of the listed cells, taken as bytes from an address on. -/
def cellsValue (base : Nat) : List Host.Cell → Nat
  | [] => 0
  | (a, b) :: rest => b.toNat * 2 ^ (8 * (a - base)) + cellsValue base rest

/-- The little-endian value of `n` bytes at an address. -/
def cellsRead (c : List Host.Cell) (a n : Nat) : Nat :=
  cellsValue a (cellsBelow (a + n) (cellsFrom a c))

/-- The list with `n` bytes at an address replaced by the low bytes of a number, still canonical. -/
def cellsWrite (c : List Host.Cell) (a n v : Nat) : List Host.Cell :=
  cellsBelow a c ++ (cellsOf a v n ++ cellsFrom (a + n) c)

/-- The regions of R13. -/
inductive Region where
  | hbm (die : Nat)
  | second
  | unfitted
  | host
  | peer (entry : Nat)
  | aperture (core off : Nat)
  | mmio (off : Nat)
  | unassigned
  deriving DecidableEq, Repr

/-- The end of the fitted second tier: the LPDDR, then each expander at the next 1 GiB boundary (R13, R356); the
pieces are the fitted intervals. -/
def tierPieces (at_ : Nat) : List Nat → List (Nat × Nat)
  | [] => []
  | mib :: rest =>
    let lim := at_ + mib * 0x100000
    (at_, min lim 0x1200000000000) :: tierPieces ((lim + 0x3FFFFFFF) / 0x40000000 * 0x40000000) rest

/-- An address of the second tier is backed by the LPDDR or an enumerated expander (R13). -/
def fitted (expanders : List Nat) (pa : Nat) : Bool :=
  pa < 0x1040000000000 || (tierPieces 0x1040000000000 expanders).any fun p => p.1 ≤ pa && pa < p.2

/-- The region of a physical address (R13). -/
def regionOf (expanders : List Nat) (pa : Nat) : Region :=
  if pa < 0xC000000000 then .hbm (pa / 0xC00000000)
  else if pa < 0x1000000000000 then .unassigned
  else if pa < 0x1200000000000 then (if fitted expanders pa then .second else .unfitted)
  else if pa < 0x2000000000000 then .unassigned
  else if pa < 0x4000000000000 then .host
  else if pa < 0x8000000000000 then .peer (pa / 2 ^ 44 % 64)
  else if pa < 0xF000000000000 then .unassigned
  else if pa < 0xF000030000000 then .aperture ((pa - 0xF000000000000) / 0x80000) (pa % 0x80000)
  else if pa < 0xF800000000000 then .unassigned
  else if pa < 0x10000000000000 then .mmio (pa - 0xF800000000000)
  else .unassigned

/-- The first address after the region that holds an address: a physical interval must not run past it (R13). -/
def regionEnd (pa : Nat) : Nat :=
  if pa < 0xC000000000 then (pa / 0xC00000000 + 1) * 0xC00000000
  else if pa < 0x1000000000000 then 0
  else if pa < 0x1200000000000 then 0x1200000000000
  else if pa < 0x2000000000000 then 0
  else if pa < 0x4000000000000 then 0x4000000000000
  else if pa < 0x8000000000000 then 0x8000000000000
  else if pa < 0xF000000000000 then 0
  else if pa < 0xF000030000000 then 0xF000030000000
  else if pa < 0xF800000000000 then 0
  else if pa < 0x10000000000000 then 0x10000000000000
  else 0

/-- The controllers of HBM and of the second tier encrypt; the host's and a peer's memory is not encrypted by them
(R65). -/
def encrypted (r : Region) : Bool :=
  match r with
  | .hbm _ => true
  | .second => true
  | _ => false

/-- The bytes a reader with credentials `cred` gets from a 64-byte block: as stored under the credentials that wrote
it, otherwise a fixed function of them (R66, log 9). -/
def Mem.view (m : Mem) (pa : Nat) (cred : Option (Nat × Nat)) : BitVec 512 :=
  let v := cellsRead m.cells pa 64
  let tag := (m.tags.find? (fun p => p.1 == pa / 64)).map (·.2)
  if tag = cred then BitVec.ofNat 512 v
  else BitVec.ofNat 512 (ofBytes ((List.range 64).map (Config.scramble (bytesOf v 64) tag cred)))

/-- The block written with a value where the mask is set, under credentials (R65): the rest of the block is written
back as its reader saw it. -/
def Mem.setBlock (m : Mem) (pa : Nat) (cred : Option (Nat × Nat)) (val mask : BitVec 512) : Mem :=
  let old := m.view pa cred
  let new := (old &&& ~~~mask) ||| (val &&& mask)
  { m with
    cells := cellsWrite m.cells pa 64 new.toNat
    tags := match cred with
      | none => m.tags.del (pa / 64)
      | some c => m.tags.put (pa / 64) c }

/-- The error mark of a block: uncorrectable 0x10, poisoned 0x11, link error 0x14 (R67, R70). -/
def Mem.mark (m : Mem) (pa : Nat) : Option Nat :=
  (m.marks.find? (fun p => p.1 == pa / 64)).map (·.2)

/-- The block read, or its error (R67). -/
def Mem.read (m : Mem) (pa : Nat) (cred : Option (Nat × Nat)) : Except Nat (BitVec 512) :=
  match m.mark pa with
  | some c => .error c
  | none => .ok (m.view pa cred)

/-- The block stored to: a marked block takes only a store of the whole block, which clears the error (R67). -/
def Mem.write (m : Mem) (pa : Nat) (cred : Option (Nat × Nat)) (val mask : BitVec 512) : Except Nat Mem :=
  match m.mark pa with
  | some c => if mask = ~~~0 then .ok { m.setBlock pa cred val mask with marks := m.marks.del (pa / 64) } else .error c
  | none => .ok (m.setBlock pa cred val mask)

/-- A block's stored bytes and key moved as they are, without decoding (R38); an error travels as poison (R40). -/
def Mem.moveBlock (m : Mem) (src dst : Nat) : Mem :=
  { cells := cellsWrite m.cells dst 64 (cellsRead m.cells src 64)
    tags := match (m.tags.find? (fun p => p.1 == src / 64)).map (·.2) with
      | none => m.tags.del (dst / 64)
      | some c => m.tags.put (dst / 64) c
    marks := match m.mark src with
      | none => m.marks.del (dst / 64)
      | some _ => m.marks.put (dst / 64) 0x11 }

/-- The memory's form: its cells are canonical. -/
abbrev Mem.wf (m : Mem) : Prop := cellsWf m.cells = true

/-- The 64-bit word at byte offset `o` of a block. -/
def blkWord (b : BitVec 512) (o : Nat) : Word := BitVec.ofNat 64 (b.toNat / 2 ^ (8 * o))

/-- A mask of the bytes from `lo` up to `hi` of a block. -/
def byteMask (lo hi : Nat) : BitVec 512 := BitVec.ofNat 512 ((2 ^ (8 * hi) - 1) / 2 ^ (8 * lo) * 2 ^ (8 * lo))

end Sys2Proof.Machine
end

