-- ==== Sys2Proof/Machine/Layout.lean ====
section
/-! DEFINITION. Format codes (R71), the layout record (R92, R93), where an element lies (R94) and the walk of a
tensor by windows (R95 to R98). -/

namespace Sys2Proof.Machine

/-- The width in bits of a format code with a fixed width (R71); none for raw, DBP32 and reserved codes. -/
def fmtWidth (f : Nat) : Option Nat :=
  match f with
  | 0x01 => some 32
  | 0x02 => some 16
  | 0x03 => some 16
  | 0x04 => some 8
  | 0x05 => some 8
  | 0x06 => some 8
  | 0x08 => some 32
  | 0x09 => some 16
  | 0x0A => some 8
  | 0x0B => some 8
  | 0x0C => some 4
  | 0x0D => some 2
  | 0x0E => some 2
  | 0x10 => some 4
  | 0x11 => some 8
  | 0x12 => some 8
  | _ => none

/-- A code that R71 does not list. -/
def fmtReserved (f : Nat) : Bool := f != 0 && f != 0x13 && (fmtWidth f).isNone

/-- A format whose elements have a companion (R17). -/
def fmtScaled (f : Nat) : Bool := f == 0x10 || f == 0x11 || f == 0x12

/-- The width a queue entry holds an element in (R96): INT4G delivers BF16, raw bytes are 8 bits. -/
def fmtDelivered (f : Nat) : Nat := if f = 0x10 then 16 else (fmtWidth f).getD 8

/-- The width an element has in memory; raw counts bytes (R90). -/
def fmtStored (f : Nat) : Nat := (fmtWidth f).getD 8

/-- A field of a record's word. -/
def recField (r : List Word) (w lo len : Nat) : Nat := (r.getD w 0).toNat / 2 ^ lo % 2 ^ len

/-- BASE of a layout record (R92). -/
def recBase (r : List Word) : Nat := (r.getD 0 0).toNat
/-- FMT. -/
def recFmt (r : List Word) : Nat := recField r 1 0 8
/-- RANK. -/
def recRank (r : List Word) : Nat := recField r 1 8 3
/-- SPACE. -/
def recSpace (r : List Word) : Nat := recField r 1 12 3
/-- ORDER entry k. -/
def recOrder (r : List Word) (k : Nat) : Nat := recField r 1 (16 + 3 * k) 3
/-- SUBOFF. -/
def recSuboff (r : List Word) : Nat := recField r 1 32 4
/-- SBANK. -/
def recSbank (r : List Word) : Nat := recField r 1 36 4
/-- BSTRIDE. -/
def recBstride (r : List Word) : Nat := recField r 1 40 4
/-- SWZ. -/
def recSwz (r : List Word) : Nat := recField r 1 44 4
/-- FILLB. -/
def recFillb (r : List Word) : Bool := recField r 1 48 1 == 1
/-- TRN. -/
def recTrn (r : List Word) : Bool := recField r 1 49 1 == 1
/-- RING. -/
def recRing (r : List Word) : Bool := recField r 1 50 1 == 1
/-- FILLV. -/
def recFillv (r : List Word) : Nat := recField r 2 0 32
/-- EXT of dimension d. -/
def recExt (r : List Word) (d : Nat) : Nat := recField r (3 + d) 0 24
/-- WIN of dimension d. -/
def recWin (r : List Word) (d : Nat) : Nat := recField r (3 + d) 24 16
/-- STR of dimension d, signed. -/
def recStr (r : List Word) (d : Nat) : Int := (BitVec.ofNat 32 (recField r (8 + d / 2) (32 * (d % 2)) 32)).toInt
/-- QBLEN. -/
def recQblen (r : List Word) : Nat := recField r 10 32 16
/-- QBDIM. -/
def recQbdim (r : List Word) : Nat := recField r 10 48 3
/-- QSFMT. -/
def recQsfmt (r : List Word) : Nat := recField r 10 56 8

/-- The dimensions below RANK in ORDER, fastest first (R95). -/
def recDims (r : List Word) : List Nat := (List.range (recRank r)).map (recOrder r)

/-- SUBOFF fits the format's width (R93): below 8 / w for a sub-byte format, zero for any other. -/
def suboffOk (r : List Word) (f : Nat) : Bool :=
  match fmtWidth f with
  | some w => if w < 8 then decide (recSuboff r < 8 / w) else recSuboff r == 0
  | none => recSuboff r == 0

/-- The conditions under which R93 calls a record invalid, each with the word in which it shows: reserved bits (R92), and
the limits of its fields. -/
def recChecks (r : List Word) : List (Nat × Bool) :=
  let k := recRank r
  let f := recFmt r
  let q := recQblen r
  [(1, recField r 1 11 1 != 0 || recField r 1 15 1 != 0 || recField r 1 31 1 != 0 || recField r 1 51 13 != 0),
   (1, k == 0 || decide (k > 5) || decide (recSpace r > 2)),
   (1, (List.range k).any fun d => !(recDims r).contains d),
   (1, (List.range 5).any fun e => decide (e ≥ k) && recOrder r e != 0),
   (1, (f != 0 && !suboffOk r f) || (recSpace r == 0 && (recSbank r != 0 || recBstride r != 0)) || decide (recBstride r > 7)),
   (1, decide (recSwz r > 1) || (recSwz r == 1 && k == 1) || (recTrn r && k == 1)),
   (2, recField r 2 32 32 != 0)] ++
  ((List.range 5).map fun d => (3 + d, recField r (3 + d) 40 24 != 0 ||
    if d < k then recExt r d == 0 || recWin r d == 0 else recExt r d != 0 || recWin r d != 0)) ++
  ((List.range 5).map fun d => (8 + d / 2, decide (k ≤ d) && recStr r d != 0)) ++
  [(10, recField r 10 51 5 != 0 || (q == 0 && (recQbdim r != 0 || recQsfmt r != 0)) ||
     (q != 0 && (decide (recQbdim r ≥ k) || !fmtScaled f || recQsfmt r != (if f = 0x10 then 0x02 else 0x06) ||
       (f == 0x11 && q != 32))) ||
     (recSpace r != 0 && fmtScaled f && q == 0)),
   (11, (r.getD 11 0) != 0)]

/-- The record is invalid (R93). A scratch record of format 0x10 or 0x12 with QBLEN above 4,095 is not among the rule's
conditions: it is accepted, and its length used (log 71). -/
def recInvalid (r : List Word) : Bool := (recChecks r).any (·.2)

/-- The number of window origins along a dimension (R95). -/
def recCount (r : List Word) (d : Nat) : Nat := (recExt r d + recWin r d - 1) / recWin r d

/-- The windows of the whole walk. -/
def recWindows (r : List Word) : Nat := (recDims r).foldl (fun n d => n * recCount r d) 1

/-- The positions of one window. -/
def recPositions (r : List Word) : Nat := (recDims r).foldl (fun n d => n * recWin r d) 1

/-- The digits of a number over the radices of a list of dimensions, the first fastest: what each dimension gets. -/
def walkDigits (radix : Nat → Nat) : List Nat → Nat → List (Nat × Nat)
  | [], _ => []
  | d :: ds, n => (d, n % radix d) :: walkDigits radix ds (n / radix d)

/-- The digit of a dimension; 0 for one that is not listed. -/
def digitOf (c : List (Nat × Nat)) (d : Nat) : Nat := ((c.find? (fun p => p.1 == d)).map (·.2)).getD 0

/-- The two innermost dimensions exchanged (R95, TRN). -/
def swapInner : List Nat → List Nat
  | a :: b :: rest => b :: a :: rest
  | l => l

/-- The coordinates of position `p` of the window whose index along dimension `d` is `win d`, with TRN taken as
given (R95, R280). -/
def recCoords (r : List Word) (trn : Bool) (win : Nat → Nat) (p : Nat) : Nat → Nat :=
  let order := if trn then swapInner (recDims r) else recDims r
  let c := walkDigits (recWin r) order p
  fun d => if d < recRank r then win d * recWin r d + digitOf c d else 0

/-- The window index along each dimension of the m-th window in walk order (R95). -/
def recWindow (r : List Word) (m : Nat) : Nat → Nat :=
  let c := walkDigits (recCount r) (recDims r) m
  fun d => digitOf c d

/-- A position inside every extent (R96): the others are padding. -/
def recInside (r : List Word) (x : Nat → Nat) : Bool := (recDims r).all fun d => decide (x d < recExt r d)

/-- The storage index of an element (R94). -/
def recIndex (r : List Word) (x : Nat → Nat) : Int :=
  (recDims r).foldl (fun i d => i + (x d : Int) * recStr r d) 0

/-- The signed bit address of an element of `w` bits: one that does not lie within the 2^64 bytes is out of space whichever it is
(R9, R11), and stands in the last block of them, which lies beyond every space. -/
def bitAddr (w : Nat) (b : Int) : Nat := if 0 ≤ b ∧ b + w ≤ 2 ^ 67 then b.toNat else 2 ^ 67 - 512 + (b % 8).toNat

/-- The bit address of an element of width `w` in its record's space (R94). -/
def recBitAddr (r : List Word) (w : Nat) (x : Nat → Nat) : Nat :=
  let bits : Int := ((recSuboff r : Int) + recIndex r x) * (w : Int)
  if recSpace r = 0 then bitAddr w ((recBase r : Int) * 8 + bits)
  else
    let o0 := bits / 8
    if o0 < 0 then bitAddr w bits
    else
      let o := if recSwz r = 1 then o0.toNat ^^^ (x (recOrder r 1) % 16 * 0x100) else o0.toNat
      let q := recBase r % 0x1000 + o
      let byte := (recBase r / 0x1000 + recSbank r + q / 0x1000 * 2 ^ recBstride r) * 0x1000 + q % 0x1000
      bitAddr w (byte * 8 + bits % 8)

/-- Elements that one queue entry of 2,048 bits holds at a delivered width (R96). -/
def perEntry (f : Nat) : Nat := 2048 / fmtDelivered f

/-- Entries that one window takes (R96). -/
def perWindow (r : List Word) (f : Nat) : Nat := (recPositions r + perEntry f - 1) / perEntry f

/-- Entries of the whole walk. -/
def walkEntries (r : List Word) (f : Nat) : Nat := recWindows r * perWindow r f

/-- The place after an entry at a window and position (R95, R96): the next entry of the window, or the next window;
with RING the walk begins again after the last (R97). -/
def nextPlace (r : List Word) (f : Nat) (p : Nat × Nat) : Nat × Nat :=
  if p.2 + perEntry f < recPositions r then (p.1, p.2 + perEntry f)
  else if recRing r && p.1 + 1 == recWindows r then (0, 0) else (p.1 + 1, 0)

/-- The place of the entry before a window and position. -/
def prevPlace (r : List Word) (f : Nat) (p : Nat × Nat) : Nat × Nat :=
  if perEntry f ≤ p.2 then (p.1, p.2 - perEntry f)
  else ((if p.1 = 0 then recWindows r else p.1) - 1, (perWindow r f - 1) * perEntry f)

/-- No window remains to fetch or push (R97, R271). -/
def walkDone (r : List Word) (win : Nat) : Bool := !recRing r && decide (recWindows r ≤ win)

/-- The place `n` entries further on; a walk without RING stops at its end (R274). -/
def skipPlaces (r : List Word) (f : Nat) (p : Nat × Nat) (n : Nat) : Nat × Nat :=
  let at_ := p.1 * perWindow r f + p.2 / perEntry f + n
  let total := walkEntries r f
  let k := if recRing r then at_ % total else min at_ total
  (k / perWindow r f, k % perWindow r f * perEntry f)

/-- The walk positions that the entry at a place holds, each with its coordinates, in order. -/
def entryCoords (r : List Word) (f : Nat) (p : Nat × Nat) : List (Nat → Nat) :=
  let k := min (perEntry f) (recPositions r - p.2)
  (List.range k).map fun i => recCoords r (recTrn r) (recWindow r p.1) (p.2 + i)

/-- The block of scales an element belongs to (R84). -/
def blockIndex (i s blen : Nat) : Nat := i % s + i / (s * blen) * s

/-- Where a scratch tensor's companion begins (R84). -/
def scratchCompanion (r : List Word) (f : Nat) : Nat :=
  let p := (recDims r).foldl (fun n d => n * recExt r d) 1
  (recBase r + (p * fmtStored f + 7) / 8 + 63) / 64 * 64

end Sys2Proof.Machine
end

