-- ==== Sys2Proof/Machine/Image.lean ====
section
/-! DEFINITION. The context save area: what a save writes (R187 to R191) and what a restore reads and checks
(R188, R190, R193). -/

namespace Sys2Proof.Machine

/-- VLMAX of a row width and a VTYPE (R137). -/
def vlmaxOf (vlcap : Nat) (vtype : BitVec 5) : Nat := vlcap / 2 ^ (vtype.toNat % 8 + 1)

/-- The group count of a VTYPE (R136). -/
def groupOf (vtype : BitVec 5) : Nat := 2 ^ (vtype.toNat / 8)

/-- A packed number: fields as (lowest bit, value), summed. -/
def pack : List (Nat × Nat) → Nat
  | [] => 0
  | (lo, v) :: rest => v * 2 ^ lo + pack rest

/-- The rows that a save writes (R191): dirty rows, those of h1 only when H1 is set. -/
def savedRows (h : Hart) : List Nat :=
  (List.range 128).filter fun i => h.grid.dirty.getLsbD i && (decide (i < 64) || h.grid.h1)

/-- The header (R190), with SIP 1 and PROGRESS 0 as the drain first stores it (R192). -/
def imageHeader (h : Hart) (time : Nat) : Nat :=
  let c := h.ctl
  let o := h.popa
  let v := h.pvec
  pack [(0, 1), (16, 1), (17, h.grid.h1.toNat), (18, c.qfmt.toNat / 256), (64, h.pc.toNat), (128, c.strip.toNat),
    (192, c.vl), (224, c.vtype.toNat), (256, c.msel.toNat), (264, c.qfmt.toNat % 256), (272, c.frm.toNat),
    (288, c.fill.toNat), (320, c.tshp.toNat % 256), (336, c.tshp.toNat / 256 % 256), (352, c.tshp.toNat / 65536),
    (368, h.pend), (384, time), (448, h.ident.deadline.toNat), (512, h.ident.budget.toNat), (576, h.loops.length),
    (592, h.sup.owner.toNat),
    (640, ((savedRows h).map fun i => 2 ^ i).sum),
    (768, (v.map (·.start)).getD 0), (800, o.isSome.toNat), (801, v.isSome.toNat),
    (802, (v.map (·.slot)).getD 0), (804, (o.map (·.slot)).getD 0),
    (832, (v.map (·.pc.toNat)).getD 0), (896, (o.map (·.pc.toNat)).getD 0),
    (960, (o.map (·.step)).getD 0), (992, (o.map (·.tshp.toNat)).getD 0)]

/-- The control-word block (R189), with words 13 and 14 zero. -/
def imageControl (h : Hart) (alloc : Nat) : Nat :=
  let c := h.ctl
  let v := (h.pvec.map (·.cap)).getD {}
  pack [(0, c.fflags.toNat), (64, c.srseed.toNat), (128, h.sup.vlcap.toNat), (192, c.errcnt.toNat),
    (256, c.violcnt.toNat), (320, alloc), (384, h.ident.arg.toNat), (448, h.ident.gangid.toNat),
    (512, h.ident.gangidx.toNat), (544, h.ident.gangw.toNat), (576, h.ident.handle.toNat)] +
  (if h.pvec.isSome then
    pack [(640, v.vl), (672, v.vtype.toNat), (704, v.fill.toNat), (736, v.rm.toNat), (744, v.qfmt.toNat),
      (756, (v.mask.map BitVec.toNat).getD 0), (768, v.seed.toNat), (960, v.scalar.toNat)]
  else 0)

/-- The loop stack (R187): a VLOOP entry holds the STRIP remaining (R235). -/
def imageLoops (strip : Word) : List LoopEnt → Nat
  | [] => 0
  | e :: rest => pack [(0, if e.vloop then strip.toNat else e.count.toNat), (64, e.vloop.toNat), (68, e.start.toNat / 16)] +
    2 ^ 128 * imageLoops strip rest

/-- The entries of a queue and its state (R187, R186): a store-bound queue holds none; entries beyond COUNT are
undefined (log 12). -/
def imageQueue (q : Queue) (count : Nat) : Nat :=
  let held := if q.bind = 1 then q.entries else []
  let n := held.length
  pack ((List.range 16).map fun i => (2048 * i,
      match held[i]? with
      | some e => e.data.toNat
      | none => (Config.staleEntry (count * 16 + i)).toNat)) +
    pack [(32768, n), (32773, q.bind), (32775, q.claim.toNat)]

/-- The binding record of a queue (R187). -/
def imageBinding (q : Queue) : Nat :=
  if q.bind = 0 then 0 else
  pack ((List.range 12).map fun k => (64 * k, (q.rcd.getD k 0).toNat)) +
    pack [(160, q.fill.toNat), (704, q.count.toNat), (768, q.win), (832, q.pos), (896, q.scaleIdx),
      (960, ((q.partner.map fun (p : Nat × Nat × Word) => p.2.2).getD 0).toNat)]

/-- The notice block (R187). -/
def imageNotices : List Notice → Nat
  | [] => 0
  | n :: rest => pack [(0, n.addr.toNat), (64, n.cause), (72, 1)] + 2 ^ 128 * imageNotices rest

/-- What a save writes, in the drain's order: offset in the area, length in bytes and value (R187, R191). -/
def imageOf (h : Hart) (alloc time count : Nat) : List (Nat × Nat × Nat) :=
  [(0, 128, imageHeader h time),
   (128, 256, pack ((List.range 31).map fun i => (64 * (i + 1), (h.x.get (i + 1)).toNat))),
   (384, 128, imageControl h alloc), (512, 64, imageLoops h.ctl.strip h.loops),
   (576, 7168, pack ((List.range 7).map fun i => (8192 * i, (h.grid.masks.get (i + 1)).toNat)))] ++
  (List.range 4).map (fun q => (7744 + 4112 * q, 4112, imageQueue (h.queues.get q) count)) ++
  (List.range 4).map (fun q => (24192 + 128 * q, 128, imageBinding (h.queues.get q))) ++
  (savedRows h).map (fun i => (24704 + 256 * i, 256, (h.grid.rows.get i).toNat)) ++
  [(57472, 128, imageNotices h.notices)]

/-- A reader of an area: the little-endian value of some bytes at an offset. -/
abbrev AreaRd := Nat → Nat → Nat

/-- A field of the area: byte offset, lowest bit and length in bits. -/
def AreaRd.field (rd : AreaRd) (off lo len : Nat) : Nat := rd off ((lo + len + 7) / 8) / 2 ^ lo % 2 ^ len

/-- The queue of an area, with the record's two state words taken out (R187). -/
def areaQueue (rd : AreaRd) (q : Nat) : Queue :=
  let e := 7744 + 4112 * q
  let b := 24192 + 128 * q
  let bind := rd.field (e + 4096) 5 2
  if bind = 0 then {} else
  let ws := (List.range 12).map fun k =>
    if k = 2 then BitVec.ofNat 64 (rd (b + 16) 4) else if k = 11 then (0 : Word) else BitVec.ofNat 64 (rd (b + 8 * k) 8)
  { bind := bind
    rcd := ws
    fill := BitVec.ofNat 32 (rd (b + 20) 4)
    entries := (List.range (rd.field (e + 4096) 0 5)).map fun i =>
      { win := 0, pos := 0, data := BitVec.ofNat 2048 (rd (e + 256 * i) 256) }
    count := BitVec.ofNat 64 (rd (b + 88) 8)
    win := rd (b + 96) 8
    pos := rd (b + 104) 8
    scaleIdx := rd (b + 112) 8
    claim := rd.field (e + 4096) 7 1 == 1
    partner := let p := rd (b + 120) 8; if p = 0 then none else some (0, 0, BitVec.ofNat 64 p) }

/-- The hart of an area (R188, R189, R190): the supervisor's words of `base` but for VLCAP and OWNER, the rows of h0,
and of h1 when H1 is set, and the rest of the body; the loop stack's last bundles are found afterwards, and until then an entry's
own bundle stands in their place. No rule checks bits [3:0] of the saved PC and of the bundles of partial operations: a bundle's
address has none (R197), and they are dropped (log 79). -/
def areaHart (rd : AreaRd) (base : Hart) : Hart :=
  let h1 := rd.field 2 1 1 == 1
  let vtype : BitVec 5 := BitVec.ofNat 5 (rd 28 4)
  let vlcap := rd (384 + 16) 8
  { pc := BitVec.ofNat 64 (rd 8 8 / 16 * 16)
    level := .u
    handler := false
    x := (List.range 31).map fun i => (i + 1, BitVec.ofNat 64 (rd (128 + 8 * (i + 1)) 8))
    ctl :=
      { vl := rd 24 4, vtype := vtype, fill := BitVec.ofNat 32 (rd 36 4), frm := BitVec.ofNat 3 (rd 34 1),
        fflags := BitVec.ofNat 6 (rd 384 8), qfmt := BitVec.ofNat 10 (rd 33 1 + 256 * rd.field 2 2 2),
        srseed := BitVec.ofNat 64 (rd 392 8), strip := BitVec.ofNat 64 (rd 16 8),
        tshp := BitVec.ofNat 32 (rd 40 2 + 256 * rd 42 2 + 65536 * rd 44 2), msel := BitVec.ofNat 3 (rd 32 1),
        errcnt := BitVec.ofNat 32 (rd 408 8), violcnt := BitVec.ofNat 32 (rd 416 8) }
    sup := { base.sup with vlcap := BitVec.ofNat 12 vlcap, owner := BitVec.ofNat 12 (rd 74 2) }
    ident :=
      { deadline := BitVec.ofNat 64 (rd 56 8), budget := BitVec.ofNat 64 (rd 64 8), counted := base.ident.counted,
        gangid := BitVec.ofNat 64 (rd 440 8), gangidx := BitVec.ofNat 32 (rd 448 4),
        gangw := BitVec.ofNat 32 (rd 452 4), arg := BitVec.ofNat 64 (rd 432 8),
        handle := BitVec.ofNat 64 (rd 456 8), indexed := base.ident.indexed }
    loops := (List.range (rd 72 1)).map fun i =>
      { vloop := rd.field (512 + 16 * i + 8) 0 1 == 1, count := BitVec.ofNat 64 (rd (512 + 16 * i) 8),
        start := BitVec.ofNat 64 (rd (512 + 16 * i + 8) 8 / 16 * 16)
        last := BitVec.ofNat 64 (rd (512 + 16 * i + 8) 8 / 16 * 16) }
    grid :=
      { rows := (List.range (if h1 then 128 else 64)).map fun i => (i, BitVec.ofNat 2048 (rd (24704 + 256 * i) 256))
        h1 := h1
        masks := (List.range 7).map fun i => (i + 1, BitVec.ofNat 8192 (rd (576 + 1024 * i) 1024)) }
    queues := (List.range 4).map fun q => (q, areaQueue rd q)
    notices := ((List.range 8).filter fun i => rd.field (57472 + 16 * i + 8) 8 1 == 1).map fun i =>
      { cause := rd (57472 + 16 * i + 8) 1, addr := BitVec.ofNat 64 (rd (57472 + 16 * i) 8) }
    pend := rd 46 2
    popa := if rd.field 100 0 1 = 0 then none else
      some { half := 0, qa := 0, qb := 0, neg := false, ovw := false, fa := 0, fb := 0, blenA := 0, blenB := 0,
             tshp := BitVec.ofNat 32 (rd 124 4), step := rd 120 4, pc := BitVec.ofNat 64 (rd 112 8 / 16 * 16),
             slot := rd.field 100 4 2 }
    pvec := if rd.field 100 1 1 = 0 then none else
      some { instr := none, pc := BitVec.ofNat 64 (rd 104 8 / 16 * 16), slot := rd.field 100 2 2, start := rd 96 4,
             cap := { vl := rd 464 4, vtype := BitVec.ofNat 5 (rd 468 4), vlcap := vlcap,
                      fill := BitVec.ofNat 32 (rd 472 4), rm := BitVec.ofNat 3 (rd.field 476 0 3),
                      qfmt := BitVec.ofNat 10 (rd.field 476 8 10), mask := some (BitVec.ofNat 3 (rd.field 476 20 3)),
                      seed := BitVec.ofNat 64 (rd 480 8), scalar := BitVec.ofNat 64 (rd 504 8) } }
    due := if rd.field (384 + 14 * 8) 63 1 = 0 then [] else
      [{ cause := rd (384 + 14 * 8) 1, addr := BitVec.ofNat 64 (rd (384 + 13 * 8) 8),
         slot := some (rd.field (384 + 14 * 8) 8 2) }] }

/-- A VLCAP that R137 allows. -/
def vlcapOk (n : Nat) : Bool := n == 256 || n == 512 || n == 1024 || n == 2048

/-- A VTYPE that R136 allows. -/
def vtypeOk (n : Nat) : Bool := decide (n < 32) && decide (n % 8 < 5)

/-- The checks of one queue's state and binding (R187, R193): the byte offset in the area of the first failing word. -/
def areaQueueBad (rd : AreaRd) (q : Nat) : List (Nat × Bool) :=
  let e := 7744 + 4112 * q + 4096
  let b := 24192 + 128 * q
  let bind := rd.field e 5 2
  let r := (areaQueue rd q).rcd
  [(e, bind == 3 || rd.field e 8 56 != 0 || decide (rd.field e 0 5 > 16)), (e + 8, rd (e + 8) 8 != 0)] ++
  if bind = 0 ∨ bind = 3 then [] else
  ((recChecks r).map fun c => (b + 8 * c.1, c.2)) ++
  [(b + 96, decide (rd (b + 96) 8 > recWindows r)),
   (b + 104, decide (rd (b + 104) 8 ≥ max 1 (recPositions r)))]

/-- The reserved-field checks of R190 and R193 in address order: the offset of the first failing 8-byte word. The VL and VLMAX
with which STARTEL is compared are those saved for the partial operation, in word 10 (log 91). -/
def areaBad (rd : AreaRd) : Option Nat :=
  let vt := rd 28 4
  let vc := rd 400 8
  let frm := rd 34 1
  let depth := rd 72 1
  let w14 := rd 496 8
  let pvec := rd.field 100 1 1 == 1
  let popa := rd.field 100 0 1 == 1
  let tk := rd 126 2
  let vmax := vlmaxOf vc (BitVec.ofNat 5 vt)
  let checks : List (Nat × Bool) :=
    [(0, rd 0 2 != 1 || rd.field 2 4 12 != 0),
     (24, !vtypeOk vt || (vlcapOk vc && decide (rd 24 4 > groupOf (BitVec.ofNat 5 vt) * vmax))),
     (32, decide (rd 32 1 > 7) || decide (frm < 1) || decide (frm > 6) || rd 35 1 != 0),
     (72, decide (depth > 4) || rd 73 1 != 0 || decide (rd 74 2 > 0xFFF) || rd 76 4 != 0),
     (96, rd.field 100 6 26 != 0 ||
       (pvec && (rd 96 4 % max 1 (vlmaxOf vc (BitVec.ofNat 5 (rd 468 4))) != 0 || decide (rd 96 4 ≥ rd 464 4)))),
     (120, popa && decide (rd 120 4 ≥ tk)),
     (400, !vlcapOk vc), (424, decide (rd 424 8 > 128)),
     (464, pvec && !vtypeOk (rd 468 4)),
     (472, pvec && (decide (rd.field 476 0 3 < 1) || decide (rd.field 476 0 3 > 6))),
     (488, w14 == 0 && rd 488 8 != 0),
     (496, w14 != 0 && (rd.field 496 63 1 == 0 || !(rd 496 1 == 0x20 || rd 496 1 == 0x21) || rd.field 496 10 53 != 0)),
     (504, !pvec && rd 504 8 != 0)] ++
    ((List.range 4).map fun i => (512 + 16 * i, decide (depth ≤ i) && (rd (512 + 16 * i) 8 != 0))) ++
    ((List.range 4).map fun i => (512 + 16 * i + 8,
      if depth ≤ i then rd (512 + 16 * i + 8) 8 != 0 else rd.field (512 + 16 * i + 8) 1 3 != 0)) ++
    (List.range 4).flatMap (areaQueueBad rd) ++
    ((List.range 8).map fun i => (57472 + 16 * i + 8, rd.field (57472 + 16 * i + 8) 9 55 != 0))
  ((checks.filter (·.2)).map (·.1)).foldl (fun m o => some (match m with | none => o | some k => min k o)) none

end Sys2Proof.Machine
end

