-- ==== Sys2Proof/Machine/Ops.lean ====
section
/-! DEFINITION. The named operations over the state: cores, dies and their clocks, registers, the error log and the
counts, physical memory and scratchpads, saving a context, and taking a trap (R178) and returning from one (R182). -/

namespace Sys2Proof.Machine

/-- The die of a core (R3). -/
def dieOf (core : Nat) : Nat := core / 96
/-- The cluster of a core (R3). -/
def clusterOf (core : Nat) : Nat := core / 48

namespace State

/-- A core. -/
def core (s : State) (k : Nat) : Core := s.cores.get k
/-- A core's hart. -/
def hart (s : State) (k : Nat) : Hart := (s.core k).hart
/-- A die. -/
def die (s : State) (d : Nat) : Die := s.dies.get d
/-- The core whose bundle is in hand. -/
def me (s : State) : Core := s.core s.cur
/-- Its hart. -/
def my (s : State) : Hart := s.me.hart
/-- A core replaced. -/
def setCore (s : State) (k : Nat) (c : Core) : State := { s with cores := s.cores.put k c }
/-- A core changed. -/
def modCore (s : State) (k : Nat) (f : Core → Core) : State := s.setCore k (f (s.core k))
/-- A core's hart changed. -/
def modHart (s : State) (k : Nat) (f : Hart → Hart) : State := s.modCore k fun c => { c with hart := f c.hart }
/-- The hart in hand changed. -/
def modMy (s : State) (f : Hart → Hart) : State := s.modHart s.cur f
/-- A die changed. -/
def modDie (s : State) (d : Nat) (f : Die → Die) : State := { s with dies := s.dies.mod d f }
/-- The range agents changed. -/
def modRanges (s : State) (f : Ranges → Ranges) : State := { s with ranges := f s.ranges }
/-- The harbourmaster's records changed. -/
def modHarbour (s : State) (f : Harbour → Harbour) : State := { s with harbour := f s.harbour }
/-- The host link and package registers changed. -/
def modLink (s : State) (f : Link → Link) : State := { s with link := f s.link }
/-- A slot of a die's slice table changed. -/
def modSlot (s : State) (d i : Nat) (f : Slot → Slot) : State := s.modDie d fun v => { v with slots := v.slots.mod i f }

/-- ATIME as a core reads it: its die's copy (R100). -/
def atime (s : State) (core : Nat) : Nat := (s.die (dieOf core)).atime.toNat

end State

/-- A scalar register; s0 reads zero (R221). -/
def Hart.rx (h : Hart) (r : SReg) : Word := if r = 0 then 0 else h.x.get r.toNat

/-- A scalar register written; a write of s0 is discarded (R221). -/
def Hart.wx (h : Hart) (r : SReg) (v : Word) : Hart := if r = 0 then h else { h with x := h.x.put r.toNat v }

/-- The control words open at U, changed. -/
def Hart.modCtl (h : Hart) (f : Ctl → Ctl) : Hart := { h with ctl := f h.ctl }

/-- A mask register; m0 reads all ones (R139). -/
def Hart.mask (h : Hart) (k : MReg) : BitVec 8192 := if k = 0 then ~~~0 else h.grid.masks.get k.toNat

/-- The grid changed. -/
def Hart.modGrid (h : Hart) (f : Grid → Grid) : Hart := { h with grid := f h.grid }

/-- A field of a row replaced. -/
def putBits (v : BitVec 2048) (lo w x : Nat) : BitVec 2048 :=
  let m : BitVec 2048 := BitVec.ofNat 2048 ((2 ^ w - 1) * 2 ^ lo)
  (v &&& ~~~m) ||| BitVec.ofNat 2048 (x % 2 ^ w * 2 ^ lo)

/-- A grid row written: it becomes dirty, and H1 is set by a row of h1 (R190, R191). -/
def Grid.setRow (g : Grid) (r : Nat) (v : BitVec 2048) : Grid :=
  { g with rows := g.rows.put r v, dirty := g.dirty ||| (1 <<< r), h1 := g.h1 || decide (64 ≤ r) }

/-- A field of a row rewritten: what an error had lost there is there again (R67, log 94). -/
def Grid.mend (g : Grid) (r lo w : Nat) : Grid :=
  let left (c : Nat × Nat × BitVec 32) : BitVec 32 :=
    if c.1 = r then c.2.2 &&& ~~~(BitVec.ofNat 32 ((2 ^ w - 1) * 2 ^ lo / 2 ^ (32 * c.2.1))) else c.2.2
  { g with bad := (g.bad.map fun c => (c.1, c.2.1, left c)).filter (·.2.2 != 0) }

/-- A whole row written. -/
def Grid.putRow (g : Grid) (r : Nat) (v : BitVec 2048) : Grid := (g.setRow r v).mend r 0 2048

/-- The grid as it is read: a cell with an uncorrectable error reads as FILL (R67). -/
def Grid.filled (g : Grid) (fill : BitVec 32) : Grid :=
  { g with rows := g.bad.foldl (fun t c =>
      t.mod c.1 fun v => putBits v (32 * c.2.1) 32 fill.toNat) g.rows }

/-- A queue. -/
def Hart.queue (h : Hart) (q : Nat) : Queue := h.queues.get q

/-- A queue changed. -/
def Hart.modQueue (h : Hart) (q : Nat) (f : Queue → Queue) : Hart := { h with queues := h.queues.mod q f }

/-- Saturating increment of a 32-bit count (R68). -/
def bump (c : BitVec 32) : BitVec 32 := if c = ~~~0 then c else c + 1

/-- The flags that an operation raises, ORed into FFLAGS when the bundle commits (R240). -/
def State.raise (s : State) (f : BitVec 6) : State := { s with raised := s.raised ||| f }

/-- An entry of the error log (R69). -/
def logEntry (s : State) (core addr cause slot space kind owner : Nat) (pc : Word) : LogEnt :=
  { addr := BitVec.ofNat 64 addr
    time := BitVec.ofNat 64 (s.atime core)
    info := BitVec.ofNat 64 (pack [(0, cause), (8, slot), (10, space), (13, kind), (16, owner), (28, core), (63, 1)])
    pc := pc }

/-- A new entry takes the lowest free entry; with all sixteen in use the overflow count rises (R69). -/
def Core.log (c : Core) (e : LogEnt) : Core :=
  match (List.range 16).find? (fun i => !(c.errlog.get i).info.getLsbD 63) with
  | some i => { c with errlog := c.errlog.put i e }
  | none => { c with logOver := bump c.logOver }

/-- An entry of a die's management log of 256 entries (R361). -/
def Die.log (d : Die) (e : LogEnt) : Die :=
  if d.mlog.length < 256 then { d with mlog := d.mlog ++ [e] } else { d with mlogOver := d.mlogOver + 1 }

/-- The format-error count of a core rises (R79). -/
def State.formatErrors (s : State) (core n : Nat) : State :=
  s.modCore core fun c => { c with fmtErrs := (List.range n).foldl (fun x _ => bump x) c.fmtErrs }

/-- An imprecise notice joins its context's queue of eight, or is dropped and counted (R181). -/
def State.notify (s : State) (core : Nat) (n : Notice) : State :=
  if (s.hart core).notices.length < 8 then s.modHart core fun h => { h with notices := h.notices ++ [n] }
  else s.modCore core fun c => { c with noticeDrops := bump c.noticeDrops }

/-- The entry of the bank map for a logical segment (R48). -/
def Core.bankEnt (c : Core) (seg : Nat) : BitVec 9 := c.bank.getD seg (BitVec.ofNat 9 (seg + 128))

/-- The physical segment of a logical one. -/
def Core.pseg (c : Core) (seg : Nat) : Nat := (c.bankEnt seg).toNat % 128
/-- V of the entry. -/
def Core.segValid (c : Core) (seg : Nat) : Bool := decide (seg < 128) && (c.bankEnt seg).getLsbD 7
/-- MOVING of the entry. -/
def Core.segMoving (c : Core) (seg : Nat) : Bool := decide (seg < 128) && (c.bankEnt seg).getLsbD 8

/-- How many banks or halves a bitmap names. -/
def popcount (n : Nat) (v : Nat) : Nat := ((List.range n).filter fun i => v.testBit i).length

/-- NSEG (R49). -/
def Core.nseg (c : Core) : Nat := 128 - 8 * popcount 16 c.retired.toNat
/-- CAPSCR in KiB (R49). -/
def Core.capscr (c : Core) : Nat := 4 * c.nseg
/-- CAPGRID (R51). -/
def Core.capgrid (c : Core) : Nat := 2 - popcount 2 c.gridGone.toNat

/-- A 64-byte block of a scratchpad, or its error: unmapped 0x08, or a marked block (R48, R50, R67). -/
def Core.scrRead (c : Core) (off : Nat) : Except Nat (BitVec 512) :=
  if !c.segValid (off / 4096) then .error 0x08 else
  let pa := c.pseg (off / 4096) * 4096 + off % 4096
  match (c.scrMarks.find? (fun p => p.1 == pa / 64)).map (·.2) with
  | some e => .error e
  | none => .ok (BitVec.ofNat 512 (cellsRead c.scr pa 64))

/-- A 64-byte block of a scratchpad stored to. -/
def Core.scrWrite (c : Core) (off : Nat) (val mask : BitVec 512) : Except Nat Core :=
  if !c.segValid (off / 4096) then .error 0x08 else
  let pa := c.pseg (off / 4096) * 4096 + off % 4096
  let put (old : BitVec 512) := cellsWrite c.scr pa 64 ((old &&& ~~~mask) ||| (val &&& mask)).toNat
  match (c.scrMarks.find? (fun p => p.1 == pa / 64)).map (·.2) with
  | some e => if mask = ~~~0 then .ok { c with scr := put 0, scrMarks := c.scrMarks.del (pa / 64) } else .error e
  | none => .ok { c with scr := put (BitVec.ofNat 512 (cellsRead c.scr pa 64)) }

/-- The region of a physical address in this package (R13). -/
def State.region (s : State) (pa : Nat) : Region := regionOf s.link.expanders pa

/-- The key and tweak under which an owner's access reaches a physical address: none for owner 0 and where the
controllers do not encrypt (R65). -/
def State.credOf (s : State) (pa owner tweak : Nat) : Option (Nat × Nat) :=
  if owner = 0 || !encrypted (s.region pa) then none else some (s.link.keys.get owner, tweak)

/-- A word of an entry of the peer table (R358). -/
def State.peerWord (s : State) (e j : Nat) : Nat := (s.link.peers.get (4 * e + j)).toNat

/-- No reserved bit of a peer entry is set, and its interval is aligned (R358): otherwise it is invalid in both directions. -/
def State.peerClean (s : State) (e : Nat) : Bool :=
  let w := s.peerWord e
  decide (w 0 / 32 % 2 ^ 11 = 0 ∧ w 0 / 2 ^ 28 = 0 ∧ w 1 / 2 ^ 32 = 0 ∧ w 2 / 2 ^ 52 = 0 ∧ w 3 / 2 ^ 52 = 0 ∧
    w 2 % 64 = 0 ∧ w 3 % 64 = 0)

/-- A peer entry set up for outbound accesses (R13, R358). -/
def State.peerSet (s : State) (e : Nat) : Bool := s.peerClean e && s.peerWord e 0 % 2 == 1

/-- A bit of the attribute word (R14). -/
def Desc.bit (d : Desc) (i : Nat) : Bool := d.attr.getLsbD i
/-- FMT. -/
def Desc.fmt (d : Desc) : Nat := d.attr.toNat / 2 ^ 8 % 256
/-- BDIM. -/
def Desc.bdim (d : Desc) : Nat := d.attr.toNat / 2 ^ 16 % 8
/-- BLEN. -/
def Desc.blen (d : Desc) : Nat := d.attr.toNat / 2 ^ 20 % 4096
/-- RES. -/
def Desc.res (d : Desc) : Nat := d.attr.toNat / 2 ^ 32 % 65536
/-- OWNER. -/
def Desc.owner (d : Desc) : Nat := d.attr.toNat / 2 ^ 48 % 4096
/-- The physical address of BASE. -/
def Desc.pa (d : Desc) : Nat := d.phys.toNat % 2 ^ 52
/-- HOME. -/
def Desc.home (d : Desc) : Nat := d.phys.toNat / 2 ^ 52 % 16
/-- The range's size. -/
def Desc.size (d : Desc) : Nat := d.lim.toNat - d.base.toNat
/-- The range contains an address. -/
def Desc.has (d : Desc) (va : Nat) : Bool := decide (d.base.toNat ≤ va) && decide (va < d.lim.toNat)
/-- STRICT. -/
def Desc.strict (d : Desc) : Bool := d.bit 4

/-- The segment length (R18). -/
def Desc.segLen (d : Desc) : Nat := (d.size + 1023) / 1024 * 64
/-- The segment that holds an address is resident (R18). -/
def Desc.resident (d : Desc) (va : Nat) : Bool := d.res.testBit ((va - d.base.toNat) / d.segLen)

/-- The chunks that a move copies, in order: offset and length (R38). -/
def Desc.chunks (d : Desc) : List (Nat × Nat) :=
  (List.range 16).flatMap fun j =>
    let lo := j * d.segLen
    let hi := min (lo + d.segLen) d.size
    if d.res.testBit j then
      (List.range ((hi - lo + 4095) / 4096)).map fun i => (lo + 4096 * i, min 4096 (hi - lo - 4096 * i))
    else []

/-- The old place of a moving range holds a physical address. -/
def Move.covers (m : Move) (pa : Nat) : Bool := decide (m.src ≤ pa) && decide (pa < m.src + m.desc.size)

/-- The chunk that holds a physical address of the old place has passed its move point (R38, R39). -/
def Move.passed (m : Move) (pa : Nat) : Bool :=
  m.covers pa &&
  match m.st with
  | .lock => false
  | .inval => true
  | .finish => !m.back
  | _ => (m.desc.chunks.take m.chunk).any fun c => decide (c.1 ≤ pa - m.src) && decide (pa - m.src < c.1 + c.2)

/-- A physical address of the chunk that is incoming, in its old place or in its new one (R38, R40). -/
def Move.incoming (m : Move) (pa : Nat) : Bool :=
  m.shut && match m.desc.chunks[m.chunk]? with
    | some c => (decide (m.src + c.1 ≤ pa) && decide (pa < m.src + c.1 + c.2)) ||
        (decide (m.dst + c.1 ≤ pa) && decide (pa < m.dst + c.1 + c.2))
    | none => false

/-- A physical address lies in an incoming chunk. -/
def State.incoming (s : State) (pa : Nat) : Bool := s.ranges.moves.any (·.incoming pa)

/-- Where a physical address lies now, moved chunks followed (R39, R40). -/
def State.resolve (s : State) (pa : Nat) : Nat :=
  match s.ranges.moves.find? (·.passed pa) with
  | some m => m.dst + (pa - m.src)
  | none => pa

/-- A 64-byte block of physical memory read by the device itself or by an access at its home (R61, R65, R67). -/
def State.physRead (s : State) (pa0 owner tweak : Nat) : Except Nat (BitVec 512) :=
  let pa := s.resolve pa0
  match s.region pa with
  | .hbm _ => s.mem.read pa (s.credOf pa owner tweak)
  | .second => s.mem.read pa (s.credOf pa owner tweak)
  | .host => s.mem.read pa none
  | .peer e => if s.peerSet e then s.mem.read pa none else .error 0x13
  | .aperture k off => (s.core k).scrRead off
  | _ => .error 0x13

/-- A 64-byte block of physical memory stored to. -/
def State.physWrite (s : State) (pa0 owner tweak : Nat) (val mask : BitVec 512) : Except Nat State :=
  let pa := s.resolve pa0
  let put (cred : Option (Nat × Nat)) : Except Nat State :=
    match s.mem.write pa cred val mask with
    | .ok m => .ok { s with mem := m }
    | .error e => .error e
  match s.region pa with
  | .hbm _ => put (s.credOf pa owner tweak)
  | .second => put (s.credOf pa owner tweak)
  | .host => put none
  | .peer e => if s.peerSet e then put none else .error 0x13
  | .aperture k off =>
    match (s.core k).scrWrite off val mask with
    | .ok c => .ok (s.setCore k c)
    | .error e => .error e
  | _ => .error 0x13

/-- The 64-bit word at an 8-byte aligned physical address under owner 0's null key. -/
def State.physWord (s : State) (pa : Nat) : Except Nat Word :=
  match s.physRead (pa / 64 * 64) 0 0 with
  | .ok b => .ok (blkWord b (pa % 64))
  | .error e => .error e

/-- The 64-bit word stored at an 8-byte aligned physical address under owner 0's null key; an error drops it. -/
def State.physPutWord (s : State) (pa : Nat) (w : Word) : State :=
  let o := pa % 64
  match s.physWrite (pa / 64 * 64) 0 0 (BitVec.ofNat 512 (w.toNat * 2 ^ (8 * o))) (byteMask o (o + 8)) with
  | .ok t => t
  | .error _ => s

/-- The blocks of an area interval: block offset, first and last byte in it. -/
def areaBlocks (off len : Nat) : List Nat :=
  (List.range ((off + len + 63) / 64 - off / 64)).map fun i => off / 64 + i

/-- The key and tweak owner of an area's block: the header is owner 0's, the body the context's, with the byte offset
from SAVEPTR as tweak (R65, R187). -/
def areaOwner (owner blk : Nat) : Nat := if blk < 2 then 0 else owner

/-- Bytes of a save area stored, block by block; the first error stops it (R187, R192). -/
def State.areaPut (s : State) (area owner off len val : Nat) : Except Nat State :=
  (areaBlocks off len).foldl (fun r b =>
    match r with
    | .error e => .error e
    | .ok t =>
      let lo := max off (64 * b)
      let hi := min (off + len) (64 * b + 64)
      let v := val / 2 ^ (8 * (lo - off)) % 2 ^ (8 * (hi - lo)) * 2 ^ (8 * (lo - 64 * b))
      t.physWrite (area + 64 * b) (areaOwner owner b) b (BitVec.ofNat 512 v) (byteMask (lo - 64 * b) (hi - 64 * b)))
    (.ok s)

/-- Bytes of a save area; a block with an error reads as zero. -/
def State.areaGet (s : State) (area owner off len : Nat) : Nat :=
  ((areaBlocks off len).map fun b =>
    let lo := max off (64 * b)
    let hi := min (off + len) (64 * b + 64)
    match s.physRead (area + 64 * b) (areaOwner owner b) b with
    | .ok v => v.toNat / 2 ^ (8 * (lo - 64 * b)) % 2 ^ (8 * (hi - lo)) * 2 ^ (8 * (lo - off))
    | .error _ => 0).sum

/-- The chunk of a staged save that holds some bytes of its area. -/
def Staging.chunk (g : Staging) (off len : Nat) : Option (Nat × Nat × Nat) :=
  g.chunks.find? fun c => decide (c.1 ≤ off) && decide (off + len ≤ c.1 + c.2.1)

/-- The core whose staging slot still holds some bytes of an area (R185, R192). -/
def State.stagedAt (s : State) (area off len : Nat) : Option (Nat × Staging × (Nat × Nat × Nat)) :=
  s.cores.findSome? fun p => p.2.staging.bind fun g =>
    if g.area = area then (g.chunk off len).map fun c => (p.1, g, c) else none

/-- Bytes of a saved context: in the staging slot while the save has not drained, otherwise in its area (R185). -/
def State.ctxGet (s : State) (area owner off len : Nat) : Nat :=
  match s.stagedAt area off len with
  | some (_, _, c) => c.2.2 / 2 ^ (8 * (off - c.1)) % 2 ^ (8 * len)
  | none => s.areaGet area owner off len

/-- Bytes of a saved context changed, in the staging slot while the save has not drained, otherwise in its area (R147, R181,
R184); an error drops them. -/
def State.ctxPut (s : State) (area owner off len val : Nat) : State :=
  match s.stagedAt area off len with
  | some (k, g, c) =>
    let lo := 8 * (off - c.1)
    let old := c.2.2 / 2 ^ lo % 2 ^ (8 * len)
    let d := (c.1, c.2.1, c.2.2 - old * 2 ^ lo + val % 2 ^ (8 * len) * 2 ^ lo)
    s.modCore k fun v => { v with staging := some { g with chunks := g.chunks.map fun x => if x = c then d else x } }
  | none => match s.areaPut area owner off len val with
    | .ok t => t
    | .error _ => s

/-- A row of a saved context changed: it counts as saved dirty (R147), and a row of h1 sets H1 (R190). -/
def State.ctxPutRow (s : State) (area owner row : Nat) (v : BitVec 2048) : State :=
  let s := s.ctxPut area owner (24704 + 256 * row) 256 v.toNat
  let dirty := BitVec.ofNat 128 (s.ctxGet area owner 80 16) ||| (1 <<< row)
  let s := s.ctxPut area owner 80 16 dirty.toNat
  if row < 64 then s else s.ctxPut area owner 2 1 (s.ctxGet area owner 2 1 ||| 2)

/-- The row of a saved context. -/
def State.ctxRow (s : State) (area owner row : Nat) : BitVec 2048 :=
  BitVec.ofNat 2048 (s.ctxGet area owner (24704 + 256 * row) 256)

/-- The PROGRESS of a drain that has stored every byte below an offset: the last multiple of 4,096 that it passed (R190,
R192). -/
def drainMark (off : Nat) : Nat := (off - 128) / 4096 * 4096

/-- A chunk of a staging slot stored block by block: the error that it met, with what is left of it. -/
def State.drainBlocks (s : State) (area owner : Nat) (c : Nat × Nat × Nat) :
    List Nat → State × Option (Nat × Nat × Nat × Nat)
  | [] => (s, none)
  | b :: bs =>
    let lo := max c.1 (64 * b)
    let hi := min (c.1 + c.2.1) (64 * b + 64)
    match s.areaPut area owner lo (hi - lo) (c.2.2 / 2 ^ (8 * (lo - c.1)) % 2 ^ (8 * (hi - lo))) with
    | .ok t => t.drainBlocks area owner c bs
    | .error e => (s, some (e, lo, c.1 + c.2.1 - lo, c.2.2 / 2 ^ (8 * (lo - c.1))))

/-- The chunks of a staging slot stored in order: the error that stopped it, and what is left from the word that failed on. -/
def State.drainChunks (s : State) (area owner : Nat) :
    List (Nat × Nat × Nat) → State × Option (Nat × List (Nat × Nat × Nat))
  | [] => (s, none)
  | c :: rest =>
    match s.drainBlocks area owner c (areaBlocks c.1 c.2.1) with
    | (t, none) => t.drainChunks area owner rest
    | (t, some (e, d)) => (t, some (e, d :: rest))

/-- A GSAVE store of the context of an area has still to perform (R313). -/
def State.gsavePending (s : State) (area owner : Nat) : Bool :=
  s.flights.any fun f => f.area == area && f.owner == owner && match f.land with
    | .saved _ => true
    | _ => false

/-- A bundle committed in absence finds its context as the device has changed it meanwhile (R147, R184, R263). -/
def State.modAbsent (s : State) (area : Nat) (f : Hart → Hart) : State :=
  { s with absent := s.absent.map fun a => if a.area = area then { a with hart := f a.hart } else a }

/-- A bundle committed in absence has still to resolve for an area (R184). -/
def State.absentAt (s : State) (area : Nat) : Bool := s.absent.any fun a => a.area == area

/-- A drain that has met an error at an offset of its area keeps its slot and PROGRESS, and the die's management log records
it (R192). -/
def State.drainStops (s : State) (k : Nat) (g : Staging) (cause off mark : Nat) (rest : List (Nat × Nat × Nat)) : State :=
  let u := s.modCore k fun c => { c with staging := some { g with held := true, progress := mark, chunks := rest } }
  let v := match u.areaPut g.area g.owner 4 4 mark with
    | .ok w => w
    | .error _ => u
  v.modDie (dieOf k) fun d => d.log (logEntry s k (g.area + off) cause 0 5 6 g.owner 0)

/-- A core's outgoing staging slot drains (R192): header with SIP 1, body, then SIP 0 and the full PROGRESS once the
context's GSAVE stores have performed (R313) and its absent bundle has resolved (R184). -/
def State.drain (s : State) (k : Nat) : State :=
  match (s.core k).staging with
  | none => s
  | some g =>
    if g.held then s else
    match s.drainChunks g.area g.owner g.chunks with
    | (t, none) =>
      if t.gsavePending g.area g.owner || t.absentAt g.area then
        t.modCore k fun c => { c with staging := some { g with chunks := [] } }
      else match t.areaPut g.area g.owner 0 8 (1 + 57472 * 2 ^ 32 + (t.areaGet g.area g.owner 2 2 / 2 * 2) * 2 ^ 16) with
      | .ok u => u.modCore k fun c => { c with staging := none }
      | .error e => t.drainStops k g e 0 57344 []
    | (t, some (e, rest)) =>
      let off := (rest.head?.map (·.1)).getD 0
      t.drainStops k g e off (drainMark off) rest

/-- A queue as a save records it: the prefetches under way belong to the context (R147), and the fault of the next strip is
met again; the scales are read again (R186). -/
def Queue.settle (q : Queue) : Queue :=
  if q.bind = 2 then { q with entries := [], part := none } else
  { q with entries := q.entries ++ q.inbound, inbound := [], scales := [], fault := none, taken := false, part := none }

/-- The pushed entries of a queue as the stream unit keeps them when its binding ends (R186, R272); the access under way is
that of the first. -/
def Hart.leftOf (h : Hart) (q : Queue) : List LeftEntry :=
  let one (part : Option Flight) (e : QWord) : LeftEntry :=
    { owner := h.sup.owner.toNat, area := h.sup.saveptr.toNat, dirbase := h.sup.dirbase.toNat, lvl := h.level,
      viol := h.sup.violmode, queue := { q with entries := [], inbound := [], part := part }, word := e }
  if q.bind = 2 then
    match q.entries with
    | [] => []
    | e :: rest => one q.part e :: rest.map (one none)
  else []

/-- The pushed entries of every queue of a hart. -/
def Hart.leftovers (h : Hart) : List LeftEntry := h.queues.flatMap fun p => h.leftOf p.2

/-- TM of a TSHP (R141, R300). -/
def tshpM (t : BitVec 32) : Nat := t.toNat % 256
/-- TN. -/
def tshpN (t : BitVec 32) : Nat := t.toNat / 256 % 256
/-- TK. -/
def tshpK (t : BitVec 32) : Nat := t.toNat / 65536

/-- The accumulator kinds of R302, with the K positions per step; none for a pair of formats that OPA does not accept. -/
def opaKind (fa fb : Nat) : Option (Bool × Nat) :=
  let fp8 (f : Nat) : Bool := f == 0x04 || f == 0x05 || f == 0x11 || f == 0x12
  if fa = 0x02 ∧ fb = 0x02 then some (true, 1)
  else if fa = 0x03 ∧ fb = 0x03 then some (true, 1)
  else if fp8 fa && fp8 fb then some (true, 2)
  else if fa = 0x0A ∧ fb = 0x0A then some (false, 2)
  else if fa = 0x0E ∧ fb = 0x0A then some (false, 4)
  else if (fa = 0x10 ∧ fb = 0x02) ∨ (fa = 0x02 ∧ fb = 0x10) then some (true, 1)
  else none

/-- Steps of an OPA (R303). -/
def OpaRun.steps (o : OpaRun) : Nat :=
  let r := ((opaKind o.fa o.fb).map (·.2)).getD 1
  (tshpK o.tshp + r - 1) / r

/-- Long operations stopped for a save: an OPA with steps left and a vector operation with rows left become partial,
clears and moves finish, and busy bits clear (R177, R315). -/
def Hart.stopLong (h : Hart) : Hart :=
  let left := h.opas.filter fun o => decide (o.step < o.steps)
  { h with
    opas := []
    long := none
    popa := match left with
      | o :: _ => some { o with heldA := [], heldB := [] }
      | [] => h.popa
    pvec := match h.long with
      | some l => some { l with src := {}, needs := [] }
      | none => h.pvec
    clearing := 0
    queues := h.queues.map fun p => (p.1, p.2.settle)
    grid := { h.grid with busy := 0 } }

/-- The cells of saved rows with an uncorrectable error are logged (R52). -/
def State.logBadCells (s : State) (k : Nat) : State :=
  let h := s.hart k
  (h.grid.bad.filter fun c => (savedRows h).contains c.1).foldl (fun t c =>
    t.modCore k fun v => v.log (logEntry s k c.1 0x10 0 4 6 h.sup.owner.toNat 0)) s

/-- The grid of a hart as it is read and saved: bad cells hold FILL (R52, R67). -/
def Hart.readGrid (h : Hart) : Grid := h.grid.filled h.ctl.fill

/-- What the device keeps of a context beside its save area (R69, R109, R276). -/
def Hart.keep (h : Hart) : Kept :=
  { owner := h.sup.owner.toNat, area := h.sup.saveptr.toNat, interval := h.interval,
    binds := h.queues.map fun p => (p.1, p.2.pc, p.2.slot, p.2.cluster) }

/-- Two records are of one context. -/
def Kept.of (x : Kept) (owner area : Nat) : Bool := x.owner == owner && x.area == area

/-- The context of a core saved at SAVEPTR as a switch-out does (R183 to R191), with PC as given, and a cell
with an uncorrectable error as FILL (R52); none while the outgoing slot still holds an earlier save that cannot drain. -/
def State.saveContext (s : State) (k : Nat) (pc : Word) : Option State :=
  let t := s.drain k
  match (t.core k).staging with
  | some _ => none
  | none =>
    let t := t.logBadCells k
    let h := { (t.hart k).stopLong with pc := pc }
    let area := h.sup.saveptr.toNat
    let g : Staging := { area := area, owner := h.sup.owner.toNat,
                         chunks := imageOf (h.modGrid fun _ => h.readGrid) (t.core k).alloc.toNat (t.atime k) t.count }
    some { t.modCore k fun c =>
      { c with staging := some g, left := c.left ++ c.hart.leftovers,
               hart := { h with grid := { h.grid with dirty := 0 } } } with
      kept := h.keep :: t.kept.filter fun x => !x.of h.sup.owner.toNat area }

/-- The causes that save the context (R180). -/
def savingCause (c : Nat) : Bool := c == 0x10 || c == 0x11 || c == 0x13 || c == 0x14

/-- A trap to take: cause, TRAPADDR, the slot that raised it, RESUMABLE, TRAPPC, and whether the context is saved. -/
structure Trap where
  cause : Nat
  addr : Word
  slot : Option Nat
  resumable : Bool := false
  pc : Word
  save : Bool
  /-- SAVED stands as it is: a restore whose checks fail leaves the supervisor's state alone (R193). -/
  kept : Bool := false
  deriving DecidableEq, Repr

/-- The level's code in PREV (R179). -/
def levelCode : Level → Nat
  | .u => 0
  | .s => 1
  | .f => 2

/-- The level of a code in PREV. -/
def levelOf (n : Nat) : Level := if n = 0 then .u else if n = 1 then .s else .f

/-- The trap words written, the level S, the handler state 1, and the pc at TRAPVEC (R178, R179, R370). -/
def Hart.enter (h : Hart) (t : Trap) (saved : Bool) : Hart :=
  { h with
    sup := { h.sup with
      trapcause := BitVec.ofNat 11 (t.cause % 256 + 256 * levelCode h.level + 1024 * saved.toNat)
      trappc := t.pc
      trapaddr := t.addr
      trapslot := match t.slot with
        | some i => BitVec.ofNat 4 (i % 4 + 4 + 8 * t.resumable.toNat)
        | none => 0 }
    level := .s
    handler := true
    pc := h.sup.trapvec
    wait := .none
    ewait := .none
    passed := none }

/-- TAKING A TRAP on a core (R178): the context is saved first where the cause saves; while its staging slot cannot
take the save, the trap waits. -/
def State.trap (s : State) (k : Nat) (t : Trap) : State :=
  if t.save then
    match s.saveContext k t.pc with
    | none => s
    | some u => u.modHart k (·.enter t true)
  else s.modHart k (·.enter t t.kept)

/-- A precise trap of the bundle at a core's pc. -/
def State.trapBundle (s : State) (k cause : Nat) (addr : Word) (slot : Option Nat) : State :=
  s.trap k { cause := cause, addr := addr, slot := slot, pc := (s.hart k).pc, save := savingCause cause }

/-- The busy bits of a half (R134). -/
def halfBits (h : Nat) : BitVec 128 := BitVec.ofNat 128 ((2 ^ 64 - 1) * 2 ^ (64 * h))

/-- A stream whose fault has raised its trap resumes from the strip that met it (R19, R91). -/
def Queue.resume (q : Queue) : Queue := if q.taken then { q with fault := none, taken := false } else q

/-- RETURNING FROM A TRAP with SAVED = 0 (R182): the level becomes PREV, the handler state 0, and the bundle at
TRAPPC is next. A partial operation recorded under R175 resumes. -/
def Hart.leave (h : Hart) : Hart :=
  { h with
    level := levelOf (h.sup.trapcause.toNat / 256 % 4)
    handler := false
    pc := h.sup.trappc
    queues := h.queues.map fun p => (p.1, p.2.resume)
    grid := match h.popa with
      | some o => { h.grid with busy := h.grid.busy ||| halfBits o.half }
      | none => h.grid
    opas := match h.popa with
      | some o => h.opas ++ [o]
      | none => h.opas
    popa := none
    long := match h.pvec with
      | some l => some { l with src := h.grid }
      | none => h.long
    pvec := none }

/-- SAVED of the trap words. -/
def Hart.saved (h : Hart) : Bool := h.sup.trapcause.getLsbD 10

end Sys2Proof.Machine
end

