-- ==== Sys2Proof/Machine/Flags.lean ====
section
/-! DEFINITION. The sticky flags of R77 and the stochastic generator of R76, which every rounding carries along. -/

namespace Sys2Proof.Machine

/-- OF: a result overflowed (R77). -/
def flagOF : BitVec 6 := 1
/-- UF: inexact and subnormal or zero. -/
def flagUF : BitVec 6 := 2
/-- NX: inexact. -/
def flagNX : BitVec 6 := 4
/-- NV: invalid. -/
def flagNV : BitVec 6 := 8
/-- DZ: division of a finite nonzero value by zero. -/
def flagDZ : BitVec 6 := 16
/-- SAT: an integer or TERN2 result was clamped. -/
def flagSAT : BitVec 6 := 32

/-- What a computation carries: the generator's state, the flags raised, and format errors met (R76, R77, R79). -/
structure FState where
  seed : Word
  flags : BitVec 6 := 0
  fmtErrs : Nat := 0
  deriving DecidableEq, Repr

/-- Flags raised. -/
def FState.raise (f : FState) (b : BitVec 6) : FState := { f with flags := f.flags ||| b }

/-- Flags raised on a condition. -/
def FState.raiseIf (f : FState) (c : Bool) (b : BitVec 6) : FState := if c then f.raise b else f

/-- One step of the generator (R76). -/
def srNext (seed : Word) : Word :=
  let s := if seed = 0 then 0x9E3779B97F4A7C15 else seed
  let s := s ^^^ (s <<< 13)
  let s := s ^^^ (s >>> 7)
  s ^^^ (s <<< 17)

/-- srDraw of R76: the number drawn and the state after it. -/
def FState.draw (f : FState) : Nat × FState :=
  let s := srNext f.seed
  (s.toNat / 2 ^ 48, { f with seed := s })

/-- FFLAGS with flags ORed in (R77, R240). -/
def Ctl.orFlags (c : Ctl) (f : BitVec 6) : Ctl := { c with fflags := c.fflags ||| f }

/-- The effective rounding code: code 0 names FRM (R75). -/
def Ctl.rounding (c : Ctl) (code : Nat) : Nat := if code = 0 then c.frm.toNat else code

end Sys2Proof.Machine
end

