-- ==== Sys2Proof/Machine/Number.lean ====
section
/-! DEFINITION. Numbers: the formats of R71 to R73, exact values, rounding (R75, R76), conversion to integers (R78),
TERN2 (R79), and the exact sums, products, quotients and roots that instructions round once. -/

namespace Sys2Proof.Machine

/-- An exact value: a NaN, signalling or quiet; an infinity; or a dyadic number, m × 2^e with a sign, zero keeping its
sign. -/
inductive Num where
  | nan (sig : Bool)
  | inf (neg : Bool)
  | fin (neg : Bool) (m : Nat) (e : Int)
  deriving DecidableEq, Repr

/-- A binary floating-point format (R72). -/
structure Fp where
  ebits : Nat
  mbits : Nat
  bias : Nat
  e4m3 : Bool := false
  deriving DecidableEq, Repr

/-- FP32. -/
def fp32 : Fp := ⟨8, 23, 127, false⟩
/-- BF16. -/
def bf16 : Fp := ⟨8, 7, 127, false⟩
/-- FP16. -/
def fp16 : Fp := ⟨5, 10, 15, false⟩
/-- E4M3. -/
def e4m3 : Fp := ⟨4, 3, 7, true⟩
/-- E5M2. -/
def e5m2 : Fp := ⟨5, 2, 15, false⟩

/-- The floating-point format of a code (R71). -/
def fpOf (f : Nat) : Option Fp :=
  match f with
  | 0x01 => some fp32
  | 0x02 => some bf16
  | 0x03 => some fp16
  | 0x04 => some e4m3
  | 0x05 => some e5m2
  | 0x11 => some e4m3
  | 0x12 => some e5m2
  | _ => none

/-- The all-ones exponent. -/
def Fp.emax (p : Fp) : Nat := 2 ^ p.ebits - 1

/-- The magnitude bits of the largest finite value (R72). -/
def Fp.maxBits (p : Fp) : Nat := if p.e4m3 then 0x7E else p.emax * 2 ^ p.mbits - 1

/-- The canonical NaN (R72). -/
def Fp.nanBits (p : Fp) : Nat := if p.e4m3 then 0x7F else p.emax * 2 ^ p.mbits + 2 ^ (p.mbits - 1)

/-- The sign bit's weight. -/
def Fp.sign (p : Fp) : Nat := 2 ^ (p.ebits + p.mbits)

/-- The value that an encoding stands for (R72). -/
def Fp.decode (p : Fp) (b : Nat) : Num :=
  let neg := b.testBit (p.ebits + p.mbits)
  let e := b / 2 ^ p.mbits % 2 ^ p.ebits
  let f := b % 2 ^ p.mbits
  if p.e4m3 && e == p.emax && f == 7 then .nan false
  else if !p.e4m3 && e == p.emax then if f = 0 then .inf neg else .nan (!f.testBit (p.mbits - 1))
  else if e = 0 then .fin neg f (1 - (p.bias : Int) - p.mbits)
  else .fin neg (2 ^ p.mbits + f) ((e : Int) - p.bias - p.mbits)

/-- An exact integer. -/
def Num.ofInt (i : Int) : Num := .fin (decide (i < 0)) i.natAbs 0

/-- The remainder `rem` of a shift by `d` rounds the magnitude up under a mode, `odd` being the kept last bit (R75). -/
def roundsUp (rm : Nat) (neg odd : Bool) (rem d draw : Nat) : Bool :=
  let half := 2 ^ d
  if rem = 0 then false else
  match rm with
  | 1 => decide (half < 2 * rem) || (2 * rem == half && odd)
  | 2 => decide (half ≤ 2 * rem)
  | 3 => false
  | 4 => neg
  | 5 => !neg
  | _ => decide (2 ^ d * 65536 ≤ rem * 65536 + draw * 2 ^ d)

/-- A magnitude m × 2^e cut at the quantum 2^q: the multiple kept, the remainder and the bits cut off. -/
def cut (m : Nat) (e q : Int) : Nat × Nat × Nat :=
  if q ≤ e then (m * 2 ^ (e - q).toNat, 0, 0)
  else
    let d := (q - e).toNat
    (m / 2 ^ d, m % 2 ^ d, d)

/-- The overflowing result (R75): the NaN of E4M3 follows the sign in the directed modes too, where the rule says only NaN (log 97). -/
def Fp.overflow (p : Fp) (rm : Nat) (sat neg : Bool) : Nat :=
  let top := if p.e4m3 then p.nanBits else p.emax * 2 ^ p.mbits
  let mag :=
    if sat then p.maxBits
    else match rm with
      | 3 => p.maxBits
      | 4 => if neg then top else p.maxBits
      | 5 => if neg then p.maxBits else top
      | _ => top
  mag + neg.toNat * p.sign

/-- The magnitude bits of n × 2^q with n at most 2^(mbits + 1) and q the quantum; above the largest finite value the
encoding runs on past the format (R72). -/
def Fp.pack (p : Fp) (n : Nat) (q : Int) : Nat :=
  let qmin : Int := 1 - (p.bias : Int) - p.mbits
  n + (q - qmin).toNat * 2 ^ p.mbits

/-- roundTo of R75 for an exact value, with the flags of R77 and the draws of R76. -/
def Fp.round (p : Fp) (rm : Nat) (sat : Bool) (x : Num) (s : FState) : Nat × FState :=
  match x with
  | .nan sig => (p.nanBits, s.raiseIf sig flagNV)
  | .inf neg =>
    if p.e4m3 then (if sat then p.maxBits + neg.toNat * p.sign else p.nanBits, s.raise flagNV)
    else (p.emax * 2 ^ p.mbits + neg.toNat * p.sign, s)
  | .fin neg m e =>
    if m = 0 then (neg.toNat * p.sign, s) else
    let q : Int := max ((m.log2 : Int) + e) (1 - (p.bias : Int)) - p.mbits
    let (n, rem, d) := cut m e q
    let over0 := decide (p.maxBits < p.pack n q)
    let (draw, s') := if rm = 6 ∧ (rem ≠ 0 ∨ over0) then s.draw else (0, s)
    let n' := if roundsUp rm neg (n % 2 == 1) rem d draw then n + 1 else n
    let b := p.pack n' q
    if p.maxBits < b then (p.overflow rm sat neg, s'.raise (flagOF ||| flagNX))
    else
      (b + neg.toNat * p.sign,
       (s'.raiseIf (rem != 0) flagNX).raiseIf (rem != 0 && decide (b < 2 ^ p.mbits)) flagUF)

/-- The value of an E8M0 code (R73). -/
def e8m0Decode (b : Nat) : Num := if b = 0xFF then .nan false else .fin false 1 ((b : Int) - 127)

/-- Conversion to E8M0 (R73). -/
def e8m0Encode (x : Num) (s : FState) : Nat × FState :=
  match x with
  | .nan sig => (0xFF, s.raiseIf sig flagNV)
  | .inf _ => (0xFF, s.raise flagNV)
  | .fin _ m e =>
    if m = 0 then (0, s) else
    let k : Int := (m.log2 : Int) + e + 127
    let c := (min (max k 0) 254).toNat
    (c, s.raiseIf (k != c || m != 2 ^ m.log2) flagNX)

/-- roundToInteger of R78 for a finite value; whether it was inexact. -/
def roundInt (rm : Nat) (neg : Bool) (m : Nat) (e : Int) (s : FState) : Int × Bool × FState :=
  let (n, rem, d) := cut m e 0
  let (draw, s') := if rm = 6 ∧ rem ≠ 0 then s.draw else (0, s)
  let n' := if roundsUp rm neg (n % 2 == 1) rem d draw then n + 1 else n
  (if neg then -(n' : Int) else n', rem != 0, s')

/-- An integer format: width and sign (R78). -/
structure IntFmt where
  w : Nat
  signed : Bool
  deriving DecidableEq, Repr

/-- The integer format of a code (R71). -/
def intOf (f : Nat) : Option IntFmt :=
  match f with
  | 0x08 => some ⟨32, true⟩
  | 0x09 => some ⟨16, true⟩
  | 0x0A => some ⟨8, true⟩
  | 0x0B => some ⟨8, false⟩
  | 0x0C => some ⟨4, true⟩
  | 0x0D => some ⟨2, true⟩
  | _ => none

/-- The least value, with the symmetric range of QFMT [9] (R78). -/
def IntFmt.lo (t : IntFmt) (sym : Bool) : Int :=
  if t.signed then (if sym then -(2 ^ (t.w - 1) - 1) else -(2 ^ (t.w - 1))) else 0
/-- The greatest value. -/
def IntFmt.hi (t : IntFmt) : Int := if t.signed then 2 ^ (t.w - 1) - 1 else 2 ^ t.w - 1

/-- The bits of an integer in a width. -/
def intBits (w : Nat) (i : Int) : Nat := (i % (2 ^ w : Int)).toNat

/-- The integer that bits stand for (R78). -/
def IntFmt.decode (t : IntFmt) (b : Nat) : Int :=
  let v := b % 2 ^ t.w
  if t.signed && decide (2 ^ (t.w - 1) ≤ v) then (v : Int) - 2 ^ t.w else v

/-- The clamp or wrap of R78 for an integer that has been rounded. -/
def IntFmt.narrow (t : IntFmt) (sat sym : Bool) (n : Int) (s : FState) : Nat × FState :=
  if n < t.lo sym ∨ t.hi < n then
    let s := s.raise flagOF
    if sat then (intBits t.w (max (t.lo sym) (min n t.hi)), s.raise flagSAT) else (intBits t.w n, s)
  else (intBits t.w n, s)

/-- toInt of R78. `nx` says whether an inexact rounding raises NX. -/
def IntFmt.convert (t : IntFmt) (rm : Nat) (sat sym nx : Bool) (x : Num) (s : FState) : Nat × FState :=
  match x with
  | .nan _ => (0, s.raise flagNV)
  | .inf neg =>
    let s := s.raise (flagOF ||| flagNV)
    if sat then (intBits t.w (if neg then t.lo sym else t.hi), s.raise flagSAT) else (0, s)
  | .fin neg m e =>
    let (n, inexact, s) := roundInt rm neg m e s
    t.narrow sat sym n (s.raiseIf (nx && inexact) flagNX)

/-- The integer of a TERN2 code; 0b10 decodes as 0 and is a format error (R79). -/
def ternDecode (b : Nat) (s : FState) : Int × FState :=
  match b % 4 with
  | 1 => (1, s)
  | 3 => (-1, s)
  | 2 => (0, { s with fmtErrs := s.fmtErrs + 1 })
  | _ => (0, s)

/-- The TERN2 code of an integer: values beyond ±1 saturate, whatever the saturate control (R79). -/
def ternEncode (n : Int) (s : FState) : Nat × FState :=
  if n > 1 then (1, s.raise (flagOF ||| flagSAT))
  else if n < -1 then (3, s.raise (flagOF ||| flagSAT))
  else (if n = 1 then 1 else if n = -1 then 3 else 0, s)

/-- Conversion of an exact value to TERN2 (R79, R78). -/
def ternConvert (rm : Nat) (x : Num) (s : FState) : Nat × FState :=
  match x with
  | .nan _ => (0, s.raise flagNV)
  | .inf neg => (if neg then 3 else 1, s.raise (flagOF ||| flagNV ||| flagSAT))
  | .fin neg m e =>
    let (n, inexact, s) := roundInt rm neg m e s
    ternEncode n (s.raiseIf inexact flagNX)

/-- The exact value of an element of a plain format (R72, R73, R78, R79). -/
def fmtDecode (f b : Nat) (s : FState) : Num × FState :=
  match fpOf f with
  | some p => (p.decode b, s)
  | none =>
    match intOf f with
    | some t => (Num.ofInt (t.decode b), s)
    | none =>
      if f = 0x06 then (e8m0Decode (b % 256), s)
      else if f = 0x0E then
        let (i, s) := ternDecode b s
        (Num.ofInt i, s)
      else (.fin false 0 0, s)

/-- An exact value rounded once into a plain format (R75, R73, R78, R79). -/
def fmtEncode (f rm : Nat) (sat sym : Bool) (x : Num) (s : FState) : Nat × FState :=
  match fpOf f with
  | some p => p.round rm sat x s
  | none =>
    match intOf f with
    | some t => t.convert rm sat sym true x s
    | none =>
      if f = 0x06 then e8m0Encode x s
      else if f = 0x0E then ternConvert rm x s
      else (0, s)

/-- The sign of a value. -/
def Num.neg : Num → Bool
  | .nan _ => false
  | .inf n => n
  | .fin n _ _ => n

/-- A value is a NaN. -/
def Num.isNan : Num → Bool
  | .nan _ => true
  | _ => false

/-- A value is a signalling NaN. -/
def Num.isSig : Num → Bool
  | .nan s => s
  | _ => false

/-- The value with its sign turned. -/
def Num.negate : Num → Num
  | .nan s => .nan s
  | .inf n => .inf !n
  | .fin n m e => .fin (!n) m e

/-- The value with its sign cleared. -/
def Num.abs : Num → Num
  | .nan s => .nan s
  | .inf _ => .inf false
  | .fin _ m e => .fin false m e

/-- The exact product; 0 × ∞ is invalid (R74). -/
def Num.mul (a b : Num) (s : FState) : Num × FState :=
  match a, b with
  | .nan p, .nan q => (.nan false, s.raiseIf (p || q) flagNV)
  | .nan p, _ => (.nan false, s.raiseIf p flagNV)
  | _, .nan q => (.nan false, s.raiseIf q flagNV)
  | .inf p, .inf q => (.inf (p != q), s)
  | .inf p, .fin q m _ => if m = 0 then (.nan false, s.raise flagNV) else (.inf (p != q), s)
  | .fin p m _, .inf q => if m = 0 then (.nan false, s.raise flagNV) else (.inf (p != q), s)
  | .fin p m e, .fin q n k => (.fin (p != q) (m * n) (e + k), s)

/-- A finite value as a multiple of 2^e. -/
def Num.scaled (e : Int) : Num → Int
  | .fin n m k => (if n then -1 else 1) * ((m : Int) * 2 ^ (k - e).toNat)
  | _ => 0

/-- The least exponent of some terms. -/
def minExp : List Num → Int
  | [] => 0
  | [.fin _ _ e] => e
  | .fin _ _ e :: ts => min e (minExp ts)
  | _ :: ts => minExp ts

/-- The exact sum of terms (R74): a NaN, or infinities of both signs, give a NaN; an exact zero is +0, or −0 under RDN,
unless every term is a zero of one sign. Infinities of both signs are invalid beside a NaN too. -/
def sumNums (rm : Nat) (ts : List Num) (s : FState) : Num × FState :=
  let pos := ts.any fun t => t == .inf false
  let neg := ts.any fun t => t == .inf true
  if ts.any Num.isNan then (.nan false, s.raiseIf (ts.any Num.isSig || (pos && neg)) flagNV)
  else
    if pos && neg then (.nan false, s.raise flagNV)
    else if pos then (.inf false, s)
    else if neg then (.inf true, s)
    else
      let e := minExp ts
      let v := (ts.map (Num.scaled e)).sum
      if v = 0 then
        let zeros := ts.all fun t => match t with
          | .fin _ m _ => m == 0
          | _ => false
        let n := if zeros && ts.all Num.neg then true
          else if zeros && ts.all (fun t => !t.neg) then false else rm == 4
        (.fin n 0 0, s)
      else (.fin (decide (v < 0)) v.natAbs e, s)

/-- The quotient of two magnitudes to at least 80 bits, its last bit set where it is not exact. -/
def quotient (m n : Nat) : Nat × Int :=
  let k := 80 + n.log2
  let q := m * 2 ^ k / n
  let r := m * 2 ^ k % n
  (2 * q + (if r = 0 then 0 else 1), -(k : Int) - 1)

/-- The quotient of two values (R74): 0/0 and ∞/∞ are invalid, and a finite nonzero value over zero sets DZ. -/
def Num.div (a b : Num) (s : FState) : Num × FState :=
  match a, b with
  | .nan p, .nan q => (.nan false, s.raiseIf (p || q) flagNV)
  | .nan p, _ => (.nan false, s.raiseIf p flagNV)
  | _, .nan q => (.nan false, s.raiseIf q flagNV)
  | .inf _, .inf _ => (.nan false, s.raise flagNV)
  | .inf p, .fin q _ _ => (.inf (p != q), s)
  | .fin p _ _, .inf q => (.fin (p != q) 0 0, s)
  | .fin p m e, .fin q n k =>
    if n = 0 then
      if m = 0 then (.nan false, s.raise flagNV) else (.inf (p != q), s.raise flagDZ)
    else if m = 0 then (.fin (p != q) 0 0, s)
    else
      let (v, x) := quotient m n
      (.fin (p != q) v (e - k + x), s)

/-- The integer square root, found bit by bit from 2^n down. -/
def isqrtFrom (m : Nat) : Nat → Nat → Nat
  | 0, r => r
  | n + 1, r =>
    let t := r + 2 ^ n
    isqrtFrom m n (if t * t ≤ m then t else r)

/-- The integer square root. -/
def isqrt (m : Nat) : Nat := isqrtFrom m (m.log2 / 2 + 1) 0

/-- The square root of a value (R74): of a negative number it is invalid; the last bit is set where it is not exact. -/
def Num.sqrt (a : Num) (s : FState) : Num × FState :=
  match a with
  | .nan p => (.nan false, s.raiseIf p flagNV)
  | .inf true => (.nan false, s.raise flagNV)
  | .inf false => (.inf false, s)
  | .fin n m e =>
    if m = 0 then (.fin n 0 0, s)
    else if n then (.nan false, s.raise flagNV)
    else
      let m := if e % 2 = 0 then m else 2 * m
      let e := if e % 2 = 0 then e else e - 1
      let v := m * 2 ^ 160
      let r := isqrt v
      (.fin false (2 * r + (if r * r = v then 0 else 1)) (e / 2 - 81), s)

/-- One value is less than another; no NaN is compared (R74). -/
def Num.lt (a b : Num) : Bool :=
  match a, b with
  | .nan _, _ => false
  | _, .nan _ => false
  | .inf p, .inf q => p && !q
  | .inf p, .fin _ _ _ => p
  | .fin _ _ _, .inf q => !q
  | .fin p m e, .fin q n k =>
    let x := min e k
    decide (Num.scaled x (.fin p m e) < Num.scaled x (.fin q n k))

/-- Two values are equal; zeros of both signs are. -/
def Num.eq (a b : Num) : Bool := !a.isNan && !b.isNan && !a.lt b && !b.lt a

/-- A binary operation of FP32 encodings, rounded once. -/
def fp32Op (f : Num → Num → FState → Num × FState) (rm a b : Nat) (s : FState) : Nat × FState :=
  let (x, s) := f (fp32.decode a) (fp32.decode b) s
  fp32.round rm false x s

/-- The exact sum of two values. -/
def Num.add (rm : Nat) (a b : Num) (s : FState) : Num × FState := sumNums rm [a, b] s

/-- The exact a × b + c (R74): two terms. A NaN product from 0 × ∞ is invalid whatever c is. -/
def Num.fma (rm : Nat) (a b c : Num) (s : FState) : Num × FState :=
  let (p, s) := a.mul b s
  sumNums rm [p, c] s

/-- An element of a block-scaled format (R82): its value times its E8M0 scale. A signalling element stays signalling
(R74). -/
def scaledDecode (f code scale : Nat) : Num :=
  match fpOf f with
  | none => .nan false
  | some p => match p.decode code with
    | .nan sig => .nan sig
    | x => if scale = 0xFF then .nan false else (x.mul (e8m0Decode scale) { seed := 0 }).1

/-- The BF16 that an INT4G element expands to (R83). -/
def int4gExpand (q word : Nat) : Nat :=
  let t : IntFmt := ⟨4, true⟩
  let d := t.decode q - t.decode (word / 2 ^ 16 % 16)
  let x := (Num.mul (Num.ofInt d) (bf16.decode (word % 65536)) { seed := 0 }).1
  (bf16.round 1 false x { seed := 0 }).1

end Sys2Proof.Machine
end

