-- ==== Sys2Proof/Machine/Translate.lean ====
section
/-! DEFINITION. Range descriptors (R14 to R18), the retriever's search (R20 to R22), the range cache (R23 to R25), the
translation directory's fills (R37), and the outcome of translation for one 64-byte block (R27, R28, R19, R12). -/

namespace Sys2Proof.Machine

/-- The physical interval and HOME obey R13 and R15: one region, the home of the region's kind, and OWNER 0 for the
scratch aperture and for MMIO. -/
def homeOk (expanders : List Nat) (pa size home owner : Nat) : Bool :=
  decide (pa + size ≤ regionEnd pa) &&
  match regionOf expanders pa with
  | .hbm d => home == d
  | .second => true
  | .unfitted => true
  | .host => true
  | .peer _ => true
  | .aperture k _ => home == dieOf k && dieOf ((pa + size - 1 - 0xF000000000000) / 0x80000) == home && owner == 0
  | .mmio _ => home == 0 && owner == 0
  | .unassigned => false

/-- A block length that the format allows (R82, R83). -/
def blenOk (f n : Nat) : Bool :=
  if f = 0x11 then n == 32 else if f = 0x12 ∨ f = 0x10 then n != 0 else true

/-- A valid descriptor breaks a constraint of R14, R13, R15 or R17; its companion is judged apart. -/
def Desc.malformed (d : Desc) (expanders : List Nat) : Bool :=
  decide (d.base.toNat % 64 ≠ 0) || decide (d.base.toNat ≥ 2 ^ 57) || decide (d.lim.toNat % 64 ≠ 0) ||
  decide (d.lim.toNat ≥ 2 ^ 57) || decide (d.lim.toNat ≤ d.base.toNat) || decide (d.phys.toNat % 64 ≠ 0) ||
  decide (d.phys.toNat ≥ 2 ^ 56) || d.bit 19 || decide (d.attr.toNat ≥ 2 ^ 60) ||
  !homeOk expanders d.pa d.size d.home d.owner || !blenOk d.fmt d.blen

/-- An entry of a directory read by one probe (R22). -/
def State.dirEntry (s : State) (dirbase i : Nat) : Except Nat Desc :=
  let a := dirbase + 64 + 32 * i
  match s.physRead (a / 64 * 64) 0 0 with
  | .error e => .error e
  | .ok b => .ok ⟨blkWord b (a % 64), blkWord b (a % 64 + 8), blkWord b (a % 64 + 16), blkWord b (a % 64 + 24)⟩

/-- How a search ends (R22): an entry, with its companion or the BASE of its parent; a translation failure with its cause, or a data error of a probe. -/
inductive Found where
  | ent (desc : Desc) (idx : Nat) (comp : Option Desc) (parent : Option Word)
  | fail (cause : Nat)
  | data (cause : Nat)
  deriving DecidableEq, Repr

/-- The bounded binary search of R22, with `lo ≤ i < hi` the indices left. -/
def State.probe (s : State) (dirbase va : Nat) : Nat → Nat → Nat → Option (Nat × Desc) → Except Nat (Option (Nat × Desc))
  | 0, _, _, cand => .ok cand
  | n + 1, lo, hi, cand =>
    if lo < hi then
      let mid := (lo + hi - 1) / 2
      match s.dirEntry dirbase mid with
      | .error e => .error e
      | .ok d =>
        if d.base.toNat ≤ va then s.probe dirbase va n (mid + 1) hi (some (mid, d))
        else s.probe dirbase va n lo mid cand
    else .ok cand

/-- The entry found is checked, with its companion or its parent where R17 asks for one (R22). One that is itself a
companion is checked for its parent alone, whatever its own FMT says: R22 allows one further probe (log 66). -/
def State.judge (s : State) (dirbase count : Nat) (i : Nat) (d : Desc) : Found :=
  if d.malformed s.link.expanders then .fail 0x03
  else if d.bit 6 then
    if i = 0 then .fail 0x03 else
    match s.dirEntry dirbase (i - 1) with
    | .error e => .data e
    | .ok p => if p.bit 7 && fmtScaled p.fmt && p.owner == d.owner then .ent d i none (some p.base) else .fail 0x03
  else if fmtScaled d.fmt then
    if i + 1 < count then
      match s.dirEntry dirbase (i + 1) with
      | .error e => .data e
      | .ok c => if c.bit 7 && c.bit 6 && c.owner == d.owner then .ent d i (some c) none else .fail 0x03
    else .fail 0x03
  else .ent d i none none

/-- The header of a directory: COUNT, or the cause that it is malformed (R20). -/
def State.dirCount (s : State) (dirbase : Nat) : Except (Nat × Bool) Nat :=
  match s.physRead (dirbase / 64 * 64) 0 0 with
  | .error e => .error (e, true)
  | .ok b =>
    let w := (blkWord b 0).toNat
    if w % 2 ^ 32 > 4095 ∨ w / 2 ^ 32 % 65536 ≠ 1 ∨ w / 2 ^ 48 ≠ 0 ∨ b.toNat / 2 ^ 128 ≠ 0 then .error (0x07, false)
    else .ok (w % 2 ^ 32)

/-- The retriever's search (R22). -/
def State.search (s : State) (dirbase va : Nat) : Found :=
  match s.dirCount dirbase with
  | .error (e, true) => .data e
  | .error (e, false) => .fail e
  | .ok n =>
    match s.probe dirbase va 12 0 n none with
    | .error e => .data e
    | .ok none => .fail 0x02
    | .ok (some (i, d)) =>
      if d.bit 7 && decide (va < d.lim.toNat) then s.judge dirbase n i d else .fail 0x02

/-- An entry of a range cache that an access hits (R23). -/
def cacheHit (c : List RcEnt) (owner va : Nat) : Option RcEnt := c.find? fun e => e.owner == owner && e.desc.has va

/-- The entry that a search returned and the entries that it fills: itself, and a companion of its own that is not
malformed (R23, R24). -/
def foundEntries (expanders : List Nat) (owner i : Nat) (d : Desc) (c : Option Desc) (p : Option Word) :
    RcEnt × List RcEnt :=
  let e : RcEnt := { desc := d, owner := owner, idx := i, parent := p }
  let own (c : Desc) : RcEnt := { desc := c, owner := owner, idx := i + 1, parent := some d.base }
  (e, e :: ((c.filter fun c => !c.malformed expanders).map own).toList)

/-- The translation of an address: from the cache, or by a search (R23, R24); with the entries that it uses. An entry
that a search finds is held under the OWNER of the hart (log 65). -/
def State.lookup (s : State) (cache : List RcEnt) (owner dirbase va : Nat) : Except (Nat × Bool) (RcEnt × List RcEnt) :=
  match cacheHit cache owner va with
  | some e => .ok (e, [e])
  | none =>
    match s.search dirbase va with
    | .ent d i c p => .ok (foundEntries s.link.expanders owner i d c p)
    | .fail e => .error (e, false)
    | .data e => .error (e, true)

/-- The companion of an entry (R17): the cache's, or the one that a search finds; none where there is none any more. A search
that meets an error gives its cause (R22). -/
def State.companion (s : State) (cache : List RcEnt) (dirbase : Nat) (e : RcEnt) : Except Nat (Option Desc) :=
  if !fmtScaled e.desc.fmt || e.desc.bit 6 then .ok none else
  match cache.find? fun c => c.owner == e.owner && c.parent == some e.desc.base with
  | some c => .ok (some c.desc)
  | none => match s.search dirbase e.desc.base.toNat with
    | .ent _ _ c _ => .ok c
    | .data e => .error e
    | .fail _ => .ok none

/-- Two entries hold the same descriptor for the same owner (R23). -/
def RcEnt.same (a b : RcEnt) : Bool := a.owner == b.owner && a.desc == b.desc

/-- An entry made the most recently used of a cache of `n` entries; one that is new takes the place of the least
recently used (R25). -/
def cacheUse (n : Nat) (c : List RcEnt) (e : RcEnt) : List RcEnt := (e :: c.filter fun o => !o.same e).take n

/-- A fill reaches the owner's slice of the translation directory, which sets the holder's bit (R37): the record becomes
the most recently filled; an invalidation under way visits the holder too (R34). -/
def Ranges.record (r : Ranges) (f : TdRec) : Ranges :=
  let visit (v : Inval) : Inval :=
    if v.owner = f.owner ∧ f.lo < v.hi ∧ v.lo < f.hi then
      { v with holders := v.holders ||| f.holders, spans := v.spans ++ [(f.lo, f.hi)] }
    else v
  let r : Ranges := { r with invals := r.invals.map visit }
  match r.records.find? (fun t => t.owner == f.owner && t.lo == f.lo && t.hi == f.hi) with
  | some t => { r with records := r.records.filter (· != t) ++ [{ t with holders := t.holders ||| f.holders }] }
  | none => { r with records := r.records ++ [f] }

/-- A fill recorded; a full slice of 16,384 records first drops its least recently filled one, whose interval is
invalidated at its holders (R37). -/
def State.recordFill (s : State) (f : TdRec) : State :=
  let mine := s.ranges.records.filter fun t => t.owner % 16 == f.owner % 16
  let known := mine.any fun t => t.owner == f.owner && t.lo == f.lo && t.hi == f.hi
  match mine with
  | old :: _ =>
    if known || decide (mine.length < 16384) then s.modRanges (·.record f)
    else
      { s.modRanges fun r =>
          { (r.record f) with
            records := (r.record f).records.filter (· != old)
            invals := (r.record f).invals ++
              [{ id := s.uid, owner := old.owner, lo := old.lo, hi := old.hi, holders := old.holders,
                 what := .slice (old.owner % 16) }] } with
        uid := s.uid + 1 }
  | [] => s.modRanges (·.record f)

/-- A fill of a holder's cache, sent to the translation directory (R37): at once, or as a message on its way; it waits
for a slice that has been moved and not yet served. -/
def State.sendFill (s : State) (e : RcEnt) (holder : Nat) : State :=
  let f : TdRec := { owner := e.owner, lo := e.desc.base.toNat, hi := e.desc.lim.toNat, holders := 1 <<< holder }
  if s.delay || s.ranges.waiting.contains (e.owner % 16) then s.modRanges fun r => { r with fills := r.fills ++ [f] }
  else s.recordFill f

/-- An entry used by a core: a hit becomes the most recently used, a new one is filled (R23, R24, R25, R37). -/
def State.useEntry (s : State) (k : Nat) (e : RcEnt) : State :=
  let t := s.modCore k fun c => { c with cache := cacheUse 32 c.cache e }
  if (s.core k).cache.any (·.same e) then t else t.sendFill e (dieOf k)

/-- An entry used by a lighter (R23, R24, R25, R37). -/
def State.useLighter (s : State) (d l : Nat) (e : RcEnt) : State :=
  let t := s.modDie d fun v => { v with lighters := v.lighters.mod l fun c => cacheUse 16 c e }
  if ((s.die d).lighters.get l).any (·.same e) then t else t.sendFill e d

/-- Every entry that a bundle used. -/
def State.useEntries (s : State) (k : Nat) (es : List RcEnt) : State := es.foldl (fun t e => t.useEntry k e) s

/-- What an access needs (R27). -/
structure Need where
  r : Bool := false
  w : Bool := false
  x : Bool := false
  deriving DecidableEq, Repr

/-- A load. -/
def Need.load : Need := { r := true }
/-- A store. -/
def Need.store : Need := { w := true }
/-- An atomic. -/
def Need.atomic : Need := { r := true, w := true }
/-- An instruction fetch. -/
def Need.fetch : Need := { x := true }

/-- In whose name an access is made: the core whose caches serve it, the owner, its directory, level, VIOLMODE and
the context's save area. -/
structure Who where
  core : Nat
  owner : Nat
  dirbase : Nat
  lvl : Level
  viol : Bool
  area : Nat
  /-- The lighter of the core's die that makes the access, with its own range cache (R23). -/
  lighter : Option Nat := none
  deriving DecidableEq, Repr

/-- The range cache that serves an access (R23). -/
def State.cacheOf (s : State) (w : Who) : List RcEnt :=
  match w.lighter with
  | none => (s.core w.core).cache
  | some l => (s.die (dieOf w.core)).lighters.get l

/-- The hart of a core as the one in whose name its accesses are made. -/
def State.who (s : State) (k : Nat) : Who :=
  let h := s.hart k
  { core := k, owner := h.sup.owner.toNat, dirbase := h.sup.dirbase.toNat, lvl := h.level, viol := h.sup.violmode,
    area := h.sup.saveptr.toNat }

/-- What translation makes of one 64-byte block (R27, R28, R19), with the entries that it used: a block that lacks a
permission has found its range (R24, R25). -/
inductive Xl where
  | ok (loc : Loc) (strict : Bool) (used : List RcEnt)
  | fail (cause : Nat) (strict : Bool) (used : List RcEnt)
  | data (cause : Nat) (strict : Bool)
  | nonresident
  /-- A segment of a fenced die's range, not yet placed, or an incoming chunk (R63, R40). -/
  | held
  /-- A scratch segment whose MOVING bit is set (R56). -/
  | moving
  deriving DecidableEq, Repr

/-- Scratch of a core at a block's offset (R48, R50, R56). -/
def State.xlScratch (s : State) (w : Who) (k off : Nat) : Xl :=
  let c := s.core k
  if !c.segValid (off / 4096) then .fail 0x08 w.viol []
  else if c.segMoving (off / 4096) then .moving
  else .ok (.scr k off) w.viol []

/-- A physical address as the place of a block, under a key where the controllers encrypt (R13, R65). -/
def State.physLoc (s : State) (core pa : Nat) (key : Option (Nat × Nat)) : Loc :=
  match s.region pa with
  | .hbm d => .mem pa d key
  | .second => .mem pa (dieOf core) key
  | .host => .mem pa (dieOf core) none
  | .peer e => if s.peerSet e then .mem pa (dieOf core) none else .bad 0x13
  | .aperture k off => .scr k off
  | _ => .bad 0x13

/-- The core whose scratchpad holds the data of a context: its own while it runs or is resident there, or another where it is
resident (R194, R195); none while they lie in its swap region. -/
def State.scratchOf (s : State) (w : Who) : Option Nat :=
  let c := s.core w.core
  let lies (c : Core) : Bool := (c.resident.map (·.area)) == some w.area
  if w.area = 0 || (c.active && c.hart.sup.saveptr.toNat == w.area) || lies c then some w.core
  else (s.cores.find? fun p => lies p.2).map (·.1)

/-- A block of the context's own scratchpad, or of its swap region while another context is resident (R147, R194); nothing for
what goes on after its context has ended (log 96). -/
def State.xlLocal (s : State) (w : Who) (off : Nat) : Xl :=
  if 2 ^ 64 ≤ w.area then .fail 0x06 w.viol [] else
  match s.scratchOf w with
  | some k => s.xlScratch w k off
  | none => .ok (s.physLoc w.core (w.area + 0x100000 + off) none) w.viol []

/-- The permission that a range lacks, in the order of R27, as its cause. -/
def lacking (d : Desc) (n : Need) : Option Nat :=
  if n.r && !d.bit 0 then some 0x04
  else if n.w && !d.bit 1 then some 0x05
  else if n.x && !d.bit 2 then some 0x00
  else none

/-- A block of device virtual space (R27, R28, R19, R64). -/
def State.xlVirtual (s : State) (w : Who) (cache : List RcEnt) (n : Need) (va : Nat) : Xl :=
  if va ≥ 2 ^ 57 then .fail 0x01 w.viol [] else
  match s.lookup cache w.owner w.dirbase va with
  | .error (c, false) => .fail c w.viol []
  | .error (c, true) => .data c w.viol
  | .ok (e, used) =>
    let d := e.desc
    let strict := w.viol || d.strict
    let pa := d.pa + (va - d.base.toNat)
    let priv := match s.region pa with
      | .aperture _ _ => true
      | .mmio _ => true
      | _ => false
    if priv && w.lvl == .u then .fail 0x09 strict used else
    match lacking d n with
    | some c => .fail c strict used
    | none =>
      if !d.resident va then .nonresident
      else if s.ranges.lost.any (fun l => l.1 == w.owner && decide (l.2.1 ≤ va) && decide (va < l.2.2)) && !(s.die d.home).inService then
        .ok (.bad 0x12) strict used
      else if s.ranges.placing.any (fun p => p.owner == w.owner && p.desc.has va) || s.incoming pa then .held
      else
        let cred := if d.owner = 0 then none else some (d.owner, va / 64)
        match s.region pa with
        | .unfitted => .ok (.bad 0x13) strict used
        | .unassigned => .ok (.bad 0x13) strict used
        | .peer p => .ok (if s.peerSet p then .mem pa d.home cred else .bad 0x13) strict used
        | .aperture k off =>
          if !(s.core k).segValid (off / 4096) then .fail 0x08 strict used
          else if (s.core k).segMoving (off / 4096) then .moving
          else .ok (.scr k off) strict used
        | _ => .ok (.mem pa d.home cred) strict used

/-- A block of any space (R10, R11, R12). -/
def State.xl (s : State) (w : Who) (cache : List RcEnt) (space : Nat) (n : Need) (a : Nat) : Xl :=
  if space = 0 then s.xlVirtual w cache n a
  else if space = 1 then if a < 0x80000 then s.xlLocal w a else .fail 0x01 w.viol []
  else if a < 0x1800000 then
    let k := clusterOf w.core * 48 + a / 0x80000
    let tag := ((s.core k).resident.map (·.owner)).getD 0
    if k ≠ w.core ∧ tag ≠ w.owner then .fail 0x06 w.viol [] else s.xlScratch w k (a % 0x80000)
  else .fail 0x01 w.viol []

/-- A block that an access asks for: its address, the lowest byte touched, for a store the value, and a mask of the bits
touched. -/
structure Req where
  blk : Nat
  lo : Nat
  val : BitVec 512 := 0
  mask : BitVec 512 := 0
  deriving DecidableEq, Repr

/-- What translation makes of all the blocks of an access. -/
structure Xls where
  pieces : List Piece := []
  fails : List Fail := []
  nonres : Option Nat := none
  held : Option Nat := none
  moving : Bool := false
  used : List RcEnt := []
  deriving DecidableEq, Repr

/-- The lower of two addresses, where there are any. -/
def lower (a : Option Nat) (b : Nat) : Option Nat :=
  match a with
  | none => some b
  | some x => some (min x b)

/-- Entries added to those that an access has used. -/
def Xls.uses (x : Xls) (es : List RcEnt) : Xls := { x with used := x.used ++ es.filter fun e => !x.used.contains e }

/-- Blocks whose translation needed a search that met an error are data errors of the access (R22); no range is known, so that
only VIOLMODE makes them strict. -/
def Xls.lose (x : Xls) (viol : Bool) (bad : List (Nat × Nat)) : Xls :=
  let lost (b : Nat) : Bool := bad.any (·.1 == b)
  { x with
    pieces := x.pieces.filter fun p => !lost p.blk
    fails := x.fails ++ (x.pieces.filter fun p => lost p.blk).map fun p =>
      ⟨p.lo, ((bad.find? (·.1 == p.blk)).map (·.2)).getD 0x10, true, viol⟩ }

/-- The blocks of an access translated one by one, later ones hitting what earlier ones found (R27). -/
def State.xlAll (s : State) (w : Who) (cache : List RcEnt) (space : Nat) (n : Need) : List Req → Xls → Xls
  | [], x => x
  | q :: qs, x =>
    let y := match s.xl w (x.used ++ cache) space n q.blk with
      | .ok loc st u => { x.uses u with pieces := x.pieces ++ [⟨q.blk, q.lo, loc, st, q.val, q.mask⟩] }
      | .fail c st u => { x.uses u with fails := x.fails ++ [⟨q.lo, c, false, st⟩] }
      | .data c st => { x with fails := x.fails ++ [⟨q.lo, c, true, st⟩] }
      | .nonresident => { x with nonres := lower x.nonres q.lo }
      | .held => { x with held := lower x.held q.lo }
      | .moving => { x with moving := true }
    s.xlAll w cache space n qs y

/-- The blocks of the contiguous bytes [ea, ea + n), addresses taken mod 2^64 (R247). -/
def spanReqs (ea n : Nat) : List Req :=
  if n = 0 then [] else
  (List.range ((ea + n - 1) / 64 - ea / 64 + 1)).map fun i =>
    let b := (ea / 64 + i) * 64
    { blk := b % 2 ^ 64, lo := max ea b % 2 ^ 64, mask := byteMask (max ea b - b) (min (ea + n) (b + 64) - b) }

/-- The blocks of a store of the low `n` bytes of a number at [ea, ea + n). -/
def storeReqs (ea n v : Nat) : List Req :=
  if n = 0 then [] else
  (List.range ((ea + n - 1) / 64 - ea / 64 + 1)).map fun i =>
    let b := (ea / 64 + i) * 64
    let lo := max ea b
    let hi := min (ea + n) (b + 64)
    { blk := b % 2 ^ 64, lo := lo % 2 ^ 64,
      val := BitVec.ofNat 512 (v / 2 ^ (8 * (lo - ea)) % 2 ^ (8 * (hi - lo)) * 2 ^ (8 * (lo - b))),
      mask := byteMask (lo - b) (hi - b) }

/-- The value of `n` bytes at [ea, ea + n) in the blocks read; none when a block is missing. -/
def gather (got : Tbl (BitVec 512)) (ea n : Nat) : Option Nat :=
  (spanReqs ea n).foldr (fun q acc =>
    match acc, got.find? (fun p => p.1 == q.blk) with
    | some v, some (_, b) =>
      let lo := q.lo - q.blk
      let hi := min 64 (lo + (if q.lo = ea % 2 ^ 64 then n else 64))
      let part := b.toNat / 2 ^ (8 * lo) % 2 ^ (8 * (hi - lo))
      some (part + v * 2 ^ (8 * (hi - lo)))
    | _, _ => none) (some 0) |>.map (· % 2 ^ (8 * n))

/-- The lowest failure of a list, if any (R28). -/
def lowestFail (fs : List Fail) : Option Fail :=
  fs.foldl (fun m f => match m with
    | none => some f
    | some g => if f.addr < g.addr then some f else some g) none

end Sys2Proof.Machine
end

