-- ==== Sys2Proof/Machine/Sched.lean ====
section
/-! DEFINITION. Slices and slice queues: handles (R149), predecessor counts and finishing (R151, R152), ranking (R153,
R154), ending an instance (R295, R369, R170), orphaned barriers (R167), and moving an entry (R195). -/

namespace Sys2Proof.Machine

/-- The handle of a slot (R149). -/
def handleOf (die slot seq : Nat) : Word := BitVec.ofNat 64 (slot + die * 2 ^ 12 + seq % 2 ^ 32 * 2 ^ 16)

/-- The handle of the slice in a slot of a die's table: it keeps the one with which it was posted when a fence moves its slot
(R149, R170, log 84). -/
def Slot.handle (t : Slot) (d i : Nat) : Word :=
  match t.home with
  | some p => handleOf p.1 p.2 t.seq
  | none => handleOf d i t.seq

/-- A field of a slice record (R148). -/
def Slot.field (t : Slot) (w lo len : Nat) : Nat := recField t.rcd w lo len
/-- CLASS. -/
def Slot.cls (t : Slot) : Nat := t.field 3 32 8
/-- REISSUE. -/
def Slot.reissue (t : Slot) : Bool := t.field 3 40 1 == 1
/-- INDEXED. -/
def Slot.indexed (t : Slot) : Bool := t.field 3 41 1 == 1
/-- MINGRID: 0 means one half. -/
def Slot.minGrid (t : Slot) : Nat := max 1 (t.field 3 48 8)
/-- GANGW. -/
def Slot.width (t : Slot) : Nat := t.field 4 0 32
/-- ALLOC of an instance: segments of 4 KiB (R50). -/
def Slot.alloc (t : Slot) : Nat := (t.field 4 32 32 + 3) / 4
/-- OWNER. -/
def Slot.owner (t : Slot) : Nat := t.field 7 0 12
/-- DIES; 0 allows every die. -/
def Slot.dies (t : Slot) : Nat := t.field 7 16 16

/-- A die mask allows a die (R148). -/
def dieAllowed (mask d : Nat) : Bool := mask == 0 || mask.testBit d

/-- The slot that another die's table holds for a handle since a fence (R170, log 84). -/
def State.movedSlot (s : State) (h : Word) : Option (Nat × Nat × Slot) :=
  s.dies.findSome? fun p => (p.2.slots.find? fun q => q.2.live && q.2.home.isSome && q.2.handle p.1 q.1 == h).map fun q =>
    (p.1, q.1, q.2)

/-- The slot that a handle names, unless the handle is stale (R149). -/
def State.slotOf (s : State) (h : Word) : Option (Nat × Nat × Slot) :=
  let n := h.toNat
  let d := n / 2 ^ 12 % 16
  let t := (s.die d).slots.get (n % 2 ^ 12)
  if n / 2 ^ 48 = 0 ∧ t.live ∧ t.home = none ∧ t.seq % 2 ^ 32 = n / 2 ^ 16 then some (d, n % 2 ^ 12, t) else s.movedSlot h

/-- A decrement of a predecessor count; a stale handle or a count of 0 only raises the stale-decrement count of the
die that the handle names (R151). -/
def State.decrement (s : State) (h : Word) : State :=
  match s.slotOf h with
  | some (d, i, t) =>
    if t.preds = 0 then s.modDie d fun v => { v with stale := v.stale + 1 }
    else s.modSlot d i fun t =>
      { t with preds := t.preds - 1, since := if t.preds = 1 then (s.die d).atime else t.since }
  | none => s.modDie (h.toNat / 2 ^ 12 % 16) fun v => { v with stale := v.stale + 1 }

/-- The slot freed once its slice is finished or failed and no instance runs (R152). -/
def State.freeSlot (s : State) (d i : Nat) : State :=
  let t := (s.die d).slots.get i
  if (t.finished || t.failed) && t.running == 0 then s.modSlot d i fun t => { t with live := false } else s

/-- The slice finishes: each listed successor is decremented once, in list order (R151). -/
def State.finishSlice (s : State) (d i : Nat) : State :=
  let t := (s.die d).slots.get i
  ((t.succs.foldl State.decrement s).modSlot d i fun t => { t with finished := true }).freeSlot d i

/-- The entry of a core's queue that holds the core. -/
def Core.running (c : Core) : Option QEntry := c.queue.find? (·.st == .running)

/-- A core's queue entry changed where a test holds. -/
def Core.modEntry (c : Core) (p : QEntry → Bool) (f : QEntry → QEntry) : Core :=
  { c with queue := c.queue.map fun e => if p e then f e else e }

/-- The core of a save area's entry, with the entry (R195, R369). -/
def State.entryOf (s : State) (area : Nat) : Option (Nat × QEntry) :=
  s.cores.findSome? fun p => (p.2.queue.find? fun e => e.area == area && e.st != .ended).map fun e => (p.1, e)

/-- A save area freed (R158). -/
def Harbour.free (h : Harbour) (owner area : Nat) : Harbour :=
  { h with pools := h.pools.mod owner fun l => l.filter (· != area) }

/-- A context stops being resident on a core: no resident context, owner tag 0 (R194). -/
def Core.unreside (c : Core) (area : Nat) : Core :=
  match c.resident with
  | some r => if r.area = area then { c with resident := none } else c
  | none => c

/-- The core left without a hart. -/
def Core.idle (c : Core) : Core :=
  { c with active := false, hart := {}, wfi := false, evict := false, preempt := false,
           left := c.left ++ c.hart.leftovers }

/-- An access of a context that has ended: it goes on (R147), in the name of no area, and what it brings is dropped (log 96). -/
def Flight.disown (owner area : Nat) (f : Flight) : Flight :=
  if f.owner = owner ∧ f.area = area then { f with area := 2 ^ 64 + area, land := .drop } else f

/-- Such an access has nothing left to do. -/
def Flight.spent (f : Flight) : Bool :=
  decide (2 ^ 64 ≤ f.area) && f.pieces.isEmpty && f.late.isEmpty && !f.awaits

/-- What a context that has ended leaves under way goes on without it (R147, log 96): its area may be another's at once, so no
record of the device names it any more. -/
def State.disown (s : State) (owner area : Nat) : State :=
  let mine (o a : Nat) : Bool := o == owner && a == area
  { s with
    flights := (s.flights.map (·.disown owner area)).filter (!·.spent)
    dies := s.dies.map fun p => (p.1, { p.2 with held := p.2.held.map (·.disown owner area) })
    cores := s.cores.map fun p => (p.1, { p.2 with
      copies := p.2.copies.map fun x => (x.1, if mine x.2.owner x.2.area then { x.2 with area := 2 ^ 64 + area } else x.2)
      left := p.2.left.map fun l => if mine l.owner l.area then { l with area := 2 ^ 64 + area } else l })
    absent := s.absent.filter fun a => !mine a.hart.sup.owner.toNat a.area
    kept := s.kept.filter fun x => !x.of owner area }

/-- An entry and its context removed from a core (R295, R369): its area is freed, it stops being resident there, and
the core becomes idle if it was running outside a handler that has saved it. -/
def State.dropEntry (s : State) (k : Nat) (e : QEntry) : State :=
  let t := (s.modHarbour (·.free e.owner e.area)).modCore k fun c =>
    let c := { c with queue := c.queue.filter (fun x => x.area != e.area) }.unreside e.area
    if e.st == .running && !(c.hart.handler && c.hart.saved) then c.idle else c
  t.disown e.owner e.area

/-- An instance leaves its slice: the counts fall, and a gang member is gone from its barriers (R151, R167). -/
def State.leaveSlice (s : State) (e : QEntry) (finished : Bool) : State :=
  match s.slotOf e.handle with
  | none => s
  | some (d, i, t) =>
    let s := s.modSlot d i fun t =>
      { t with running := t.running - 1, left := if finished then t.left - 1 else t.left,
               gone := if e.indexed then t.gone else t.gone ++ [e.idx] }
    if finished && t.left == 1 then s.finishSlice d i else s.freeSlot d i

/-- A member that can never arrive at the current episode, the lowest-indexed (R167). -/
def Slot.orphan (t : Slot) : Option Nat :=
  (t.gone.filter fun g => !t.arrived.any (·.1 == g)).foldl (fun a g => some (min (a.getD g) g)) none

/-- The TRAPADDR of an orphaned episode (R167). -/
def orphanAddr (g : Nat) : Word := BitVec.ofNat 64 (g % 65536 + 2 ^ 63)

/-- A member blocked in GBAR at an orphaned episode takes the deadlock trap to S at once, its bundle abandoned (R167, R162); none
while its core's staging slot cannot take the save. -/
def State.orphanTrap (s : State) (k g : Nat) : State :=
  let t := s.drain k
  match (t.core k).staging with
  | some _ => t
  | none => (t.trap k { cause := 0x13, addr := orphanAddr g, slot := none, pc := (t.hart k).pc, save := true }).modCore k
      fun c => c.modEntry (·.st == .running) fun e => { e with blk := { e.blk with kind := 0, obj := 0 } }

/-- The members of a slice that a hart holds blocked in GBAR (R163). -/
def Core.atBarrier (c : Core) (h : Word) : Bool :=
  c.active && !c.hart.handler && match c.running with
    | some e => e.handle == h && e.blk.kind == 4
    | none => false

/-- A slice fails (R170, R369): the members that wait at its barrier for one that has gone trap (R167), its remaining instances
end, its successors are never decremented by it, and its handle enters the fence report. -/
def State.failSlice (s : State) (h : Word) : State :=
  match s.slotOf h with
  | none => s
  | some (d, i, t) =>
    let s := s.modSlot d i fun t => { t with failed := true }
    let s : State := match t.orphan with
      | some g => s.cores.foldl (fun (s : State) p => if p.2.atBarrier h then s.orphanTrap p.1 g else s) s
      | none => s
    let s := s.cores.foldl (fun s p =>
      p.2.queue.foldl (fun s e => if e.handle == h then (s.dropEntry p.1 e).leaveSlice e false else s) s) s
    (s.modHarbour fun b => { b with failed := b.failed ++ [h] }).freeSlot d i

/-- The ranking of R153 as a key to compare place by place; the lower key ranks higher. -/
def rankKey (turn : Option (Word × Nat)) (e : QEntry) : List Nat :=
  [if turn == some (e.handle, e.idx) then 0 else 1, e.cls, if e.cls = 1 then e.deadline.toNat else 0, e.seq, e.idx,
   e.yielded.toNat]

/-- One key comes before another. -/
def keyLt : List Nat → List Nat → Bool
  | a :: as, b :: bs => decide (a < b) || (a == b && keyLt as bs)
  | _, _ => false

/-- An entry that can run now: fresh, or switched out with its cause cleared (R153, R154). -/
def QEntry.ready (e : QEntry) : Bool := e.st == .fresh || e.st == .out

/-- The highest-ranked of some entries. -/
def topEntry (turn : Option (Word × Nat)) : List QEntry → Option QEntry
  | [] => none
  | e :: es =>
    match topEntry turn es with
    | none => some e
    | some f => if keyLt (rankKey turn f) (rankKey turn e) then some f else some e

/-- The highest-ranked ready entry of a core. -/
def Core.next (c : Core) : Option QEntry := topEntry c.turn (c.queue.filter (·.ready))

/-- The pre-emption event is raised where a ready entry outranks the running hart; for a switched-out entry only once
its context has been staged (R154, R183). -/
def Core.rerank (c : Core) : Core :=
  match c.running, c.next with
  | some r, some e =>
    if keyLt (rankKey c.turn e) (rankKey c.turn r) && (e.st == .fresh || e.staged) then { c with preempt := true } else c
  | _, _ => c

/-- A block on a queue: its KIND together with the queue. -/
def queueKind (kind i : Nat) : Nat := kind + 16 * i

/-- A blocked-state record set by a block's cause; a block that stands already keeps its EPISODE (R163). -/
def Core.block (c : Core) (kind : Nat) (obj : Word) : Core :=
  c.modEntry (·.st == .running) fun e =>
    if e.blk.kind = kind % 16 ∧ e.blk.obj = obj then e
    else { e with blk := { kind := kind % 16, obj := obj, episode := (e.blk.episode + 1) % 2 ^ 48, queue := kind / 16 } }

/-- The block ends: KIND 0 and OBJ 0, with EPISODE kept (R163). -/
def Core.unblock (c : Core) : Core :=
  c.modEntry (fun e => e.st == .running && e.blk.kind != 0) fun e => { e with blk := { e.blk with kind := 0, obj := 0 } }

/-- The instance that holds a core ends by JDONE (R295, R151). -/
def State.endRunning (s : State) (k : Nat) : State :=
  match (s.core k).running with
  | some e => (s.dropEntry k e).leaveSlice e true
  | none => s.modCore k Core.idle

/-- The instance that holds a core has executed JDONE, and what it releases has still to perform (R117): its hart is gone, and its
slice finishes with the last of it. -/
def State.parkRunning (s : State) (k : Nat) : State :=
  s.modCore k fun c =>
    let c := match c.running with
      | some e => c.unreside e.area
      | none => c
    (c.modEntry (·.st == .running) fun e => { e with st := .ended, blk := {} }).idle

/-- The relaunch register's move of an entry (R195): the status written. -/
def State.relaunch (s : State) (k area : Nat) : State × Nat :=
  match s.entryOf area with
  | none => (s, 2)
  | some (j, e) =>
    let h := s.hart j
    if !(s.core k).inService || !(s.die (dieOf k)).inService || !dieAllowed e.dies (dieOf k) then (s, 3)
    else if e.st == .running && !(h.handler && h.saved) then (s, 4)
    else if j ≠ k ∧ (s.core k).queue.length ≥ 64 then (s, 1)
    else
      let t := s.modCore j fun c => { c with queue := c.queue.filter (fun x => x.area != area) }
      let t := if j = k then t else t.modCore j (·.unreside area)
      (t.modCore k fun c =>
        { c with queue := c.queue ++ [{ e with st := if e.st == .waiting then .waiting else .out, relaunched := true,
                                               staged := false }] }, 0)

/-- The end register's ending of an instance (R369): the status written. -/
def State.endInstance (s : State) (area : Nat) : State × Nat :=
  match s.entryOf area with
  | none => (s, 2)
  | some (j, e) =>
    let h := s.hart j
    if e.st == .running && !(h.handler && h.saved) then (s, 4)
    else (((s.dropEntry j e).leaveSlice e false).failSlice e.handle, 0)

/-- An entry of the owner table (R158). -/
structure OwnEnt where
  dirbase : Word
  trapvec : Word
  savebase : Nat
  savecount : Nat
  violmode : Bool
  vlcap : Nat
  deriving DecidableEq, Repr

/-- The owner table's entry of an owner; none where it is not set up (R158). -/
def State.ownEnt (s : State) (owner : Nat) : Option OwnEnt :=
  match s.physRead (s.link.owntab.toNat + 64 * owner) 0 0 with
  | .error _ => none
  | .ok b =>
    let w3 := (blkWord b 24).toNat
    let cnt := w3 % 2 ^ 13
    let vl := w3 / 2 ^ 16 % 2 ^ 12
    let sb := (blkWord b 16).toNat
    if w3 / 2 ^ 63 = 1 ∧ w3 / 2 ^ 14 % 4 = 0 ∧ w3 / 2 ^ 28 % 2 ^ 35 = 0 ∧ b.toNat / 2 ^ 256 = 0 ∧
       (blkWord b 0).toNat % 64 = 0 ∧ (blkWord b 8).toNat % 16 = 0 ∧ sb % 4096 = 0 ∧ 0 < cnt ∧ cnt ≤ 4096 ∧
       vlcapOk vl then
      some { dirbase := blkWord b 0, trapvec := blkWord b 8, savebase := sb, savecount := cnt,
             violmode := w3.testBit 13, vlcap := vl }
    else none

/-- The lowest free save area of an owner's pool (R158). -/
def State.freeArea (s : State) (owner : Nat) (o : OwnEnt) : Option Nat :=
  (List.range o.savecount).findSome? fun k =>
    let a := o.savebase + k * 0x180000
    if (s.harbour.pools.get owner).contains a then none else some a

/-- A core can take an instance of a slice (R157). -/
def State.eligible (s : State) (t : Slot) (k : Nat) : Bool :=
  let c := s.core k
  dieAllowed t.dies (dieOf k) && (s.die (dieOf k)).inService && c.inService && decide (t.minGrid ≤ c.capgrid) &&
  decide (4 * t.alloc ≤ c.capscr) && decide (c.queue.length < 64)

/-- Entries of a core that rank at or above a new one (R157). -/
def Core.above (c : Core) (e : QEntry) : Nat :=
  (c.queue.filter fun x => !keyLt (rankKey c.turn e) (rankKey c.turn x)).length

/-- The new entry of an instance of a slice (R158). -/
def newEntry (t : Slot) (h : Word) (idx area : Nat) (o : OwnEnt) : QEntry :=
  { handle := h, idx := idx, area := area, owner := t.owner, cls := t.cls, deadline := t.rcd.getD 2 0, seq := t.seq,
    width := t.width, gangid := t.gangid, entry := t.rcd.getD 0 0, arg := t.rcd.getD 1 0,
    budget := if t.field 3 0 32 = 0 then 0xFFFFFFFF else BitVec.ofNat 64 (t.field 3 0 32),
    counted := t.field 3 0 32 != 0, indexed := t.indexed, minGrid := t.minGrid, dies := t.dies, alloc := t.alloc,
    dirbase := o.dirbase, trapvec := o.trapvec, violmode := o.violmode, vlcap := o.vlcap }

/-- An entry joins a core's queue and its area is taken (R158). -/
def State.enqueue (s : State) (k : Nat) (e : QEntry) : State :=
  (s.modHarbour fun h => { h with pools := h.pools.mod e.owner (e.area :: ·) }).modCore k
    fun c => { c with queue := c.queue ++ [e] }.rerank

/-- The eligible core with the fewest entries ranking at or above the new one, the lower id on a tie (R157). -/
def State.bestCore (s : State) (t : Slot) (e : QEntry) (ids : List Nat) : Option Nat :=
  (ids.foldl (fun (b : Option (Nat × Nat)) k =>
    if s.eligible t k then
      let n := (s.core k).above e
      match b with
      | none => some (n, k)
      | some (m, j) => if n < m then some (n, k) else some (m, j)
    else b) none).map (·.2)

/-- The hart of a fresh instance (R158, R188): identity words, the owner table's words, every other register at its
reset value. -/
def freshHart (e : QEntry) : Hart :=
  { pc := e.entry
    sup := { vlcap := BitVec.ofNat 12 e.vlcap, owner := BitVec.ofNat 12 e.owner, dirbase := e.dirbase,
             trapvec := e.trapvec, saveptr := BitVec.ofNat 64 e.area, violmode := e.violmode }
    ctl := { vl := 0 }
    ident := { deadline := e.deadline, budget := e.budget, counted := e.counted,
               gangid := BitVec.ofNat 64 e.gangid, gangidx := BitVec.ofNat 32 e.idx,
               gangw := BitVec.ofNat 32 e.width, arg := e.arg, handle := e.handle, indexed := e.indexed }
    grid := { dirty := ~~~0 } }

end Sys2Proof.Machine
end

