-- ==== Sys2Proof/Machine/Registers.lean ====
section
/-! DEFINITION. The management registers of the MMIO region (R361, R368), the connection table (R359, R360), the peer
table (R358) and the host windows (R357). -/

namespace Sys2Proof.Machine

/-- An entry of the connection table at reset: the 24 mesh links with 16 wavelengths, active; the direct entries 0
(R359). -/
def connReset (i : Nat) : Word :=
  let mesh (a b : Nat) : Word := BitVec.ofNat 64 (a + b * 16 + 16 * 256 + 2 * 65536 + 2 ^ 18)
  if i < 12 then mesh (4 * (i / 3) + i % 3) (4 * (i / 3) + i % 3 + 1)
  else if i < 24 then
    let j := i - 12
    mesh (4 * (j % 3) + j / 3) (4 * (j % 3 + 1) + j / 3)
  else 0

/-- An entry of the connection table. -/
def Link.entry (l : Link) (i : Nat) : Word := l.conn.getD i (connReset i)
/-- SRC. -/
def connSrc (w : Word) : Nat := w.toNat % 16
/-- DST. -/
def connDst (w : Word) : Nat := w.toNat / 16 % 16
/-- WAVES. -/
def connWaves (w : Word) : Nat := w.toNat / 256 % 128
/-- STATE. -/
def connState (w : Word) : Nat := w.toNat / 65536 % 4
/-- The entry with another STATE. -/
def connSetState (w : Word) (st : Nat) : Word := BitVec.ofNat 64 (w.toNat / 2 ^ 18 * 2 ^ 18 + st * 65536 + w.toNat % 65536)
/-- The entry with other WAVES. -/
def connSetWaves (w : Word) (n : Nat) : Word := BitVec.ofNat 64 (w.toNat / 2 ^ 15 * 2 ^ 15 + n * 256 + w.toNat % 256)

/-- Wavelengths that an entry takes on its dies: those of an active or draining circuit, and a shrinking mesh entry's
until its drain completes (R360). -/
def Link.heldWaves (l : Link) (i : Nat) : Nat :=
  let w := l.entry i
  if connState w ≥ 2 then max (connWaves w) (l.resizing.getD i 0) else 0

/-- Free wavelengths of a die, of 64 (R359, R360). -/
def Link.freeWaves (l : Link) (d : Nat) : Nat :=
  64 - ((List.range 88).map fun i =>
    let w := l.entry i
    if connSrc w = d ∨ connDst w = d then l.heldWaves i else 0).sum

/-- A pair of dies has a direct circuit, requested, active or draining (R359). -/
def Link.paired (l : Link) (a b : Nat) : Bool :=
  (List.range 64).any fun j =>
    let w := l.entry (24 + j)
    connState w != 0 && ((connSrc w == a && connDst w == b) || (connSrc w == b && connDst w == a))

/-- A route between two dies has changed, and is not acknowledged yet in both directions (R360). -/
def Link.rerouting (l : Link) (a b : Nat) : Bool :=
  l.routes.any fun r => (r.1 == a && r.2.1 == b) || (r.1 == b && r.2.1 == a)

/-- The two directions of a route that changes: what is sent at a later tick than this is bound for the new one (R360). -/
def State.newRoutes (s : State) (a b : Nat) : List (Nat × Nat × Nat) :=
  [(a, b, (s.die a).atime.toNat + 1), (b, a, (s.die b).atime.toNat + 1)]

/-- A write of an entry of the connection table (R359): a request, a tear-down or a resize; any other is ignored. -/
def State.connWrite (s : State) (i : Nat) (v : Word) : State :=
  let l := s.link
  let w := l.entry i
  let put (x : Word) : State := s.modLink fun l => { l with conn := l.conn.put i x }
  if i < 24 then
    let n := connWaves v
    if connState w = 2 ∧ v = connSetWaves w n ∧ 2 ≤ n ∧ n ≤ 64 ∧
       (n ≤ connWaves w ∨ (n - connWaves w ≤ l.freeWaves (connSrc w) ∧ n - connWaves w ≤ l.freeWaves (connDst w))) then
      (put v).modLink fun l => if n < connWaves w then { l with resizing := l.resizing.put i (s.link.heldWaves i) } else l
    else s
  else if i < 88 then
    if connState v = 1 ∧ connState w = 0 ∧ connSrc v ≠ connDst v ∧ 1 ≤ connWaves v ∧ connWaves v ≤ 64 ∧
       v.toNat / 2 ^ 18 = 0 ∧ v.toNat / 2 ^ 15 % 2 = 0 ∧ !l.paired (connSrc v) (connDst v) ∧
       (s.die (connSrc v)).inService ∧ (s.die (connDst v)).inService then put v
    else if v = connSetState w 3 ∧ connState w = 2 then
      (put v).modLink fun l => { l with routes := l.routes ++ s.newRoutes (connSrc w) (connDst w) }
    else s
  else s

/-- A field of a host window written; a value that breaks its constraint is ignored (R357). -/
def State.windowWrite (s : State) (i : Nat) (v : Word) : State :=
  let ok :=
    match i % 4 with
    | 0 => decide (v.toNat % 64 = 0) && decide (v.toNat < 2 ^ 57)
    | 1 => decide (v.toNat % 4096 = 0) && decide (v.toNat ≤ 2 ^ 36)
    | 2 => decide (v.toNat < 4096)
    | _ => v == 0
  if ok then s.modLink fun l => { l with windows := l.windows.put i v } else s

/-- The queue-entry records of a core (R361, R163). -/
def entryWord (c : Core) (i r : Nat) : Word :=
  match c.queue[i]? with
  | none => 0
  | some e =>
    match r with
    | 0 => BitVec.ofNat 64 (e.blk.kind + e.blk.episode % 2 ^ 48 * 2 ^ 16)
    | 1 => e.blk.obj
    | 2 => e.handle
    | _ => BitVec.ofNat 64 (e.idx % 2 ^ 32 + 2 ^ 63)

/-- A core's registers, at an 8-byte aligned offset (R361). -/
def Core.reg (c : Core) (r : Nat) : Option Word :=
  if r < 0x100 then
    some (BitVec.ofNat 64 (pack ((List.range 4).map fun j => (16 * j, (c.bankEnt (r / 2 + j)).toNat))))
  else if r = 0x100 ∨ r = 0x108 ∨ r = 0x120 ∨ r = 0x130 then some 0
  else if r = 0x110 then some (c.noticeDrops.setWidth 64)
  else if r = 0x118 then some (c.fmtErrs.setWidth 64)
  else if r = 0x128 then some c.relStatus
  else if r = 0x138 then some c.endStatus
  else if 0x400 ≤ r ∧ r < 0xC00 then some (entryWord c ((r - 0x400) / 32) ((r - 0x400) / 8 % 4))
  else none

/-- A word of a list of words. -/
def nthWord (l : List Word) (i : Nat) : Word := l.getD i 0

/-- A die's registers (R361). -/
def State.dieReg (s : State) (d r : Nat) : Option Word :=
  let v := s.die d
  if r < 0x10000 then
    let t := v.slots.get (r / 16)
    some (if !t.live then 0 else if r / 8 % 2 = 0 then t.handle d (r / 16)
      else BitVec.ofNat 64 (t.preds % 2 ^ 32 + t.left * 2 ^ 32))
  else if r < 0x12000 then
    let e := v.mlog.getD ((r - 0x10000) / 32) {}
    some (match r / 8 % 4 with
      | 0 => e.addr
      | 1 => e.time
      | 2 => e.info
      | _ => e.pc)
  else if r = 0x12000 then some v.mlogOver
  else if r = 0x20000 then some v.misses
  else if r = 0x20008 then some v.stale
  else if 0x20100 ≤ r ∧ r < 0x20280 then
    let j := (r - 0x20100) / 24
    some (match (r - 0x20100) / 8 % 3 with
      | 0 => v.sentFull.get j
      | 1 => v.sentRef.get j
      | _ => v.sentNo.get j)
  else if 0x30000 ≤ r ∧ r < 0x40000 then
    let i := (r - 0x30000) / 8
    let p := s.harbour.report.getD ((i - 1) / 2) (0, 0)
    some (if i = 0 then BitVec.ofNat 64 s.harbour.report.length
      else if i % 2 = 1 then p.1 else BitVec.ofNat 64 p.2)
  else if 0x40000 ≤ r ∧ r < 0x80000 then
    some (nthWord (BitVec.ofNat 64 s.harbour.failed.length :: s.harbour.failed) ((r - 0x40000) / 8))
  else none

/-- The report of the mailbox as words, and otherwise what was written there (R363). -/
def Link.mail (l : Link) (i : Nat) : Word :=
  if l.report.isEmpty then l.mailbox.get i else BitVec.ofNat 64 (ofBytes ((l.report.drop (8 * i)).take 8))

/-- A word of the mailbox written: by the supervisor it may extend one of M4 to M7 (R362, log 18). -/
def Link.mailWrite (l : Link) (host : Bool) (off : Nat) (v : Word) : Link :=
  let l := { l with mailbox := l.mailbox.put (off / 8) v, report := [] }
  match if host then none else Config.mailboxExtend l.mailbox off with
  | some (i, d) => if i < 4 then { l with meas := l.meas.put (4 + i) (extended (l.meas.get (4 + i)) d) } else l
  | none => l

/-- A management register at an 8-byte aligned offset from the MMIO base (R361); an offset without a row reads what
was last written there, 0 at first (log 18). -/
def State.regRead (s : State) (off : Nat) : Word :=
  let r :=
    if off < 0x6000000 then (s.core (off / 0x10000)).reg (off % 0x10000)
    else if 0x10000000 ≤ off ∧ off < 0x11000000 then s.dieReg ((off - 0x10000000) / 0x100000) (off % 0x100000)
    else if 0x20000000 ≤ off ∧ off < 0x200002C0 then some (s.link.entry ((off - 0x20000000) / 8))
    else if 0x20001000 ≤ off ∧ off < 0x20001800 then some (s.link.peers.get ((off - 0x20001000) / 8))
    else if 0x20002000 ≤ off ∧ off < 0x20002200 then some (s.link.windows.get ((off - 0x20002000) / 8))
    else if 0x20003000 ≤ off ∧ off < 0x20004000 then some (Config.telemetry off s.count)
    else if 0x20004000 ≤ off ∧ off < 0x20005000 then some (s.link.mail ((off - 0x20004000) / 8))
    else if off = 0x20005000 then some s.link.owntab
    else if 0x20006000 ≤ off ∧ off < 0x20006400 then some (s.link.msix.get ((off - 0x20006000) / 8))
    else none
  match r with
  | some w => w
  | none => s.link.words.get (off / 8)

/-- A write of a core's registers: eviction (R183), save restart (R192), relaunch (R195), end (R369). -/
def State.coreRegWrite (s : State) (host : Bool) (k r : Nat) (v : Word) : State :=
  if r = 0x100 then
    if v = 1 ∧ (s.core k).active then s.modCore k fun c => { c with evict := true } else s
  else if host then s
  else if r = 0x108 then
    s.modCore k fun c =>
      match c.staging with
      | some g => if g.area = v.toNat then { c with staging := some { g with held := false } } else c
      | none => c
  else if r = 0x120 then
    let (t, st) := s.relaunch k v.toNat
    t.modCore k fun c => { c with relStatus := BitVec.ofNat 64 st }
  else if r = 0x130 then
    let (t, st) := s.endInstance v.toNat
    t.modCore k fun c => { c with endStatus := BitVec.ofNat 64 st }
  else s

/-- A write of a management register by the host (`none`) or at a level (R361): the host writes only the eviction
registers and the mailbox; U writes nothing; a register that only reads ignores it. -/
def State.regWrite (s : State) (lvl : Option Level) (off : Nat) (v : Word) : State :=
  let host := lvl.isNone
  if lvl = some .u then s
  else if off < 0x6000000 then s.coreRegWrite host (off / 0x10000) (off % 0x10000) v
  else if 0x20004000 ≤ off ∧ off < 0x20005000 then s.modLink fun l => l.mailWrite host (off - 0x20004000) v
  else if host then s
  else if 0x10000000 ≤ off ∧ off < 0x11000000 then s
  else if 0x20000000 ≤ off ∧ off < 0x200002C0 then s.connWrite ((off - 0x20000000) / 8) v
  else if 0x20001000 ≤ off ∧ off < 0x20001800 then
    s.modLink fun l => { l with peers := l.peers.put ((off - 0x20001000) / 8) v }
  else if 0x20002000 ≤ off ∧ off < 0x20002200 then s.windowWrite ((off - 0x20002000) / 8) v
  else if 0x20003000 ≤ off ∧ off < 0x20004000 then s
  else if off = 0x20005000 then s.modLink fun l => { l with owntab := v }
  else if 0x20006000 ≤ off ∧ off < 0x20006400 then
    s.modLink fun l => { l with msix := l.msix.put ((off - 0x20006000) / 8) v }
  else s.modLink fun l => { l with words := l.words.put (off / 8) v }

/-- A 64-byte block of registers read (R368). -/
def State.regBlock (s : State) (off : Nat) : BitVec 512 :=
  BitVec.ofNat 512 (pack ((List.range 8).map fun i => (64 * i, (s.regRead (off + 8 * i)).toNat)))

/-- The registers of a 64-byte block stored to: each word that the mask touches is written whole, with what it read
in the bytes left out (R368). -/
def State.regBlockWrite (s : State) (lvl : Level) (off : Nat) (val mask : BitVec 512) : State :=
  (List.range 8).foldl (fun t i =>
    let m := blkWord mask (8 * i)
    if m = 0 then t
    else t.regWrite (some lvl) (off + 8 * i) ((t.regRead (off + 8 * i) &&& ~~~m) ||| (blkWord val (8 * i) &&& m))) s

end Sys2Proof.Machine
end

