-- ==== Sys2Proof/Machine/Access.lean ====
section
/-! DEFINITION. Accesses: reading, writing and modifying a block at its home (R105, R67, R253), performing the blocks of
an access, what its end brings (log, counts, rows: R28, R69, R135, R257), and which accesses it must follow (R108,
R112, R114). -/

namespace Sys2Proof.Machine

/-- A block read at its home. `plain` says that a management register may answer (R368). -/
def State.homeRead (s : State) (plain : Bool) (l : Loc) : Except Nat (BitVec 512) :=
  match l with
  | .bad c => .error c
  | .scr k off => (s.core k).scrRead off
  | .mem pa _ cred =>
    match s.region pa with
    | .mmio off => if plain then .ok (s.regBlock off) else .error 0x13
    | _ => match cred with
      | none => s.physRead pa 0 0
      | some (o, t) => s.physRead pa o t

/-- A block stored to at its home. -/
def State.homeWrite (s : State) (plain : Bool) (lvl : Level) (l : Loc) (val mask : BitVec 512) : Except Nat State :=
  match l with
  | .bad c => .error c
  | .scr k off =>
    match (s.core k).scrWrite off val mask with
    | .ok c => .ok (s.setCore k c)
    | .error e => .error e
  | .mem pa _ cred =>
    match s.region pa with
    | .mmio off => if plain then .ok (s.regBlockWrite lvl off val mask) else .error 0x13
    | _ => match cred with
      | none => s.physWrite pa 0 0 val mask
      | some (o, t) => s.physWrite pa o t val mask

/-- The new word of an atomic, none where CAS does not match, and the flags that FADD raises (R253). -/
def atomicNew (op : AmoOp) (w : Nat) (old arg new : Nat) : Option Nat × BitVec 6 :=
  let m := 2 ^ w
  let sx (v : Nat) : Int := (BitVec.ofNat w v).toInt
  match op with
  | .add => (some ((old + arg) % m), 0)
  | .swap => (some arg, 0)
  | .cas => (if old = arg then some new else none, 0)
  | .and => (some (old &&& arg), 0)
  | .or => (some (old ||| arg), 0)
  | .xor => (some (old ^^^ arg), 0)
  | .min => (some (if sx old ≤ sx arg then old else arg), 0)
  | .max => (some (if sx old ≤ sx arg then arg else old), 0)
  | .minu => (some (min old arg), 0)
  | .maxu => (some (max old arg), 0)
  | .fadd =>
    let (x, f) := (fp32.decode old).add 1 (fp32.decode arg) { seed := 0 }
    let (b, f) := fp32.round 1 false x f
    (some b, f.flags)

/-- A PCIe AtomicOp exists for ADD, SWAP and CAS (R254). -/
def hostAtomic : AmoOp → Bool
  | .add => true
  | .swap => true
  | .cas => true
  | _ => false

/-- An atomic performed at its home (R253, R254): the old block, the flags, and the state after it. -/
def State.homeAtomic (s : State) (lvl : Level) (p : Piece) (op : AmoOp) (w : Nat) (arg new : Word) :
    Except Nat (BitVec 512 × BitVec 6 × State) :=
  let barred := match p.loc with
    | .mem pa _ _ => match s.region pa with
      | .host => !hostAtomic op
      | _ => false
    | _ => false
  if barred then .error 0x14 else
  match s.homeRead false p.loc with
  | .error e => .error e
  | .ok b =>
    let o := p.lo - p.blk
    let m := 2 ^ w
    let old := b.toNat / 2 ^ (8 * o) % m
    match atomicNew op w old (arg.toNat % m) (new.toNat % m) with
    | (none, f) => .ok (b, f, s)
    | (some v, f) =>
      match s.homeWrite false lvl p.loc (BitVec.ofNat 512 (v * 2 ^ (8 * o))) (byteMask o (o + w / 8)) with
      | .ok t => .ok (b, f, t)
      | .error e => .error e

/-- A management register answers only the untimed scalar and vector loads and stores of a hart (R368). -/
def Flight.plain (f : Flight) : Bool := f.time.isNone && f.kind ≤ 1

/-- The bits of a block that an access touches: its mask, or the whole block where it has none. -/
def Piece.bits (p : Piece) : BitVec 512 := if p.mask = 0 then ~~~0 else p.mask

/-- A block's bits as read joined to those of it that the access has read before (R248). -/
def Flight.read (f : Flight) (p : Piece) (b : BitVec 512) : Flight :=
  { f with got := f.got.put p.blk ((f.got.get p.blk &&& ~~~p.bits) ||| (b &&& p.bits)) }

/-- An error of a block is a data error, but for scratch that has lost its backing: a translation failure (R50, R28). -/
def Loc.dataError (l : Loc) (e : Nat) : Bool :=
  match l with
  | .scr _ _ => e != 0x08
  | _ => true

/-- One block of an access performs (R105): what it read, or the error response. -/
def State.performPiece (s : State) (f : Flight) (p : Piece) : Flight × State :=
  let f := { f with done := f.done ++ [p.blk] }
  let failed (e : Nat) : Flight := { f with fails := f.fails ++ [⟨p.lo, e, p.loc.dataError e, p.strict⟩] }
  match f.act with
  | .read =>
    match s.homeRead f.plain p.loc with
    | .ok b => (f.read p b, s)
    | .error e => (failed e, s)
  | .write =>
    match s.homeWrite f.plain f.lvl p.loc p.val p.mask with
    | .ok t => (f, t)
    | .error e => (failed e, s)
  | .atomic op w arg new =>
    match s.homeAtomic f.lvl p op w arg new with
    | .ok (b, _, t) => ({ f with got := f.got.put p.blk b }, t)
    | .error e => (failed e, s)

/-- Every block of an access performs, in address order. -/
def State.performList (s : State) (f : Flight) : List Piece → Flight × State
  | [] => (f, s)
  | p :: ps => match s.performPiece f p with
    | (f, s) => s.performList f ps

/-- An access performs whole. -/
def State.perform (s : State) (f : Flight) : Flight × State := s.performList { f with pieces := [] } f.pieces

/-- A block would answer clean: for a store one that covers a marked block wholly does (R173, R67). -/
def State.clean (s : State) (f : Flight) (p : Piece) : Option Nat :=
  match f.act with
  | .write => match s.homeWrite f.plain f.lvl p.loc p.val p.mask with
    | .ok _ => none
    | .error e => some e
  | .read => match s.homeRead f.plain p.loc with
    | .ok _ => none
    | .error e => some e
  | .atomic op w arg new => match s.homeAtomic f.lvl p op w arg new with
    | .ok _ => none
    | .error e => some e

/-- The first data error that the strict blocks of an access would meet (R173), at the lowest address. -/
def State.strictError (s : State) (f : Flight) : Option Fail :=
  lowestFail (f.pieces.filterMap fun p =>
    if p.strict then (s.clean f p).map fun e => ⟨p.lo, e, p.loc.dataError e, true⟩ else none)

/-- The context that issued an access has its registers on a core: the context of the save area runs there, and what a
handler issues after a save belongs to the handler. -/
def State.present (s : State) (k area : Nat) (lvl : Level) : Bool :=
  let c := s.core k
  c.active && decide (c.hart.sup.saveptr.toNat = area) && (!(c.hart.handler && c.hart.saved) || lvl != .u)

/-- The core on which the context that issued an access runs: the issuing core, or the one it has been moved to
(R195). -/
def State.homeOf (s : State) (k area : Nat) (lvl : Level) : Option Nat :=
  if s.present k area lvl then some k
  else if area = 0 then none
  else (s.cores.find? fun p => s.present p.1 area lvl).map (·.1)

/-- One log entry at the lowest failing address, and one count, for an access that met failures (R28, R69). An access
of a switched-out context counts in its save area (R110, R184). -/
def State.report (s : State) (f : Flight) : State :=
  match lowestFail f.fails with
  | none => s
  | some e =>
    let t := s.modCore f.core fun c => c.log (logEntry s f.core e.addr e.cause f.slot f.space f.kind f.owner f.pc)
    match t.homeOf f.core f.area f.lvl with
    | some k =>
      t.modHart k fun h => h.modCtl fun c =>
        if e.data then { c with errcnt := bump c.errcnt } else { c with violcnt := bump c.violcnt }
    | none =>
      let off := 384 + (if e.data then 24 else 32)
      let n := BitVec.ofNat 32 (t.ctxGet f.area f.owner off 4)
      t.ctxPut f.area f.owner off 4 (bump n).toNat

/-- The bits of an element read, `none` where a block that it needs is missing (R258). -/
def gotBits (got : Tbl (BitVec 512)) (ba n : Nat) : Option Nat :=
  (gather got (ba / 8) ((ba % 8 + n + 7) / 8)).map fun v => v / 2 ^ (ba % 8) % 2 ^ n

/-- An element as it is delivered to the row (R257, R258): FILL where a block of it failed. -/
def LElem.deliver (e : LElem) (got : Tbl (BitVec 512)) (fill : BitVec 32) : Nat :=
  let filled := fill.toNat % 2 ^ e.w
  match e.conv, gotBits got e.ba e.wm with
  | .value x, _ => x
  | _, none => filled
  | c, some b =>
    match c with
    | .fill => filled
    | .value x => x
    | .raw => b
    | .int4g comp =>
      match gather got comp 4 with
      | some word => int4gExpand b word
      | none => filled
    | .scaled f comp =>
      match gather got comp 1 with
      | some sc => (fp32.round 1 false (scaledDecode f b sc) { seed := 0 }).1
      | none => filled

/-- Format errors of delivered elements: an INT4G word with a nonzero reserved field, once for every element that it
expands (R83, log 70), an exhausted companion (R257). -/
def LElem.errors (e : LElem) (got : Tbl (BitVec 512)) : Nat :=
  match e.conv with
  | .int4g comp => match gather got comp 4 with
    | some word => if word / 2 ^ 20 = 0 then 0 else 1
    | none => 0
  | .fill => 1
  | _ => 0

/-- The elements of an access written into a row's value. -/
def deliverAll (v : BitVec 2048) (got : Tbl (BitVec 512)) (fill : BitVec 32) : List LElem → BitVec 2048
  | [] => v
  | e :: es => deliverAll (putBits v e.lo e.w (e.deliver got fill)) got fill es

/-- The elements of an access written into a row of a grid. -/
def Grid.deliver (g : Grid) (row : Nat) (v : BitVec 2048) (es : List LElem) : Grid :=
  es.foldl (fun d e => d.mend row e.lo e.w) (g.setRow row v)

/-- A long operation that waits for an arrival group takes it as it lands (R135). -/
def LongOp.lands (l : LongOp) (g : ArrGroup) (v : BitVec 2048 → BitVec 2048) : LongOp :=
  if l.needs.contains (g.row, g.grp) then
    { l with src := { l.src with rows := l.src.rows.mod g.row v }, needs := l.needs.filter (· != (g.row, g.grp)) }
  else l

/-- An arrival group lands: in the grid with its bit set, or in the row's place in the saved context that is switched out
(R135, R147). A group that GLOAD reads leaves its row clean (R313). -/
def State.landGroup (s : State) (f : Flight) (fill : BitVec 32) (g : ArrGroup) : State :=
  let s := s.formatErrors f.core ((g.elems.map fun e => e.errors f.got).sum)
  let new (v : BitVec 2048) : BitVec 2048 := deliverAll v f.got fill g.elems
  if s.present f.core f.area f.lvl then
    s.modHart f.core fun h => { h.modGrid fun d =>
      let r := if g.elems.isEmpty then d else d.deliver g.row (new (d.rows.get g.row)) g.elems
      { r with missing := d.missing.put g.row (d.missing.getD g.row 0xFF ||| (1 <<< g.grp)),
               dirty := if f.space = 5 then d.dirty else r.dirty } with
      long := h.long.map (·.lands g new) }
  else if g.elems.isEmpty then s
  else (s.ctxPutRow f.area f.owner g.row (new (s.ctxRow f.area f.owner g.row))).modAbsent f.area fun h => h.modGrid fun d =>
    d.putRow g.row (new (d.rows.get g.row))

/-- What the end of an access brings: failures are logged and counted, groups land, and a captured row that could not
be stored is dirty again (R28, R135, R313). -/
def State.land (s : State) (f : Flight) : State :=
  let s := s.report f
  match f.land with
  | .groups fill gs => gs.foldl (fun t g => t.landGroup f fill g) s
  | .saved row =>
    if f.fails.isEmpty || !s.present f.core f.area f.lvl then s
    else s.modHart f.core fun h => h.modGrid fun g => { g with dirty := g.dirty ||| (1 <<< row) }
  | _ => s

/-- An access of a context, which the device tracks by owner and save area (R110); a hart without a save area is its
core's. -/
def Flight.ofCtx (f : Flight) (core owner area : Nat) : Bool :=
  f.owner == owner && f.area == area && (area != 0 || f.core == core)

/-- Two accesses of one context. -/
def Flight.same (f g : Flight) : Bool := f.ofCtx g.core g.owner g.area

/-- Two places are the same block, moves followed, whatever ranges or spaces name it. -/
def State.sameBlock (s : State) (a b : Loc) : Bool :=
  match a, b with
  | .mem p _ _, .mem q _ _ => s.resolve p == s.resolve q
  | .scr j o, .scr k q => j == k && o == q
  | _, _ => false

/-- Two accesses touch a common byte (R108). -/
def State.overlaps (s : State) (f g : Flight) : Bool :=
  f.pieces.any fun p => g.pieces.any fun q => s.sameBlock p.loc q.loc && (p.bits &&& q.bits != 0)

/-- An earlier access that a later one of the same context must follow (R108 item 1, R109): they overlap, neither is
timed, and they are not two accesses of one strip interval with a vector access among them. -/
def State.holds (s : State) (f g : Flight) : Bool :=
  f.same g && f.time.isNone && g.time.isNone && s.overlaps f g &&
    !((f.vec || g.vec) && f.interval == g.interval)

/-- The scopes HART and CORE, at which a core performs its own accesses to device virtual space by holding its later ones
behind them (R105). -/
def scopeInner : Scope → Bool
  | .hart => true
  | .core => true
  | _ => false

/-- A block lies in a scratchpad, whatever space or range names it. -/
def Loc.scratch : Loc → Bool
  | .scr _ _ => true
  | _ => false

/-- An access has still to perform at a scope (R105): at its home, which reports a late block with its acknowledgement (R354); at
SYSTEM a store to a peer until it is acknowledged (R127); and at HART and CORE only in a scratchpad. -/
def Flight.owes (f : Flight) (sc : Scope) : Bool :=
  if scopeInner sc then f.pieces.any (·.loc.scratch)
  else !f.pieces.isEmpty || !f.late.isEmpty || (sc == .system && f.awaits)

/-- An access of the hart may perform now: no earlier one holds it, and a release waits for every earlier access of
its classes to perform at its scope, timed stores that have not reached their home among them (R108, R112, R114). An access of
a later strip interval waits for those before it only where they overlap, in a scratchpad too (log 88). `before` are the accesses issued earlier and not yet performed. -/
def State.mayPerform (s : State) (before : List Flight) (f : Flight) : Bool :=
  before.all fun g =>
    !(s.holds g f && !g.pieces.isEmpty) &&
    match f.release with
    | some sc => !(g.same f && g.owes sc && (g.cls &&& 0x2F) != 0)
    | none => true

/-- Accesses perform at once: the fabric does not delay, and nothing is on its way (log 6). -/
def State.immediate (s : State) : Bool := !s.delay && s.flights.all fun f => f.pieces.isEmpty && !f.awaits

/-- Two accesses reach a scratchpad in common. -/
def Flight.meets (f g : Flight) : Bool :=
  f.pieces.any fun p => g.pieces.any fun q => match p.loc, q.loc with
    | .scr j _, .scr k _ => j == k
    | _, _ => false

/-- The blocks of a scratchpad access that lie in its lowest 256-byte line, which is admitted first (R45), and the rest. -/
def Flight.firstLine (f : Flight) : List Piece × List Piece :=
  match f.pieces.map (fun p => p.blk / 256) with
  | [] => ([], [])
  | x :: xs => f.pieces.partition fun p => p.blk / 256 == xs.foldl min x

/-- The die that is the home of a block (R15, R47). -/
def Loc.die : Loc → Option Nat
  | .mem _ h _ => some h
  | .scr k _ => some (dieOf k)
  | .bad _ => none

/-- A block lies in the host's memory. -/
def State.locHost (s : State) : Loc → Bool
  | .mem pa _ _ => match s.region pa with
    | .host => true
    | _ => false
  | _ => false

/-- A block lies behind a peer link. -/
def State.locPeer (s : State) : Loc → Bool
  | .mem pa _ _ => match s.region pa with
    | .peer _ => true
    | _ => false
  | _ => false

/-- A block that an access of a core reaches without a message to another die, the host or a peer (R102, R126, R127). -/
def State.nearBy (s : State) (k : Nat) (l : Loc) : Bool :=
  !s.locHost l && !s.locPeer l && match l.die with
    | some d => d == dieOf k
    | none => true

/-- A block waits where its home cannot perform it yet (R40, R63): its chunk has moved on or is incoming, or its range waits
for a new place. -/
def State.blockHeld (s : State) (f : Flight) (p : Piece) : Bool :=
  (match p.loc with
   | .mem pa _ _ => s.ranges.moves.any (·.passed pa) || s.incoming pa
   | _ => false) ||
  (f.space == 0 && s.ranges.placing.any fun x => x.owner == f.owner && x.desc.has p.blk)

/-- A block cannot perform where it is (R39, R56, R63): held there, or in a scratch segment that is being moved. -/
def State.heldBack (s : State) (f : Flight) (p : Piece) : Bool :=
  s.blockHeld f p || match p.loc with
    | .scr k off => (s.core k).segMoving (off / 4096)
    | _ => false

/-- An access performs as it is issued: nothing delays it, no message leaves its die, and nothing is held there (log 6, log 74,
R39). -/
def State.atOnce (s : State) (f : Flight) : Bool := s.immediate && f.pieces.all fun p => s.nearBy f.core p.loc && !s.heldBack f p

/-- An access issued by a bundle that commits: performed at once, or set on its way (R107, log 6). -/
def State.issue (s : State) (f : Flight) : State :=
  if f.pieces.isEmpty then s.land f
  else if s.atOnce f then
    match s.perform f with
    | (f, t) => t.land f
  else { s with flights := s.flights ++ [f] }

/-- A store to a peer that has performed there awaits its acknowledgement (R127). -/
def State.awaitPeer (s : State) (f : Flight) : State :=
  if f.act == .write && f.pieces.any fun p => s.locPeer p.loc then
    { s with flights := s.flights ++ [{ f with pieces := [], fails := [], time := none, awaits := true, land := .drop }] }
  else s

/-- The ATIME against which a timed access compares at a block's home: the die's, or behind a peer link the peer home's
(R118, R119, R127, log 75). A block without a home is answered at once. -/
def State.homeTime (s : State) (l : Loc) : Option Nat :=
  match l with
  | .mem pa h _ => match s.region pa with
    | .peer e => some (Config.peerAtime e s.count).toNat
    | _ => some (s.die h).atime.toNat
  | .scr k _ => some (s.die (dieOf k)).atime.toNat
  | .bad _ => none

/-- The ATIME at a block's home has reached a time; a block without a home is answered at once (R118, R119). -/
def State.homeReached (s : State) (l : Loc) (time : Nat) : Bool :=
  match s.homeTime l with
  | some a => decide (time ≤ a)
  | none => true

/-- A time has ended at a block's home, with every timed store that arrives there in its tick (R118, log 76). -/
def State.homePassed (s : State) (l : Loc) (time : Nat) : Bool :=
  match s.homeTime l with
  | some a => decide (time < a)
  | none => true

/-- An access has travelled to the homes of its blocks (R102): a message to another die takes at least 16 ticks, of which the
two clocks may hide 8 (log 74), and it does not leave while the route that it would take waits for an acknowledgement of what
was sent on the old one (R360). -/
def State.arrived (s : State) (f : Flight) : Bool :=
  f.pieces.all fun p => match p.loc.die with
    | some d =>
      if d = dieOf f.core then decide (f.again ≤ (s.die d).atime.toNat)
      else decide (f.sent + 8 ≤ (s.die d).atime.toNat) &&
        !s.link.routes.any fun r => r.1 == dieOf f.core && r.2.1 == d && decide (r.2.2 ≤ f.sent)
    | none => true

/-- The earliest ATIME of the issuing die at which an answer from the homes of some blocks can be there (R102). -/
def State.answerAt (s : State) (f : Flight) (ps : List Piece) : Nat :=
  ps.foldl (fun a p => match p.loc.die with
    | some d => if d = dieOf f.core then a else max a ((s.die d).atime.toNat + 8)
    | none => a) f.heard

/-- The answer of an access has travelled back (R102). -/
def State.returned (s : State) (f : Flight) : Bool := decide (f.heard ≤ s.atime f.core)

/-- A notice for the context that issued an access: in its core's queue, or in the notice block of its save area; with
the block full it is dropped and counted (R181). -/
def State.noticeTo (s : State) (f : Flight) (n : Notice) : State :=
  match s.homeOf f.core f.area f.lvl with
  | some k => s.notify k n
  | none =>
    match (List.range 8).find? (fun i => s.ctxGet f.area f.owner (57472 + 16 * i + 8) 2 / 256 % 2 == 0) with
    | some i => s.ctxPut f.area f.owner (57472 + 16 * i) 16 (n.addr.toNat + (n.cause % 256 + 256) * 2 ^ 64)
    | none => s.modCore f.core fun c => { c with noticeDrops := bump c.noticeDrops }

/-- PEND of the context that issued a timed store falls by one, in the core or in the save area (R181, R190). -/
def State.pendDown (s : State) (f : Flight) : State :=
  match s.homeOf f.core f.area f.lvl with
  | some k => s.modHart k fun h => { h with pend := h.pend - 1 }
  | none => s.ctxPut f.area f.owner 46 2 (s.ctxGet f.area f.owner 46 2 - 1)

/-- The lowest late byte of a timed store as the missed-deadline notice (R120). -/
def Flight.lateNotice (f : Flight) : Option Notice :=
  match f.late with
  | [] => none
  | a :: rest => some { cause := 0x12, addr := BitVec.ofNat 64 (rest.foldl min a) }

/-- A block of a timed store performs at its home; an error there is the home's to log, and no trap or count follows
(R118). -/
def State.performTimed (s : State) (f : Flight) (p : Piece) : State :=
  let s := s.awaitPeer { f with pieces := [p] }
  match s.performPiece { f with pieces := [], fails := [] } p with
  | (g, t) =>
    match g.fails, p.loc.die with
    | e :: _, some d => t.modDie d fun v => v.log (logEntry t f.core e.addr e.cause f.slot f.space f.kind f.owner f.pc)
    | _, _ => t

/-- A block of a timed store reaches its home (R118, R120): it is held for its time, or performs, late where its time
has passed although it lay ahead at issue. One whose time did not lie ahead at issue is untimed in effect (R251). -/
def State.arriveBlock (s : State) (time : Nat) (f : Flight) (p : Piece) : Flight × State :=
  if !f.wasFuture || s.homeReached p.loc time then
    let late := f.wasFuture && match s.homeTime p.loc with
      | some a => decide (time < a)
      | none => false
    (if late then { f with late := f.late ++ [p.lo] } else f, s.performTimed f p)
  else
    match p.loc.die with
    | some d => (f, s.modDie d fun v => { v with held := v.held ++ [{ f with pieces := [p], fails := [], late := [] }] })
    | none => (f, s)

/-- Every block of a timed store reaches its home. -/
def State.arriveBlocks (s : State) (time : Nat) (f : Flight) : List Piece → Flight × State
  | [] => (f, s)
  | p :: ps => match s.arriveBlock time f p with
    | (f, s) => s.arriveBlocks time f ps

/-- The blocks of an access that lie at a die. -/
def Flight.blocksAt (f : Flight) (d : Nat) : Nat := (f.pieces.filter fun p => p.loc.die == some d).length

/-- Timed accesses that wait at a die (R118, R119, R122), counted by their blocks (log 78): held stores and LDNBs that it
has accepted. -/
def State.waitingAt (s : State) (d : Nat) : Nat :=
  (s.die d).held.length + ((s.flights.filter fun g => g.accepted && g.act == .read && g.time.isSome).map (·.blocksAt d)).sum

/-- A home holds at most 4,096 timed accesses (R122): it has room for those blocks of an access that are bound for it, counted
one by one (log 78). -/
def State.roomFor (s : State) (f : Flight) : Bool :=
  f.pieces.all fun p => match p.loc.die with
    | some d => decide (s.waitingAt d + f.blocksAt d ≤ 4096)
    | none => true

/-- The error response of a block that a timed access cannot reach at all (R13, R368). -/
def State.refused (s : State) (l : Loc) : Option Nat :=
  match l with
  | .bad c => some c
  | .mem pa _ _ => match s.region pa with
    | .mmio _ => some 0x13
    | _ => none
  | .scr _ _ => none

/-- Such blocks of an access are data errors of it (R67, R368); the rest travel. -/
def State.answerBad (s : State) (f : Flight) : Flight :=
  let bad := f.pieces.filterMap fun p => (s.refused p.loc).map fun c => (⟨p.lo, c, true, p.strict⟩ : Fail)
  { f with pieces := f.pieces.filter fun p => (s.refused p.loc).isNone, fails := f.fails ++ bad }

/-- A timed store issued by a bundle that commits (R118, R120): its failures are reported, and its blocks travel to
their homes. -/
def State.issueTimed (s : State) (time : Nat) (f : Flight) : State :=
  let s := s.report f
  let f := { f with fails := [], time := some time, wasFuture := decide (s.atime f.core < time) }
  if f.pieces.isEmpty then s
  else if s.atOnce f && s.roomFor f then
    match s.arriveBlocks time { f with pieces := [] } f.pieces with
    | (g, t) => match g.lateNotice with
      | some n => t.noticeTo f n
      | none => t
  else
    { s.modHart f.core fun h => { h with pend := h.pend + 1 } with flights := s.flights ++ [f] }

/-- An access of the context `w` in the classes of a predecessor set has still to perform at a scope (R111, R112, R113): timed
stores held for their time do not count. -/
def State.pendingIn (s : State) (w : Who) (p : BitVec 8) (sc : Scope) : Bool :=
  s.flights.any fun f => f.ofCtx w.core w.owner w.area && (f.cls &&& p) != 0 && f.owes sc

/-- The accesses of a context in the classes of a FENCE at HART or CORE scope hold those of its successor set behind them (R105,
R113). -/
def State.fenceBehind (s : State) (w : Who) (p q : BitVec 8) : State :=
  { s with flights := s.flights.map fun f =>
      if f.ofCtx w.core w.owner w.area && (f.cls &&& p) != 0 then { f with fenced := f.fenced ||| q } else f }

/-- Blocks that an access of a class by a context's stream unit or lighter reaches are held behind its fenced accesses (R113). -/
def State.behindFence (s : State) (w : Who) (c : BitVec 8) (ps : List Piece) : Bool :=
  s.flights.any fun f => f.ofCtx w.core w.owner w.area && (f.fenced &&& c) != 0 &&
    s.overlaps f { f with pieces := ps }

/-- What stands at a place is in view of a core whose die's ATIME has reached that of the place's home: an agent of the core
that learns of it without a message reads no time before one that its writer read (R102, R118, log 74). -/
def State.inView (s : State) (k : Nat) (l : Loc) : Bool :=
  match l.die with
  | some d => decide ((s.die d).atime.toNat ≤ s.atime k)
  | none => true

/-- The clocks of the homes of some blocks agree with that of a core's die: what a unit of the core does there it does at one
time of both (R102, log 74). -/
def State.inStep (s : State) (k : Nat) (ps : List Piece) : Bool :=
  ps.all fun p => match p.loc.die with
    | some d => (s.die d).atime == (s.die (dieOf k)).atime
    | none => true

end Sys2Proof.Machine
end

