-- ==== Sys2Proof/Machine/Bundle.lean ====
section
/-! DEFINITION. What an operation answers, and how the operations of one bundle commit, trap, stall or block together
(R129 to R131, R172 to R174, R233, R240). -/

namespace Sys2Proof.Machine

/-- Where an operation stands: its bundle's address and its slot. -/
structure OpCtx where
  pc : Word
  slot : Nat
  deriving DecidableEq, Repr

/-- What an operation does when its bundle commits: its effect; the next bundle where it transfers control (R230 to
R232); what follows the bundle boundary (R178, R182, R294, R295); whether it ends the strip interval (R109); and what it has
found that it will not look up again once another operation of the bundle has been sent (R173). -/
structure Commit where
  run : State → State
  next : Option Word := none
  after : State → State := id
  cut : Bool := false
  found : Passed → Passed := id

/-- What an operation of a bundle answers, judged on the state before the bundle (R130). -/
inductive Res where
  /-- A precise trap of the bundle; `note` is what the device records beside it (R268, R19), and `kept` that SAVED stands as
  it is (R193). -/
  | trap (cause : Nat) (addr : Word) (save : Bool := savingCause cause) (note : State → State := id) (kept : Bool := false)
  /-- The bundle stalls (R131). -/
  | stall
  /-- The bundle waits: with a KIND and OBJ it blocks (R163), without one it waits for an answer (R107). A wait of
  stage 0 stands before the causes found at execution; one of stage 1, for an access sent, comes only after the others
  have passed them (R173, R174); one of stage 2, for another agent's work or a barrier, comes last. -/
  | wait (stage : Nat) (blk : Option (Nat × Word)) (f : State → State)
  | commit (c : Commit)

/-- An operation, its operands applied. -/
abbrev Op := OpCtx → State → Res

/-- The rank of a trap cause in R174; 9 is a cause found at execution, where the lowest slot decides. -/
def causeRank (c : Nat) : Nat :=
  match c with
  | 0x01 => 1
  | 0x02 => 2
  | 0x04 => 3
  | 0x03 => 4
  | 0x0B => 5
  | 0x0E => 6
  | 0x19 => 7
  | 0x10 => 8
  | _ => 9

/-- One operation of a bundle with its slot and, for a G operation, that it comes last (R130). -/
structure Part where
  slot : Nat
  first : Bool := false
  last : Bool := false
  op : Op

/-- The trap of one operation of a bundle: its slot, and what its answer says of it. -/
structure Raised where
  slot : Nat
  cause : Nat
  addr : Word
  save : Bool
  note : State → State
  kept : Bool

/-- The trap of the lowest rank and slot among some answers (R174). -/
def firstTrap (p : Nat → Bool) : List (Nat × Res) → Option Raised
  | [] => none
  | (i, .trap c a sv f kp) :: rest =>
    match firstTrap p rest with
    | none => if p (causeRank c) then some ⟨i, c, a, sv, f, kp⟩ else none
    | some t => if p (causeRank c) && decide (causeRank c ≤ causeRank t.cause) then some ⟨i, c, a, sv, f, kp⟩ else some t
  | _ :: rest => firstTrap p rest

/-- Some operation stalls. -/
def anyStall : List (Nat × Res) → Bool
  | [] => false
  | (_, .stall) :: _ => true
  | _ :: rest => anyStall rest

/-- The first wait of a stage. -/
def firstWait (stage : Nat) : List (Nat × Res) → Option (Option (Nat × Word) × (State → State))
  | [] => none
  | (_, .wait e b f) :: rest => if e = stage then some (b, f) else firstWait stage rest
  | _ :: rest => firstWait stage rest

/-- The commits of a bundle's operations. -/
def commitsOf : List (Nat × Res) → List Commit
  | [] => []
  | (_, .commit c) :: rest => c :: commitsOf rest
  | _ :: rest => commitsOf rest

/-- The loop end of R233 applied at most as often as the stack is deep: the loop stack, STRIP and VL after it, the next
bundle, and whether a VLOOP began a new pass. -/
def loopEnd (vmax : Nat) (pc : Word) : Nat → List LoopEnt → Ctl → List LoopEnt × Ctl × Word × Bool
  | 0, ls, c => (ls, c, pc + 16, false)
  | n + 1, ls, c =>
    match ls.reverse with
    | [] => (ls, c, pc + 16, false)
    | e :: below =>
      if e.last ≠ pc then (ls, c, pc + 16, false)
      else if e.vloop then
        let left := c.strip - BitVec.ofNat 64 (min c.vl c.strip.toNat)
        let c := { c with strip := left }
        if left ≠ 0 then (ls, { c with vl := min left.toNat vmax }, e.start + 16, true)
        else loopEnd vmax pc n below.reverse c
      else if e.count - 1 ≠ 0 then (below.reverse ++ [{ e with count := e.count - 1 }], c, e.start + 16, false)
      else loopEnd vmax pc n below.reverse c

/-- g × VLMAX in force (R137, R138). -/
def Hart.vlLimit (h : Hart) : Nat := groupOf h.ctl.vtype * vlmaxOf h.sup.vlcap.toNat h.ctl.vtype

/-- The pc after a committed bundle: the transfer taken, or the loop end or the next bundle (R230, R233). -/
def Hart.advance (h : Hart) (pc : Word) (next : Option Word) : Hart × Bool :=
  match next with
  | some t => ({ h with pc := t }, false)
  | none =>
    match loopEnd h.vlLimit pc (h.loops.length + 1) h.loops h.ctl with
    | (ls, c, t, pass) => ({ h with pc := t, loops := ls, ctl := c }, pass)

/-- A new strip interval begins after the bundle (R109): outside a VLOOP body, at a new pass, or after a FENCE. -/
def State.newInterval (s : State) (k : Nat) : State :=
  { s.modHart k fun h => { h with interval := s.uid } with uid := s.uid + 1 }

/-- The flags of the bundle's operations ORed into FFLAGS (R240). -/
def State.foldFlags (s : State) (k : Nat) : State :=
  { s.modHart k fun h => h.modCtl fun c => c.orFlags s.raised with raised := 0 }

/-- The end of a committed bundle: flags, the next bundle, the block's end, and the strip interval. -/
def State.finishBundle (s : State) (k : Nat) (pc : Word) (next : Option Word) (cut : Bool) : State :=
  let s := s.foldFlags k
  let (h, pass) := (s.hart k).advance pc next
  let s := s.modCore k fun c => { c with hart := { h with wait := .none, ewait := .none, passed := none } }.unblock
  if cut || pass || !(h.loops.any (·.vloop)) then s.newInterval k else s

/-- The operations of a bundle commit together (R172): effects in slot order, a G operation's last; then the end of
the bundle; then what follows the boundary. -/
def State.commitAll (s : State) (cs : List Commit) : State :=
  let k := s.cur
  let pc := (s.hart k).pc
  let s := cs.foldl (fun t c => c.run t) { s with raised := 0 }
  let s := s.finishBundle k pc (cs.findSome? (·.next)) (cs.any (·.cut))
  cs.foldl (fun t c => c.after t) s

/-- The bundle waits: its blocked-state record is set, and what it has started stands (R131, R163). -/
def State.waitOn (s : State) (blk : Option (Nat × Word)) (f : State → State) : State :=
  match blk with
  | none => (f s).modCore s.cur (·.unblock)
  | some (kind, obj) => (f s).modCore s.cur (·.block kind obj)

/-- An operation of the bundle is sent: the others have passed their checks, with what they have found (R173). -/
def State.passChecks (s : State) (cs : List Commit) : State :=
  s.modMy fun h => { h with passed := some (h.passed.getD (cs.foldl (fun p c => c.found p) {})) }

/-- The slot that TRAPSLOT names: none for a deadlock (R370). -/
def slotOfTrap (cause slot : Nat) : Option Nat := if cause = 0x13 then none else some slot

/-- What becomes of a bundle, by what its operations answer (R131, R174). -/
inductive Verdict where
  | raise (t : Raised)
  | stall
  /-- It waits; `sent` says that its operations have passed their checks (R173). -/
  | wait (blk : Option (Nat × Word)) (f : State → State) (sent : Bool)
  | commit

/-- The order of R174: the traps found at decode; then stalls and waits of stage 0; then the traps found at execution; then
the waits for what has been sent; and only then the commit. -/
def verdict (rs : List (Nat × Res)) : Verdict :=
  match firstTrap (· < 9) rs with
  | some t => .raise t
  | none =>
    if anyStall rs then .stall else
    match firstWait 0 rs with
    | some (b, f) => .wait b f false
    | none =>
      match firstTrap (· == 9) rs with
      | some t => .raise t
      | none =>
        match (firstWait 1 rs).orElse fun _ => firstWait 2 rs with
        | some (b, f) => .wait b f true
        | none => .commit

/-- What the operations of a bundle answer, judged on the state before it (R130). -/
def State.answers (s : State) (ps : List Part) : List (Nat × Res) := ps.map fun p => (p.slot, p.op ⟨s.my.pc, p.slot⟩ s)

/-- A load that the abandoned bundle waits for is forgotten (R184, R119), and what the bundle has found with it (R173). -/
def State.forgetAsk (s : State) (k : Nat) : State :=
  let h := s.hart k
  { s.modHart k fun h => { h with passed := none } with flights := s.flights.filter fun f =>
      !(f.ofCtx k h.sup.owner.toNat h.sup.saveptr.toNat && match f.land with
        | .ask _ => true
        | _ => false) }

/-- A bundle traps (R174), and a load that it waits for is forgotten (R172). One whose sent operation fails gives way to a
resumable trap that has come up meanwhile (R175). -/
def State.raiseTrap (s : State) (t : Raised) : State :=
  let k := s.cur
  let h := s.my
  if h.passed.isSome && h.due.any (·.resumable) then
    s.modHart k fun h => { h with wait := .none, ewait := .none, passed := none }
  else
    let s := if h.wait == .ask then s.forgetAsk k else s
    ((t.note s).trap k { cause := t.cause, addr := t.addr, slot := slotOfTrap t.cause t.slot, pc := h.pc, save := t.save
                         kept := t.kept }).modCore k Core.unblock

/-- The commits of a bundle in their order: those of its last operations after the others (R130). -/
def orderedCommits (ps : List Part) (rs : List (Nat × Res)) : List Commit :=
  let tagged := ps.zip rs
  let turn (p : Part → Bool) : List Commit := commitsOf ((tagged.filter fun x => p x.1).map (·.2))
  turn (·.first) ++ turn (fun p => !p.first && !p.last) ++ turn (fun p => !p.first && p.last)

/-- THE OPERATIONS OF ONE BUNDLE (R129 to R131, R172 to R174). -/
def State.runOps (s : State) (ps : List Part) : State :=
  let rs := s.answers ps
  match verdict rs with
  | .raise t => s.raiseTrap t
  | .stall => s.modCore s.cur (·.unblock)
  | .wait b f sent => (if sent then s.passChecks (commitsOf rs) else s).waitOn b f
  | .commit => s.commitAll (orderedCommits ps rs)

/-- An operation that only writes a scalar register. -/
def writes (d : SReg) (v : Word) : Res := .commit { run := fun t => t.modMy (·.wx d v) }

/-- An operation that only changes the state at commit. -/
def commits (f : State → State) : Res := .commit { run := f }

end Sys2Proof.Machine
end

