-- ==== Sys2Proof/Machine/Scalar.lean ====
section
/-! DEFINITION. The SA class: integer, bit-manipulation and immediate operations (R221 to R225) and scalar FP32
(R226 to R229). -/

namespace Sys2Proof.Machine

/-- NOP: nothing (R198). -/
def opNop : Op := fun _ _ => commits id

/-- A register operation of two operands (R222). -/
def alu2 (f : Word → Word → Word) (d a b : SReg) : Op := fun _ s => writes d (f (s.my.rx a) (s.my.rx b))

/-- A register operation of one operand (R224). -/
def alu1 (f : Word → Word) (d a : SReg) : Op := fun _ s => writes d (f (s.my.rx a))

/-- 1 when true, 0 when false (R222). -/
def flag01 (b : Bool) : Word := if b then 1 else 0

/-- The quotient truncated towards zero, saturated (R223). -/
def divSigned (a b : Word) : Word :=
  if b = 0 then (if a.toInt < 0 then 0x8000000000000000 else 0x7FFFFFFFFFFFFFFF)
  else if a = 0x8000000000000000 ∧ b = ~~~0 then 0x7FFFFFFFFFFFFFFF
  else BitVec.ofInt 64 (Int.tdiv a.toInt b.toInt)

/-- The remainder with the dividend's sign (R223). -/
def remSigned (a b : Word) : Word :=
  if b = 0 then a else BitVec.ofInt 64 (Int.tmod a.toInt b.toInt)

/-- The unsigned quotient; all ones for a divisor of 0 (R223). -/
def divUnsigned (a b : Word) : Word := if b = 0 then ~~~0 else BitVec.ofNat 64 (a.toNat / b.toNat)

/-- The unsigned remainder; the dividend for a divisor of 0 (R223). -/
def remUnsigned (a b : Word) : Word := if b = 0 then a else BitVec.ofNat 64 (a.toNat % b.toNat)

/-- Leading zero bits of a number of `w` bits. -/
def clz (w n : Nat) : Nat := if n = 0 then w else w - 1 - n.log2

/-- Trailing zero bits, counted up to `k`. -/
def ctzFrom (n : Nat) : Nat → Nat
  | 0 => 0
  | k + 1 => if n % 2 = 1 then 0 else 1 + ctzFrom (n / 2) k

/-- The low 64 bits of `v`'s w low bits, sign-extended (R224). -/
def sextLow (w : Nat) (v : Word) : Word :=
  let m := v.toNat % 2 ^ w
  if m.testBit (w - 1) then BitVec.ofNat 64 (m + 2 ^ 64 - 2 ^ w) else BitVec.ofNat 64 m

/-- pos and len of BEXT and BINS (R224). -/
def bitField (b : Word) : Nat × Nat := (b.toNat % 64, b.toNat / 64 % 64 + 1)

/-- ADD (R222). -/
def opAdd : SReg → SReg → SReg → Op := alu2 fun a b => a + b

/-- SUB (R222). -/
def opSub : SReg → SReg → SReg → Op := alu2 fun a b => a - b

/-- AND (R222). -/
def opAnd : SReg → SReg → SReg → Op := alu2 fun a b => a &&& b

/-- OR (R222). -/
def opOr : SReg → SReg → SReg → Op := alu2 fun a b => a ||| b

/-- XOR (R222). -/
def opXor : SReg → SReg → SReg → Op := alu2 fun a b => a ^^^ b

/-- SLL (R222). -/
def opSll : SReg → SReg → SReg → Op := alu2 fun a b => a <<< (b.toNat % 64)

/-- SRL (R222). -/
def opSrl : SReg → SReg → SReg → Op := alu2 fun a b => a >>> (b.toNat % 64)

/-- SRA (R222). -/
def opSra : SReg → SReg → SReg → Op := alu2 fun a b => a.sshiftRight (b.toNat % 64)

/-- SLT (R222). -/
def opSlt : SReg → SReg → SReg → Op := alu2 fun a b => flag01 (a.slt b)

/-- SLTU (R222). -/
def opSltu : SReg → SReg → SReg → Op := alu2 fun a b => flag01 (a.ult b)

/-- MIN (R222). -/
def opMin : SReg → SReg → SReg → Op := alu2 fun a b => if b.slt a then b else a

/-- MAX (R222). -/
def opMax : SReg → SReg → SReg → Op := alu2 fun a b => if a.slt b then b else a

/-- MINU (R222). -/
def opMinu : SReg → SReg → SReg → Op := alu2 fun a b => if b.ult a then b else a

/-- MAXU (R222). -/
def opMaxu : SReg → SReg → SReg → Op := alu2 fun a b => if a.ult b then b else a

/-- MUL (R222). -/
def opMul : SReg → SReg → SReg → Op := alu2 fun a b => a * b

/-- MULH (R222). -/
def opMulh : SReg → SReg → SReg → Op := alu2 fun a b => BitVec.ofInt 64 (a.toInt * b.toInt / 2 ^ 64)

/-- MULHU (R222). -/
def opMulhu : SReg → SReg → SReg → Op := alu2 fun a b => BitVec.ofNat 64 (a.toNat * b.toNat / 2 ^ 64)

/-- DIV (R223). -/
def opDiv : SReg → SReg → SReg → Op := alu2 fun a b => divSigned a b

/-- DIVU (R223). -/
def opDivu : SReg → SReg → SReg → Op := alu2 fun a b => divUnsigned a b

/-- REM (R223). -/
def opRem : SReg → SReg → SReg → Op := alu2 fun a b => remSigned a b

/-- REMU (R223). -/
def opRemu : SReg → SReg → SReg → Op := alu2 fun a b => remUnsigned a b

/-- ADD32 (R222). -/
def opAdd32 : SReg → SReg → SReg → Op := alu2 fun a b => sextLow 32 (a + b)

/-- BEXT (R224). -/
def opBext : SReg → SReg → SReg → Op := alu2 fun a b => BitVec.ofNat 64 (a.toNat / 2 ^ (bitField b).1 % 2 ^ (bitField b).2)

/-- CLZ (R224). -/
def opClz : SReg → SReg → Op := alu1 fun a => BitVec.ofNat 64 (clz 64 a.toNat)

/-- CTZ (R224). -/
def opCtz : SReg → SReg → Op := alu1 fun a => BitVec.ofNat 64 (ctzFrom a.toNat 64)

/-- POPC (R224). -/
def opPopc : SReg → SReg → Op := alu1 fun a => BitVec.ofNat 64 (popcount 64 a.toNat)

/-- FSHL (R224). -/
def opFshl (d a b : SReg) (n : BitVec 6) : Op :=
  alu2 (fun a b => BitVec.ofNat 64 ((a.toNat * 2 ^ 64 + b.toNat) * 2 ^ n.toNat / 2 ^ 64)) d a b

/-- FSHR (R224). -/
def opFshr (d a b : SReg) (n : BitVec 6) : Op :=
  alu2 (fun a b => BitVec.ofNat 64 ((a.toNat * 2 ^ 64 + b.toNat) / 2 ^ n.toNat)) d a b

/-- BINS: the old value of sd is a source (R224). -/
def opBins (d a b : SReg) : Op := fun _ s =>
  let (pos, len) := bitField (s.my.rx b)
  let mask : Word := BitVec.ofNat 64 ((2 ^ len - 1) * 2 ^ pos)
  writes d ((s.my.rx d &&& ~~~mask) ||| ((s.my.rx a <<< pos) &&& mask))

/-- SEXT of the low n + 1 bits (R224). -/
def opSext (d a : SReg) (n : BitVec 6) : Op := alu1 (sextLow (n.toNat + 1)) d a

/-- CSEL (R224). -/
def opCsel (d a b c : SReg) : Op := fun _ s => writes d (if s.my.rx c = 0 then s.my.rx b else s.my.rx a)

/-- An immediate of 20 bits, which the decoder has sign-extended to, as a 64-bit value (R200, R225). -/
def imm64 (i : BitVec 20) : Word := i.signExtend 64

/-- An immediate operation (R225). -/
def aluI (f : Word → Word → Word) (d a : SReg) (i : BitVec 20) : Op := fun _ s => writes d (f (s.my.rx a) (imm64 i))

/-- A shift by an immediate count (R225). -/
def aluShift (f : Word → Nat → Word) (d a : SReg) (n : BitVec 6) : Op := fun _ s => writes d (f (s.my.rx a) n.toNat)

/-- ADDI (R225). -/
def opAddi : SReg → SReg → BitVec 20 → Op := aluI fun a i => a + i
/-- ANDI (R225). -/
def opAndi : SReg → SReg → BitVec 20 → Op := aluI fun a i => a &&& i
/-- ORI (R225). -/
def opOri : SReg → SReg → BitVec 20 → Op := aluI fun a i => a ||| i
/-- XORI (R225). -/
def opXori : SReg → SReg → BitVec 20 → Op := aluI fun a i => a ^^^ i
/-- SLTI (R225). -/
def opSlti : SReg → SReg → BitVec 20 → Op := aluI fun a i => flag01 (a.slt i)
/-- SLTIU (R225). -/
def opSltiu : SReg → SReg → BitVec 20 → Op := aluI fun a i => flag01 (a.ult i)
/-- SLLI (R225). -/
def opSlli : SReg → SReg → BitVec 6 → Op := aluShift fun a n => a <<< n
/-- SRLI (R225). -/
def opSrli : SReg → SReg → BitVec 6 → Op := aluShift fun a n => a >>> n
/-- SRAI (R225). -/
def opSrai : SReg → SReg → BitVec 6 → Op := aluShift fun a n => a.sshiftRight n

/-- LUI (R225). -/
def opLui (d : SReg) (i : BitVec 20) : Op := fun _ _ => writes d (imm64 i <<< 12)

/-- ADDPC (R225). -/
def opAddpc (d : SReg) (i : BitVec 20) : Op := fun c _ => writes d (c.pc + imm64 i)

/-- A result of the floating-point units at commit: computed from operands read before the bundle and the generator
as the slots before have left it, written to sd with the flags raised (R226, R240). -/
def fpCommit (d : SReg) (f : FState → Nat × FState) : Res :=
  commits fun t =>
    let (b, st) := f { seed := t.my.ctl.srseed }
    (t.modMy fun h => (h.modCtl fun c => { c with srseed := st.seed }).wx d (BitVec.ofNat 64 b)).raise st.flags

/-- A rounding code of an instruction: 0 takes FRM, 7 is an illegal operand (R75, R226). -/
def withRounding (s : State) (rm : BitVec 3) (f : Nat → Res) : Res :=
  if rm = 7 then .trap 0x03 0 else f (s.my.ctl.rounding rm.toNat)

/-- The FP32 operand in bits [31:0] of a register (R226). -/
def State.fp (s : State) (a : SReg) : Num := fp32.decode ((s.my.rx a).toNat % 2 ^ 32)

/-- A rounded operation of two FP32 operands (R227). -/
def fpArith (f : Nat → Num → Num → FState → Num × FState) (d a b : SReg) (rm : BitVec 3) : Op := fun _ s =>
  withRounding s rm fun r =>
    fpCommit d fun st =>
      let (x, st) := f r (s.fp a) (s.fp b) st
      fp32.round r false x st

/-- FADD (R227). -/
def opFadd : SReg → SReg → SReg → BitVec 3 → Op := fpArith fun r x y st => x.add r y st
/-- FSUB (R227). -/
def opFsub : SReg → SReg → SReg → BitVec 3 → Op := fpArith fun r x y st => x.add r y.negate st
/-- FMUL (R227). -/
def opFmul : SReg → SReg → SReg → BitVec 3 → Op := fpArith fun _ x y st => x.mul y st
/-- FDIV (R227). -/
def opFdiv : SReg → SReg → SReg → BitVec 3 → Op := fpArith fun _ x y st => x.div y st

/-- FMA: the old sd is the addend (R227). -/
def opFma (d a b : SReg) (rm : BitVec 3) : Op := fun _ s =>
  withRounding s rm fun r =>
    fpCommit d fun st =>
      let (x, st) := Num.fma r (s.fp a) (s.fp b) (s.fp d) st
      fp32.round r false x st

/-- FSQRT (R227). -/
def opFsqrt (d a : SReg) (rm : BitVec 3) : Op := fun _ s =>
  withRounding s rm fun r =>
    fpCommit d fun st =>
      let (x, st) := (s.fp a).sqrt st
      fp32.round r false x st

/-- The lesser or greater number of IEEE 754-2019 (R228): −0 counts below +0, a NaN yields to a number. -/
def numMin (greater : Bool) (x y : Num) (st : FState) : Num × FState :=
  let st := st.raiseIf (x.isSig || y.isSig) flagNV
  if x.isNan then (if y.isNan then .nan false else y, st)
  else if y.isNan then (x, st)
  else
    let below := x.lt y || (x.eq y && x.neg)
    (if below == greater then y else x, st)

/-- FMIN (R228). -/
def opFmin (d a b : SReg) : Op := fun _ s =>
  fpCommit d fun st =>
    let (x, st) := numMin false (s.fp a) (s.fp b) st
    fp32.round 1 false x st

/-- FMAX (R228). -/
def opFmax (d a b : SReg) : Op := fun _ s =>
  fpCommit d fun st =>
    let (x, st) := numMin true (s.fp a) (s.fp b) st
    fp32.round 1 false x st

/-- A comparison; `quiet` ones set NV for a signalling operand only (R228). -/
def fpCompare (quiet : Bool) (f : Num → Num → Bool) (d a b : SReg) : Op := fun _ s =>
  fpCommit d fun st =>
    let (x, y) := (s.fp a, s.fp b)
    let bad := if quiet then x.isSig || y.isSig else x.isNan || y.isNan
    ((f x y).toNat, st.raiseIf bad flagNV)

/-- FEQ (R228). -/
def opFeq : SReg → SReg → SReg → Op := fpCompare true Num.eq
/-- FLT (R228). -/
def opFlt : SReg → SReg → SReg → Op := fpCompare false Num.lt
/-- FLE (R228). -/
def opFle : SReg → SReg → SReg → Op := fpCompare false fun x y => x.lt y || x.eq y

/-- The class number of FCLASS (R228). -/
def fpClass (b : Nat) : Nat :=
  let e := b / 2 ^ 23 % 256
  match fp32.decode b with
  | .nan sig => if sig then 1 else 0
  | .inf n => if n then 2 else 9
  | .fin n m _ => if m = 0 then (if n then 5 else 6) else if e = 0 then (if n then 4 else 7) else (if n then 3 else 8)

/-- FCLASS (R228). -/
def opFclass : SReg → SReg → Op := alu1 fun a => BitVec.ofNat 64 (2 ^ fpClass (a.toNat % 2 ^ 32))

/-- FCVTIF (R229). -/
def opFcvtif (d a : SReg) (rm : BitVec 3) : Op := fun _ s =>
  withRounding s rm fun r => fpCommit d (fp32.round r false (Num.ofInt (s.my.rx a).toInt))

/-- FCVTFI: toInt into 64 bits, saturating (R229, R78). -/
def opFcvtfi (d a : SReg) (rm : BitVec 3) : Op := fun _ s =>
  withRounding s rm fun r => fpCommit d ((⟨64, true⟩ : IntFmt).convert r true false true (s.fp a))

/-- FCVTBF (R229). -/
def opFcvtbf (d a : SReg) (rm : BitVec 3) : Op := fun _ s =>
  withRounding s rm fun r => fpCommit d (bf16.round r false (s.fp a))

/-- FCVTFB (R229). -/
def opFcvtfb (d a : SReg) : Op := fun _ s =>
  fpCommit d (fp32.round 1 false (bf16.decode ((s.my.rx a).toNat % 2 ^ 16)))

end Sys2Proof.Machine
end

