-- ==== Sys2Proof/Machine/Control.lean ====
section
/-! DEFINITION. The SC class: branches, jumps, loops, SETVL, and the control words (R230 to R240). -/

namespace Sys2Proof.Machine

/-- The body of a loop entry holds an address (R232). -/
def LoopEnt.inBody (e : LoopEnt) (a : Word) : Bool :=
  decide ((a - (e.start + 16)).toNat ≤ (e.last - (e.start + 16)).toNat)

/-- A taken transfer from `pc` to `target` pops the innermost entries whose body it leaves (R234). -/
def popLeft (pc target : Word) : List LoopEnt → List LoopEnt
  | [] => []
  | e :: rest =>
    match popLeft pc target rest with
    | [] => if e.inBody pc && !e.inBody target then [] else [e]
    | l => e :: l

/-- A taken transfer at commit: entries popped, the next bundle the target (R230, R234). -/
def transfer (pc target : Word) (f : Hart → Hart) : Res :=
  .commit { run := fun t => t.modMy fun h => f { h with loops := popLeft pc target h.loops }, next := some target }

/-- A branch: taken when the condition holds between its operands (R230). -/
def branch (p : Word → Word → Bool) (a b : SReg) (o : BitVec 23) : Op := fun c s =>
  if p (s.my.rx a) (s.my.rx b) then transfer c.pc (c.pc + o.signExtend 64 * 16) id else commits id

/-- BEQ (R230). -/
def opBeq : SReg → SReg → BitVec 23 → Op := branch fun a b => a == b
/-- BNE (R230). -/
def opBne : SReg → SReg → BitVec 23 → Op := branch fun a b => a != b
/-- BLT (R230). -/
def opBlt : SReg → SReg → BitVec 23 → Op := branch BitVec.slt
/-- BGE (R230). -/
def opBge : SReg → SReg → BitVec 23 → Op := branch fun a b => !a.slt b
/-- BLTU (R230). -/
def opBltu : SReg → SReg → BitVec 23 → Op := branch BitVec.ult
/-- BGEU (R230). -/
def opBgeu : SReg → SReg → BitVec 23 → Op := branch fun a b => !a.ult b

/-- A jump that links: without a link it leaves loops as a branch does, with one it is a call and pops nothing
(R231, R234). -/
def jump (d : SReg) (pc target : Word) : Res :=
  if d = 0 then transfer pc target id
  else .commit { run := fun t => t.modMy (·.wx d (pc + 16)), next := some target }

/-- JAL (R231). -/
def opJal (d : SReg) (o : BitVec 28) : Op := fun c _ => jump d c.pc (c.pc + o.signExtend 64 * 16)

/-- JALR (R231). -/
def opJalr (d a : SReg) (imm : BitVec 23) : Op := fun c s =>
  if imm.toNat % 16 ≠ 0 then .trap 0x03 0
  else jump d c.pc ((s.my.rx a + imm.signExtend 64) &&& ~~~15)

/-- LOOP (R232). A count of 0 transfers past the body, so where the LOOP itself is the last bundle of an enclosing body that loop
end does not happen (log 92). -/
def opLoop (a : SReg) (o : BitVec 23) : Op := fun c s =>
  let n := s.my.rx a
  let last := c.pc + o.setWidth 64 * 16
  if o = 0 ∨ (n ≠ 0 ∧ 4 ≤ s.my.loops.length) then .trap 0x03 0
  else if n = 0 then .commit { run := id, next := some (last + 16) }
  else commits fun t => t.modMy fun h =>
    { h with loops := h.loops ++ [{ vloop := false, count := n, start := c.pc, last := last }] }

/-- VLOOP (R140, R235): a pass begins with a new strip interval (R109). -/
def opVloop (a : SReg) (o : BitVec 23) : Op := fun c s =>
  let n := s.my.rx a
  let last := c.pc + o.setWidth 64 * 16
  if o = 0 ∨ s.my.loops.any (·.vloop) ∨ (n ≠ 0 ∧ 4 ≤ s.my.loops.length) then .trap 0x03 0
  else if n = 0 then
    .commit { run := fun t => t.modMy fun h => h.modCtl fun w => { w with strip := 0, vl := 0 }, next := some (last + 16) }
  else .commit
    { run := fun t => t.modMy fun h =>
        { h.modCtl (fun w => { w with strip := n, vl := min n.toNat h.vlLimit }) with
          loops := h.loops ++ [{ vloop := true, count := 0, start := c.pc, last := last }] }
      cut := true }

/-- VTYPE written: VL is bounded by the new type (R136). -/
def Hart.setVtype (h : Hart) (v : BitVec 5) : Hart :=
  let h := h.modCtl fun c => { c with vtype := v }
  h.modCtl fun c => { c with vl := min c.vl h.vlLimit }

/-- SETVL (R236). -/
def opSetvl (d a : SReg) (e : BitVec 3) (g : BitVec 2) : Op := fun _ s =>
  if 4 < e.toNat then .trap 0x03 0
  else commits fun t => t.modMy fun h =>
    let h := h.modCtl fun c => { c with vtype := g ++ e }
    let vl := min (s.my.rx a).toNat h.vlLimit
    (h.modCtl fun c => { c with vl := vl }).wx d (BitVec.ofNat 64 vl)

/-- BUDGET as it reads: a budget of 0 is never counted and reads 0xFFFF_FFFF (R161). -/
def Ident.budgetRead (i : Ident) : Word := if i.counted then i.budget else 0xFFFFFFFF

/-- The BANKMAP control word (R49). -/
def Core.bankmap (c : Core) : Word :=
  BitVec.ofNat 64 (pack [(0, c.retired.toNat), (16, c.evacuating.toNat), (32, c.nseg), (40, c.alloc.toNat),
    (48, c.gridGone.toNat)])

/-- A control word as it reads (R238, R239); none for a number that neither table lists. -/
def State.ctlRead (s : State) (k n : Nat) : Option Word :=
  let c := s.core k
  let h := c.hart
  let w := h.ctl
  match n with
  | 0x000 => some (BitVec.ofNat 64 w.vl)
  | 0x001 => some (w.vtype.setWidth 64)
  | 0x002 => some (BitVec.ofNat 64 (vlmaxOf h.sup.vlcap.toNat w.vtype))
  | 0x003 => some (w.fill.setWidth 64)
  | 0x004 => some (w.frm.setWidth 64)
  | 0x005 => some (w.fflags.setWidth 64)
  | 0x006 => some (w.qfmt.setWidth 64)
  | 0x007 => some w.srseed
  | 0x008 => some w.strip
  | 0x010 => some (w.tshp.setWidth 64)
  | 0x011 => some (w.msel.setWidth 64)
  | 0x020 => some (BitVec.ofNat 64 (s.atime k))
  | 0x021 => some h.ident.deadline
  | 0x022 => some h.ident.budgetRead
  | 0x030 => some (BitVec.ofNat 64 k)
  | 0x031 => some h.ident.gangid
  | 0x032 => some (h.ident.gangidx.setWidth 64)
  | 0x033 => some (h.ident.gangw.setWidth 64)
  | 0x034 => some h.ident.arg
  | 0x040 => some (BitVec.ofNat 64 c.capgrid)
  | 0x041 => some (BitVec.ofNat 64 c.capscr)
  | 0x050 => some (w.errcnt.setWidth 64)
  | 0x051 => some (w.violcnt.setWidth 64)
  | 0x100 => some (h.sup.vlcap.setWidth 64)
  | 0x101 => some (h.sup.owner.setWidth 64)
  | 0x102 => some h.sup.dirbase
  | 0x103 => some h.sup.trapvec
  | 0x104 => some (h.sup.trapcause.setWidth 64)
  | 0x105 => some h.sup.trappc
  | 0x106 => some h.sup.trapaddr
  | 0x107 => some (h.sup.trapslot.setWidth 64)
  | 0x108 => some h.sup.saveptr
  | 0x109 => some (if h.sup.violmode then 1 else 0)
  | 0x10A => some c.bankmap
  | _ => none

/-- A supervisor word changed. -/
def Hart.modSup (h : Hart) (f : Sup → Sup) : Hart := { h with sup := f h.sup }

/-- A value kept where a test holds; otherwise it is refused with the illegal-operand trap (R237). -/
def accept (b : Bool) (f : Hart → Hart) : Option (Hart → Hart) := if b then some f else none

/-- The effect of writing a control word, none where the write is refused (R237 to R239). -/
def ctlWrite (n : Nat) (v : Word) : Option (Hart → Hart) :=
  let u := v.toNat
  match n with
  | 0x001 => accept (vtypeOk u) fun h => h.setVtype (v.setWidth 5)
  | 0x003 => accept (decide (u < 2 ^ 32)) fun h => h.modCtl fun c => { c with fill := v.setWidth 32 }
  | 0x004 => accept (decide (1 ≤ u) && decide (u ≤ 6)) fun h => h.modCtl fun c => { c with frm := v.setWidth 3 }
  | 0x005 => some fun h => h.modCtl fun c => { c with fflags := v.setWidth 6 }
  | 0x006 => accept (decide (u < 2 ^ 10)) fun h => h.modCtl fun c => { c with qfmt := v.setWidth 10 }
  | 0x007 => some fun h => h.modCtl fun c => { c with srseed := v }
  | 0x011 => accept (decide (u ≤ 7)) fun h => h.modCtl fun c => { c with msel := v.setWidth 3 }
  | 0x100 => accept (vlcapOk u) fun h =>
      let h := h.modSup fun p => { p with vlcap := v.setWidth 12 }
      h.modCtl fun c => { c with vl := min c.vl h.vlLimit }
  | 0x101 => accept (decide (u ≤ 4095)) fun h => h.modSup fun p => { p with owner := v.setWidth 12 }
  | 0x102 => accept (decide (u % 64 = 0) && decide (u < 2 ^ 52)) fun h => h.modSup fun p => { p with dirbase := v }
  | 0x103 => accept (decide (u % 16 = 0)) fun h => h.modSup fun p => { p with trapvec := v }
  | 0x104 => accept (decide (u < 2 ^ 11) && decide (u / 256 % 4 ≠ 3)) fun h =>
      h.modSup fun p => { p with trapcause := v.setWidth 11 }
  | 0x105 => accept (decide (u % 16 = 0)) fun h => h.modSup fun p => { p with trappc := v }
  | 0x106 => some fun h => h.modSup fun p => { p with trapaddr := v }
  | 0x107 => some id
  | 0x108 => accept (decide (u % 4096 = 0)) fun h =>
      (h.modSup fun p => { p with saveptr := v }).modGrid fun g => { g with dirty := ~~~0 }
  | 0x109 => accept (decide (u ≤ 1)) fun h => h.modSup fun p => { p with violmode := u == 1 }
  | _ => none

/-- The control words open at S and F only (R212). -/
def ctlPrivileged (n : Nat) : Bool := decide (0x100 ≤ n) && decide (n ≤ 0x10A)

/-- A long operation that may still raise flags is running (R237). -/
def Hart.flagsPending (h : Hart) : Bool := !h.opas.isEmpty || h.long.isSome

/-- A control-word operation passes the privilege check, and one of FFLAGS waits for the flags of operations issued
earlier (R212, R237). -/
def ctlGate (s : State) (n : Nat) (f : Res) : Res :=
  if ctlPrivileged n && s.my.level == .u then .trap 0x04 0
  else match f with
    | .trap c a sv f kp => .trap c a sv f kp
    | r => if n = 0x005 ∧ s.my.flagsPending then .stall else r

/-- GETC (R237). -/
def opGetc (d : SReg) (c : BitVec 12) : Op := fun _ s =>
  ctlGate s c.toNat (match s.ctlRead s.cur c.toNat with
    | some v => writes d v
    | none => .trap 0x03 0)

/-- A control word written: SRSEED after the draws of the bundle's other operations (R240). -/
def ctlStore (s : State) (n : Nat) (v : Word) : Res :=
  ctlGate s n (match ctlWrite n v with
    | none => .trap 0x03 0
    | some f => if n = 0x007 then .commit { run := id, after := fun t => t.modMy f } else commits fun t => t.modMy f)

/-- SETC (R237). -/
def opSetc (a : SReg) (c : BitVec 12) : Op := fun _ s => ctlStore s c.toNat (s.my.rx a)

/-- SETCI (R237). -/
def opSetci (imm : BitVec 21) (c : BitVec 12) : Op := fun _ s => ctlStore s c.toNat (imm.setWidth 64)

end Sys2Proof.Machine
end

