-- ==== Sys2Proof/Machine/MemInstr.lean ====
section
/-! DEFINITION. Accesses of a bundle: their checks, the wait for an answer, and their commit (R107, R173, R174); the
scalar loads and stores, timed accesses, atomics and FENCE (R247 to R256). -/

namespace Sys2Proof.Machine

/-- The class bits of R112. -/
def clsSR : BitVec 8 := 0x01
/-- Scalar writes. -/
def clsSW : BitVec 8 := 0x02
/-- Vector reads. -/
def clsVR : BitVec 8 := 0x04
/-- Vector writes. -/
def clsVW : BitVec 8 := 0x08
/-- Stream reads. -/
def clsQR : BitVec 8 := 0x10
/-- Store-stream writes. -/
def clsQW : BitVec 8 := 0x20
/-- Copy reads. -/
def clsCR : BitVec 8 := 0x40
/-- Copy writes. -/
def clsCW : BitVec 8 := 0x80

/-- An access of the bundle in hand, its blocks still to be found (R69, R110, R112). -/
def newFlight (s : State) (c : OpCtx) (cls : BitVec 8) (vec : Bool) (space kind : Nat) (act : Act) : Flight :=
  let h := s.my
  { core := s.cur, owner := h.sup.owner.toNat, area := h.sup.saveptr.toNat, lvl := h.level, cls := cls, vec := vec,
    interval := h.interval, space := space, kind := kind, pc := c.pc, slot := c.slot, act := act, pieces := [],
    sent := s.atime s.cur, land := .ask [] }

/-- The code of a space in R69. -/
def spaceNum : Space → Nat
  | .dv => 0
  | .ls => 1
  | .cs => 2

/-- What a translated access must pass before it issues: scratch being moved stalls, a block held for its place
blocks, and then the traps of R174 in its order. -/
def Xls.gate (x : Xls) (k : Res) : Res :=
  if x.moving then .stall
  else match x.held with
    | some a => .wait 0 (some (11, BitVec.ofNat 64 a)) id
    | none => match x.nonres with
      | some a => .trap 0x0A (BitVec.ofNat 64 a)
      | none => match lowestFail (x.fails.filter fun e => e.strict && !e.data) with
        | some e => .trap 0x21 (BitVec.ofNat 64 e.addr)
        | none => match lowestFail (x.fails.filter fun e => e.strict && e.data) with
          | some e => .trap 0x20 (BitVec.ofNat 64 e.addr)
          | none => k

/-- The blocks of an access of the bundle in hand. -/
def State.translate (s : State) (space : Nat) (n : Need) (reqs : List Req) : Xls :=
  s.xlAll (s.who s.cur) s.me.cache space n reqs {}

/-- The hart's M operation waits for an answer. -/
def State.asking (s : State) : State := s.modMy fun h => { h with wait := .ask }

/-- The strict failure that an answer brings, as a trap (R28, R67, R173). -/
def Flight.strictTrap (f : Flight) (k : Res) : Res :=
  match lowestFail (f.fails.filter (·.strict)) with
  | some e => .trap (if e.data then 0x20 else 0x21) (BitVec.ofNat 64 e.addr)
  | none => k

/-- An access that performs before its bundle commits (R107, R173): performed at commit where the fabric answers at
once, otherwise sent and waited for. -/
def State.sendBefore (s : State) (x : Xls) (f : Flight) (post : Flight → State → State) : Res :=
  if f.pieces.isEmpty || s.atOnce f then
    match s.strictError f with
    | some e => .trap (if e.data then 0x20 else 0x21) (BitVec.ofNat 64 e.addr)
    | none => commits fun t =>
        match (t.useEntries s.cur x.used).perform f with
        | (g, u) => post g u
  else .wait 1 none fun t =>
    { t.asking with flights := t.flights ++ [{ f with strict := f.pieces.any (·.strict), used := x.used }] }

/-- Such an access, its failures reported with its bundle's commit (R28). -/
def State.sendAsk (s : State) (x : Xls) (f : Flight) (post : Flight → State → State) : Res :=
  s.sendBefore x f fun g u => post g (u.report g)

/-- An entry that a translation used is still what one would use. -/
def State.stands (s : State) (e : RcEnt) : Bool :=
  match s.lookup s.me.cache e.owner s.my.sup.dirbase.toNat e.desc.base.toNat with
  | .ok x => x.1.same e
  | .error _ => false

/-- The answer of an access at its bundle's commit: the range cache is filled (R24) and failures are reported (R28). -/
def State.takeAnswer (s : State) (g : Flight) : State := (s.useEntries s.cur (g.used.filter s.stands)).report g

/-- The access that the bundle in hand waits for is held at a home that cannot perform it yet: the block of R163 (R131). -/
def State.askBlock (s : State) : Option (Nat × Word) :=
  let w := s.who s.cur
  s.flights.findSome? fun f =>
    if f.ofCtx w.core w.owner w.area && (match f.land with
      | .ask _ => true
      | _ => false) then (f.pieces.find? (s.blockHeld f)).map fun p => (11, BitVec.ofNat 64 p.lo)
    else none

/-- The wait for an access that has been sent. -/
def State.askWait (s : State) : Res := .wait 1 s.askBlock id

/-- An access of the bundle in hand: waited for where it performs before commit (`early`, or a strict block), and
otherwise issued at commit (R107). -/
def State.access (s : State) (f : Flight) (early : Bool) (n : Need) (reqs : List Req)
    (post : Flight → State → State) : Res :=
  match s.my.wait with
  | .ask => s.askWait
  | .answer g => g.strictTrap (commits fun t => post g (t.takeAnswer g))
  | _ =>
    let x := s.translate f.space n reqs
    x.gate <|
      let f := { f with pieces := x.pieces, fails := x.fails }
      if early || x.pieces.any (·.strict) then s.sendAsk x f post
      else commits fun t => (t.useEntries s.cur x.used).issue { f with land := .drop }

/-- The value of `n` loaded bytes, or FILL truncated where a block failed, extended (R249, R250). -/
def loadValue (f : Flight) (signed : Bool) (ea n : Nat) (fill : BitVec 32) : Word :=
  let v := if f.fails.isEmpty then (gather f.got ea n).getD 0 else fill.toNat % 2 ^ (8 * n)
  if signed then sextLow (8 * n) (BitVec.ofNat 64 v) else BitVec.ofNat 64 v

/-- The blocks of a scalar access of `n` bytes: one that is not aligned to its size is observed byte by byte, so each of its
bytes travels as a block of its own (R248, log 77). -/
def scalarReqs (ea n : Nat) (qs : List Req) : List Req :=
  if ea % n = 0 then qs else
  qs.flatMap fun q => ((List.range 64).filter fun i => q.mask.getLsbD (8 * i)).map fun i =>
    { q with lo := q.blk + i, mask := byteMask i (i + 1) }

/-- A scalar load of `n` bytes (R249). -/
def loadOp (n : Nat) (signed : Bool) (p : Space) (d a : SReg) (imm : BitVec 20) : Op := fun c s =>
  let ea := (s.my.rx a + imm64 imm).toNat
  s.access (newFlight s c clsSR false (spaceNum p) 0 .read) true .load (scalarReqs ea n (spanReqs ea n)) fun f t =>
    t.modMy (·.wx d (loadValue f signed ea n s.my.ctl.fill))

/-- A scalar store of `n` bytes (R249). -/
def storeOp (n : Nat) (p : Space) (b a : SReg) (imm : BitVec 20) : Op := fun c s =>
  let ea := (s.my.rx a + imm64 imm).toNat
  s.access (newFlight s c clsSW false (spaceNum p) 1 .write) false .store
    (scalarReqs ea n (storeReqs ea n ((s.my.rx b).toNat % 2 ^ (8 * n)))) fun _ t => t

/-- LDB (R249). -/
def opLdb : Space → SReg → SReg → BitVec 20 → Op := loadOp 1 true
/-- LDBU (R249). -/
def opLdbu : Space → SReg → SReg → BitVec 20 → Op := loadOp 1 false
/-- LDH (R249). -/
def opLdh : Space → SReg → SReg → BitVec 20 → Op := loadOp 2 true
/-- LDHU (R249). -/
def opLdhu : Space → SReg → SReg → BitVec 20 → Op := loadOp 2 false
/-- LDW (R249). -/
def opLdw : Space → SReg → SReg → BitVec 20 → Op := loadOp 4 true
/-- LDWU (R249). -/
def opLdwu : Space → SReg → SReg → BitVec 20 → Op := loadOp 4 false
/-- LDD (R249). -/
def opLdd : Space → SReg → SReg → BitVec 20 → Op := loadOp 8 false
/-- STB (R249). -/
def opStb : Space → SReg → SReg → BitVec 20 → Op := storeOp 1
/-- STH (R249). -/
def opSth : Space → SReg → SReg → BitVec 20 → Op := storeOp 2
/-- STW (R249). -/
def opStw : Space → SReg → SReg → BitVec 20 → Op := storeOp 4
/-- STD (R249). -/
def opStd : Space → SReg → SReg → BitVec 20 → Op := storeOp 8

/-- A time operand is more than 2^30 ticks ahead (R122). -/
def State.tooFar (s : State) (t : Word) : Bool := decide (s.atime s.cur + 2 ^ 30 < t.toNat)

/-- LDNB (R119, R251): the bundle blocks until every block's home has reached the time. One whose time is the ATIME of its die
waits, at a home of that die, for the tick to end (R118, R121, log 76). -/
def opLdnb (d a t : SReg) (z : BitVec 2) : Op := fun c s =>
  let ea := (s.my.rx a).toNat
  let n := 2 ^ z.toNat
  let time := s.my.rx t
  let post (f : Flight) (t : State) : State := t.modMy (·.wx d (loadValue f false ea n s.my.ctl.fill))
  let x := s.translate 0 .load (spanReqs ea n)
  let failing := !x.fails.isEmpty || x.pieces.any fun p => (s.refused p.loc).isSome
  let now := s.atime s.cur
  let held := !failing && (decide (now < time.toNat) ||
    (decide (now = time.toNat) && x.pieces.any fun p => s.nearBy s.cur p.loc))
  let f := { newFlight s c clsSR false 0 0 .read with time := some time.toNat, wasFuture := held }
  if s.my.wait == .none && s.tooFar time then .trap 0x03 0
  else match s.my.wait with
    | .ask =>
      let waits := s.flights.any fun g => g.time.isSome && g.act == .read && g.wasFuture &&
        g.ofCtx s.cur s.my.sup.owner.toNat s.my.sup.saveptr.toNat &&
        g.pieces.any fun p => !s.homePassed p.loc time.toNat
      if waits then .wait 0 (some (8, BitVec.ofNat 64 ea)) id else s.askWait
    | .answer g => g.strictTrap (commits fun t => post g (t.takeAnswer g))
    | _ => x.gate <|
      let f := { f with pieces := x.pieces, fails := x.fails, used := x.used }
      if held then
        .wait 0 (some (8, BitVec.ofNat 64 ea)) fun t =>
          { t.asking with flights := t.flights ++ [{ f with strict := f.pieces.any (·.strict) }] }
      else s.sendAsk x f post

/-- A timed store (R118, R120, R122, R251): a strict one is accepted by every home before its bundle commits. -/
def State.timedStore (s : State) (f : Flight) (time : Word) (reqs : List Req) : Res :=
  match s.my.wait with
  | .ask => s.askWait
  | .answer g => commits fun t => t.takeAnswer g
  | _ =>
    if s.tooFar time then .trap 0x03 0
    else
      let x := s.translate 0 .store reqs
      x.gate <|
        let f := s.answerBad { f with pieces := x.pieces, fails := x.fails, land := .drop }
        if 4096 ≤ s.my.pend then .stall
        else f.strictTrap <|
          if (s.atOnce f && s.roomFor f) || !f.pieces.any (·.strict) then
            commits fun t => (t.useEntries s.cur x.used).issueTimed time.toNat f
          else .wait 1 none fun t =>
            let t := t.asking.modMy fun h => { h with pend := h.pend + 1 }
            let f := { f with land := .ask [], strict := true, used := x.used, time := some time.toNat
                              wasFuture := decide (t.atime t.cur < time.toNat) }
            { t with flights := t.flights ++ [f] }

/-- STVA (R251). -/
def opStva (b a t : SReg) (z : BitVec 2) : Op := fun c s =>
  let n := 2 ^ z.toNat
  s.timedStore (newFlight s c clsSW false 0 1 .write) (s.my.rx t)
    (storeReqs (s.my.rx a).toNat n ((s.my.rx b).toNat % 2 ^ (8 * n)))

/-- An ordering with acquire semantics (R114). -/
def ordAcquires : AmoOrd → Bool
  | .acquire => true
  | .acqRel => true
  | _ => false

/-- An ordering with release semantics (R114). -/
def ordReleases : AmoOrd → Bool
  | .release => true
  | .acqRel => true
  | _ => false

/-- An entry pushed to a store queue has not been written yet (R112, R114). -/
def Hart.pushPending (h : Hart) : Bool := h.queues.any fun p => p.2.bind == 2 && !p.2.entries.isEmpty

/-- A pushed entry of a context is still to be written, its queue bound or not (R112, R147). -/
def State.pushesOf (s : State) (w : Who) : Bool :=
  (s.hart w.core).pushPending || s.cores.any fun p => p.2.left.any fun l =>
    l.owner == w.owner && l.area == w.area && (w.area != 0 || p.1 == w.core)

/-- What an atomic delivers to sd (R253, R255). -/
def atomicResult (f : Flight) (op : AmoOp) (w ea : Nat) (fill : BitVec 32) : Word :=
  if f.fails.isEmpty then
    let old : Word := BitVec.ofNat 64 ((gather f.got ea (w / 8)).getD 0)
    if w = 32 ∧ op ≠ .fadd then sextLow 32 old else old
  else fill.setWidth 64

/-- The flags of an atomic that has performed (R253). -/
def atomicFlags (f : Flight) (op : AmoOp) (w ea : Nat) (arg : Word) : BitVec 6 :=
  if f.fails.isEmpty then (atomicNew op w ((gather f.got ea (w / 8)).getD 0) (arg.toNat % 2 ^ w) 0).2 else 0

/-- An atomic (R252 to R255): a release waits for what it releases at its scope, stream writes included (R114). -/
def atomicOp (space : Nat) (d a : SReg) (wd : BitVec 1) (op : AmoOp) (ord : AmoOrd) (sc : Scope) : Op := fun c s =>
  let w := if wd = 0 then 32 else 64
  let ea := (s.my.rx a).toNat / (w / 8) * (w / 8)
  let arg := s.my.rx d
  let new := s.my.rx (d + 1)
  let f := { newFlight s c (clsSR ||| clsSW) false space 2 (.atomic op w arg new) with
    acquire := ordAcquires ord, release := if ordReleases ord then some sc else none }
  if op = .cas ∧ (d = 0 ∨ d.toNat % 2 = 1) then .trap 0x03 0
  else if ordReleases ord && s.my.wait == .none && s.pushesOf (s.who s.cur) then .stall
  else s.access f true .atomic [{ blk := ea / 64 * 64, lo := ea, mask := byteMask (ea % 64) (ea % 64 + w / 8) }] fun f t =>
    (t.modMy (·.wx d (atomicResult f op w ea s.my.ctl.fill))).raise (atomicFlags f op w ea arg)

/-- AMO (R252). -/
def opAmo : SReg → SReg → BitVec 1 → AmoOp → AmoOrd → Scope → Op := atomicOp 0
/-- AMOS (R252). -/
def opAmos : SReg → SReg → BitVec 1 → AmoOp → AmoOrd → Scope → Op := atomicOp 2

/-- Copies that a context has issued and that have not ended (R112, R281). -/
def State.copying (s : State) (w : Who) : Bool :=
  s.cores.any fun p => p.2.copies.any fun q =>
    q.2.owner == w.owner && q.2.area == w.area && (w.area != 0 || p.1 == w.core) && q.2.st != .ended

/-- An access in the classes of a FENCE's predecessor set has still to perform at its scope (R111 to R113, R126, R127). -/
def State.fencePending (s : State) (p : BitVec 8) (sc : Scope) : Bool :=
  let w := s.who s.cur
  s.pendingIn w p sc || ((p &&& clsQW) != 0 && s.pushesOf w) || ((p &&& (clsCR ||| clsCW)) != 0 && s.copying w)

/-- What has been prefetched and not popped is discarded and will be read again (R112). -/
def Queue.refetch (q : Queue) : Queue :=
  if q.bind = 1 then
    match q.entries ++ q.inbound with
    | [] => { q with fault := none, taken := false, part := none }
    | e :: _ => { q with win := e.win, pos := e.pos, entries := [], inbound := [], scales := [], fault := none, taken := false,
                         part := none }
  else q

/-- FENCE (R111, R113, R256): an empty set waits for nothing; at HART and CORE scope what the core still has under way holds
back only its stream reads, its store streams and its copies; every FENCE ends its strip interval. -/
def opFence (p q : BitVec 8) (sc : Scope) : Op := fun _ s =>
  if p ≠ 0 ∧ q ≠ 0 ∧ s.fencePending p sc then .wait 0 (some (9, 0)) id
  else .commit
    { run := fun t =>
        let t := if scopeInner sc && p != 0 then t.fenceBehind (t.who t.cur) p q else t
        if p ≠ 0 ∧ (q &&& clsQR) ≠ 0 then t.modMy fun h => { h with queues := h.queues.map fun x => (x.1, x.2.refetch) }
        else t
      cut := true }

end Sys2Proof.Machine
end

