-- ==== Sys2Proof/Machine/Operands.lean ====
section
/-! DEFINITION. Operands on the grid: element width, views and row groups (R132, R136 to R138), masks (R139), the
checks and stalls that every vector operation shares (R51, R134, R135, R176, R178), and how a vector operation runs,
at once or long (R99, R319, R320). -/

namespace Sys2Proof.Machine

/-- The SEW code. -/
def sewOf (vtype : BitVec 5) : Nat := vtype.toNat % 8
/-- The element width in bits (R136). -/
def widthOf (vtype : BitVec 5) : Nat := 2 ^ (sewOf vtype + 1)

/-- The mask register of an operation; none when its mask-enable bit is 0 (R139). -/
def Hart.maskReg (h : Hart) : MaskUse → Option MReg
  | .off => none
  | .msel => some h.ctl.msel
  | .hdr k => some k

/-- The modes that a vector operation captures at issue (R99, R177). -/
def Hart.capture (h : Hart) (m : MaskUse) (rm : Nat) (scalar : Word) : VCap :=
  { vl := h.ctl.vl, vtype := h.ctl.vtype, vlcap := h.sup.vlcap.toNat, fill := h.ctl.fill, rm := BitVec.ofNat 3 rm,
    qfmt := h.ctl.qfmt, mask := h.maskReg m, seed := h.ctl.srseed, scalar := scalar }

/-- VLMAX under captured modes. -/
def VCap.vlmax (c : VCap) : Nat := vlmaxOf c.vlcap c.vtype
/-- The element width under captured modes. -/
def VCap.width (c : VCap) : Nat := widthOf c.vtype
/-- FILL at the element width (R139). -/
def VCap.fillAt (c : VCap) : Nat := c.fill.toNat % 2 ^ c.width

/-- A mask register of a grid; m0 reads all ones (R139). -/
def Grid.mask (g : Grid) (k : MReg) : BitVec 8192 := if k = 0 then ~~~0 else g.masks.get k.toNat

/-- Element `i` is active (R139). -/
def VCap.active (c : VCap) (g : Grid) (i : Nat) : Bool :=
  match c.mask with
  | none => true
  | some k => (g.mask k).getLsbD i

/-- Where element `i` of an operand lies: its row and its lowest bit in the row (R132, R138). -/
def elemPlace (v : View) (vlmax w : Nat) (r : GReg) (i : Nat) : Nat × Nat :=
  match v with
  | .row => (r.toNat + i / vlmax, w * (i % vlmax))
  | .col => (r.toNat / 64 * 64 + i, 32 * (r.toNat % 64))
  | .diag => (r.toNat / 64 * 64 + i, 32 * ((i + r.toNat % 64) % 64))

/-- Some bits of a row. -/
def Grid.bitsAt (g : Grid) (row lo w : Nat) : Nat := (g.rows.get row).toNat / 2 ^ lo % 2 ^ w

/-- Element `i` of an operand as a bit string. -/
def VCap.elem (c : VCap) (g : Grid) (v : View) (r : GReg) (i : Nat) : Nat :=
  let p := elemPlace v c.vlmax c.width r i
  g.bitsAt p.1 p.2 c.width

/-- Element `i` of an operand read across lanes: FILL at or beyond VL (R139). -/
def VCap.lane (c : VCap) (g : Grid) (v : View) (r : GReg) (i : Nat) : Nat :=
  if i < c.vl then c.elem g v r i else c.fillAt

/-- A field of a grid row to write: row, lowest bit, width, value. -/
abbrev RowWrite := Nat × Nat × Nat × Nat

/-- A field written: the row becomes dirty (R191). -/
def Grid.writeBits (g : Grid) (x : RowWrite) : Grid :=
  (g.setRow x.1 (putBits (g.rows.get x.1) x.2.1 x.2.2.1 x.2.2.2)).mend x.1 x.2.1 x.2.2.1

/-- Fields written one after another. -/
def Grid.writeAll (g : Grid) (xs : List RowWrite) : Grid := xs.foldl Grid.writeBits g

/-- The write of element `i` of a destination. -/
def VCap.put (c : VCap) (v : View) (r : GReg) (i x : Nat) : List RowWrite :=
  let p := elemPlace v c.vlmax c.width r i
  [(p.1, p.2, c.width, x)]

/-- The grid rows of an operand: its group, or its whole half (R134, R138). -/
def operandRows (v : View) (g : Nat) (r : GReg) : List Nat :=
  match v with
  | .row => (List.range g).map (r.toNat + ·)
  | _ => (List.range 64).map (r.toNat / 64 * 64 + ·)

/-- An operand breaks the limits of R138: a base not aligned to its group, or a column or diagonal view without SEW 32
and group 1. -/
def operandBad (v : View) (vtype : BitVec 5) (r : GReg) : Bool :=
  match v with
  | .row => r.toNat % groupOf vtype != 0
  | _ => sewOf vtype != 4 || groupOf vtype != 1

/-- The over-capacity trap of a reference to the missing half, with the lowest row of it that the operation names
(R51, R59, R314). A bundle of which an operation has been sent has passed this check (R173). -/
def Hart.capTrap (h : Hart) (rows : List Nat) (k : Res) : Res :=
  match if h.passed.isSome then none else h.missingHalf with
  | none => k
  | some m =>
    match (rows.filter fun r => m == 2 || r / 64 == m).foldl (fun (a : Option Nat) r => some (lower a r |>.getD r)) none with
    | some r => .trap 0x10 (BitVec.ofNat 64 (2 ^ 60 + r))
    | none => k

/-- A row is busy (R134). -/
def Hart.rowBusy (h : Hart) (rows : List Nat) : Bool := rows.any fun r => h.grid.busy.getLsbD r

/-- A row is busy or has an arrival group missing (R134, R135). -/
def Hart.rowWaits (h : Hart) (rows : List Nat) : Bool :=
  h.rowBusy rows || rows.any fun r => h.grid.missing.getD r 0xFF != 0xFF

/-- The arrival groups that some rows of a grid have missing (R135). -/
def Grid.missingGroups (g : Grid) (rows : List Nat) : List (Nat × Nat) :=
  rows.eraseDups.flatMap fun r => ((List.range 8).filter fun k => !(g.missing.getD r 0xFF).getLsbD k).map fun k => (r, k)

/-- A handler holds a partial operation (R178). -/
def Hart.holdsPartial (h : Hart) : Bool := h.handler && (h.popa.isSome || h.pvec.isSome)

/-- What a vector operation must pass, in the order of R174: its operands, a reserved format, the missing half, and then the
stalls of R134, R135 and R176. A long one takes its arrival groups after it has committed (R135). -/
def rowGate (s : State) (rows : List Nat) (illegal reserved : Bool) (k : Res) (long : Bool := false) : Res :=
  let h := s.my
  if illegal then .trap 0x03 0
  else if reserved then .trap 0x0E 0
  else h.capTrap rows (if h.long.isSome || (if long then h.rowBusy rows else h.rowWaits rows) then .stall else k)

/-- What every vector operation on operands must pass: the operand limits and the operation's own, and its rows. -/
def vecGate (s : State) (v : View) (regs : List GReg) (illegal reserved : Bool) (k : Res) (long : Bool := false) : Res :=
  let vt := s.my.ctl.vtype
  rowGate s (regs.flatMap (operandRows v (groupOf vt))) (illegal || regs.any (operandBad v vt)) reserved k long

/-- A vector operation that writes elements of one destination group: its view, destination, source registers, whether its mask makes
elements inactive, whether it rounds to the mode it captures (R76, R319: one of integer kind does not), and what element `i` writes, given the modes, the grid as
its sources stand and the generator. -/
structure VPlan where
  view : View
  dst : GReg
  srcs : List GReg := []
  masked : Bool := true
  rounds : VCap → Bool := fun _ => false
  elem : VCap → Grid → Nat → FState → List RowWrite × FState

/-- Elements in increasing index (R319). -/
def VPlan.run (p : VPlan) (c : VCap) (src : Grid) : List Nat → Grid → FState → Grid × FState
  | [], d, f => (d, f)
  | i :: is, d, f =>
    match p.elem c src i f with
    | (xs, f) => p.run c src is (d.writeAll xs) f

/-- The active elements below VL from an index on. -/
def VCap.actives (c : VCap) (g : Grid) (start : Nat) : List Nat :=
  (List.range c.vl).filter fun i => decide (start ≤ i) && c.active g i

/-- The elements that a plan visits. -/
def VPlan.visits (p : VPlan) (c : VCap) (g : Grid) (start : Nat) : List Nat :=
  VCap.actives (if p.masked then c else { c with mask := none }) g start

/-- Busy bits of some rows. -/
def rowBits (rows : List Nat) : BitVec 128 := BitVec.ofNat 128 ((rows.eraseDups.map fun r => 2 ^ r).sum)

/-- The hart's SRSEED replaced. -/
def Hart.setSeed (h : Hart) (w : Word) : Hart := h.modCtl fun c => { c with srseed := w }

/-- A plan run whole at commit: sources as before the bundle, writes on the grid as it stands. -/
def State.runPlan (t : State) (p : VPlan) (c : VCap) (src : Grid) (start : Nat) (seed : Word) : FState × State :=
  match p.run c src (p.visits c src start) t.my.grid { seed := seed } with
  | (g, f) => (f, t.modMy fun h => { h with grid := g })

/-- An operation that completes before its bundle commits: its draws are the hart's (R76, R320). -/
def planShort (s : State) (p : VPlan) (c : VCap) : Res :=
  commits fun t =>
    match t.runPlan p c s.my.grid 0 t.my.ctl.srseed with
    | (f, u) => (u.modMy (·.setSeed f.seed)).raise f.flags

/-- The grid rows that a plan reads and writes. -/
def VPlan.rows (p : VPlan) (g : Nat) : List Nat := (p.dst :: p.srcs).flatMap (operandRows p.view g)

/-- A long operation (R320): it issues at commit and completes later, or at once where the model does not delay
(log 6) and no arrival group of its rows is missing (R135); one that rounds stochastically draws from its own generator and
advances the hart's by one draw (R76). -/
def planLong (s : State) (i : Instr) (oc : OpCtx) (p : VPlan) (c : VCap) : Res :=
  commits fun t =>
    let seed := t.my.ctl.srseed
    let t := if p.rounds c && c.rm == 6 then t.modMy (·.setSeed (srNext seed)) else t
    let needs := s.my.grid.missingGroups (p.rows (groupOf c.vtype))
    if s.delay || !needs.isEmpty then t.modMy fun h =>
      { h with
        long := some { instr := some i, pc := oc.pc, slot := oc.slot, start := 0, cap := { c with seed := seed },
                       src := s.my.grid, needs := needs }
        grid := { h.grid with busy := h.grid.busy ||| rowBits (operandRows p.view (groupOf c.vtype) p.dst) } }
    else
      match t.runPlan p c s.my.grid 0 seed with
      | (f, u) => u.raise f.flags

/-- How an operation is run beside its plan: its instruction, mask operand, rounding code and scalar operand (R99), the
registers that one without a plan reads, when it is an illegal operand or names a reserved format, and whether it is long at any group. -/
structure VUse where
  instr : Instr
  mask : MaskUse := .off
  rm : Nat := 0
  scalar : Option SReg := none
  srcs : List GReg := []
  illegal : State → Bool := fun _ => false
  reserved : State → Bool := fun _ => false
  always : Bool := false

/-- A vector operation with a destination group: long at group 2 or more, or where it always is (R320). -/
def planOp (u : VUse) (p : VPlan) : Op := fun oc s =>
  let h := s.my
  let long := u.always || decide (2 ≤ groupOf h.ctl.vtype)
  let c := h.capture u.mask (h.ctl.rounding u.rm) ((u.scalar.map h.rx).getD 0)
  vecGate s p.view (p.dst :: p.srcs) (u.illegal s || (long && h.holdsPartial)) (u.reserved s)
    (if long then planLong s u.instr oc p c else planShort s p c) long

end Sys2Proof.Machine
end

