-- ==== Sys2Proof/Machine/VecArith.lean ====
section
/-! DEFINITION. Vector operations that compute element by element: arithmetic, bit and move operations (R321 to R323),
conversion and quantisation (R326, R327), widening and narrowing (R329 to R331), VHAD, slides, VPERM and VLUT (R332,
R337, R338). Each has a plan, which a resumed operation runs again, and the operation itself. -/

namespace Sys2Proof.Machine

/-- The float format of an element width (R318). -/
def elemFp (w : Nat) : Fp := if w = 16 then bf16 else fp32

/-- A signed element. -/
def sintOf (w x : Nat) : Int := (BitVec.ofNat w x).toInt

/-- A numeric operation of two operands: rounded once in a float kind, modular in an integer kind (R318, R319). -/
def numeric2 (ff : Nat → Num → Num → FState → Num × FState) (fi : Int → Int → Int) (c : VCap) (a b : Nat)
    (f : FState) : Nat × FState :=
  let w := c.width
  if 16 ≤ w then
    let p := elemFp w
    let (x, f) := ff c.rm.toNat (p.decode a) (p.decode b) f
    p.round c.rm.toNat false x f
  else (intBits w (fi (sintOf w a) (sintOf w b)), f)

/-- A multiply-add form: float with one rounding, integer modular (R321). -/
def numeric3 (neg : Bool) (c : VCap) (a b d : Nat) (f : FState) : Nat × FState :=
  let w := c.width
  if 16 ≤ w then
    let p := elemFp w
    let x := p.decode a
    let (x, f) := Num.fma c.rm.toNat (if neg then x.negate else x) (p.decode b) (p.decode d) f
    p.round c.rm.toNat false x f
  else
    let m := sintOf w a * sintOf w b
    (intBits w (sintOf w d + (if neg then -m else m)), f)

/-- A numeric operation of float kind rounds (R318, R319). -/
def VCap.floats (c : VCap) : Bool := decide (16 ≤ c.width)

/-- An operation whose results are exact. -/
def VCap.exact (_ : VCap) : Bool := false

/-- The plan of an element-wise operation of two registers. -/
def planVV (rounds : VCap → Bool) (k : VCap → Nat → Nat → FState → Nat × FState) (v : View) (d a b : GReg) : VPlan :=
  { view := v, dst := d, srcs := [a, b], rounds := rounds
    elem := fun c g i f =>
      let (x, f) := k c (c.elem g v a i) (c.elem g v b i) f
      (c.put v d i x, f) }

/-- The plan of an element-wise operation that also reads its destination. -/
def planVVV (rounds : VCap → Bool) (k : VCap → Nat → Nat → Nat → FState → Nat × FState) (v : View) (d a b : GReg) : VPlan :=
  { view := v, dst := d, srcs := [a, b, d], rounds := rounds
    elem := fun c g i f =>
      let (x, f) := k c (c.elem g v a i) (c.elem g v b i) (c.elem g v d i) f
      (c.put v d i x, f) }

/-- The plan of an element-wise operation of one register. -/
def planVU (k : VCap → Nat → FState → Nat × FState) (v : View) (d a : GReg) : VPlan :=
  { view := v, dst := d, srcs := [a]
    elem := fun c g i f =>
      let (x, f) := k c (c.elem g v a i) f
      (c.put v d i x, f) }

/-- The scalar operand at the element width (R318). -/
def VCap.x (c : VCap) : Nat := c.scalar.toNat % 2 ^ c.width

/-- The plan of a scalar form. -/
def planVS (rounds : VCap → Bool) (k : VCap → Nat → Nat → FState → Nat × FState) (v : View) (d a : GReg) : VPlan :=
  { view := v, dst := d, srcs := [a], rounds := rounds
    elem := fun c g i f =>
      let (x, f) := k c (c.elem g v a i) c.x f
      (c.put v d i x, f) }

/-- The sum of two elements. -/
def addElem : VCap → Nat → Nat → FState → Nat × FState := numeric2 (fun r x y f => x.add r y f) (· + ·)
/-- The product of two elements. -/
def mulElem : VCap → Nat → Nat → FState → Nat × FState := numeric2 (fun _ x y f => x.mul y f) (· * ·)
/-- The lesser or greater of two elements (R228, R321). -/
def minElem (greater : Bool) : VCap → Nat → Nat → FState → Nat × FState :=
  numeric2 (fun _ x y f => numMin greater x y f) fun x y => if greater then max x y else min x y

/-- The integer quotient of R321. -/
def divInt (w : Nat) (a b : Int) : Int :=
  if b = 0 then (if a < 0 then -(2 ^ (w - 1)) else 2 ^ (w - 1) - 1)
  else if a = -(2 ^ (w - 1)) ∧ b = -1 then 2 ^ (w - 1) - 1
  else Int.tdiv a b

/-- The quotient of two elements. -/
def divElem (c : VCap) : Nat → Nat → FState → Nat × FState := numeric2 (fun _ x y f => x.div y f) (divInt c.width) c

/-- VABS and VNEG: the sign bit of a number changed, a NaN made canonical, an integer modular (R321). -/
def signElem (neg : Bool) (c : VCap) (a : Nat) (f : FState) : Nat × FState :=
  let w := c.width
  if 16 ≤ w then
    let p := elemFp w
    match p.decode a with
    | .nan sig => (p.nanBits, f.raiseIf sig flagNV)
    | _ => (if neg then a ^^^ 2 ^ (w - 1) else a % 2 ^ (w - 1), f)
  else (intBits w (if neg then -sintOf w a else (sintOf w a).natAbs), f)

/-- A bit operation of two elements. -/
def bits2 (k : Nat → Nat → Nat → Nat) (c : VCap) (a b : Nat) (f : FState) : Nat × FState :=
  (k c.width a b % 2 ^ c.width, f)
/-- A bit operation that reads the destination. -/
def bits3 (k : Nat → Nat → Nat → Nat → Nat) (c : VCap) (a b d : Nat) (f : FState) : Nat × FState :=
  (k c.width a b d % 2 ^ c.width, f)
/-- A bit operation of one element. -/
def bits1 (k : Nat → Nat → Nat) (c : VCap) (a : Nat) (f : FState) : Nat × FState := (k c.width a % 2 ^ c.width, f)

/-- VSHRR of an element (R322). -/
def shrr (w a n : Nat) : Int := (sintOf w a + (if n = 0 then 0 else 2 ^ (n - 1))) / 2 ^ n

/-- VADD (R321). -/
def planVadd : View → GReg → GReg → GReg → VPlan := planVV VCap.floats addElem
/-- VSUB. -/
def planVsub : View → GReg → GReg → GReg → VPlan := planVV VCap.floats (numeric2 (fun r x y f => x.add r y.negate f) (· - ·))
/-- VMUL. -/
def planVmul : View → GReg → GReg → GReg → VPlan := planVV VCap.floats mulElem
/-- VFMA. -/
def planVfma : View → GReg → GReg → GReg → VPlan := planVVV VCap.floats (numeric3 false)
/-- VFMS. -/
def planVfms : View → GReg → GReg → GReg → VPlan := planVVV VCap.floats (numeric3 true)
/-- VMIN. -/
def planVmin : View → GReg → GReg → GReg → VPlan := planVV VCap.exact (minElem false)
/-- VMAX. -/
def planVmax : View → GReg → GReg → GReg → VPlan := planVV VCap.exact (minElem true)
/-- VABS. -/
def planVabs : View → GReg → GReg → VPlan := planVU (signElem false)
/-- VNEG. -/
def planVneg : View → GReg → GReg → VPlan := planVU (signElem true)
/-- VDIV. -/
def planVdiv : View → GReg → GReg → GReg → VPlan := planVV VCap.floats divElem
/-- VADDS. -/
def planVadds : View → GReg → GReg → VPlan := planVS VCap.floats addElem
/-- VMULS. -/
def planVmuls : View → GReg → GReg → VPlan := planVS VCap.floats mulElem
/-- VFMAS. -/
def planVfmas (v : View) (d a : GReg) : VPlan :=
  planVVV VCap.floats (fun c x _ z f => numeric3 false c x c.x z f) v d a a
/-- VAND (R322). -/
def planVand : View → GReg → GReg → GReg → VPlan := planVV VCap.exact (bits2 fun _ a b => a &&& b)
/-- VOR. -/
def planVor : View → GReg → GReg → GReg → VPlan := planVV VCap.exact (bits2 fun _ a b => a ||| b)
/-- VXOR. -/
def planVxor : View → GReg → GReg → GReg → VPlan := planVV VCap.exact (bits2 fun _ a b => a ^^^ b)
/-- VNOT. -/
def planVnot : View → GReg → GReg → VPlan := planVU (bits1 fun w a => 2 ^ w - 1 - a)
/-- VSLL. -/
def planVsll : View → GReg → GReg → GReg → VPlan := planVV VCap.exact (bits2 fun w a b => a * 2 ^ (b % w))
/-- VSRL. -/
def planVsrl : View → GReg → GReg → GReg → VPlan := planVV VCap.exact (bits2 fun w a b => a / 2 ^ (b % w))
/-- VSRA. -/
def planVsra : View → GReg → GReg → GReg → VPlan := planVV VCap.exact (bits2 fun w a b => intBits w (sintOf w a / 2 ^ (b % w)))
/-- VFSHL. -/
def planVfshl : View → GReg → GReg → GReg → VPlan :=
  planVVV VCap.exact (bits3 fun w a b d => (d * 2 ^ w + a) * 2 ^ (b % w) / 2 ^ w)
/-- VFSHR. -/
def planVfshr : View → GReg → GReg → GReg → VPlan :=
  planVVV VCap.exact (bits3 fun w a b d => (a * 2 ^ w + d) / 2 ^ (b % w))
/-- VMULH. -/
def planVmulh : View → GReg → GReg → GReg → VPlan :=
  planVV VCap.exact (bits2 fun w a b => intBits w (sintOf w a * sintOf w b / 2 ^ w))
/-- VSHRR. -/
def planVshrr : View → GReg → GReg → GReg → VPlan := planVV VCap.exact (bits2 fun w a b => intBits w (shrr w a (b % w)))
/-- VCLZ. -/
def planVclz : View → GReg → GReg → VPlan := planVU (bits1 clz)
/-- VPOPC. -/
def planVpopc : View → GReg → GReg → VPlan := planVU (bits1 popcount)
/-- VMV (R323). -/
def planVmv : View → GReg → GReg → VPlan := planVU (bits1 fun _ a => a)
/-- VBCAST. -/
def planVbcast (v : View) (d : GReg) : VPlan := { view := v, dst := d, elem := fun c _ i f => (c.put v d i c.x, f) }
/-- VID. -/
def planVid (v : View) (d : GReg) : VPlan :=
  { view := v, dst := d, elem := fun c _ i f => (c.put v d i (i % 2 ^ c.width), f) }
/-- VSEL: its mask selects between the sources of every element. -/
def planVsel (v : View) (d a b : GReg) : VPlan :=
  { view := v, dst := d, srcs := [a, b], masked := false
    elem := fun c g i f => (c.put v d i (if c.active g i then c.elem g v a i else c.elem g v b i), f) }

/-- The source of VCVT as an exact value (R326). -/
def cvtSource (w t a : Nat) : Num :=
  if w = 32 then (if t = 0x01 then Num.ofInt (sintOf 32 a) else fp32.decode a)
  else if w = 16 then (if t = 0x02 then fp16.decode a else bf16.decode a)
  else Num.ofInt (sintOf w a)

/-- The targets that VCVT accepts at a SEW (R326). -/
def cvtTargets (w : Nat) : List Nat :=
  match w with
  | 32 => [0x01, 0x02, 0x03, 0x04, 0x05, 0x06, 0x08, 0x09, 0x0A, 0x0B, 0x0C, 0x0D, 0x0E]
  | 16 => [0x02, 0x03, 0x04, 0x05, 0x06, 0x09, 0x0A, 0x0B, 0x0C, 0x0D, 0x0E]
  | 8 => [0x04, 0x05, 0x0B, 0x0C, 0x0D, 0x0E]
  | 4 => [0x0D, 0x0E]
  | _ => [0x0E]

/-- The rounding code that VCVT's k[1:0] stands for; 0 names FRM (R326). -/
def cvtRounding (k : Nat) : Nat :=
  match k % 4 with
  | 0 => 1
  | 1 => 3
  | 2 => 6
  | _ => 0

/-- A VCVT rounds under its mode (R326, R76): a real value to a float, to an integer or to TERN2, and any value to a float; to
E8M0 it ignores the mode (R73), and from an integer to an integer or to TERN2 it is exact or saturates (R78, R79). -/
def cvtRounds (t : Nat) (c : VCap) : Bool := t != 0x06 && (c.floats || (fpOf t).isSome)

/-- VCVT (R326). -/
def planVcvt (v : View) (d a : GReg) (k : BitVec 7) : VPlan :=
  { view := v, dst := d, srcs := [a], rounds := cvtRounds (k.toNat / 4)
    elem := fun c g i f =>
      let t := k.toNat / 4
      let (x, f) := fmtEncode t c.rm.toNat (intOf t).isSome false (cvtSource c.width t (c.elem g v a i)) f
      (c.put v d i x, f) }

/-- The scaled value that VQNT converts, exactly (R327). -/
def qntValue (c : VCap) (a : Nat) (f : FState) : Num × FState :=
  ((elemFp c.width).decode a).mul (fp32.decode (c.scalar.toNat % 2 ^ 32)) f

/-- VQNT with an unscaled QFMT (R327). -/
def planVqnt (v : View) (d a : GReg) : VPlan :=
  { view := v, dst := d, srcs := [a], rounds := fun _ => true
    elem := fun c g i f =>
      let q := c.qfmt.toNat
      let (x, f) := qntValue c (c.elem g v a i) f
      let (x, f) := fmtEncode (q % 256) c.rm.toNat (q.testBit 8) (q.testBit 9) x f
      (c.put v d i x, f) }

/-- Where narrow element `j` of a row-view group lies, at a width of its own (R80, R329, R330). -/
def narrowPlace (c : VCap) (w : Nat) (r : GReg) (j : Nat) : Nat × Nat :=
  let per := c.vlcap / w
  (r.toNat + j / per, w * (j % per))

/-- The fields of VUNPK's and VPACK's k: width code, mode, part. -/
def packFields (k : BitVec 7) : Nat × Nat × Nat := (k.toNat % 8, k.toNat / 8 % 4, k.toNat / 32)

/-- A part of a group reaches beyond it (R329, R330). -/
def partBad (h : Hart) (w p : Nat) : Bool := decide (groupOf h.ctl.vtype * (h.sup.vlcap.toNat / w) < (p + 1) * h.ctl.vl)

/-- The k of VUNPK is an illegal operand (R329). -/
def unpkBad (k : BitVec 7) (h : Hart) : Bool :=
  let (sw, mode, p) := packFields k
  let sew := sewOf h.ctl.vtype
  decide (sew ≤ sw) || (mode == 2 && (decide (sw < 2) || (sw == 3 && sew != 4))) || (mode == 3 && sw != 2) ||
    partBad h (2 ^ (sw + 1)) p

/-- VUNPK (R329). -/
def planVunpk (v : View) (d a : GReg) (k : BitVec 7) : VPlan :=
  { view := v, dst := d, srcs := [a]
    elem := fun c g i f =>
      let (sw, mode, p) := packFields k
      let ws := 2 ^ (sw + 1)
      let q := narrowPlace c ws a (p * c.vl + i)
      let x := g.bitsAt q.1 q.2 ws
      let (y, f) :=
        match mode with
        | 0 => (x, f)
        | 1 => (intBits c.width (sintOf ws x), f)
        | 2 => (elemFp c.width).round 1 false ((if sw = 2 then e4m3 else bf16).decode x) f
        | _ => (elemFp c.width).round 1 false (e5m2.decode x) f
      (c.put v d i y, f) }

/-- A signed value clamped to a range, setting OF and SAT where it clamps (R330, R331). -/
def clampElem (lo hi x : Int) (w : Nat) (f : FState) : Nat × FState :=
  (intBits w (max lo (min x hi)), f.raiseIf (decide (x < lo) || decide (hi < x)) (flagOF ||| flagSAT))

/-- The k of VPACK is an illegal operand (R330). -/
def packBad (k : BitVec 7) (h : Hart) : Bool :=
  let (tw, mode, p) := packFields k
  let sew := sewOf h.ctl.vtype
  decide (sew ≤ tw) || (mode == 3 && !(sew == 4 && tw == 3)) || partBad h (2 ^ (tw + 1)) p

/-- VPACK (R330). -/
def planVpack (v : View) (d a : GReg) (k : BitVec 7) : VPlan :=
  { view := v, dst := d, srcs := [a], rounds := fun _ => (packFields k).2.1 == 3
    elem := fun c g i f =>
      let (tw, mode, p) := packFields k
      let wt := 2 ^ (tw + 1)
      let x := c.elem g v a i
      let (y, f) :=
        match mode with
        | 0 => (x % 2 ^ wt, f)
        | 1 => clampElem (-(2 ^ (wt - 1))) (2 ^ (wt - 1) - 1) (sintOf c.width x) wt f
        | 2 => clampElem 0 (2 ^ wt - 1) (sintOf c.width x) wt f
        | _ => bf16.round c.rm.toNat false (fp32.decode x) f
      let q := narrowPlace c wt d (p * c.vl + i)
      ([(q.1, q.2, wt, y)], f) }

/-- VNRW (R331). -/
def planVnrw (v : View) (d a : GReg) (k : BitVec 7) : VPlan :=
  { view := v, dst := d, srcs := [a]
    elem := fun c g i f =>
      let wt := 2 ^ (k.toNat % 8 + 1)
      let (y, f) := clampElem (-(2 ^ (wt - 1))) (2 ^ (wt - 1) - 1) (shrr c.width (c.elem g v a i) (k.toNat / 8)) wt f
      let q := narrowPlace c wt d i
      ([(q.1, q.2, wt, y)], f) }

/-- VHAD (R332). -/
def planVhad (v : View) (d a : GReg) (k : BitVec 7) : VPlan :=
  { view := v, dst := d, srcs := [a], rounds := VCap.floats
    elem := fun c g i f =>
      let x := c.elem g v a i
      let y := c.lane g v a (i ^^^ 2 ^ k.toNat)
      let (z, f) :=
        if i.testBit k.toNat then numeric2 (fun r p q f => p.add r q.negate f) (· - ·) c y x f
        else addElem c x y f
      (c.put v d i z, f) }

/-- VSLIDEUP (R337). -/
def planVslideup (v : View) (d a : GReg) : VPlan :=
  { view := v, dst := d, srcs := [a]
    elem := fun c g i f =>
      let n := c.scalar.toNat
      (c.put v d i (if i < n then c.fillAt else c.elem g v a (i - n)), f) }

/-- VSLIDEDN (R337). -/
def planVslidedn (v : View) (d a : GReg) : VPlan :=
  { view := v, dst := d, srcs := [a], elem := fun c g i f => (c.put v d i (c.lane g v a (i + c.scalar.toNat)), f) }

/-- VPERM (R338). -/
def planVperm (v : View) (d a b : GReg) : VPlan :=
  { view := v, dst := d, srcs := [a, b], elem := fun c g i f => (c.put v d i (c.lane g v a (c.elem g v b i)), f) }

/-- VLUT (R338). -/
def planVlut (v : View) (d a b : GReg) : VPlan :=
  { view := v, dst := d, srcs := [a, b]
    elem := fun c g i f =>
      let m := sintOf c.width (c.elem g v b i)
      (c.put v d i (c.elem g v a (min m.toNat (c.vl - 1))), f) }

/-- The group of a destination is that of a source read across lanes (R317). -/
def sameGroup (d a : GReg) : State → Bool := fun _ => d == a

/-- An operation in a view other than the row view (R317). -/
def notRow (v : View) : Bool := v != .row

/-- VADD. -/
def opVadd (w : View) (d a b : GReg) (m : MaskUse) : Op :=
  planOp { instr := .vadd w d a b m, mask := m } (planVadd w d a b)
/-- VSUB. -/
def opVsub (w : View) (d a b : GReg) (m : MaskUse) : Op :=
  planOp { instr := .vsub w d a b m, mask := m } (planVsub w d a b)
/-- VMUL. -/
def opVmul (w : View) (d a b : GReg) (m : MaskUse) : Op :=
  planOp { instr := .vmul w d a b m, mask := m } (planVmul w d a b)
/-- VFMA. -/
def opVfma (w : View) (d a b : GReg) (m : MaskUse) : Op :=
  planOp { instr := .vfma w d a b m, mask := m } (planVfma w d a b)
/-- VFMS. -/
def opVfms (w : View) (d a b : GReg) (m : MaskUse) : Op :=
  planOp { instr := .vfms w d a b m, mask := m } (planVfms w d a b)
/-- VMIN. -/
def opVmin (w : View) (d a b : GReg) (m : MaskUse) : Op :=
  planOp { instr := .vmin w d a b m, mask := m } (planVmin w d a b)
/-- VMAX. -/
def opVmax (w : View) (d a b : GReg) (m : MaskUse) : Op :=
  planOp { instr := .vmax w d a b m, mask := m } (planVmax w d a b)
/-- VABS. -/
def opVabs (w : View) (d a : GReg) (m : MaskUse) : Op :=
  planOp { instr := .vabs w d a m, mask := m } (planVabs w d a)
/-- VNEG. -/
def opVneg (w : View) (d a : GReg) (m : MaskUse) : Op :=
  planOp { instr := .vneg w d a m, mask := m } (planVneg w d a)
/-- VDIV. -/
def opVdiv (w : View) (d a b : GReg) (m : MaskUse) : Op :=
  planOp { instr := .vdiv w d a b m, mask := m } (planVdiv w d a b)
/-- VAND. -/
def opVand (w : View) (d a b : GReg) (m : MaskUse) : Op :=
  planOp { instr := .vand w d a b m, mask := m } (planVand w d a b)
/-- VOR. -/
def opVor (w : View) (d a b : GReg) (m : MaskUse) : Op :=
  planOp { instr := .vor w d a b m, mask := m } (planVor w d a b)
/-- VXOR. -/
def opVxor (w : View) (d a b : GReg) (m : MaskUse) : Op :=
  planOp { instr := .vxor w d a b m, mask := m } (planVxor w d a b)
/-- VNOT. -/
def opVnot (w : View) (d a : GReg) (m : MaskUse) : Op :=
  planOp { instr := .vnot w d a m, mask := m } (planVnot w d a)
/-- VSLL. -/
def opVsll (w : View) (d a b : GReg) (m : MaskUse) : Op :=
  planOp { instr := .vsll w d a b m, mask := m } (planVsll w d a b)
/-- VSRL. -/
def opVsrl (w : View) (d a b : GReg) (m : MaskUse) : Op :=
  planOp { instr := .vsrl w d a b m, mask := m } (planVsrl w d a b)
/-- VSRA. -/
def opVsra (w : View) (d a b : GReg) (m : MaskUse) : Op :=
  planOp { instr := .vsra w d a b m, mask := m } (planVsra w d a b)
/-- VFSHL. -/
def opVfshl (w : View) (d a b : GReg) (m : MaskUse) : Op :=
  planOp { instr := .vfshl w d a b m, mask := m } (planVfshl w d a b)
/-- VFSHR. -/
def opVfshr (w : View) (d a b : GReg) (m : MaskUse) : Op :=
  planOp { instr := .vfshr w d a b m, mask := m } (planVfshr w d a b)
/-- VMULH. -/
def opVmulh (w : View) (d a b : GReg) (m : MaskUse) : Op :=
  planOp { instr := .vmulh w d a b m, mask := m } (planVmulh w d a b)
/-- VSHRR. -/
def opVshrr (w : View) (d a b : GReg) (m : MaskUse) : Op :=
  planOp { instr := .vshrr w d a b m, mask := m } (planVshrr w d a b)
/-- VCLZ. -/
def opVclz (w : View) (d a : GReg) (m : MaskUse) : Op :=
  planOp { instr := .vclz w d a m, mask := m } (planVclz w d a)
/-- VPOPC. -/
def opVpopc (w : View) (d a : GReg) (m : MaskUse) : Op :=
  planOp { instr := .vpopc w d a m, mask := m } (planVpopc w d a)
/-- VMV. -/
def opVmv (w : View) (d a : GReg) (m : MaskUse) : Op :=
  planOp { instr := .vmv w d a m, mask := m } (planVmv w d a)
/-- VBCAST. -/
def opVbcast (w : View) (d : GReg) (x : SReg) (m : MaskUse) : Op :=
  planOp { instr := .vbcast w d x m, mask := m, scalar := some x } (planVbcast w d)
/-- VID. -/
def opVid (w : View) (d : GReg) (m : MaskUse) : Op :=
  planOp { instr := .vid w d m, mask := m } (planVid w d)
/-- VSEL: it needs a mask (R210). -/
def opVsel (w : View) (d a b : GReg) (m : MaskUse) : Op :=
  planOp { instr := .vsel w d a b m, mask := m, illegal := fun _ => m == .off } (planVsel w d a b)
/-- VADDS. -/
def opVadds (w : View) (d a : GReg) (x : SReg) (m : MaskUse) : Op :=
  planOp { instr := .vadds w d a x m, mask := m, scalar := some x } (planVadds w d a)
/-- VMULS. -/
def opVmuls (w : View) (d a : GReg) (x : SReg) (m : MaskUse) : Op :=
  planOp { instr := .vmuls w d a x m, mask := m, scalar := some x } (planVmuls w d a)
/-- VFMAS. -/
def opVfmas (w : View) (d a : GReg) (x : SReg) (m : MaskUse) : Op :=
  planOp { instr := .vfmas w d a x m, mask := m, scalar := some x } (planVfmas w d a)
/-- VCVT: a target missing from the SEW's row is an illegal operand, a code without a format a reserved one. -/
def opVcvt (w : View) (d a : GReg) (k : BitVec 7) (m : MaskUse) : Op :=
  let t := k.toNat / 4
  planOp { instr := .vcvt w d a k m, mask := m, rm := cvtRounding k.toNat
           illegal := fun s => !fmtReserved t && !(cvtTargets (widthOf s.my.ctl.vtype)).contains t
           reserved := fun _ => fmtReserved t } (planVcvt w d a k)
/-- VUNPK. -/
def opVunpk (w : View) (d a : GReg) (k : BitVec 7) (m : MaskUse) : Op :=
  planOp { instr := .vunpk w d a k m, mask := m
           illegal := fun s => notRow w || d == a || unpkBad k s.my } (planVunpk w d a k)
/-- VPACK. -/
def opVpack (w : View) (d a : GReg) (k : BitVec 7) (m : MaskUse) : Op :=
  planOp { instr := .vpack w d a k m, mask := m
           illegal := fun s => notRow w || d == a || packBad k s.my } (planVpack w d a k)
/-- VNRW. -/
def opVnrw (w : View) (d a : GReg) (k : BitVec 7) (m : MaskUse) : Op :=
  planOp { instr := .vnrw w d a k m, mask := m
           illegal := fun s => notRow w || d == a || decide (sewOf s.my.ctl.vtype ≤ k.toNat % 8) } (planVnrw w d a k)
/-- VHAD. -/
def opVhad (w : View) (d a : GReg) (k : BitVec 7) (m : MaskUse) : Op :=
  planOp { instr := .vhad w d a k m, mask := m, illegal := fun _ => d == a || decide (10 < k.toNat) }
    (planVhad w d a k)
/-- VSLIDEUP. -/
def opVslideup (w : View) (d a : GReg) (x : SReg) (m : MaskUse) : Op :=
  planOp { instr := .vslideup w d a x m, mask := m, scalar := some x, illegal := sameGroup d a }
    (planVslideup w d a)
/-- VSLIDEDN. -/
def opVslidedn (w : View) (d a : GReg) (x : SReg) (m : MaskUse) : Op :=
  planOp { instr := .vslidedn w d a x m, mask := m, scalar := some x, illegal := sameGroup d a }
    (planVslidedn w d a)
/-- VPERM. -/
def opVperm (w : View) (d a b : GReg) (m : MaskUse) : Op :=
  planOp { instr := .vperm w d a b m, mask := m, illegal := sameGroup d a } (planVperm w d a b)
/-- VLUT. -/
def opVlut (w : View) (d a b : GReg) (m : MaskUse) : Op :=
  planOp { instr := .vlut w d a b m, mask := m, illegal := sameGroup d a } (planVlut w d a b)

end Sys2Proof.Machine
end

