-- ==== Sys2Proof/Machine/VecSfu.lean ====
section
/-! DEFINITION. VSFU (R333): its functions as fixed-point values with 640 fraction bits, their last bit set where the
real value is not a dyadic number of that precision, rounded once to nearest even (log 19). -/

namespace Sys2Proof.Machine

/-- Fraction bits of the fixed-point values. -/
def sfuP : Nat := 640

/-- 1 in fixed point. -/
def sfuOne : Nat := 2 ^ sfuP

/-- z + z^3/3 + z^5/5 + …, with signs alternating where `alt`: the first `n` terms from the k-th, `p` being z^(2k+1). -/
def oddSeries (z2 : Nat) (alt : Bool) : Nat → Nat → Nat → Int
  | 0, _, _ => 0
  | n + 1, k, p =>
    (if alt && k % 2 == 1 then -((p / (2 * k + 1) : Nat) : Int) else ((p / (2 * k + 1) : Nat) : Int)) +
      oddSeries z2 alt n (k + 1) (p * z2 / sfuOne)

/-- atanh of a fixed-point value up to 1/3. -/
def atanhFix (z : Nat) : Nat := (oddSeries (z * z / sfuOne) false 210 0 z).toNat

/-- atan of 1/n. -/
def atanInv (n : Nat) : Nat := (oddSeries (sfuOne / (n * n)) true 150 0 (sfuOne / n)).toNat

/-- ln 2. -/
def ln2Fix : Nat := 2 * atanhFix (sfuOne / 3)

/-- π by Machin's formula. -/
def piFix : Nat := 16 * atanInv 5 - 4 * atanInv 239

/-- The terms r^k/k! from a term on. -/
def expSeries (r : Nat) : Nat → Nat → Nat → Nat
  | 0, _, _ => 0
  | n + 1, k, t => t + expSeries r n (k + 1) (t * r / sfuOne / (k + 1))

/-- e^x of a fixed-point x, as a mantissa and exponent; beyond ±4,096 every format overflows or underflows. -/
def expFix (x : Int) : Nat × Int :=
  let lim : Int := 4096 * sfuOne
  let x := max (-lim) (min x lim)
  let n := x / (ln2Fix : Int)
  (expSeries (x - n * ln2Fix).toNat 170 0 sfuOne, n - sfuP)

/-- A dyadic number in fixed point. -/
def toFix (neg : Bool) (m : Nat) (e : Int) : Int :=
  let v : Int := ((cut m e (-(sfuP : Int))).1 : Int)
  if neg then -v else v

/-- A fixed-point value whose real value lies just above it. -/
def stickyFix (v : Int) : Num := .fin (decide (v < 0)) (2 * v + 1).natAbs (-(sfuP : Int) - 1)

/-- A positive value m × 2^e just below the real value. -/
def sticky (m : Nat) (e : Int) : Num := .fin false (2 * m + 1) (e - 1)

/-- 1 / (1 + e^−y) for a fixed-point y, as a mantissa and exponent: from e^−|y|, so that small results keep their
precision. -/
def sigmoidFix (y : Int) : Nat × Int :=
  let (m, e) := expFix (-(y.natAbs : Int))
  let den := sfuOne + (cut m e (-(sfuP : Int))).1
  if 0 ≤ y then (sfuOne * sfuOne / den, -(sfuP : Int)) else (m * sfuOne / den, e)

/-- √(2/π). -/
def sqrt2Pi : Nat := isqrt (2 * sfuOne * sfuOne * sfuOne / piFix)

/-- 2 × √(2/π) × (a + 0.044715 × a^3) in fixed point. -/
def geluArg (a : Int) : Int :=
  let one : Int := sfuOne
  let cube := a * a / one * a / one
  2 * sqrt2Pi * (a + cube * 44715 / 1000000) / one

/-- sin and cos of r below π/2: the alternating terms from the k-th. -/
def trigSeries (r2 : Nat) : Nat → Nat → Nat → Int
  | 0, _, _ => 0
  | n + 1, k, t => (t : Int) - trigSeries r2 n (k + 2) (t * r2 / sfuOne / ((k + 1) * (k + 2)))

/-- sin x for x = q quarter turns and a rest of the fixed-point value a, 0 ≤ a. -/
def sinFix (q : Nat) (a : Nat) : Int :=
  let k := 2 * a / piFix
  let r := a - k * piFix / 2
  let s := trigSeries (r * r / sfuOne) 90 1 r
  let c := trigSeries (r * r / sfuOne) 90 0 sfuOne
  match (q + k) % 4 with
  | 0 => s
  | 1 => c
  | 2 => -s
  | _ => -c

/-- log2 of a positive m × 2^e that is no power of two. -/
def log2Fix (m : Nat) (e : Int) : Int :=
  let l := m.log2
  let z := (m - 2 ^ l) * sfuOne / (m + 2 ^ l)
  (e + l) * sfuOne + (2 * atanhFix z * sfuOne / ln2Fix : Nat)

/-- 1 / √(m × 2^e). -/
def rsqrtNum (m : Nat) (e : Int) : Num :=
  let m := if e % 2 = 0 then m else 2 * m
  let e := if e % 2 = 0 then e else e - 1
  let t := 2 ^ (2 * sfuP)
  let r := isqrt (t / m)
  if r * r * m = t then .fin false r (-(sfuP : Int) - e / 2) else sticky r (-(sfuP : Int) - e / 2)

/-- A finite nonzero operand of function k (R333). -/
def sfuFinite (k : Nat) (neg : Bool) (m : Nat) (e : Int) (f : FState) : Num × FState :=
  let a := toFix neg m e
  let invalid : Num × FState := (.nan false, f.raise flagNV)
  let times (p : Nat × Int) : Num × FState := (.fin neg (m * (2 * p.1 + 1)) (e + p.2 - 1), f)
  match k with
  | 0 =>
    let whole := a / (sfuOne : Int)
    if whole * sfuOne = a then (.fin false 1 (max (-5000) (min whole 5000)), f)
    else
      let (v, x) := expFix ((a - whole * sfuOne) * ln2Fix / sfuOne)
      (sticky v (x + max (-5000) (min whole 5000)), f)
  | 1 =>
    if neg then invalid
    else if m = 2 ^ m.log2 then (Num.ofInt (e + m.log2), f)
    else (stickyFix (log2Fix m e), f)
  | 2 => Num.div (.fin false 1 0) (.fin neg m e) f
  | 3 => if neg then invalid else (rsqrtNum m e, f)
  | 4 => Num.sqrt (.fin neg m e) f
  | 5 =>
    let (v, x) := expFix (-2 * (a.natAbs : Int))
    let z := (cut v x (-(sfuP : Int))).1
    (.fin neg (2 * ((sfuOne - z) * sfuOne / (sfuOne + z)) + 1) (-(sfuP : Int) - 1), f)
  | 6 => let p := sigmoidFix a; (sticky p.1 p.2, f)
  | 7 => times (sigmoidFix (geluArg a))
  | 8 => times (sigmoidFix a)
  | 9 => (let s := sinFix 0 a.natAbs; stickyFix (if neg then -s else s), f)
  | 10 => (stickyFix (sinFix 1 a.natAbs), f)
  | _ => let p := expFix a; (sticky p.1 p.2, f)

/-- VSFU's function k of an operand (R333), with its special cases. -/
def sfu (k : Nat) (a : Num) (f : FState) : Num × FState :=
  match a with
  | .nan sig => (.nan false, f.raiseIf sig flagNV)
  | .inf n =>
    match k with
    | 0 => (if n then .fin false 0 0 else .inf false, f)
    | 1 => if n then (.nan false, f.raise flagNV) else (.inf false, f)
    | 2 => (.fin n 0 0, f)
    | 3 => if n then (.nan false, f.raise flagNV) else (.fin false 0 0, f)
    | 4 => if n then (.nan false, f.raise flagNV) else (.inf false, f)
    | 5 => (.fin n 1 0, f)
    | 6 => (.fin false (if n then 0 else 1) 0, f)
    | 7 => (if n then .fin true 0 0 else .inf false, f)
    | 8 => (if n then .fin true 0 0 else .inf false, f)
    | 9 => (.nan false, f.raise flagNV)
    | 10 => (.nan false, f.raise flagNV)
    | _ => (if n then .fin false 0 0 else .inf false, f)
  | .fin n m e =>
    if m = 0 then
      match k with
      | 1 => (.inf true, f.raise flagDZ)
      | 2 => (.inf n, f.raise flagDZ)
      | 3 => (.inf n, f.raise flagDZ)
      | 6 => (.fin false 1 (-1), f)
      | 0 => (.fin false 1 0, f)
      | 10 => (.fin false 1 0, f)
      | 11 => (.fin false 1 0, f)
      | _ => (.fin n 0 0, f)
    else sfuFinite k n m e f

/-- VSFU: nearest, ties to even, whatever FRM is. -/
def planVsfu (v : View) (d a : GReg) (k : BitVec 7) : VPlan :=
  { view := v, dst := d, srcs := [a]
    elem := fun c g i f =>
      let p := elemFp c.width
      let (x, f) := sfu k.toNat (p.decode (c.elem g v a i)) f
      let (y, f) := p.round 1 false x f
      (c.put v d i y, f) }

/-- VSFU: long at every group (R320). -/
def opVsfu (w : View) (d a : GReg) (k : BitVec 7) (m : MaskUse) : Op :=
  planOp { instr := .vsfu w d a k m, mask := m, rm := 1, always := true
           illegal := fun s => decide (sewOf s.my.ctl.vtype < 3) || decide (11 < k.toNat) } (planVsfu w d a k)

end Sys2Proof.Machine
end

