-- ==== Sys2Proof/Machine/VecMore.lean ====
section
/-! DEFINITION. The vector operations that complete before their bundle commits (R320): VQNT with a block-scaled format
(R328), compares and masks (R324, R325), reductions and VEXT (R334, R335), scans (R336), expansion, compression and
VSPARSE (R339, R340). -/

namespace Sys2Proof.Machine

/-- The largest exponent of a scaled element format (R87). -/
def topExp (f : Nat) : Int := if f = 0x11 ∨ f = 0x04 then 8 else 15

/-- The larger of two magnitudes; a NaN counts as infinite (R87). -/
def maxMag (a b : Num) : Num :=
  let m (x : Num) : Num := if x.isNan then .inf false else x.abs
  if (m a).lt (m b) then m b else m a

/-- amax of some values (R87). -/
def amaxOf (xs : List Num) : Num := xs.foldl maxMag (.fin false 0 0)

/-- The E8M0 scale code of R87. -/
def scaleCode (f : Nat) (amax : Num) : Nat :=
  match amax with
  | .fin _ m e => if m = 0 then 0 else (max 0 (min 254 ((m.log2 : Int) + e - topExp f + 127))).toNat
  | _ => 0xFF

/-- A value stored under a scale code, always saturated (R87). -/
def scaleStore (f rm code : Nat) (x : Num) (s : FState) : Nat × FState :=
  let p := if f = 0x11 ∨ f = 0x04 then e4m3 else e5m2
  if code = 0xFF then (p.nanBits, s)
  else match x with
    | .fin n m e => p.round rm true (.fin n m (e - ((code : Int) - 127))) s
    | y => p.round rm true y s

/-- The exact values of some elements scaled, in order (R327). -/
def qntValues (c : VCap) (g : Grid) (v : View) (a : GReg) : List Nat → FState → List (Nat × Num) × FState
  | [], f => ([], f)
  | i :: is, f =>
    let (x, f) := qntValue c (c.elem g v a i) f
    let (xs, f) := qntValues c g v a is f
    ((i, x) :: xs, f)

/-- The elements of a block stored under its scale (R328). -/
def qntBlock (c : VCap) (v : View) (d : GReg) (code : Nat) : List (Nat × Num) → FState → List RowWrite × FState
  | [], f => ([], f)
  | (i, x) :: xs, f =>
    let (b, f) := scaleStore (c.qfmt.toNat % 256) c.rm.toNat code x f
    let (ws, f) := qntBlock c v d code xs f
    (c.put v d i (b + code * 256) ++ ws, f)

/-- VQNT with a block-scaled format: blocks of 32 element indices (R328). -/
def qntBlocks (c : VCap) (g : Grid) (v : View) (d a : GReg) : List Nat → FState → List RowWrite × FState
  | [], f => ([], f)
  | k :: ks, f =>
    let (xs, f) := qntValues c g v a ((c.actives g (32 * k)).filter (· < 32 * k + 32)) f
    let (ws, f) := qntBlock c v d (scaleCode (c.qfmt.toNat % 256) (amaxOf (xs.map (·.2)))) xs f
    let (rest, f) := qntBlocks c g v d a ks f
    (ws ++ rest, f)

/-- An operation that computes all its writes together and completes before its bundle commits (R320). -/
def wholeOp (u : VUse) (v : View) (d : GReg) (f : VCap → Grid → FState → List RowWrite × FState) : Op := fun _ s =>
  let h := s.my
  let c := h.capture u.mask (h.ctl.rounding u.rm) ((u.scalar.map h.rx).getD 0)
  vecGate s v (d :: u.srcs) (u.illegal s) (u.reserved s) <| commits fun t =>
    let (ws, f) := f c h.grid { seed := t.my.ctl.srseed }
    (t.modMy fun h => (h.modGrid (·.writeAll ws)).setSeed f.seed).raise f.flags

/-- QFMT names a block-scaled format. -/
def qfmtScaled (q : Nat) : Bool := q % 256 == 0x11 || q % 256 == 0x12

/-- The SEW and QFMT make VQNT an illegal operand (R317, R327, R328). -/
def qntBad (s : State) : Bool :=
  let q := s.my.ctl.qfmt.toNat
  let sew := sewOf s.my.ctl.vtype
  decide (sew < 3) || [0x00, 0x06, 0x10, 0x13].contains (q % 256) ||
  (match fmtWidth (q % 256) with
   | some w => decide (widthOf s.my.ctl.vtype < w)
   | none => false) || (qfmtScaled q && sew != 4)

/-- VQNT (R327, R328). -/
def opVqnt (w : View) (d a : GReg) (x : SReg) (m : MaskUse) : Op := fun oc s =>
  let u : VUse := { instr := .vqnt w d a x m, mask := m, scalar := some x, srcs := [a], illegal := qntBad
                    reserved := fun s => fmtReserved (s.my.ctl.qfmt.toNat % 256) }
  if qfmtScaled s.my.ctl.qfmt.toNat then
    wholeOp u w d (fun c g f => qntBlocks c g w d a (List.range ((c.vl + 31) / 32)) f) oc s
  else planOp u (planVqnt w d a) oc s

/-- A mask register changed at some bits. -/
def maskBits (old : BitVec 8192) (bits : List (Nat × Bool)) : BitVec 8192 :=
  bits.foldl (fun v p => if p.2 then v ||| BitVec.twoPow 8192 p.1 else v &&& ~~~(BitVec.twoPow 8192 p.1)) old

/-- A mask register of the hart in hand written. -/
def Hart.putMask (h : Hart) (k : MReg) (v : BitVec 8192) : Hart :=
  h.modGrid fun g => { g with masks := g.masks.put k.toNat v }

/-- A condition of VCMP between two elements, with the flags it raises (R324). -/
def cmpElem (cond w a b : Nat) : Bool × BitVec 6 :=
  let x := (elemFp w).decode a
  let y := (elemFp w).decode b
  let sig : BitVec 6 := if x.isSig || y.isSig then flagNV else 0
  let nan := x.isNan || y.isNan
  let nv : BitVec 6 := if nan then flagNV else 0
  match cond with
  | 0 => (a == b, 0)
  | 1 => (a != b, 0)
  | 2 => (decide (sintOf w a < sintOf w b), 0)
  | 3 => (!decide (sintOf w a < sintOf w b), 0)
  | 4 => (decide (a < b), 0)
  | 5 => (!decide (a < b), 0)
  | 8 => (x.eq y, sig)
  | 9 => (!x.eq y, sig)
  | 10 => (x.lt y, nv)
  | 11 => (x.lt y || x.eq y, nv)
  | 12 => (y.lt x, nv)
  | 13 => (y.lt x || x.eq y, nv)
  | _ => (nan, sig)

/-- VCMP (R324). -/
def opVcmp (w : View) (cond : BitVec 4) (k : MReg) (a b : GReg) (m : MaskUse) : Op := fun _ s =>
  let h := s.my
  let c := h.capture m 1 0
  let n := cond.toNat
  vecGate s w [a, b] (k == 0 || n == 6 || n == 7 || n == 15 || (decide (8 ≤ n) && decide (sewOf h.ctl.vtype < 3)))
    false <| commits fun t =>
      let rs := (c.actives h.grid 0).map fun i => (i, cmpElem n c.width (c.elem h.grid w a i) (c.elem h.grid w b i))
      (t.modMy fun g => g.putMask k (maskBits (g.mask k) (rs.map fun r => (r.1, r.2.1)))).raise
        (rs.foldl (fun f r => f ||| r.2.2) 0)

/-- The bits below VL (R325). -/
def lowMask (vl : Nat) : BitVec 8192 := BitVec.ofNat 8192 (2 ^ vl - 1)

/-- A mask operation: it stalls while a vector operation has rows left to begin (R176). -/
def maskGate (s : State) (illegal : Bool) (k : Res) : Res := rowGate s [] illegal false k

/-- A mask operation of two sources (R325). -/
def maskOp (f : BitVec 8192 → BitVec 8192 → BitVec 8192) (d a b : MReg) : Op := fun _ s =>
  let h := s.my
  let low := lowMask h.ctl.vl
  maskGate s (d == 0) <| commits fun t => t.modMy fun g =>
    g.putMask d ((g.mask d &&& ~~~low) ||| (f (h.mask a) (h.mask b) &&& low))

/-- VMAND (R325). -/
def opVmand : MReg → MReg → MReg → Op := maskOp fun a b => a &&& b
/-- VMOR (R325). -/
def opVmor : MReg → MReg → MReg → Op := maskOp fun a b => a ||| b
/-- VMXOR (R325). -/
def opVmxor : MReg → MReg → MReg → Op := maskOp fun a b => a ^^^ b
/-- VMNOT (R325). -/
def opVmnot (d a : MReg) : Op := maskOp (fun a _ => ~~~a) d a a

/-- VMPOPC (R325). -/
def opVmpopc (d : SReg) (a : MReg) : Op := fun _ s =>
  maskGate s false (writes d (BitVec.ofNat 64 (popcount s.my.ctl.vl (s.my.mask a).toNat)))

/-- VMFIRST (R325). -/
def opVmfirst (d : SReg) (a : MReg) : Op := fun _ s =>
  maskGate s false (writes d (match (List.range s.my.ctl.vl).find? (fun i => (s.my.mask a).getLsbD i) with
    | some i => BitVec.ofNat 64 i
    | none => ~~~0))

/-- VMFROM (R325). -/
def opVmfrom (w : View) (k : MReg) (a : GReg) (m : MaskUse) : Op := fun _ s =>
  let h := s.my
  let c := h.capture m 1 0
  vecGate s w [a] (k == 0) false <| commits fun t => t.modMy fun g =>
    g.putMask k (maskBits (g.mask k) ((c.actives h.grid 0).map fun i => (i, c.elem h.grid w a i != 0)))

/-- VMTO (R325). -/
def opVmto (w : View) (d : GReg) (k : MReg) (m : MaskUse) : Op :=
  wholeOp { instr := .vmto w d k m, mask := m } w d fun c g f =>
    ((c.actives g 0).flatMap (fun i => c.put w d i ((g.mask k).getLsbD i).toNat), f)

/-- A level of the tree of R334: neighbours combined, a missing one passing the other on. -/
def treeLevel (comb : Int → Int → FState → Int × FState) :
    List (Option Int) → FState → List (Option Int) × FState
  | a :: b :: rest, f =>
    let (x, f) := match a, b with
      | none, y => (y, f)
      | x, none => (x, f)
      | some x, some y => match comb x y f with
        | (z, f) => (some z, f)
    let (xs, f) := treeLevel comb rest f
    (x :: xs, f)
  | l, f => (l, f)

/-- The levels of the tree of R334. -/
def treeOf (comb : Int → Int → FState → Int × FState) : Nat → List (Option Int) → FState → Option Int × FState
  | 0, l, f => ((l.head?).getD none, f)
  | n + 1, l, f => match treeLevel comb l f with
    | (l, f) => treeOf comb n l f

/-- The four reductions (R334). -/
inductive Red where
  | sum | max | min | amax
  deriving DecidableEq, Repr

/-- Two nodes of the float kind combined, as encodings (R334). -/
def Red.combF (r : Red) (p : Fp) (rm : Nat) (x y : Int) (f : FState) : Int × FState :=
  let a := p.decode x.toNat
  let b := p.decode y.toNat
  let done (v : Num × FState) : Int × FState := match p.round rm false v.1 v.2 with
    | (z, f) => ((z : Int), f)
  match r with
  | .sum => done (a.add rm b f)
  | .max => done (numMin true a b f)
  | .min => done (numMin false a b f)
  | .amax => if a.isNan || b.isNan then (p.nanBits, f.raiseIf (a.isSig || b.isSig) flagNV)
    else (if a.lt b then y else x, f)

/-- Two nodes of the integer kind combined, exactly (R334). -/
def Red.combI (r : Red) (x y : Int) (f : FState) : Int × FState :=
  (match r with
   | .sum => x + y
   | .max => Max.max x y
   | .min => Min.min x y
   | .amax => Max.max x y, f)

/-- The value of a node's element (R334). -/
def Red.val (r : Red) (w x : Nat) : Int :=
  if 16 ≤ w then (if r = .amax then x % 2 ^ (w - 1) else x : Nat)
  else if r = .amax then (sintOf w x).natAbs else sintOf w x

/-- The result when no element is active (R334). -/
def Red.identity (r : Red) (w : Nat) : Int :=
  if 16 ≤ w then
    let inf := (elemFp w).emax * 2 ^ (elemFp w).mbits
    match r with
    | .max => (inf + 2 ^ (w - 1) : Nat)
    | .min => inf
    | _ => 0
  else match r with
    | .max => -(2 ^ (w - 1))
    | .min => 2 ^ (w - 1) - 1
    | _ => 0

/-- The value that sd receives: a NaN is canonical, and an integer is extended to 64 bits (R334, R335). -/
def redResult (w : Nat) (v : Int) : Word :=
  if 16 ≤ w then
    let p := elemFp w
    BitVec.ofNat 64 (if (p.decode v.toNat).isNan then p.nanBits else v.toNat)
  else BitVec.ofInt 64 v

/-- A reduction of the active elements (R334): a NaN operand sets NV, even where it stands alone (log 85). -/
def redOf (r : Red) (c : VCap) (g : Grid) (v : View) (a : GReg) (f : FState) : Word × FState :=
  let w := c.width
  let n := if c.vl ≤ 1 then 0 else Nat.log2 (c.vl - 1) + 1
  let leaves := (List.range (2 ^ n)).map fun i =>
    if i < c.vl && c.active g i then some (r.val w (c.elem g v a i)) else none
  let nan := decide (16 ≤ w) && leaves.any fun x => match x with
    | some y => ((elemFp w).decode y.toNat).isNan
    | none => false
  match treeOf (if 16 ≤ w then r.combF (elemFp w) c.rm.toNat else r.combI) n leaves (f.raiseIf nan flagNV) with
  | (x, f) => (redResult w (x.getD (r.identity w)), f)

/-- A reduction into a scalar register (R334, R335). -/
def redOp (r : Red) (w : View) (d : SReg) (a : GReg) (m : MaskUse) : Op := fun _ s =>
  let h := s.my
  let c := h.capture m h.ctl.frm.toNat 0
  vecGate s w [a] false false <| commits fun t =>
    match redOf r c h.grid w a { seed := t.my.ctl.srseed } with
    | (x, f) => (t.modMy fun h => (h.wx d x).setSeed f.seed).raise f.flags

/-- VREDSUM (R334). -/
def opVredsum : View → SReg → GReg → MaskUse → Op := redOp .sum
/-- VREDMAX (R334). -/
def opVredmax : View → SReg → GReg → MaskUse → Op := redOp .max
/-- VREDMIN (R334). -/
def opVredmin : View → SReg → GReg → MaskUse → Op := redOp .min
/-- VREDAMAX (R334). -/
def opVredamax : View → SReg → GReg → MaskUse → Op := redOp .amax

/-- VEXT (R335). -/
def opVext (w : View) (d : SReg) (a : GReg) (x : SReg) (m : MaskUse) : Op := fun _ s =>
  let h := s.my
  let c := h.capture .off 1 0
  vecGate s w [a] (m != .off) false <|
    let e := c.lane h.grid w a (h.rx x).toNat
    writes d (if 16 ≤ c.width then BitVec.ofNat 64 e else BitVec.ofInt 64 (sintOf c.width e))

/-- The running sums of R336 in order: the accumulator, the generator, and each active element's sum; `mseg` starts a
segment. -/
def scanFrom (c : VCap) (g : Grid) (v : View) (a : GReg) (mseg : BitVec 8192) :
    List Nat → Option Nat → FState → List (Nat × Nat) × FState
  | [], _, f => ([], f)
  | i :: is, acc, f =>
    let acc := if i = 0 ∨ mseg.getLsbD i then none else acc
    if c.active g i then
      let x := c.elem g v a i
      let (y, f) := match acc with
        | none => (x, f)
        | some z => addElem c z x f
      let (xs, f) := scanFrom c g v a mseg is (some y) f
      ((i, y) :: xs, f)
    else scanFrom c g v a mseg is acc f

/-- Each sum replaced by the last of its segment (R336, VSEGSUM). -/
def segTotals (mseg : BitVec 8192) : List (Nat × Nat) → List (Nat × Nat)
  | [] => []
  | p :: rest =>
    match segTotals mseg rest with
    | [] => [p]
    | q :: qs =>
      let starts := (List.range (q.1 - p.1)).any fun j => mseg.getLsbD (p.1 + 1 + j)
      (if starts then p else (p.1, q.2)) :: q :: qs

/-- The scans and the segmented sums (R336). -/
def scanOp (u : VUse) (w : View) (d a : GReg) (seg : Option MReg) (total : Bool) : Op :=
  wholeOp u w d fun c g f =>
    let mseg := match seg with
      | some k => g.mask k
      | none => 0
    let (xs, f) := scanFrom c g w a mseg (List.range c.vl) none f
    ((if total then segTotals mseg xs else xs).flatMap fun p => c.put w d p.1 p.2, f)

/-- VSCAN (R336). -/
def opVscan (w : View) (d a : GReg) (m : MaskUse) : Op :=
  scanOp { instr := .vscan w d a m, mask := m, srcs := [a] } w d a none false
/-- VSEGSCAN (R336). -/
def opVsegscan (w : View) (d a : GReg) (k : MReg) (m : MaskUse) : Op :=
  scanOp { instr := .vsegscan w d a k m, mask := m, srcs := [a] } w d a (some k) false
/-- VSEGSUM (R336). -/
def opVsegsum (w : View) (d a : GReg) (k : MReg) (m : MaskUse) : Op :=
  scanOp { instr := .vsegsum w d a k m, mask := m, srcs := [a] } w d a (some k) true

/-- VEXPAND (R339). -/
def opVexpand (w : View) (d a : GReg) (m : MaskUse) : Op :=
  wholeOp { instr := .vexpand w d a m, mask := m, srcs := [a], illegal := fun _ => m == .off || d == a } w d
    fun c g f =>
      let is := c.actives g 0
      ((is.zip (List.range is.length)).flatMap fun p => c.put w d p.1 (c.elem g w a p.2), f)

/-- VCOMPRESS (R339). -/
def opVcompress (w : View) (d a : GReg) (m : MaskUse) : Op :=
  wholeOp { instr := .vcompress w d a m, mask := m, srcs := [a], illegal := fun _ => m == .off || d == a } w d
    fun c g f =>
      let is := c.actives g 0
      ((is.zip (List.range is.length)).flatMap fun p => c.put w d p.2 (c.elem g w a p.1), f)

/-- N and G of VSPARSE's k (R340). -/
def sparseOf (k : Nat) : Nat × Nat :=
  match k with
  | 0 => (2, 4)
  | 1 => (4, 8)
  | _ => (1, 4)

/-- The magnitude of an element as a number to rank by: a NaN above every number (R340). -/
def magKey (w x : Nat) : Nat :=
  if 16 ≤ w then (if ((elemFp w).decode x).isNan then 2 ^ (w - 1) else x % 2 ^ (w - 1)) else (sintOf w x).natAbs

/-- An element is kept: fewer than N others of its group are larger, or equal at a lower index (R340). -/
def sparseKept (k : Nat) (mag : Nat → Nat) (i : Nat) : Bool :=
  let (n, g) := sparseOf k
  let base := i / g * g
  decide (((List.range g).filter fun j =>
    decide (mag i < mag (base + j)) || (mag (base + j) == mag i && decide (base + j < i))).length < n)

/-- VSPARSE (R340): the keep bits go to row vd + 1. -/
def opVsparse (w : View) (d a : GReg) (k : BitVec 7) (m : MaskUse) : Op :=
  wholeOp { instr := .vsparse w d a k m, srcs := [a, d + 1]
            illegal := fun s => m != .off || notRow w || groupOf s.my.ctl.vtype != 1 || decide (2 < k.toNat) ||
              s.my.ctl.vl % (sparseOf k.toNat).2 != 0 || d == 63 || d == 127 || a == d + 1 } w d fun c g f =>
    let mag (i : Nat) : Nat := magKey c.width (c.elem g w a i)
    ((List.range c.vl).flatMap fun i =>
      let kept := sparseKept k.toNat mag i
      c.put w d i (if kept then c.elem g w a i else 0) ++ [(d.toNat + 1, i, 1, kept.toNat)], f)

/-- The plan of an operation that may be long (R320), which a resumed one runs again (R177). -/
def planOf : Instr → Option VPlan
  | .vadd v d a b _ => some (planVadd v d a b)
  | .vsub v d a b _ => some (planVsub v d a b)
  | .vmul v d a b _ => some (planVmul v d a b)
  | .vfma v d a b _ => some (planVfma v d a b)
  | .vfms v d a b _ => some (planVfms v d a b)
  | .vmin v d a b _ => some (planVmin v d a b)
  | .vmax v d a b _ => some (planVmax v d a b)
  | .vabs v d a _ => some (planVabs v d a)
  | .vneg v d a _ => some (planVneg v d a)
  | .vdiv v d a b _ => some (planVdiv v d a b)
  | .vadds v d a _ _ => some (planVadds v d a)
  | .vmuls v d a _ _ => some (planVmuls v d a)
  | .vfmas v d a _ _ => some (planVfmas v d a)
  | .vand v d a b _ => some (planVand v d a b)
  | .vor v d a b _ => some (planVor v d a b)
  | .vxor v d a b _ => some (planVxor v d a b)
  | .vnot v d a _ => some (planVnot v d a)
  | .vsll v d a b _ => some (planVsll v d a b)
  | .vsrl v d a b _ => some (planVsrl v d a b)
  | .vsra v d a b _ => some (planVsra v d a b)
  | .vfshl v d a b _ => some (planVfshl v d a b)
  | .vfshr v d a b _ => some (planVfshr v d a b)
  | .vmulh v d a b _ => some (planVmulh v d a b)
  | .vshrr v d a b _ => some (planVshrr v d a b)
  | .vclz v d a _ => some (planVclz v d a)
  | .vpopc v d a _ => some (planVpopc v d a)
  | .vmv v d a _ => some (planVmv v d a)
  | .vbcast v d _ _ => some (planVbcast v d)
  | .vid v d _ => some (planVid v d)
  | .vsel v d a b _ => some (planVsel v d a b)
  | .vcvt v d a k _ => some (planVcvt v d a k)
  | .vqnt v d a _ _ => some (planVqnt v d a)
  | .vhad v d a k _ => some (planVhad v d a k)
  | .vslideup v d a _ _ => some (planVslideup v d a)
  | .vslidedn v d a _ _ => some (planVslidedn v d a)
  | .vperm v d a b _ => some (planVperm v d a b)
  | .vlut v d a b _ => some (planVlut v d a b)
  | .vunpk v d a k _ => some (planVunpk v d a k)
  | .vpack v d a k _ => some (planVpack v d a k)
  | .vnrw v d a k _ => some (planVnrw v d a k)
  | .vsfu v d a k _ => some (planVsfu v d a k)
  | _ => none

/-- The rows that a long vector operation writes. -/
def LongOp.rows (l : LongOp) : List Nat :=
  match l.instr.bind planOf with
  | some p => operandRows p.view (groupOf l.cap.vtype) p.dst
  | none => []

/-- The rows that a long vector operation reads or writes. -/
def LongOp.touches (l : LongOp) : List Nat :=
  match l.instr.bind planOf with
  | some p => p.rows (groupOf l.cap.vtype)
  | none => []

/-- The long vector operation of the hart writes one more row (R176, R177), once the arrival groups that it reads have landed
(R135); with its last element its busy bits clear (R134), and its flags join FFLAGS (R240). A held partial operation whose
bundle has no such operation in its slot does nothing. -/
def State.longRow (s : State) (k : Nat) : State :=
  let h := s.hart k
  match h.long with
  | none => s
  | some l =>
    match l.instr.bind planOf with
    | none => s.modHart k fun h => { h with long := none }
    | some p =>
      if !l.needs.isEmpty then s else
      let c := l.cap
      let next := l.start + max 1 c.vlmax
      match p.run c l.src ((p.visits c l.src l.start).filter (· < next)) h.grid { seed := c.seed } with
      | (g, f) =>
        let last := decide (c.vl ≤ next)
        let busy := if last then g.busy &&& ~~~(rowBits l.rows) else g.busy
        let left : LongOp := { l with start := next, cap := { c with seed := f.seed } }
        s.modHart k fun h =>
          { h with grid := { g with busy := busy }, long := if last then none else some left }.modCtl fun w => w.orFlags f.flags

/-- The rows left to it, so far as its arrival groups have landed (R320): at most one for each row of a half. -/
def State.finishLong (s : State) (k : Nat) : State := (List.range 64).foldl (fun t _ => t.longRow k) s

end Sys2Proof.Machine
end

