-- ==== Sys2Proof/Machine/VecMem.lean ====
section
/-! DEFINITION. Vector loads and stores (R257 to R261, R266), VLDC (R262, R263), VSPILL and VFILL (R264, R265). -/

namespace Sys2Proof.Machine

/-- A range as a decoding path reaches it: its entry, its companion (R17), and the cause of the error that the search for the
companion has met (R22). -/
structure Rng extends RcEnt where
  comp : Option Desc := none
  lost : Option Nat := none
  deriving DecidableEq, Repr

/-- The range that holds an address in someone's name, where the space has ranges and the search finds one (R90). -/
def State.rangeFor (s : State) (w : Who) (space a : Nat) : Option Rng :=
  if space ≠ 0 then none else
  match s.lookup (s.cacheOf w) w.owner w.dirbase (a % 2 ^ 64) with
  | .ok (e, _) => some (match s.companion (s.cacheOf w) w.dirbase e with
    | .ok c => { e with comp := c }
    | .error x => { e with lost := some x })
  | .error _ => none

/-- The range that holds an address for the hart in hand. -/
def State.rangeAt (s : State) (space a : Nat) : Option Rng := s.rangeFor (s.who s.cur) space a

/-- FMT of a range as a vector access sees it: a companion is raw bytes (R17). -/
def RcEnt.fmt (e : RcEnt) : Nat := if e.desc.bit 6 then 0 else e.desc.fmt

/-- The element width in memory under the format of a range, or the fault (R257); `unit` is a VLD. -/
def vecFmt (store unit : Bool) (w : Nat) (e : Option Rng) : Except Nat Nat :=
  match e with
  | none => .ok w
  | some e =>
    let f := e.fmt
    if f = 0 then .ok w
    else if fmtReserved f then .error 0x0E
    else if fmtScaled f then
      if store || e.desc.bdim != 0 then .error 0x0C
      else if f = 0x10 then (if unit && w == 16 then .ok 4 else .error 0x0C)
      else if w = 32 then .ok 8 else .error 0x0C
    else if fmtWidth f = some w then .ok w else .error 0x0C

/-- The blocks of an element that cannot be translated, since the search for its range's companion has met an error (R22). -/
def lostBlocks (e : Option Rng) (reqs : List Req) : List (Nat × Nat) :=
  match e.bind (·.lost) with
  | some c => reqs.map fun q => (q.blk, c)
  | none => []

/-- How an element at a bit address is delivered under the format of its range (R257, R84); a companion that has gone
from the directory counts as exhausted (log 69). -/
def loadConv (e : Option Rng) (ba : Nat) : Conv :=
  match e with
  | none => .raw
  | some e =>
    let f := e.fmt
    if !fmtScaled f || e.lost.isSome then .raw else
    match e.comp with
    | none => .fill
    | some c =>
      if f = 0x10 then
        let o := (ba - 8 * e.desc.base.toNat) / 4 / max 1 e.desc.blen * 4
        if c.size ≤ o then .fill else .int4g (c.base.toNat + o)
      else
        let o := (ba / 8 - e.desc.base.toNat) / max 1 e.desc.blen
        if c.size ≤ o then .fill else .scaled f (c.base.toNat + o)

/-- Where the elements of a vector access lie: from an address on, one after another; or each at an address. -/
inductive VAddr where
  | unit (ea : Nat)
  | each (ea : Nat → Nat)

/-- The width in memory that a unit-stride access takes from the range at its address. -/
def State.unitWidth (s : State) (space : Nat) (store : Bool) (w ea : Nat) : Nat :=
  match vecFmt store true w (s.rangeAt space ea) with
  | .ok n => n
  | .error _ => w

/-- An element's bit address, its range, its width in memory, and the faults of the ranges that it touches (R91): a block
without a range has none. -/
def State.vecElem (s : State) (space : Nat) (store : Bool) (w : Nat) (ad : VAddr) (k : Nat) :
    Nat × Option Rng × Nat × List (Nat × Nat) :=
  let (unit, w0, ba) := match ad with
    | .unit ea =>
      let w0 := s.unitWidth space store w ea
      (true, w0, (8 * ea + k * w0) % 2 ^ 67)
    | .each f => (false, w, 8 * (f k % 2 ^ 64))
  let own := s.rangeAt space (ba / 8)
  let wm := match vecFmt store unit w own with
    | .ok n => if unit then w0 else n
    | .error _ => w0
  let bad := (spanReqs (ba / 8) ((ba % 8 + wm + 7) / 8)).filterMap fun q =>
    (s.rangeAt space q.blk).bind fun e => match vecFmt store unit w (some e) with
    | .ok n => if unit && n != w0 then some (0x0C, q.lo) else none
    | .error c => some (c, q.lo)
  (ba, own, wm, bad)

/-- A block joined to the blocks of an access: one request per block, a later write over an earlier one: the elements of
a vector store in increasing order (R260); a stream's positions in walk order, a copy's in destination storage order and
then in walk order, where R98 does not fix which of two overlapping positions a byte keeps (log 72). -/
def addReq (rs : List Req) (q : Req) : List Req :=
  match rs with
  | [] => [q]
  | r :: rest =>
    if r.blk = q.blk then
      { blk := r.blk, lo := min r.lo q.lo, val := (r.val &&& ~~~q.mask) ||| (q.val &&& q.mask),
        mask := r.mask ||| q.mask } :: rest
    else r :: addReq rest q

/-- The blocks of many requests. -/
def joinReqs (qs : List Req) : List Req := qs.foldl addReq []

/-- The blocks of a store of an element of `w` bits at a bit address (R80, R81). -/
def elemReqs (ba w v : Nat) : List Req :=
  if w < 8 then
    let b := ba / 8 / 64 * 64
    [{ blk := b, lo := ba / 8, val := BitVec.ofNat 512 (v * 2 ^ (ba - 8 * b)),
       mask := BitVec.ofNat 512 ((2 ^ w - 1) * 2 ^ (ba - 8 * b)) }]
  else storeReqs (ba / 8) (w / 8) v

/-- The lowest address among the faults of one cause. -/
def lowestBad (cause : Nat) (bad : List (Nat × Nat)) : Option Nat :=
  (bad.filter (·.1 == cause)).foldl (fun a p => lower a p.2) none

/-- A long vector operation has still to read or write some of these rows: what writes them stalls (R176). -/
def Hart.longOn (h : Hart) (rows : List Nat) : Bool :=
  match h.long with
  | some l => l.touches.any rows.contains
  | none => false

/-- What an access on grid rows must pass: operands, the missing half, and the rows that it consumes (R51, R135). A load
does not wait for the rows that it fills (R258), unless a long vector operation has still to read them (`fills`; R129, R177). -/
def vmemGate (s : State) (rows waits : List Nat) (illegal : Bool) (bad : List (Nat × Nat)) (k : Res) (fills : List Nat := []) :
    Res :=
  let h := s.my
  if illegal then .trap 0x03 0
  else match lowestBad 0x0E bad with
    | some a => .trap 0x0E (BitVec.ofNat 64 a)
    | none => h.capTrap rows <|
      if h.rowWaits waits || h.longOn fills then .stall
      else match lowestBad 0x0C bad with
        | some a => .trap 0x0C (BitVec.ofNat 64 a)
        | none => k

/-- The arrival groups of rows that hold an element below VL, with the elements to fill (R135). -/
def arrGroups (c : VCap) (base : GReg) (elems : List LElem) : List ArrGroup :=
  let places := (List.range c.vl).map fun i =>
    let p := elemPlace .row c.vlmax c.width base i
    (p.1, p.2 / 256)
  places.eraseDups.map fun p => ⟨p.1, p.2, elems.filter fun e => e.row == p.1 && e.lo / 256 == p.2⟩

/-- A load on its way is still to fill a group of a row. -/
def Flight.fills (f : Flight) (row grp : Nat) : Bool :=
  match f.land with
  | .groups _ gs => gs.any fun a => a.row == row && a.grp == grp
  | .decode base n _ _ _ _ => decide (base ≤ row) && decide (row < base + n)
  | .frame base n _ _ _ => decide (base ≤ row) && decide (row < base + 2 ^ n.toNat)
  | _ => false

/-- A group is still to land from an access on its way in this context. -/
def State.groupPending (s : State) (f : Flight) (row grp : Nat) : Bool := s.flights.any fun g => g.same f && g.fills row grp

/-- A row takes a group that has arrived: nothing busy writes it, unless the operation that does still waits for that very
group (R134, R135). -/
def Hart.rowTakes (h : Hart) (row grp : Nat) : Bool :=
  !h.grid.busy.getLsbD row || match h.long with
    | some l => l.needs.contains (row, grp)
    | none => false

/-- A group of an access can land: its row takes it, and no access issued before still has the group to fill (R134, R135). -/
def State.groupFree (s : State) (before : List Flight) (f : Flight) (row grp : Nat) : Bool :=
  (!s.present f.core f.area f.lvl || (s.hart f.core).rowTakes row grp) &&
    !({ s with flights := before } : State).groupPending f row grp

/-- The arrival bits of some groups cleared (R135). -/
def Grid.clearGroups (g : Grid) (ps : List (Nat × Nat)) : Grid :=
  { g with missing := ps.foldl (fun m p => m.put p.1 (m.getD p.1 0xFF &&& ~~~(BitVec.twoPow 8 p.2))) g.missing }

/-- The eight groups of some rows, with the elements that fill each (R135, R263, R265). -/
def rowGroups (row n : Nat) (elems : List LElem) : List ArrGroup :=
  (List.range (8 * n)).map fun i =>
    ⟨row + i / 8, i % 8, elems.filter fun e => e.row == row + i / 8 && e.lo / 256 == i % 8⟩

/-- A value known already, as an element of a row (R263, R265). -/
def knownElem (row lo w x : Nat) : LElem := ⟨row, lo, w, 0, 0, .value x⟩

/-- A load's data lands at once where its rows are free; otherwise its groups wait for their rows (R134, R135, R258). -/
def State.settleLoad (s : State) (f : Flight) : State :=
  match f.land with
  | .groups fill gs =>
    if !s.delay && gs.all fun g => s.groupFree s.flights f g.row g.grp then
      gs.foldl (fun t g => t.landGroup f fill g) s
    else { s with flights := s.flights ++ [f] }
  | _ => s

/-- The arrival bits of a load's groups cleared at commit (R135). -/
def State.clearArrivals (s : State) (gs : List ArrGroup) : State :=
  s.modMy fun h => h.modGrid fun g => g.clearGroups (gs.map fun a => (a.row, a.grp))

/-- A vector load at commit, its blocks performed already. -/
def State.loadDone (s : State) (f : Flight) (fill : BitVec 32) : State :=
  let gs := match f.land with
    | .ask gs => gs
    | .groups _ gs => gs
    | _ => []
  (s.clearArrivals gs).settleLoad { f with pieces := [], fails := [], land := .groups fill gs }

/-- A vector load at commit: its blocks perform at once or travel, and its groups land as they arrive (R107, R135). -/
def State.issueLoad (s : State) (f : Flight) (fill : BitVec 32) (gs : List ArrGroup) : State :=
  if f.pieces.isEmpty || s.atOnce f then
    match s.perform { f with land := .groups fill gs } with
    | (g, t) => (t.report g).loadDone g fill
  else
    let t := s.clearArrivals gs
    { t with flights := t.flights ++ [{ f with land := .groups fill gs }] }

/-- A vector load (R257, R258). -/
def vloadOp (p : Space) (v : GReg) (m : MaskUse) (rows : List Nat) (illegal : Bool) (ad : State → VAddr) : Op := fun oc s =>
  let h := s.my
  let fill := h.ctl.fill
  match h.wait with
  | .ask => s.askWait
  | .answer g => g.strictTrap (commits fun t => (t.takeAnswer g).loadDone g fill)
  | _ =>
    let c := h.capture m 1 0
    let sp := spaceNum p
    let dst := operandRows .row (groupOf c.vtype) v
    let ks := c.actives h.grid 0
    let es := ks.map fun k => (k, s.vecElem sp false c.width (ad s) k)
    let bad := es.flatMap (·.2.2.2.2)
    (vmemGate s (dst ++ rows) rows (illegal || operandBad .row c.vtype v) bad · dst) <|
      let elems := es.map fun e =>
        let q := elemPlace .row c.vlmax c.width v e.1
        (⟨q.1, q.2, c.width, e.2.1, e.2.2.2.1, loadConv e.2.2.1 e.2.1⟩ : LElem)
      let reqs := joinReqs (elems.flatMap fun e =>
        spanReqs (e.ba / 8) ((e.ba % 8 + e.wm + 7) / 8) ++
        match e.conv with
        | .int4g a => spanReqs a 4
        | .scaled _ a => spanReqs a 1
        | _ => [])
      let gs := arrGroups c v elems
      let x := (s.translate sp .load reqs).lose h.sup.violmode
        (es.flatMap fun e => lostBlocks e.2.2.1 (spanReqs (e.2.1 / 8) ((e.2.1 % 8 + e.2.2.2.1 + 7) / 8)))
      x.gate <|
        let f := { newFlight s oc clsVR true sp 0 .read with pieces := x.pieces, fails := x.fails, land := .ask gs }
        if x.pieces.any (·.strict) then s.sendAsk x f fun g t => t.loadDone g fill
        else commits fun t => (t.useEntries s.cur x.used).issueLoad f fill gs

/-- The blocks that a vector store writes, its elements in increasing order (R260), with the faults of their ranges. -/
def State.vstoreReqs (s : State) (c : VCap) (sp : Nat) (v : GReg) (ad : VAddr) : List Req × List (Nat × Nat) :=
  let g := s.my.grid
  let es := (c.actives g 0).map fun k => (k, s.vecElem sp true c.width ad k)
  (joinReqs (es.flatMap fun e => elemReqs e.2.1 c.width (c.elem g .row v e.1)), es.flatMap (·.2.2.2.2))

/-- A vector store (R257, R258, R260). -/
def vstoreOp (p : Space) (v : GReg) (m : MaskUse) (rows : List Nat) (illegal : Bool) (ad : State → VAddr) : Op := fun oc s =>
  let h := s.my
  let f := newFlight s oc clsVW true (spaceNum p) 1 .write
  match h.wait with
  | .ask => s.askWait
  | .answer g => g.strictTrap (commits fun t => t.takeAnswer g)
  | _ =>
    let c := h.capture m 1 0
    let used := operandRows .row (groupOf c.vtype) v ++ rows
    let (reqs, bad) := s.vstoreReqs c (spaceNum p) v (ad s)
    vmemGate s used used (illegal || operandBad .row c.vtype v) bad (s.access f false .store reqs fun _ t => t)

/-- A 17-bit displacement (R200). -/
def imm17 (i : BitVec 17) : Word := i.signExtend 64

/-- The addresses of VLD and VST (R259). -/
def unitAt (a : SReg) (imm : BitVec 17) (s : State) : VAddr := .unit (s.my.rx a + imm17 imm).toNat

/-- The addresses of a strided form. -/
def strideAt (a b : SReg) (s : State) : VAddr :=
  .each fun k => (s.my.rx a + BitVec.ofNat 64 k * s.my.rx b).toNat

/-- The addresses of an indexed form: index cells are signed 32-bit byte offsets. -/
def indexAt (a : SReg) (x : GReg) (s : State) : VAddr :=
  .each fun k =>
    (s.my.rx a + (BitVec.ofNat 32 (s.my.grid.bitsAt (x.toNat + k / 64) (32 * (k % 64)) 32)).signExtend 64).toNat

/-- A sub-byte SEW is an illegal operand of the strided and indexed forms (R259). -/
def subByte (s : State) : Bool := decide (sewOf s.my.ctl.vtype < 2)

/-- The rows of the indices (R259). -/
def indexRows (x : GReg) (s : State) : List Nat := (List.range ((s.my.ctl.vl + 63) / 64)).map (x.toNat + ·)

/-- The index rows leave one half (R259). -/
def indexBad (x : GReg) (s : State) : Bool := (indexRows x s).any fun r => r / 64 != x.toNat / 64

/-- VLD (R259). -/
def opVld (p : Space) (v : GReg) (a : SReg) (imm : BitVec 17) (m : MaskUse) : Op :=
  vloadOp p v m [] false (unitAt a imm)
/-- VLDS (R259). -/
def opVlds (p : Space) (v : GReg) (a b : SReg) (m : MaskUse) : Op := fun oc s =>
  vloadOp p v m [] (subByte s) (strideAt a b) oc s
/-- VLDX (R259). -/
def opVldx (p : Space) (v : GReg) (a : SReg) (x : GReg) (m : MaskUse) : Op := fun oc s =>
  vloadOp p v m (indexRows x s) (subByte s || indexBad x s) (indexAt a x) oc s
/-- VST (R259). -/
def opVst (p : Space) (v : GReg) (a : SReg) (imm : BitVec 17) (m : MaskUse) : Op :=
  vstoreOp p v m [] false (unitAt a imm)
/-- VSTS (R259). -/
def opVsts (p : Space) (v : GReg) (a b : SReg) (m : MaskUse) : Op := fun oc s =>
  vstoreOp p v m [] (subByte s) (strideAt a b) oc s
/-- VSTX (R259). -/
def opVstx (p : Space) (v : GReg) (a : SReg) (x : GReg) (m : MaskUse) : Op := fun oc s =>
  vstoreOp p v m (indexRows x s) (subByte s || indexBad x s) (indexAt a x) oc s

/-- VSTVA (R266). -/
def opVstva (v : GReg) (a t : SReg) (m : MaskUse) : Op := fun oc s =>
  let h := s.my
  let c := h.capture m 1 0
  let used := operandRows .row (groupOf c.vtype) v
  let (reqs, bad) := s.vstoreReqs c 0 v (.unit (h.rx a).toNat)
  let store := s.timedStore (newFlight s oc clsVW true 0 1 .write) (h.rx t) reqs
  if h.wait != .none then store
  else vmemGate s used used (operandBad .row c.vtype v || s.tooFar (h.rx t)) bad store

/-- VSTB (R261). -/
def opVstb (p : Space) (v : GReg) (a : SReg) (k : MReg) : Op := fun oc s =>
  let h := s.my
  let ea := (h.rx a).toNat
  let reqs := joinReqs (((List.range 256).filter fun j => (h.mask k).getLsbD j).flatMap fun j =>
    storeReqs ((ea + j) % 2 ^ 64) 1 (h.grid.bitsAt v.toNat (8 * j) 8))
  let store := s.access (newFlight s oc clsVW true (spaceNum p) 1 .write) false .store reqs fun _ t => t
  if h.wait != .none then store else vmemGate s [v.toNat] [v.toNat] false [] store

/-- A group of VSPILL or VFILL is not aligned to its own size (R264). -/
def frameBad (v : GReg) (g : BitVec 2) : Bool := v.toNat % 2 ^ g.toNat != 0

/-- The rows of a frame's group. -/
def frameRows (v : GReg) (g : BitVec 2) : List Nat := (List.range (2 ^ g.toNat)).map (v.toNat + ·)

/-- VSPILL (R264). -/
def opVspill (p : Space) (v : GReg) (a : SReg) (g : BitVec 2) : Op := fun oc s =>
  let h := s.my
  let c := h.capture .off 1 0
  let n := min c.vl (2 ^ g.toNat * c.vlmax)
  let body := pack ((List.range n).map fun k => (k * c.width, c.elem h.grid .row v k))
  let frame := pack [(0, n), (32, sewOf c.vtype), (35, g.toNat), (40, c.vlcap), (128, body)]
  let reqs := storeReqs (h.rx a).toNat (16 + (n * c.width + 7) / 8) frame
  let store := s.access (newFlight s oc clsVW true (spaceNum p) 1 .write) false .store reqs fun _ t => t
  if h.wait != .none then store else vmemGate s (frameRows v g) (frameRows v g) (frameBad v g) [] store

/-- An access of the hart in hand has still to perform: what is judged on memory as it stands waits for it (R108, log 6). -/
def State.owesAccess (s : State) : Bool :=
  let w := s.who s.cur
  s.flights.any fun f => f.ofCtx w.core w.owner w.area && !f.pieces.isEmpty && f.time.isNone

/-- The header of a frame, where it is valid for a group (R265): COUNT and SEW. -/
def frameHeader (hd g vlcap : Nat) : Option (Nat × Nat) :=
  let n := hd % 2 ^ 32
  let sew := hd / 2 ^ 32 % 8
  if sew ≤ 4 ∧ hd / 2 ^ 35 % 4 = g ∧ hd / 2 ^ 37 % 8 = 0 ∧ hd / 2 ^ 40 % 2 ^ 12 = vlcap ∧ hd / 2 ^ 52 = 0 ∧
     n ≤ 2 ^ g * (vlcap / 2 ^ (sew + 1)) then some (n, sew) else none

/-- The bytes of a frame that VFILL needs, as far as its header has been read: the header's, and with a valid one its elements'
(R265). -/
def frameNeeds (got : Tbl (BitVec 512)) (ea g vlcap : Nat) : Nat :=
  match (gather got ea 16).bind fun hd => frameHeader hd g vlcap with
  | some (n, sew) => 16 + (n * 2 ^ (sew + 1) + 7) / 8
  | none => 16

/-- The low bits of a row replaced, those at or beyond a width kept. -/
def rowBelow (old new : BitVec 2048) (width : Nat) : BitVec 2048 :=
  let m := BitVec.ofNat 2048 (2 ^ width - 1)
  (old &&& ~~~m) ||| (new &&& m)

/-- The deltas of a DBP32 group added up (R89). -/
def dbpValues (w bits : Nat) : Nat → BitVec 32 → List (BitVec 32)
  | 0, _ => []
  | n + 1, v =>
    let x := v + BitVec.ofNat 32 (bits % 2 ^ w)
    x :: dbpValues w (bits / 2 ^ w) n x

/-- What VLDC's decoding gives (R262): the values, the bytes consumed, the status bits of s[sb], and the bytes that it has
looked at. -/
structure Dbp where
  vals : List (BitVec 32)
  off : Nat
  flags : Nat := 0
  seen : Nat
  deriving DecidableEq, Repr

/-- VLDC's loop (R262): `rd` reads bytes from an offset, none where a block failed. -/
def dbpDecode (rd : Nat → Nat → Option Nat) (bound cap : Nat) : Nat → Nat → List (BitVec 32) → Dbp
  | 0, off, vs => { vals := vs, off := off, seen := off }
  | fuel + 1, off, vs =>
    if off + 6 > bound then { vals := vs, off := off, seen := off } else
    match rd off 2 with
    | none => { vals := vs, off := off, flags := 2 ^ 62, seen := off + 2 }
    | some wn =>
      let w := wn % 256
      let n := wn / 256
      if 32 < w ∨ n = 0 ∨ 64 < n then { vals := vs, off := off, flags := 2 ^ 63, seen := off + 2 } else
      let size := 6 + ((n - 1) * w + 7) / 8
      if off + size > bound ∨ vs.length + n > cap then { vals := vs, off := off, seen := off + 2 } else
      match rd (off + 2) (size - 2) with
      | none => { vals := vs, off := off, flags := 2 ^ 62, seen := off + size }
      | some b =>
        let first := BitVec.ofNat 32 b
        dbpDecode rd bound cap fuel (off + size) (vs ++ first :: dbpValues w (b / 2 ^ 32) (n - 1) first)

/-- VLDC's decoding of what has been read from an address on, into a group of rows. -/
def dbpOf (got : Tbl (BitVec 512)) (rows vlcap ea bound : Nat) : Dbp :=
  dbpDecode (fun o n => gather got (ea + o) n) bound (rows * (vlcap / 32)) 700 0 []

/-- The failures of an access in the bytes that it has looked at. -/
def Flight.failsIn (f : Flight) (ea n : Nat) : Flight :=
  let bs := (spanReqs ea n).map (·.blk)
  { f with fails := f.fails.filter fun e => bs.contains (e.addr / 64 * 64) }

/-- VL and s[sb] of a VLDC that has decoded (R263): in the context's hart, or in its save area. -/
def State.vldcResult (s : State) (f : Flight) (reg : SReg) (d : Dbp) : State :=
  let v : Word := BitVec.ofNat 64 (d.off + d.flags)
  match s.homeOf f.core f.area f.lvl with
  | some k => s.modHart k fun h => (h.modCtl fun w => { w with vl := d.vals.length }).wx reg v
  | none =>
    let t := (s.ctxPut f.area f.owner 24 4 d.vals.length).modAbsent f.area fun h =>
      (h.modCtl fun w => { w with vl := d.vals.length }).wx reg v
    if reg = 0 then t else t.ctxPut f.area f.owner (128 + 8 * reg.toNat) 8 v.toNat

/-- VLDC's decoding ends (R262, R263): its failures are reported, its rows land, and its results are there. -/
def State.vldcEnd (s : State) (f : Flight) : State :=
  match f.land with
  | .decode row n vlcap ea bound reg =>
    let d := dbpOf f.got n vlcap ea bound
    let per := max 1 (vlcap / 32)
    let elems := (d.vals.zip (List.range d.vals.length)).map fun p =>
      knownElem (row + p.2 / per) (32 * (p.2 % per)) 32 p.1.toNat
    let f := f.failsIn ea d.seen
    let t := (rowGroups row n elems).foldl (fun t g => t.landGroup f 0 g) (s.report f)
    t.vldcResult f reg d
  | _ => s

/-- VFILL has read its frame (R265): the groups that land. Every position of a row below WIDTH that no element takes is
undefined afterwards (log 12); an invalid frame gives FILL and a format error. -/
def State.frameEnd (s : State) (f : Flight) : Flight × State :=
  match f.land with
  | .frame row g vlcap ea fill =>
    let n := 2 ^ g.toNat
    let cells (x : Nat → Nat → Nat) : List LElem := (List.range n).flatMap fun r =>
      (List.range (vlcap / 32)).map fun i => knownElem (row + r) (32 * i) 32 (x (row + r) i)
    match (gather f.got ea 16).bind fun hd => frameHeader hd g.toNat vlcap with
    | none =>
      let f := f.failsIn ea 16
      ({ f with fails := [], land := .groups fill (rowGroups row n (cells fun _ _ => fill.toNat)) },
       (s.report f).formatErrors f.core 1)
    | some (k, sew) =>
      let w := 2 ^ (sew + 1)
      let f := f.failsIn ea (16 + (k * w + 7) / 8)
      let elems := (List.range k).map fun i =>
        (⟨row + i / (vlcap / w), w * (i % (vlcap / w)), w, (8 * (ea + 16) + i * w) % 2 ^ 67, w, .raw⟩ : LElem)
      let stale := cells fun r i => (Config.undefRow s.count r).toNat / 2 ^ (32 * i) % 2 ^ 32
      ({ f with fails := [], land := .groups fill (rowGroups row n (stale ++ elems)) }, s.report f)
  | _ => (f, s)

/-- Every row of a group that a VLDC fills takes its groups now (R134, R135). -/
def State.rowsFree (s : State) (before : List Flight) (f : Flight) (row n : Nat) : Bool :=
  (List.range (8 * n)).all fun i => s.groupFree before f (row + i / 8) (i % 8)

/-- A VLDC or VFILL whose blocks have performed, its bundle committing: what can land does (R263, R265). -/
def State.sizedDone (s : State) (f : Flight) : State :=
  match f.land with
  | .decode row n _ _ _ _ => if !s.delay && s.rowsFree s.flights f row n then s.vldcEnd f else { s with flights := s.flights ++ [f] }
  | _ => match s.frameEnd f with
    | (g, t) => t.settleLoad g

/-- The bytes that a VLDC or VFILL needs of what has been read for it (R262, R265). -/
def Land.needed (l : Land) (got : Tbl (BitVec 512)) : Nat × Nat :=
  match l with
  | .decode _ n vlcap ea bound _ => (ea, (dbpOf got n vlcap ea bound).seen)
  | .frame _ g vlcap ea _ => (ea, frameNeeds got ea g.toNat vlcap)
  | _ => (0, 0)

/-- Blocks of some bytes that an access has neither read nor met a failure in. -/
def Flight.lacks (f : Flight) (ea n : Nat) : Bool :=
  (spanReqs ea n).any fun q => !f.got.any (·.1 == q.blk) && !f.fails.any fun e => e.addr / 64 * 64 == q.blk

/-- A VLDC or VFILL of the bundle in hand: every arrival group of its rows is cleared at commit (R135), and its blocks
perform then or afterwards (R107). `most` bounds the bytes that it can need and `seen` is what it needs as memory stands:
the blocks of those are judged before commit, and where one is strict those of `most` are read before it; no failure beyond what
it then needs counts, and where it needs a block that was not read, since memory has changed, it reads again (log 6). -/
def State.sizedLoad (s : State) (oc : OpCtx) (sp ea most seen row n : Nat) (land : Land) : Res :=
  let clear (t : State) : State := t.clearArrivals (rowGroups row n [])
  let f := newFlight s oc clsVR true sp 0 .read
  match s.my.wait with
  | .ask => s.askWait
  | .answer g =>
    let (a, n) := land.needed g.got
    if g.lacks a n then .wait 1 none fun t => t.modMy fun h => { h with wait := .none, passed := none } else
    (g.failsIn a n).strictTrap (commits fun t =>
      (clear (t.useEntries t.cur (g.used.filter t.stands))).sizedDone { g with land := land })
  | _ =>
    let y := s.translate sp .load (spanReqs ea seen)
    let strict := y.pieces.any (·.strict)
    if s.owesAccess && (strict || y.nonres.isSome || !y.fails.isEmpty) then .stall
    else y.gate <|
      let x := s.translate sp .load (spanReqs ea most)
      if strict && !s.atOnce { f with pieces := x.pieces } then .wait 1 none fun t =>
        { t.asking with flights := t.flights ++ [{ f with pieces := x.pieces, fails := x.fails, strict := true, used := y.used }] }
      else if strict then
        s.sendBefore y { f with pieces := y.pieces, fails := y.fails } fun g t => (clear t).sizedDone { g with land := land }
      else commits fun t =>
        let x := t.translate sp .load (spanReqs ea most)
        let f := { f with pieces := x.pieces, fails := x.fails, land := land }
        let t := clear (t.useEntries s.cur y.used)
        if f.pieces.isEmpty || t.atOnce f then
          match t.perform f with
          | (g, t) => t.sizedDone g
        else { t with flights := t.flights ++ [f] }

/-- Bytes from an address as memory stands, so far as translation reaches them. -/
def State.peek (s : State) (oc : OpCtx) (sp ea n : Nat) : Tbl (BitVec 512) :=
  (s.perform { newFlight s oc clsVR true sp 0 .read with pieces := (s.translate sp .load (spanReqs ea n)).pieces }).1.got

/-- VFILL (R265). -/
def opVfill (p : Space) (v : GReg) (a : SReg) (g : BitVec 2) : Op := fun oc s =>
  let h := s.my
  let sp := spaceNum p
  let ea := (h.rx a).toNat
  let cap := h.sup.vlcap.toNat
  let rows := frameRows v g
  (vmemGate s rows [] (frameBad v g) [] · rows) <|
    let seen := frameNeeds (s.peek oc sp ea 16) ea g.toNat cap
    s.sizedLoad oc sp ea (16 + rows.length * (cap / 8)) seen v.toNat rows.length (.frame v.toNat g cap ea h.ctl.fill)

/-- The format of a range that VLDC reaches is wrong (R91, R262): anything but raw and DBP32. -/
def State.vldcBad (s : State) (sp ea n : Nat) : List (Nat × Nat) :=
  (spanReqs ea n).filterMap fun q =>
    match s.rangeAt sp q.blk with
    | none => none
    | some e => if e.fmt = 0 ∨ e.fmt = 0x13 then none else some (if fmtReserved e.fmt then 0x0E else 0x0C, q.lo)

/-- VLDC (R262, R263): a bundle that reads its results comes after them, and its rows land with the decoding. Blocks
that the decoding does not reach are not accessed. -/
def opVldc (p : Space) (v : GReg) (a b : SReg) : Op := fun oc s =>
  let h := s.my
  let sp := spaceNum p
  let ea := (h.rx a).toNat
  let c := h.capture .off 1 0
  let n := groupOf c.vtype
  let bound := min (h.rx b).toNat 4096
  let seen := (dbpOf (s.peek oc sp ea bound) n c.vlcap ea bound).seen
  let bad := if h.wait == .none then s.vldcBad sp ea (max 1 seen) else []
  if s.owesAccess && !bad.isEmpty then .stall
  else (vmemGate s (operandRows .row n v) [] (sewOf c.vtype != 4 || operandBad .row c.vtype v) bad · (operandRows .row n v)) <|
    (s.sizedLoad oc sp ea bound seen v.toNat n (.decode v.toNat n c.vlcap ea bound b))

end Sys2Proof.Machine
end

