-- ==== Sys2Proof/Machine/Tensor.lean ====
section
/-! DEFINITION. Elements of tensors as streams and lighters reach them through a layout record: the effective format
and block geometry (R90, R93), where an element and its scale lie (R84, R94), and what a read delivers (R82, R83). -/

namespace Sys2Proof.Machine

/-- The effective format of R90 of a range and a named format, with the geometry of R84 in force, or the fault. A stride
of the block dimension that is not positive, which R84 does not allow, is a format conflict for a range (log 67). -/
def tensorFmt (r : List Word) (fs : Nat) (e : Option Rng) : Except Nat Nat :=
  let fr := (e.map (·.fmt)).getD 0
  if fmtReserved fr then .error 0x0E
  else if fr ≠ 0 ∧ fs ≠ 0 ∧ fr ≠ fs then .error 0x0C
  else
    let f := if fs = 0 then fr else fs
    let bad :=
      if fmtScaled f && recSpace r == 0 then
        match e with
        | none => false
        | some e =>
          let b := e.desc.bdim
          fr == 0 || (recQblen r != 0 && recQblen r != e.desc.blen) ||
            (recQbdim r != 0 && recQbdim r != b) || decide (recRank r ≤ b) || decide (recStr r b ≤ 0)
      else false
    if bad || !suboffOk r f then .error 0x0C else .ok f

/-- Block length and block dimension of a scaled tensor: the range's, or in scratch the record's (R84, R90). -/
def tensorGeom (r : List Word) (e : Option Rng) : Nat × Nat :=
  match e with
  | some e => (max 1 e.desc.blen, e.desc.bdim)
  | none => (max 1 (recQblen r), recQbdim r)

/-- The storage index of an element: its offset from the range's BASE, SUBOFF counted; in scratch its index in the record,
SUBOFF not counted (R84, log 68). -/
def scaleIndex (r : List Word) (f : Nat) (e : Option Rng) (x : Nat → Nat) (ba : Nat) : Nat :=
  match e with
  | some e => (ba - 8 * e.desc.base.toNat) / fmtStored f
  | none => (recIndex r x).toNat

/-- The stride of the block dimension, in elements; in scratch one that is not positive counts as 1 (R84, log 67). -/
def scaleStride (r : List Word) (b : Nat) : Nat := max 1 (recStr r b).toNat

/-- Where the scale of an element lies; none when its companion is exhausted, or gone from the directory (R84, log 69). -/
def scaleAddr (r : List Word) (f : Nat) (e : Option Rng) (x : Nat → Nat) (ba : Nat) : Option Nat :=
  let (blen, b) := tensorGeom r e
  let o := blockIndex (scaleIndex r f e x ba) (scaleStride r b) blen * (if f = 0x10 then 4 else 1)
  match e with
  | some e => e.comp.bind fun c => if c.size ≤ o then none else some (c.base.toNat + o)
  | none => some (scratchCompanion r f + o)

/-- An element of a tensor: its bit address and range, and where its scale lies where it is read with one. -/
structure TElem where
  ba : Nat
  rng : Option Rng
  scale : Option (Option Nat)
  deriving DecidableEq, Repr

/-- The element at some coordinates; `scaled` says that its scale is read with it: not that of an element of device virtual space
which lies in no range, or whose companion cannot be found for an error (R22). -/
def State.tensorElem (s : State) (w : Who) (r : List Word) (f : Nat) (scaled : Bool) (x : Nat → Nat) : TElem :=
  let ba := recBitAddr r (fmtStored f) x
  let e := s.rangeFor w (recSpace r) (ba / 8)
  let found := recSpace r != 0 || (e.map fun e => e.lost.isNone).getD false
  { ba := ba, rng := e, scale := if scaled && found then some (scaleAddr r f e x ba) else none }

/-- The bytes of an element. -/
def TElem.span (t : TElem) (f : Nat) : List Req := spanReqs (t.ba / 8) ((t.ba % 8 + fmtStored f + 7) / 8)

/-- The blocks that reading an element reaches. -/
def TElem.reqs (t : TElem) (f : Nat) : List Req :=
  t.span f ++ match t.scale with
    | some (some a) => spanReqs a (if f = 0x10 then 4 else 1)
    | _ => []

/-- The blocks of a scaled element that cannot be translated (R22). -/
def TElem.lost (t : TElem) (f : Nat) : List (Nat × Nat) := if fmtScaled f then lostBlocks t.rng (t.span f) else []

/-- The faults of the ranges that an element reaches, against the effective format (R91); a block without a range has none. -/
def State.tensorBad (s : State) (w : Who) (r : List Word) (fs f : Nat) (t : TElem) : List (Nat × Nat) :=
  (t.span f).filterMap fun q =>
    (s.rangeFor w (recSpace r) q.blk).bind fun e => match tensorFmt r fs (some e) with
    | .ok g => if g = f then none else some (0x0C, q.lo)
    | .error c => some (c, q.lo)

/-- The stored bits of an element, none where a block of it failed. -/
def TElem.bits (t : TElem) (f : Nat) (got : Tbl (BitVec 512)) : Option Nat := gotBits got t.ba (fmtStored f)

/-- The scale of an element: a companion word or an E8M0 code. -/
def TElem.scaleBits (t : TElem) (f : Nat) (got : Tbl (BitVec 512)) : Option Nat :=
  match t.scale with
  | some (some a) => gather got a (if f = 0x10 then 4 else 1)
  | _ => none

/-- An element as a stream delivers it (R82, R83, R96): FILL where a block of it failed or its companion is exhausted. -/
def TElem.deliver (t : TElem) (f : Nat) (got : Tbl (BitVec 512)) (fill : BitVec 32) : Nat :=
  let filled := fill.toNat % 2 ^ fmtDelivered f
  match t.bits f got with
  | none => filled
  | some b =>
    if f = 0x10 then
      match t.scaleBits f got with
      | some word => int4gExpand b word
      | none => filled
    else b

/-- Format errors of a delivered element: a companion word with a nonzero reserved field, which counts once for every
element that it expands (log 70), or an exhausted companion (R83, log 37). -/
def TElem.errors (t : TElem) (f : Nat) (got : Tbl (BitVec 512)) : Nat :=
  match t.scale, t.scaleBits f got with
  | some none, _ => 1
  | _, some word => if f = 0x10 ∧ word / 2 ^ 20 ≠ 0 then 1 else 0
  | _, none => 0

/-- Values packed one after another at a width. -/
def packAt (w : Nat) : List Nat → Nat
  | [] => 0
  | v :: vs => v % 2 ^ w + 2 ^ w * packAt w vs

/-- The lowest byte address of some requests. -/
def lowestReq (qs : List Req) : Nat :=
  ((qs.foldl (fun a q => some (lower a q.lo |>.getD q.lo)) (none : Option Nat))).getD 0

end Sys2Proof.Machine
end

