-- ==== Sys2Proof/Machine/Stream.lean ====
section
/-! DEFINITION. Stream bindings: the stream unit's prefetch and writes (R95 to R97, R123, R269, R270), rings (R164,
R276), SBIND, SUNBIND, SSTAT, SSKIP and SFLUSH (R269 to R275), and the queue ends that a program touches, VPOP and VPUSH
(R142, R341, R342). -/

namespace Sys2Proof.Machine

/-- In whose name the stream unit accesses memory for a core's hart: at the level of the bindings' program, a handler's
own level aside. -/
def State.streamWho (s : State) (k : Nat) : Who :=
  let h := s.hart k
  { s.who k with lvl := if h.handler then levelOf (h.sup.trapcause.toNat / 256 % 4) else h.level }

/-- The format that a binding has, or will settle on: the one that its record names, which the ranges of each strip must have
(R91), or with none named that of the range at its base (R90, R301, log 40). -/
def State.queueFmt (s : State) (w : Who) (q : Queue) : Except Nat Nat :=
  match q.fmt with
  | some f => .ok f
  | none => if recFmt q.rcd ≠ 0 then .ok (recFmt q.rcd) else tensorFmt q.rcd (recFmt q.rcd) (s.rangeFor w (recSpace q.rcd) (recBase q.rcd))

/-- What the stream unit finds when it turns to an entry: its blocks are held up, with the lowest address that waits for a
place; a fault of R91, R28 or R19 in the order of R174; or the translated blocks, with the elements inside the extents. -/
inductive Strip where
  | wait (held : Option Nat)
  | fault (cause addr : Nat)
  | ready (fmt : Nat) (x : Xls) (elems : List (Option TElem))

/-- The elements of the entry at a place of the walk; padding has none (R96). -/
def State.stripElems (s : State) (w : Who) (q : Queue) (f : Nat) (p : Nat × Nat) : List (Option TElem) :=
  (entryCoords q.rcd f p).map fun x =>
    if recInside q.rcd x then some (s.tensorElem w q.rcd f (f == 0x10) x) else none

/-- The lowest byte address of the elements of a strip (R91). -/
def stripLow (r : List Word) (f : Nat) (es : List (Option TElem)) : Nat :=
  match (es.filterMap id).flatMap (·.span f) with
  | [] => recBase r
  | qs => lowestReq qs

/-- The format by which a strip is measured whose own has not been settled: the record's, or else eight bits an element
(log 80). -/
def stripGuess (r : List Word) : Nat := if recFmt r = 0 ∨ fmtReserved (recFmt r) then 0x04 else recFmt r

/-- A strip's blocks examined for a load or a store. -/
def State.examine (s : State) (w : Who) (q : Queue) (store : Bool) (p : Nat × Nat)
    (mk : Nat → List (Option TElem) → List Req) : Strip :=
  let sp := recSpace q.rcd
  match s.queueFmt w q with
  | .error c => .fault c (stripLow q.rcd (stripGuess q.rcd) (s.stripElems w q (stripGuess q.rcd) p))
  | .ok f =>
    let es := s.stripElems w q f p
    let reqs := joinReqs (mk f es)
    let bad := (es.filterMap id).flatMap (s.tensorBad w q.rcd (recFmt q.rcd) f)
    let low := stripLow q.rcd f es
    if bad.any (·.1 == 0x0E) then .fault 0x0E low
    else if !bad.isEmpty || f == 0x13 || (store && fmtScaled f) then .fault 0x0C low
    else
      let x := (s.xlAll w (s.core w.core).cache sp (if store then .store else .load) reqs {}).lose w.viol
        ((es.filterMap id).flatMap (·.lost f))
      if x.moving || x.held.isSome then .wait x.held
      else match lowestFail (x.fails.filter (·.strict)) with
        | some e => .fault 0x15 e.addr
        | none => match x.nonres with
          | some a => .fault 0x0A a
          | none => .ready f x es

/-- A stream access of a binding (R69): it names the SBIND's bundle and slot. -/
def streamFlight (w : Who) (q : Queue) (act : Act) (cls : BitVec 8) (x : Xls) : Flight :=
  { core := w.core, owner := w.owner, area := w.area, lvl := w.lvl, cls := cls, vec := false, interval := 0,
    space := recSpace q.rcd, kind := 3, pc := q.pc, slot := q.slot, act := act, pieces := x.pieces, fails := x.fails,
    land := .drop }

/-- The contents of a queue entry (R96). -/
def stripData (q : Queue) (f : Nat) (es : List (Option TElem)) (got : Tbl (BitVec 512)) : BitVec 2048 :=
  let pad := if recFillb q.rcd then recFillv q.rcd else 0
  BitVec.ofNat 2048 (packAt (fmtDelivered f) (es.map fun e =>
    match e with
    | none => pad
    | some t => t.deliver f got q.fill))

/-- The queue of a gang member, in its core or in its save area, with the core where it runs (R164). -/
def State.memberQueue (s : State) (handle : Word) (idx q : Nat) : Option (Option Nat × QEntry × Queue) :=
  (s.cores.findSome? fun p => p.2.queue.find? fun e => e.handle == handle && e.idx == idx).bind fun e =>
    match s.homeOf 1536 e.area .u with
    | some k => some (some k, e, (s.hart k).queue q)
    | none => if e.st == .fresh || e.st == .ended then none else some (none, e, areaQueue (s.ctxGet e.area e.owner) q)

/-- Two ends of a ring: one for reading and one for storing, on one record's BASE (R164, R276). -/
def Queue.ringEnds (q r : Queue) : Bool := r.bind + q.bind == 3 && recRing r.rcd && recBase r.rcd == recBase q.rcd

/-- The partner's entry and queue in a ring; none once it is gone (R164, R272). -/
def State.partnerEnd (s : State) (q : Queue) : Option (QEntry × Queue) :=
  q.partner.bind fun p =>
    (s.memberQueue p.2.2 p.1 p.2.1).bind fun m => if q.ringEnds m.2.2 then some m.2 else none

/-- The partner's queue in a ring. -/
def State.partnerOf (s : State) (q : Queue) : Option Queue := (s.partnerEnd q).map (·.2)

/-- The entries of a writing end before the first that has still to be written: pushed and written, or skipped (R274, R276);
what its context left behind counts too (R186). -/
def State.storedBy (s : State) (e : QEntry) (r : Queue) : Nat :=
  let left := s.cores.flatMap fun p => (p.2.left.filter fun l =>
    l.area == e.area && l.owner == e.owner && recBase l.queue.rcd == recBase r.rcd).map (·.word)
  (r.entries ++ left).foldl (fun n x => min n x.seq) r.count.toNat

/-- A ring's reader may fetch its next entry: the partner has stored it (R276). -/
def State.ringReady (s : State) (q : Queue) : Bool :=
  match s.partnerEnd q with
  | none => true
  | some (e, r) => decide (q.count.toNat + q.entries.length + q.inbound.length < s.storedBy e r)

/-- How many blocks of the block dimension a window touches at one position of its other dimensions, and the phase of its
first element in the first of them (R84, R85). -/
def State.scaleRun (s : State) (w : Who) (q : Queue) (f : Nat) (x : Nat → Nat) : Nat × Nat :=
  let t := s.tensorElem w q.rcd f false x
  let p := scaleIndex q.rcd f t.rng x t.ba / scaleStride q.rcd q.bdim % max 1 q.blen
  (p, (p + recWin q.rcd q.bdim - 1) / max 1 q.blen + 1)

/-- The scales of a window, each by the coordinates at which its block begins there: blocks in increasing order along the
block dimension, and within a block the positions of the other dimensions in traversal order (R85, log 73). -/
def State.windowScales (s : State) (w : Who) (q : Queue) (f m : Nat) : List (Nat → Nat) :=
  let b := q.bdim
  let others := (if recTrn q.rcd then swapInner (recDims q.rcd) else recDims q.rcd).filter (· != b)
  let win := recWindow q.rcd m
  let n := others.foldl (fun n d => n * recWin q.rcd d) 1
  let at_ (i : Nat) : Nat → Nat :=
    let c := walkDigits (recWin q.rcd) others i
    fun d => if d < recRank q.rcd then win d * recWin q.rcd d + (if d = b then 0 else digitOf c d) else 0
  let rows := (List.range n).map fun i => (at_ i, s.scaleRun w q f (at_ i))
  let most := (rows.map (·.2.2)).foldl max 0
  (List.range most).flatMap fun j => rows.filterMap fun r =>
    if j < r.2.2 then some fun d => if d = b then r.1 b + (j * max 1 q.blen - r.2.1) else r.1 d else none

/-- A scale of a scale stream: the stream has ended; a block that its window touches only in padding, whose scale is 1 and
is not read; an exhausted companion; one that no access reaches, since its elements lie in no range or the search for its
companion met an error (R22, R28); or the address of the scale (R85, R86). -/
inductive ScaleAt where
  | ended
  | one
  | exhausted
  | failed
  | addr (a : Nat)
  deriving DecidableEq, Repr

/-- The coordinates of a scale of the scale stream, by its index over the windows in walk order (R85); a walk without RING
ends. -/
def State.scalePlace (s : State) (w : Who) (q : Queue) (f : Nat) : Nat → Nat → Nat → Option (Nat → Nat)
  | 0, _, _ => none
  | fuel + 1, m, i =>
    if !recRing q.rcd && decide (recWindows q.rcd ≤ m) then none
    else
      let l := s.windowScales w q f (m % recWindows q.rcd)
      match l[i]? with
      | some x => some x
      | none => s.scalePlace w q f fuel (m + 1) (i - l.length)

/-- Where a scale of a binding's scale stream lies (R85). -/
def State.scaleSpot (s : State) (w : Who) (q : Queue) (f i : Nat) : ScaleAt :=
  match s.scalePlace w q f (i + 1) 0 i with
  | none => .ended
  | some x =>
    if !recInside q.rcd x then .one else
    match (s.tensorElem w q.rcd f true x).scale with
    | some (some a) => .addr a
    | some none => .exhausted
    | none => .failed

/-- The scales that the stream unit fetches beside an entry that begins a window: as many as the window has, from the end of
those that it holds (R85). -/
def State.nextScales (s : State) (w : Who) (q : Queue) (f : Nat) : List ScaleAt :=
  if !fmtScaled f || q.pos != 0 then [] else
  (List.range (s.windowScales w q f q.win).length).map fun j => s.scaleSpot w q f (q.scaleIdx + q.scales.length + j)

/-- The blocks that fetching a scale reads; a companion word has been read with its elements (R83, R305). -/
def ScaleAt.reqs (f : Nat) : ScaleAt → List Req
  | .addr a => if f = 0x10 then [] else spanReqs a 1
  | _ => []

/-- A scale as the scale stream holds it (R85): FILL where its block failed. -/
def ScaleAt.value (f : Nat) (got : Tbl (BitVec 512)) (fill : BitVec 32) : ScaleAt → Option Nat
  | .one => some (if f = 0x10 then 0x3F80 else 127)
  | .addr a => some (if f = 0x10 then 0x3F80 else (gather got a 1).getD (fill.toNat % 256))
  | .failed => some (if f = 0x10 then 0x3F80 else fill.toNat % 256)
  | _ => none

/-- An access of the stream unit, or of a scratchpad its lowest line where the fabric's choice, `pick`, lets others come between its
lines (R45, log 77). -/
def State.performLines (s : State) (f : Flight) : Flight × State :=
  let (now, rest) := if s.pick.isSome && (f.space == 1 || f.space == 2) then f.firstLine else (f.pieces, [])
  match s.performList { f with pieces := [] } now with
  | (g, t) => ({ g with pieces := rest }, t)

/-- A cluster-scratch access of the same core that was issued before one of its stream unit's has still to arrive at a target of
it (R47). -/
def State.portTaken (s : State) (f : Flight) : Bool :=
  f.space == 2 && s.flights.any fun g => g.space == 2 && g.core == f.core && !g.accepted && g.meets f

/-- The next entry of a read binding read in someone's name (R269), with the scales of a window that begins (R85): the
queue with it, or with the fault that stops it, and the state after the reads; none while they are held up, by a fence (R113)
or by the clocks (R102, log 74) too. -/
def State.fetchEntry (s : State) (w : Who) (q : Queue) (late : Bool) : Option (Queue × State) :=
  let fail (c a : Nat) : Option (Queue × State) := some ({ q with fault := some (c, BitVec.ofNat 64 a), taken := false }, s)
  let settled (f : Nat) : Queue :=
    let geom := tensorGeom q.rcd (s.rangeFor w (recSpace q.rcd) (recBase q.rcd))
    { q with fmt := some f, blen := geom.1, bdim := geom.2 }
  match s.examine w q false (q.win, q.pos) (fun f es =>
      (es.filterMap id).flatMap (·.reqs f) ++ (s.nextScales w (settled f) f).flatMap (·.reqs f)) with
  | .wait _ => none
  | .fault c a => fail c a
  | .ready f x es =>
    let fl := q.part.getD (streamFlight w q .read clsQR x)
    if !s.inStep w.core x.pieces || s.behindFence w clsQR x.pieces || s.portTaken fl then none else
    match if q.part.isNone then s.strictError fl else none with
    | some e => fail 0x15 e.addr
    | none =>
      match (s.useEntries w.core x.used).performLines fl with
      | (g, t) =>
        if !g.pieces.isEmpty then some ({ q with part := some g }, t) else
        let n := ((es.filterMap id).map fun e => e.errors f g.got).sum
        let word : QWord := { win := q.win, pos := q.pos, data := stripData q f es g.got }
        let new := (s.nextScales w (settled f) f).map (·.value f g.got q.fill)
        let p := nextPlace q.rcd f (q.win, q.pos)
        let r := { settled f with win := p.1, pos := p.2, scales := q.scales ++ new, part := none }
        some (if late then { r with inbound := r.inbound ++ [word] } else { r with entries := r.entries ++ [word] },
          (t.report g).formatErrors w.core n)

/-- A read binding has an entry left to fetch, room for it, and no fault that it stands at (R269, R276). -/
def State.fetches (s : State) (q : Queue) : Bool :=
  q.bind == 1 && q.fault.isNone && !walkDone q.rcd q.win && decide (q.entries.length + q.inbound.length < 16) && s.ringReady q

/-- Entries that another context pushed come before what the stream unit does for the hart (R186). -/
def State.leftFirst (s : State) (k : Nat) : Bool :=
  let h := s.hart k
  (s.core k).left.any fun l => l.owner != h.sup.owner.toNat || l.area != h.sup.saveptr.toNat

/-- The stream unit prefetches the next entry of a read binding of a core's hart (R269, R123). -/
def State.prefetch (s : State) (k i : Nat) : State :=
  let h := s.hart k
  let q := h.queue i
  if !s.fetches q || (h.handler && h.saved) || !(s.core k).active || s.leftFirst k then s else
  match s.fetchEntry (s.streamWho k) q s.delay with
  | some (r, t) => t.modHart k fun h => h.modQueue i fun _ => r
  | none => s

/-- A prefetched entry arrives (R269). -/
def State.entryArrives (s : State) (k i : Nat) : State :=
  s.modHart k fun h => h.modQueue i fun q =>
    match q.inbound with
    | [] => q
    | e :: rest => { q with entries := q.entries ++ [e], inbound := rest }

/-- The blocks that writing an entry reaches: positions inside the extents at the format's width (R98, R270). -/
def writeReqs (d : BitVec 2048) (f : Nat) (es : List (Option TElem)) : List Req :=
  let w := fmtStored f
  (es.zip (List.range es.length)).flatMap fun p =>
    match p.1 with
    | none => []
    | some t => elemReqs t.ba w (d.toNat / 2 ^ (w * p.2) % 2 ^ w)

/-- A pushed entry, or of a scratchpad a line of it (R45), written in someone's name under the format captured (R99): the access
with what is left of it; none while its blocks are held up, by a fence (R113) or by the clocks (R102, log 74) too, or not resident. Stores to a peer await their acknowledgement (R127). A block that fails is not written, and is logged and counted (R28, R270). -/
def State.writeLines (s : State) (w : Who) (q : Queue) (e : QWord) : Option (Flight × State) :=
  let f := match s.queueFmt w q with
    | .ok f => f
    | .error _ => 0
  let reqs := joinReqs (writeReqs e.data f (s.stripElems w q f (e.win, e.pos)))
  let x := s.xlAll w (s.core w.core).cache (recSpace q.rcd) .store reqs {}
  let fl := q.part.getD (streamFlight w q .write clsQW x)
  if x.moving || x.held.isSome || x.nonres.isSome || !s.inStep w.core x.pieces || s.behindFence w clsQW x.pieces || s.portTaken fl then
    none
  else match (s.useEntries w.core x.used).performLines fl with
    | (g, t) => some (g, if g.pieces.isEmpty then (t.report g).awaitPeer fl else t)

/-- A pushed entry written whole: none while it cannot be, or while lines of it are left (R45, R270). -/
def State.writeWord (s : State) (w : Who) (q : Queue) (e : QWord) : Option State :=
  match s.writeLines w q e with
  | some (g, t) => if g.pieces.isEmpty then some t else none
  | none => none

/-- The stream unit writes the oldest entry that it holds for a core: of a context that has left before the bindings of
the one that runs (R186), and then of a queue (R270). -/
def State.writeEntry (s : State) (k i : Nat) : State :=
  match (s.core k).left with
  | l :: rest =>
    let w : Who := { core := k, owner := l.owner, dirbase := l.dirbase, lvl := l.lvl, viol := l.viol, area := l.area }
    match s.writeLines w l.queue l.word with
    | some (g, t) => t.modCore k fun c =>
        { c with left := if g.pieces.isEmpty then rest else { l with queue := { l.queue with part := some g } } :: rest }
    | none => s
  | [] =>
    let q := (s.hart k).queue i
    match q.bind, q.entries with
    | 2, e :: rest =>
      match s.writeLines (s.streamWho k) q e with
      | some (g, t) => t.modHart k fun h => h.modQueue i fun q =>
          if g.pieces.isEmpty then { q with entries := rest, part := none } else { q with part := some g }
      | none => s
    | _, _ => s

/-- The cluster of the SBIND of a queue of a switched-out context (R276). -/
def State.bindCluster (s : State) (owner area i : Nat) : Nat :=
  (((s.kept.find? (·.of owner area)).bind fun x => x.binds.find? (·.1 == i)).map (·.2.2.2)).getD 0

/-- A read of a structure by SBIND, CPY or JPOST (R268): it sees the hart's earlier stores, ignores STRICT and VIOLMODE,
and traps where a block fails, with the failure logged. What it has found when another operation of its bundle is sent, it
does not read again (R173). -/
def State.structRead (s : State) (oc : OpCtx) (ea n : Nat) (k : List Word → Res) : Res :=
  let finish (ws : List Word) (used : List RcEnt) : Res := match k ws with
    | .commit c => .commit { c with run := fun t => c.run (t.useEntries t.cur used)
                                    found := fun p => { c.found p with words := ws, used := used } }
    | r => r
  let was := s.my.passed.getD {}
  if !was.words.isEmpty then finish was.words was.used else
  if s.owesAccess then .stall else
  let x := s.translate 0 .load (spanReqs ea n)
  let fl := { newFlight s oc clsSR false 0 0 .read with pieces := x.pieces, fails := x.fails }
  let log (e : Fail) (t : State) : State :=
    t.modCore t.cur fun c => c.log (logEntry t t.cur e.addr e.cause oc.slot 0 0 fl.owner oc.pc)
  if x.moving || !x.pieces.all (fun p => s.inView s.cur p.loc) then .stall
  else match x.held with
    | some a => .wait 0 (some (11, BitVec.ofNat 64 a)) id
    | none => match x.nonres with
      | some a => .trap 0x0A (BitVec.ofNat 64 a)
      | none => match lowestFail (x.fails.filter (!·.data)) with
        | some e => .trap 0x21 (BitVec.ofNat 64 e.addr) (note := log e)
        | none =>
          let g := (s.perform fl).1
          match lowestFail g.fails with
          | some e => .trap 0x20 (BitVec.ofNat 64 e.addr) (note := log e)
          | none => finish ((List.range (n / 8)).map fun i => BitVec.ofNat 64 ((gather g.got (ea + 8 * i) 8).getD 0)) x.used

/-- The earlier bindings that a new ring binding of a gang's member could pair with (R276): the member's index in the gang, its
queue, and that it has neither popped or pushed nor is paired already. -/
def State.ringMates (s : State) (q : Queue) : List (Nat × Nat × Bool) :=
  let h := s.my
  if h.ident.indexed then [] else
  let all := s.cores.flatMap fun p => p.2.queue
  (all.filter fun e => e.handle == h.ident.handle && e.owner == h.sup.owner.toNat && e.idx != h.ident.gangidx.toNat).flatMap
    fun e => (List.range 4).filterMap fun i =>
      match s.memberQueue e.handle e.idx i with
      | some (k, _, r) =>
        let cluster := if k.isSome then r.cluster else s.bindCluster e.owner e.area i
        if q.ringEnds r && recSpace r.rcd == 2 && cluster == clusterOf s.cur then
          some (e.idx, i, r.count == 0 && r.partner.isNone) else none
      | none => none

/-- A gang member's queue told its partner, in its core or in its save area. -/
def State.setPartner (s : State) (handle : Word) (idx q : Nat) (p : Option (Nat × Nat × Word)) : State :=
  match s.memberQueue handle idx q with
  | some (some k, _, _) => s.modHart k fun h => h.modQueue q fun r => { r with partner := p }
  | some (none, e, _) =>
    (s.ctxPut e.area e.owner (24192 + 128 * q + 120) 8 ((p.map fun x => x.2.2.toNat).getD 0)).modAbsent e.area fun h =>
      h.modQueue q fun r => { r with partner := p }
  | none => s

/-- A ring binding made: paired with the earlier one where R276 allows it. One that finds only bindings that it may not pair with
stays unpaired for its life: it counts as of no cluster. -/
def State.pairRing (s : State) (i : Nat) : State :=
  let q := s.my.queue i
  if recRing q.rcd && recSpace q.rcd == 2 then
    let mates := s.ringMates q
    match mates.find? (·.2.2) with
    | some (idx, j, _) =>
      let h := s.my.ident
      (s.modMy fun g => g.modQueue i fun q => { q with partner := some (idx, j, h.handle) }).setPartner h.handle idx j
        (some (h.gangidx.toNat, i, h.handle))
    | none => if mates.isEmpty then s else s.modMy fun g => g.modQueue i fun q => { q with cluster := 32 }
  else s

/-- SBIND (R269). -/
def opSbind (a : SReg) (r : BitVec 1) (q : QReg) : Op := fun oc s =>
  let ea := s.my.rx a
  let fill := s.my.ctl.fill
  if (s.my.queue q.toNat).bind ≠ 0 ∨ ea.toNat % 32 ≠ 0 then .trap 0x03 0
  else s.structRead oc ea.toNat 96 fun rcd =>
    if recInvalid rcd then .trap 0x0B ea
    else if fmtReserved (recFmt rcd) then .trap 0x0E ea
    else commits fun t =>
      (t.modMy fun h => h.modQueue q.toNat fun _ =>
        { bind := r.toNat + 1, rcd := rcd, fill := fill, pc := oc.pc, slot := oc.slot, cluster := clusterOf t.cur }).pairRing q.toNat

/-- SUNBIND (R272). -/
def opSunbind (q : QReg) : Op := fun _ s =>
  let b := s.my.queue q.toNat
  if b.claim then .stall
  else commits fun t =>
    let t := match b.partner with
      | some p => t.setPartner p.2.2 p.1 p.2.1 none
      | none => t
    t.modCore t.cur fun c =>
      { c with left := c.left ++ c.hart.leftOf (c.hart.queue q.toNat), hart := c.hart.modQueue q.toNat fun _ => {} }

/-- The stream state word (R275). -/
def State.streamWord (s : State) (q : Queue) : Word :=
  BitVec.ofNat 64 (pack [(0, q.bind), (2, (q.bind != 0 && recRing q.rcd).toNat), (3, (s.partnerOf q).isSome.toNat),
    (4, (q.bind != 0 && walkDone q.rcd q.win).toNat), (5, q.claim.toNat), (6, q.fault.isSome.toNat),
    (7, q.entries.length), (16, q.count.toNat % 2 ^ 32)])

/-- SSTAT (R275): the state as it stands when the bundle commits. -/
def opSstat (d : SReg) (q : QReg) : Op := fun _ _ =>
  commits fun t => t.modMy (·.wx d (t.streamWord (t.my.queue q.toNat)))

/-- A queue advanced by some entries (R274); a format that is not settled counts as the one at the base. -/
def Queue.skip (q : Queue) (f n : Nat) : Queue :=
  let left := if recRing q.rcd then n
    else min n ((if q.bind = 1 then q.entries.length + q.inbound.length else 0) +
      (walkEntries q.rcd f - (q.win * perWindow q.rcd f + q.pos / perEntry f)))
  let held := if q.bind = 1 then q.entries.length + q.inbound.length else 0
  let p := skipPlaces q.rcd f (q.win, q.pos) (left - held)
  let q := { q with count := q.count + BitVec.ofNat 64 left, win := p.1, pos := p.2 }
  if q.bind = 1 then
    { q with
      entries := q.entries.drop left
      inbound := q.inbound.drop (left - q.entries.length)
      fault := if held < left then none else q.fault
      part := if held < left then none else q.part }
  else q

/-- SSKIP (R274): it counts as pops, so it waits for a claim (R142). -/
def opSskip (a : SReg) (q : QReg) : Op := fun _ s =>
  let b := s.my.queue q.toNat
  let n := (s.my.rx a).toNat
  if b.bind = 0 then .trap 0x15 (q.setWidth 64)
  else if b.claim then .stall
  else if n = 0 then commits id
  else
    let f := match s.queueFmt (s.streamWho s.cur) b with
      | .ok f => f
      | .error _ => stripGuess b.rcd
    commits fun t => t.modMy fun h => h.modQueue q.toNat (·.skip f n)

/-- Entries of a context that its bindings left behind are still to be written (R186, R272). -/
def State.leavings (s : State) (w : Who) : Bool :=
  s.cores.any fun p => p.2.left.any fun l => l.owner == w.owner && l.area == w.area && (w.area != 0 || p.1 == w.core)

/-- SFLUSH (R273): what was pushed before a switch-out counts too. -/
def opSflush (q : QReg) : Op := fun _ s =>
  let b := s.my.queue q.toNat
  if b.bind = 0 then .trap 0x15 (q.setWidth 64)
  else if b.bind = 2 then (if b.entries.isEmpty && !s.leavings (s.who s.cur) then commits id else .stall)
  else commits fun t => t.modMy fun h => h.modQueue q.toNat Queue.refetch

/-- The address that a wait for an entry names: the lowest that its strip reaches (R163). -/
def State.entryAddr (s : State) (k : Nat) (q : Queue) : Word :=
  let w := s.streamWho k
  let f := match s.queueFmt w q with
    | .ok f => f
    | .error _ => stripGuess q.rcd
  BitVec.ofNat 64 (stripLow q.rcd f (s.stripElems w q f (q.win, q.pos)))

/-- The trap of a fault at which prefetch stopped; the stream resumes from that strip after ERET (R19, R91). -/
def faultTrap (k i : Nat) (f : Nat × Word) : Res :=
  .trap f.1 f.2 (note := fun t => t.modHart k fun h => h.modQueue i fun q => { q with taken := true })

/-- A pop of a queue is possible now; otherwise why not (R142, R164, R271, R341). -/
def State.popGate (s : State) (i : Nat) (k : QWord → Res) : Res :=
  let q := s.my.queue i
  if q.bind ≠ 1 then .trap 0x15 (BitVec.ofNat 64 i)
  else if q.claim then .stall
  else match q.entries with
    | e :: _ => k e
    | [] =>
      if !q.inbound.isEmpty then .wait 0 (some (queueKind 1 i, s.entryAddr s.cur q)) id
      else match q.fault with
        | some f => faultTrap s.cur i f
        | none =>
          if walkDone q.rcd q.win then .trap 0x15 (BitVec.ofNat 64 i)
          else
            let ring := match s.partnerOf q with
              | some r => decide (r.count.toNat ≤ q.count.toNat)
              | none => false
            .wait 0 (some (queueKind (if ring then 3 else 1) i, s.entryAddr s.cur q)) id

/-- The oldest entry removed (R142). -/
def Queue.pop (q : Queue) : Queue := { q with entries := q.entries.drop 1, count := q.count + 1 }

/-- VPOP (R341): the entry's elements go to the active ones below VL. -/
def opVpop (w : View) (d : GReg) (q : QReg) (m : MaskUse) : Op := fun _ s =>
  let h := s.my
  let c := h.capture m 1 0
  vecGate s w [d] (groupOf c.vtype != 1) false <| s.popGate q.toNat fun e => commits fun t =>
    t.modMy fun g => (g.modQueue q.toNat Queue.pop).modGrid fun r => r.writeAll ((c.actives h.grid 0).flatMap fun i =>
      c.put w d i (e.data.toNat / 2 ^ (c.width * i) % 2 ^ c.width))

/-- An entry pushed under a format (R142, R342). -/
def Queue.push (q : Queue) (f : Nat) (data : BitVec 2048) : Queue :=
  let p := nextPlace q.rcd f (q.win, q.pos)
  { q with fmt := some f, entries := q.entries ++ [{ win := q.win, pos := q.pos, data := data, seq := q.count.toNat }],
           win := p.1, pos := p.2, count := q.count + 1 }

/-- VPUSH (R342, R271, R164): the faults that its strip would meet are its own (R91). What it has found when another
operation of its bundle is sent, it does not check again (R173). -/
def opVpush (q : QReg) (a : GReg) (m : MaskUse) : Op := fun _ s =>
  let h := s.my
  let i := q.toNat
  let b := h.queue i
  let full := decide (16 ≤ b.entries.length)
  let ahead := match s.partnerOf b with
    | some r => match s.queueFmt (s.streamWho s.cur) b with
      | .ok f => decide (r.count.toNat + walkEntries b.rcd f ≤ b.count.toNat)
      | .error _ => false
    | none => false
  let data := h.grid.rows.get a.toNat
  let push (f : Nat) : Res := .commit
    { run := fun t => t.modMy fun g => g.modQueue i (·.push f data), found := fun p => { p with fmt := some f } }
  match h.passed.bind (·.fmt) with
  | some f => push f
  | none =>
  rowGate s [a.toNat] (m != .off) false <|
    if b.bind ≠ 2 then .trap 0x15 (BitVec.ofNat 64 i)
    else if ahead then .wait 0 (some (queueKind 3 i, s.entryAddr s.cur b)) id
    else if full then .wait 0 (some (queueKind 2 i, s.entryAddr s.cur b)) id
    else if walkDone b.rcd b.win then .trap 0x15 (BitVec.ofNat 64 i)
    else
      let w := s.streamWho s.cur
      match s.examine w b true (b.win, b.pos) (writeReqs data) with
      | .wait (some ad) => .wait 0 (some (11, BitVec.ofNat 64 ad)) id
      | .wait none => .stall
      | .fault c ad => .trap c (BitVec.ofNat 64 ad)
      | .ready f x _ =>
        match s.strictError (streamFlight w b .write clsQW x) with
        | some e => .trap 0x15 (BitVec.ofNat 64 e.addr)
        | none => push f

end Sys2Proof.Machine
end

