-- ==== Sys2Proof/Machine/Copy.lean ====
section
/-! DEFINITION. Copies by the lighters: CPY, CPYW, CPYQ and CPYX, how a copy starts and checks its command (R278, R279),
what it moves (R280, R87, R88) and how it ends (R281, R282). -/

namespace Sys2Proof.Machine

/-- A field of the command block: its 8-byte word, lowest bit and length (R277). -/
def Copy.field (q : Copy) (w lo len : Nat) : Nat := recField q.cmd w lo len
/-- CONV. -/
def Copy.conv (q : Copy) : Bool := q.field 0 1 1 == 1
/-- ZFILL. -/
def Copy.zfill (q : Copy) : Bool := q.field 0 2 1 == 1
/-- WFILL. -/
def Copy.wfill (q : Copy) : Bool := q.field 0 3 1 == 1
/-- SMODE. -/
def Copy.smode (q : Copy) : Nat := q.field 0 4 2
/-- The saturate control. -/
def Copy.satctl (q : Copy) : Bool := q.field 0 6 1 == 1
/-- The completion kind. -/
def Copy.done (q : Copy) : Nat := q.field 0 10 2
/-- NOTBEFORE. -/
def Copy.notBefore (q : Copy) : Nat := q.field 4 0 64
/-- DEADLINE. -/
def Copy.deadline (q : Copy) : Nat := q.field 5 0 64
/-- CADDR. -/
def Copy.caddr (q : Copy) : Nat := q.field 6 0 64
/-- SORG of dimension d. -/
def Copy.sorg (q : Copy) (d : Nat) : Nat := q.field (8 + d / 4) (16 * (d % 4)) 16
/-- DORG of dimension d. -/
def Copy.dorg (q : Copy) (d : Nat) : Nat := q.field (10 + d / 4) (16 * (d % 4)) 16

/-- The command block breaks a check of R279's first row. -/
def Copy.badCommand (q : Copy) : Bool :=
  q.field 0 12 20 != 0 || q.field 0 48 16 != 0 || q.field 3 32 32 != 0 || q.field 9 16 48 != 0 ||
  q.field 11 16 48 != 0 || (List.range 4).any (fun i => q.field (12 + i) 0 64 != 0) || q.field 0 7 3 == 7 ||
  q.field 1 0 5 != 0 || q.field 2 0 5 != 0 || q.done == 3 || (q.zfill && q.wfill) ||
  (q.done == 1 && q.caddr % 8 != 0) || decide (q.issued.toNat + 2 ^ 30 < q.notBefore)

/-- In whose name a copy's accesses are made (R278, R279): the issuing context's, by the lighter that took it. -/
def Copy.who (q : Copy) (core : Nat) : Who :=
  { core := core, owner := q.owner, dirbase := q.dirbase.toNat, lvl := q.lvl, viol := q.viol, area := q.area,
    lighter := some q.lighter }

/-- A failure of a copy in the issuing core's error log (R28, R69). -/
def State.copyLog (s : State) (q : Copy) (core space : Nat) (e : Fail) : State :=
  s.modCore core fun c => c.log (logEntry s core e.addr e.cause 0 space 4 q.owner 0)

/-- How one access of a copy goes: it is held up; the copy stops with a code of R282, perhaps at a failure; or it has
performed. -/
inductive CopyAcc where
  | wait
  | stop (code : Nat) (e : Option Fail)
  | ok (g : Flight) (t : State) (written : List Piece)

/-- One access of a copy (R19, R28, R67): a non-resident segment and a strict failure stop the copy before it. -/
def State.copyAccess (s : State) (q : Copy) (core space : Nat) (store : Bool) (reqs : List Req)
    (lost : List (Nat × Nat) := []) : CopyAcc :=
  let w := q.who core
  let x := (s.xlAll w (s.cacheOf w) space (if store then .store else .load) reqs {}).lose w.viol lost
  let f : Flight :=
    { core := core, owner := q.owner, area := q.area, lvl := q.lvl, cls := if store then clsCW else clsCR, vec := false,
      interval := 0, space := space, kind := 4, pc := 0, slot := 0, act := if store then .write else .read,
      pieces := x.pieces, fails := x.fails, land := .drop }
  if x.moving || x.held.isSome || s.behindFence w f.cls x.pieces || !s.inStep core x.pieces then .wait
  else if x.nonres.isSome then .stop 0x07 none
  else match lowestFail (x.fails.filter (·.strict)) with
    | some e => .stop 0x08 (some e)
    | none => match s.strictError f with
      | some e => .stop 0x08 (some e)
      | none =>
        match (x.used.foldl (fun t e => t.useLighter (dieOf core) q.lighter e) s).perform f with
        | (g, t) => .ok g (t.awaitPeer f) (if store then f.pieces else [])

/-- The format named for a side (R279): the command's byte, or else the record's. -/
def namedFmt (byte : Nat) (r : List Word) : Nat := if byte ≠ 0 then byte else recFmt r

/-- The effective format of a side at its first element, or the cause (R90). -/
def State.sideFmt (s : State) (w : Who) (byte : Nat) (r : List Word) (trn : Bool) (win : Nat → Nat) : Except Nat Nat :=
  let fs := namedFmt byte r
  let f0 := if fs ≠ 0 then fs else ((s.rangeFor w (recSpace r) (recBase r)).map (·.fmt)).getD 0
  let ba := recBitAddr r (fmtStored f0) (recCoords r trn win 0)
  match tensorFmt r fs (s.rangeFor w (recSpace r) (ba / 8)) with
  | .error c => .error c
  | .ok f => .ok f

/-- A scratch side whose scaled format has no block geometry, which makes its record invalid (R93). -/
def noGeometry (byte : Nat) (r : List Word) : Bool := recSpace r != 0 && recQblen r == 0 && fmtScaled (namedFmt byte r)

/-- A side names two formats (R279). -/
def twoFmts (byte : Nat) (r : List Word) : Bool := byte != 0 && recFmt r != 0 && byte != recFmt r

/-- A window origin lies at or beyond its record's extent (R280). -/
def originBad (r : List Word) (win : Nat → Nat) : Bool :=
  (List.range 5).any fun d => if d < recRank r then decide (recExt r d ≤ win d * recWin r d) else win d != 0

/-- A formats check of R279, given both sides' effective formats. -/
def Copy.fmtConflict (q : Copy) (a b : Nat) : Bool :=
  if q.conv then a == 0 || a == 0x13 || b == 0 || b == 0x13 || (fmtScaled b && decide (q.smode < 2))
  else a != b || fmtScaled a || a == 0x13

/-- The checks of R279 after both records have been read: a completion code, or the effective formats of both sides. -/
def State.copyCheck (s : State) (w : Who) (q : Copy) (src dst : List Word) : Except Nat (Nat × Nat) :=
  let sb := q.field 0 40 8
  let db := q.field 0 32 8
  if recInvalid src || recInvalid dst || noGeometry sb src || noGeometry db dst then .error 0x04
  else if originBad src q.sorg || originBad dst q.dorg then .error 0x03
  else
    let a := s.sideFmt w sb src (recTrn src != (q.field 0 0 1 == 1)) q.sorg
    let b := s.sideFmt w db dst (recTrn dst) q.dorg
    let res (r : Except Nat Nat) : Bool := match r with
      | .error 0x0E => true
      | _ => false
    if fmtReserved sb || fmtReserved db || fmtReserved (recFmt src) || fmtReserved (recFmt dst) || res a || res b then .error 0x06
    else match a, b with
      | .ok f, .ok g =>
        if twoFmts sb src || twoFmts db dst || q.fmtConflict f g then .error 0x05
        else if decide (2 ≤ q.smode) && !fmtScaled g then .error 0x03
        else if recPositions src ≠ recPositions dst then .error 0x09
        else .ok (f, g)
      | _, _ => .error 0x05

/-- What a copy captures at its start (R99): its records and its effective formats; or how it cannot start yet (R278,
R279). -/
inductive CopyOpen where
  | wait
  | fail (code : Nat) (e : Option Fail)
  | ok (src dst : List Word) (f g : Nat) (t : State)

/-- The twelve words of a layout record in the blocks read. -/
def recordWords (got : Tbl (BitVec 512)) (a : Nat) : List Word :=
  (List.range 12).map fun i => BitVec.ofNat 64 ((gather got (a + 8 * i) 8).getD 0)

/-- A record read for a copy: a failure of any kind makes it unreadable (R279), a non-resident segment stops it (R19). -/
def State.copyRecord (s : State) (q : Copy) (core a : Nat) : CopyAcc :=
  match s.copyAccess q core 0 false (spanReqs a 96) with
  | .wait => .wait
  | .stop 0x07 e => .stop 0x07 e
  | .stop _ e => .stop 0x0B e
  | .ok g t _ => match lowestFail g.fails with
    | some e => .stop 0x0B (some e)
    | none => .ok g t []

/-- A copy's start: the block and the records checked in the order of R279. -/
def State.openCopy (s : State) (core : Nat) (q : Copy) : CopyOpen :=
  if q.badCommand then .fail 0x03 none
  else
    match s.copyRecord q core (q.field 1 0 64) with
    | .wait => .wait
    | .stop c e => .fail c e
    | .ok g t _ =>
      let src := recordWords g.got (q.field 1 0 64)
      match t.copyRecord q core (q.field 2 0 64) with
      | .wait => .wait
      | .stop c e => .fail c e
      | .ok g u _ =>
        let dst := recordWords g.got (q.field 2 0 64)
        match u.copyCheck (q.who core) q src dst with
        | .ok (f, g) => .ok src dst f g u
        | .error c => .fail c none

/-- Copies of a die's cores in a state, each with its core and slot. -/
def State.copiesOf (s : State) (d : Nat) (st : CopySt) : List (Nat × Nat × Copy) :=
  s.cores.flatMap fun p =>
    if dieOf p.1 = d then (p.2.copies.filter (fun c => c.2.st == st)).map fun c => (p.1, c.1, c.2) else []

/-- A copy changed. -/
def State.modCopy (s : State) (core slot : Nat) (f : Copy → Copy) : State :=
  s.modCore core fun c => { c with copies := c.copies.mod slot f }

/-- The order in which lighters take copies (R278): earliest deadline, none counting as latest, then order of issue. -/
def copyKey (x : Nat × Nat × Copy) : List Nat :=
  let q := x.2.2
  [if q.deadline = 0 then 2 ^ 64 else q.deadline, q.issued.toNat, x.1, q.seq]

/-- The copy with the lowest key. -/
def firstCopy : List (Nat × Nat × Copy) → Option (Nat × Nat × Copy)
  | [] => none
  | x :: xs =>
    match firstCopy xs with
    | none => some x
    | some y => if keyLt (copyKey y) (copyKey x) then some y else some x

/-- A lighter of a die takes the next copy (R278): its checks, and the records captured. A failing check is its code. -/
def State.copyStart (s : State) (d : Nat) : State :=
  let running := (s.copiesOf d .running).map fun x => x.2.2.lighter
  match (List.range 3).find? (fun l => !running.contains l),
        firstCopy ((s.copiesOf d .waiting).filter fun x =>
          !x.2.2.stopping && decide (x.2.2.notBefore ≤ (s.die d).atime.toNat)) with
  | some l, some (core, slot, q) =>
    let q := { q with lighter := l }
    match s.openCopy core q with
    | .wait => s
    | .fail c e =>
      let t := match e with
        | some e => s.copyLog q core 0 e
        | none => s
      t.modCopy core slot fun _ => { q with st := .running, code := c }
    | .ok src dst f g t => t.modCopy core slot fun _ => { q with st := .running, src := src, dst := dst, sfmt := f, dfmt := g }
  | _, _ => s

/-- One position of the window (R280): its source element, none for padding, and its destination element. -/
structure CopyPos where
  src : Option TElem
  dst : TElem
  deriving DecidableEq, Repr

/-- Positions put in destination storage order. -/
def insertPos (p : CopyPos) : List CopyPos → List CopyPos
  | [] => [p]
  | q :: qs => if p.dst.ba < q.dst.ba then p :: q :: qs else q :: insertPos p qs

/-- The positions of a copy whose destination lies inside its extents, in destination storage order (R280, R98, R76). -/
def State.copyPositions (s : State) (core : Nat) (q : Copy) (f g : Nat) : List CopyPos :=
  let w := q.who core
  let ps := (List.range (recPositions q.dst)).filterMap fun k =>
    let x := recCoords q.src (recTrn q.src != (q.field 0 0 1 == 1)) q.sorg k
    let y := recCoords q.dst (recTrn q.dst) q.dorg k
    if recInside q.dst y then
      some { src := if recInside q.src x then some (s.tensorElem w q.src f (q.conv && fmtScaled f) x) else none
             dst := s.tensorElem w q.dst g (fmtScaled g) y }
    else none
  ps.foldl (fun l p => insertPos p l) []

/-- What goes to a destination position: nothing, stored bits, or an exact value. -/
inductive CopyVal where
  | skip
  | bits (b : Nat)
  | num (x : Num)
  deriving DecidableEq, Repr

/-- A counter of blocks sent to a die rises. -/
def Tbl.count (t : Tbl Word) (d : Nat) : Tbl Word := t.mod d (· + 1)

/-- A whole aligned 4 KiB block that an agent of a die has written at another (R62): sent in full, or by reference where the
manifest cache holds its hash, which the receiver performs with the content that it holds or refuses. -/
def State.sendBlock (s : State) (src dst owner pa : Nat) (nodedup : Bool) : State :=
  let full (t : State) : State := t.modDie src fun d => { d with sentFull := d.sentFull.count dst }
  if src = dst then s
  else if nodedup || (List.range 64).any fun i => (s.mem.mark (pa + 64 * i)).isSome then full s
  else
    let content := cellsRead s.mem.cells pa 4096
    let hash := Config.blockHash owner (bytesOf content 4096)
    match ((s.die src).manifest.get dst).find? fun e => e.1 == owner && e.2.1 == hash with
    | some e =>
      if Config.manifestHolds pa s.count then
        { s.modDie src fun d => { d with sentRef := d.sentRef.count dst } with
          mem := { s.mem with cells := cellsWrite s.mem.cells pa 4096 e.2.2 } }
      else full (s.modDie src fun d => { d with sentNo := d.sentNo.count dst })
    | none => full (s.modDie src fun d =>
        { d with manifest := d.manifest.mod dst fun l => ((owner, hash, content) :: l).take 4096 })

/-- Every whole aligned 4 KiB block of an interval sent (R62). -/
def State.sendSpan (s : State) (src dst owner pa n : Nat) (nodedup : Bool) : State :=
  let lo := (pa + 4095) / 4096
  (List.range ((pa + n) / 4096 - lo)).foldl (fun t i => t.sendBlock src dst owner (4096 * (lo + i)) nodedup) s

/-- A copy on its way: the state, its generator, whether an element saturated, whether a failure has been logged, why it
stopped, whether an access is held up, and the positions written. -/
structure CopyRun where
  s : State
  f : FState
  sat : Bool := false
  failed : Bool := false
  stop : Option Nat := none
  wait : Bool := false
  n : Nat := 0
  /-- How many writes it makes still before a CPYX stops it (R284); none that bound it. -/
  most : Option Nat := none
  /-- The blocks of memory that it has written whole (R62). -/
  whole : List Piece := []

/-- The first failure of a copy is logged (R28). -/
def CopyRun.fail (r : CopyRun) (q : Copy) (core space : Nat) (e : Fail) : CopyRun :=
  if r.failed then r else { r with s := r.s.copyLog q core space e, failed := true }

/-- An access of a running copy: what it read, none once the copy cannot go on. -/
def CopyRun.access (r : CopyRun) (q : Copy) (core space : Nat) (store : Bool) (reqs : List Req)
    (lost : List (Nat × Nat) := []) : Option Flight × CopyRun :=
  match r.s.copyAccess q core space store reqs lost with
  | .wait => (none, { r with wait := true })
  | .stop c e =>
    (none, { (match e with
      | some e => r.fail q core space e
      | none => r) with stop := some c })
  | .ok g t ps =>
    let r := { r with s := t, whole := r.whole ++ ps.filter fun p => p.mask == ~~~0 }
    (some g, match lowestFail g.fails with
      | some e => r.fail q core space e
      | none => r)

/-- The ranges that an element reaches are checked as they are reached (R91). -/
def CopyRun.reach (r : CopyRun) (q : Copy) (core : Nat) (rcd : List Word) (fs f : Nat) (t : TElem) : CopyRun :=
  match r.s.tensorBad (q.who core) rcd fs f t with
  | [] => r
  | (c, _) :: _ => { r with stop := some (if c = 0x0E then 0x06 else 0x05) }

/-- The exact value of a source element (R280, R82, R83); FILL where a block of it failed. -/
def TElem.value (t : TElem) (f : Nat) (got : Tbl (BitVec 512)) (fill : BitVec 32) (s : FState) : Num × FState :=
  let s := { s with fmtErrs := s.fmtErrs + t.errors f got }
  let filled := fill.toNat % 2 ^ fmtStored f
  if f = 0x10 then (bf16.decode (t.deliver f got fill), s)
  else match t.bits f got with
    | none => fmtDecode f filled s
    | some b =>
      if fmtScaled f then
        match t.scaleBits f got with
        | some sc => (scaledDecode f b sc, s)
        | none => fmtDecode f filled s
      else fmtDecode f b s

/-- What a position receives: padding under the flags, the bits as they are, or the decoded value (R280). -/
def CopyRun.fetch (r : CopyRun) (q : Copy) (core f g : Nat) (p : CopyPos) : CopyVal × CopyRun :=
  match p.src with
  | none => (if q.zfill then .bits 0 else if q.wfill then .bits (recFillv q.dst % 2 ^ fmtStored g) else .skip, r)
  | some t =>
    let r := r.reach q core q.src (namedFmt (q.field 0 40 8) q.src) f t
    if r.stop.isSome then (.skip, r) else
    match r.access q core (recSpace q.src) false (joinReqs (t.reqs f)) (t.lost f) with
    | (none, r) => (.skip, r)
    | (some a, r) =>
      if q.conv then
        let (x, fs) := t.value f a.got q.fill r.f
        let (x, fs) := if q.smode = 1 then x.mul (fp32.decode (q.field 3 0 32)) fs else (x, fs)
        (.num x, { r with f := fs })
      else (.bits ((t.bits f a.got).getD (q.fill.toNat % 2 ^ fmtStored f)), r)

/-- The scale of some values (R87): an E8M0 code, or for INT4G the companion word. -/
def copyScale (g : Nat) (xs : List Num) : Nat :=
  if g = 0x10 then
    let a := if xs.any Num.isNan then Num.nan false else amaxOf xs
    match a with
    | .fin _ 0 _ => 0x3F80
    | a => (bf16.round 1 false (a.div (Num.ofInt 7) { seed := 0 }).1 { seed := 0 }).1
  else scaleCode g (amaxOf xs)

/-- A value stored under a computed scale (R87). A BF16 scale that has rounded to zero divides as zero does, and the integer
saturates (log 86). -/
def copyUnder (g rm sc : Nat) (x : Num) (s : FState) : Nat × FState :=
  if g = 0x10 then
    let (v, s) := x.div (bf16.decode sc) s
    (IntFmt.convert ⟨4, true⟩ rm true false true v s)
  else scaleStore g rm sc x s

/-- An element was saturated under R75, R78, R79 or R87 (R282). -/
def saturated (g : Nat) (sat : Bool) (x : Num) (flags : BitVec 6) : Bool :=
  flags &&& flagSAT != 0 ||
  ((fpOf g).isSome && sat && (flags &&& flagOF != 0 || (match x with
    | .inf _ => g == 0x04 || g == 0x11
    | _ => false)))

/-- The bits of a value at its destination; `sc` is its computed scale. -/
def CopyRun.encode (r : CopyRun) (q : Copy) (g : Nat) (sc : Option Nat) (x : Num) : Nat × CopyRun :=
  let f0 := { r.f with flags := 0 }
  let (b, f, sat) := match sc with
    | some sc => let y := copyUnder g q.rnd.toNat sc x f0; (y.1, y.2, true)
    | none => let y := fmtEncode g q.rnd.toNat q.satctl false x f0; (y.1, y.2, q.satctl)
  (b, { r with f := f, sat := r.sat || saturated g sat x f.flags })

/-- The bits of some positions at their destinations, in order; one with nothing to write is left out. -/
def CopyRun.encodeAll (r : CopyRun) (q : Copy) (g : Nat) (sc : CopyPos → Option Nat) :
    List (CopyPos × CopyVal) → List (CopyPos × Nat) × CopyRun
  | [] => ([], r)
  | (p, v) :: ps =>
    match v with
    | .skip => r.encodeAll q g sc ps
    | .bits b => match r.encodeAll q g sc ps with
      | (l, r) => ((p, b) :: l, r)
    | .num x => match r.encode q g (sc p) x with
      | (b, r) => match r.encodeAll q g sc ps with
        | (l, r) => ((p, b) :: l, r)

/-- Positions whose destinations share a 64-byte block, in storage order. -/
def groupPos (w : Nat) : List (CopyPos × Nat) → List (List (CopyPos × Nat))
  | [] => []
  | x :: xs =>
    match groupPos w xs with
    | (y :: ys) :: rest =>
      if (x.1.dst.ba + w - 1) / 512 = y.1.dst.ba / 512 then (x :: y :: ys) :: rest else [x] :: (y :: ys) :: rest
    | rest => [x] :: rest

/-- The positions of a group of blocks written as one store of those blocks (R67, R98, R280), up to the first whose ranges
break R91. -/
def CopyRun.putGroup (r : CopyRun) (q : Copy) (core g : Nat) (l : List (CopyPos × Nat)) : CopyRun :=
  if r.stop.isSome || r.wait then r
  else if r.most = some 0 then { r with stop := some 0x0A } else
  let r := { r with most := r.most.map (· - 1) }
  let named := namedFmt (q.field 0 32 8) q.dst
  let w := fmtStored g
  let (good, bad) := l.span fun p => (r.s.tensorBad (q.who core) q.dst named g p.1.dst).isEmpty
  let r := if good.isEmpty then r else
    match r.access q core (recSpace q.dst) true (joinReqs (good.flatMap fun p => elemReqs p.1.dst.ba w p.2))
        (good.flatMap fun p => p.1.dst.lost g) with
    | (none, r) => r
    | (some a, r) =>
      let hit (t : TElem) : Bool := a.fails.any fun e => decide (t.ba / 512 ≤ e.addr / 64) && decide (e.addr / 64 ≤ (t.ba + w - 1) / 512)
      { r with n := r.n + (good.filter fun p => !hit p.1.dst).length }
  match bad with
  | [] => r
  | p :: _ => if r.stop.isSome || r.wait then r else r.reach q core q.dst named g p.1.dst

/-- Every position written. -/
def CopyRun.putAll (r : CopyRun) (q : Copy) (core g : Nat) (l : List (CopyPos × Nat)) : CopyRun :=
  (groupPos (fmtStored g) l).foldl (fun r l => r.putGroup q core g l) r

/-- A computed scale written at its companion position (R280). -/
def CopyRun.putScale (r : CopyRun) (q : Copy) (core g addr sc : Nat) : CopyRun :=
  if r.stop.isSome || r.wait then r
  else if r.most = some 0 then { r with stop := some 0x0A }
  else ({ r with most := r.most.map (· - 1) }.access q core (recSpace q.dst) true (storeReqs addr (if g = 0x10 then 4 else 1) sc)).2

/-- The source side of some positions, in order. -/
def CopyRun.fetchAll (r : CopyRun) (q : Copy) (core f g : Nat) : List CopyPos → List (CopyPos × CopyVal) × CopyRun
  | [] => ([], r)
  | p :: ps =>
    match r.fetch q core f g p with
    | (v, r) =>
      if r.stop.isSome || r.wait then ([], r) else
      match r.fetchAll q core f g ps with
      | (l, r) => ((p, v) :: l, r)

/-- The values of some positions that take part in an amax (R88). -/
def copyNums (l : List (CopyPos × CopyVal)) : List Num :=
  l.filterMap fun p => match p.2 with
    | .num x => some x
    | _ => none

/-- A copy without a computed scale: its source is read, in destination storage order, and what has been read up to a
stop is written. -/
def CopyRun.plain (r : CopyRun) (q : Copy) (core f g : Nat) (ps : List CopyPos) : CopyRun :=
  match r.fetchAll q core f g ps with
  | (l, r) =>
    if r.wait then r else
    match { r with stop := none }.encodeAll q g (fun _ => none) l with
    | (bs, t) =>
      let t := t.putAll q core g bs
      { t with stop := t.stop.orElse fun _ => r.stop }

/-- A copy that computes scales: one for the window, or one per block (R280, R87). -/
def CopyRun.scaled (r : CopyRun) (q : Copy) (core f g : Nat) (ps : List CopyPos) : CopyRun :=
  match r.fetchAll q core f g ps with
  | (l, r) =>
    if r.stop.isSome || r.wait then r else
    let used := l.filter fun p => p.2 != .skip
    let scaleFor (p : CopyPos) : Nat :=
      copyScale g (copyNums (if q.smode = 2 then l else l.filter fun x => x.1.dst.scale == p.dst.scale))
    let r := match r.encodeAll q g (fun p => some (scaleFor p)) used with
      | (bs, r) => r.putAll q core g bs
    let keys := ((used.map fun p => p.1.dst.scale).eraseDups).filterMap fun k => k.bind id
    keys.foldl (fun r a =>
      match used.find? fun p => p.1.dst.scale == some (some a) with
      | some p => r.putScale q core g a (scaleFor p.1)
      | none => r) r

/-- The whole aligned 4 KiB blocks that a copy has written at other dies are sent: in full where the range of the block, or of an
element that went into it, has NODEDUP (R62). -/
def State.sendCopied (s : State) (core : Nat) (q : Copy) (whole : List Piece) : State :=
  let w := q.who core
  let marked (e : Option Rng) : Bool := (e.map fun e => e.desc.bit 5).getD false
  let ps := s.copyPositions core q q.sfmt q.dfmt
  let nodedup (b : Nat) : Bool := marked (s.rangeFor w 0 b) || ps.any fun x =>
    decide (b ≤ x.dst.ba / 8) && decide (x.dst.ba / 8 < b + 4096) && marked (x.src.bind (·.rng))
  let memAt (p : Piece) : Option (Nat × Nat) := match p.loc with
    | .mem pa h _ => if encrypted (s.region pa) then some (s.resolve pa, h) else none
    | _ => none
  let written := whole.filterMap memAt
  (whole.filter fun p => match memAt p with
    | some (pa, _) => pa % 4096 == 0 && (List.range 64).all fun i => written.any (·.1 == pa + 64 * i)
    | none => false).eraseDups.foldl (fun t p => match memAt p with
      | some (pa, h) => t.sendBlock (dieOf core) h q.owner pa (nodedup p.blk)
      | none => t) s

/-- A copy moved under the formats that it captured (R280, R99); its first `most` groups of blocks are written, the rest
left out. -/
def State.moveCopy (s : State) (core : Nat) (q : Copy) (most : Option Nat) : CopyRun :=
  let r : CopyRun := { s := s, f := { seed := q.seed }, most := most }
  let ps := s.copyPositions core q q.sfmt q.dfmt
  if 2 ≤ q.smode then r.scaled q core q.sfmt q.dfmt ps else r.plain q core q.sfmt q.dfmt ps

/-- The completion action (R281), none while its block is held up. A completion address that is not aligned, and kind
3, have none (R279). -/
def State.copyAction (s : State) (core : Nat) (q : Copy) : Option State :=
  if q.done = 2 then some (s.decrement (BitVec.ofNat 64 (q.field 7 0 64)))
  else if q.done ≠ 1 ∨ q.caddr % 8 ≠ 0 then some s
  else
    let w := q.who core
    let x := s.xlAll w (s.cacheOf w) 0 .store (storeReqs q.caddr 8 (q.field 7 0 64)) {}
    let f : Flight :=
      { core := core, owner := q.owner, area := q.area, lvl := q.lvl, cls := clsCW, vec := false, interval := 0, space := 0,
        kind := 4, pc := 0, slot := 0, act := .write, pieces := x.pieces, fails := x.fails, release := some .package, land := .drop }
    if x.moving || x.held.isSome || s.behindFence w clsCW x.pieces || !s.inStep core x.pieces then none
    else match x.nonres with
      | some a => some (s.copyLog q core 0 ⟨a, 0x15, false, false⟩)
      | none =>
        match (x.used.foldl (fun t e => t.useLighter (dieOf core) q.lighter e) s).perform f with
        | (g, t) => some (match lowestFail g.fails with
          | some e => (t.awaitPeer f).copyLog q core 0 e
          | none => t.awaitPeer f)

/-- A copy ends with a code (R281, R282): its completion action, and its final status. -/
def State.finishCopy (s : State) (core slot : Nat) (q : Copy) (code : Nat) (sat : Bool) (n : Nat) : Option State :=
  (s.copyAction core q).map fun t => t.modCopy core slot fun _ =>
    { q with st := .ended, code := code, sat := sat, written := n,
             late := q.deadline != 0 && decide (q.deadline < (t.die (dieOf core)).atime.toNat) }

/-- The end of a copy (R281): a failing start, or its whole move; one that a CPYX stops ends after as many
writes as `pick` says (R284). -/
def State.copyEnd (s : State) (core slot : Nat) : State :=
  let q := (s.core core).copies.get slot
  match q.st with
  | .ended => s
  | .waiting => if q.stopping then (s.finishCopy core slot q 0x0A false 0).getD s else s
  | .running =>
    if q.code ≠ 0 then (s.finishCopy core slot q q.code false 0).getD s
    else
      let r := s.moveCopy core q (if q.stopping then some (s.pick.getD 0) else none)
      if r.wait then s
      else (((r.s.formatErrors core r.f.fmtErrs).sendCopied core q r.whole).finishCopy core slot q
        (r.stop.getD (if q.stopping then 0x0A else if r.failed then 0x02 else 0x01)) r.sat r.n).getD s

/-- The status of a copy (R282). -/
def Copy.status (q : Copy) : Word :=
  if q.st = .ended then
    BitVec.ofNat 64 (pack [(0, q.code), (8, q.sat.toNat), (9, q.late.toNat), (16, q.written % 2 ^ 32)])
  else 0

/-- The ticket of a copy (R277). -/
def ticketOf (core slot seq : Nat) : Word := BitVec.ofNat 64 (pack [(0, slot), (7, core), (18, seq % 2 ^ 32)])

/-- The copy that a ticket names for an owner; none for a stale ticket (R277). -/
def State.ticketed (s : State) (owner : Nat) (t : Word) : Option (Nat × Nat × Copy) :=
  let n := t.toNat
  let core := n / 2 ^ 7 % 2 ^ 11
  let slot := n % 2 ^ 7
  if n / 2 ^ 50 ≠ 0 ∨ !(s.core core).copies.any (·.1 == slot) then none
  else
    let q := (s.core core).copies.get slot
    if q.seq % 2 ^ 32 = n / 2 ^ 18 ∧ q.owner = owner then some (core, slot, q) else none

/-- The lowest-numbered free copy slot (R277). -/
def Core.freeCopy (c : Core) : Option Nat := (List.range 128).find? fun i => (c.copies.get i).st == .ended

/-- A copy issued by the hart in hand at its bundle's commit (R277, R99): the ticket goes to sd. -/
def State.issueCopy (s : State) (d : SReg) (cmd : List Word) : State :=
  let c := s.me
  let h := c.hart
  match c.freeCopy with
  | none => s.modMy (·.wx d (BitVec.twoPow 64 63))
  | some i =>
    let rnd := cmd.getD 0 0 >>> 7
    let q : Copy :=
      { seq := c.copySeq, owner := h.sup.owner.toNat, area := h.sup.saveptr.toNat, lvl := h.level,
        dirbase := h.sup.dirbase, cmd := cmd, rnd := if rnd.setWidth 3 = 0 then h.ctl.frm else rnd.setWidth 3,
        seed := h.ctl.srseed, fill := h.ctl.fill, issued := BitVec.ofNat 64 (s.atime s.cur), st := .waiting,
        viol := h.sup.violmode }
    s.modCore s.cur fun c =>
      { c with copies := c.copies.put i q, copySeq := c.copySeq + 1,
               hart := (c.hart.modCtl fun w => { w with srseed := srNext w.srseed }).wx d (ticketOf s.cur i q.seq) }

/-- CPY (R277). -/
def opCpy (d a : SReg) : Op := fun oc s =>
  let ea := s.my.rx a
  if ea.toNat % 128 ≠ 0 then .trap 0x03 0
  else s.structRead oc ea.toNat 128 fun cmd => commits fun t => t.issueCopy d cmd

/-- CPYW (R283): it blocks until the copy has ended; a stale ticket, and NOSLOT, commit at once. -/
def opCpyw (a : SReg) : Op := fun _ s =>
  match s.ticketed s.my.sup.owner.toNat (s.my.rx a) with
  | some (_, _, q) => if q.st = .ended then commits id else .wait 0 (some (9, 0)) id
  | none => commits id

/-- What CPYQ and CPYX report of a ticket: code 0x0E where it is stale (R282). -/
def State.ticketStatus (s : State) (owner : Nat) (t : Word) : Word :=
  match s.ticketed owner t with
  | some (_, _, q) => q.status
  | none => 0x0E

/-- CPYQ (R283). -/
def opCpyq (d a : SReg) : Op := fun _ s =>
  let ticket := s.my.rx a
  commits fun t => t.modMy (·.wx d (t.ticketStatus t.my.sup.owner.toNat ticket))

/-- CPYX (R284): it stalls until the lighter acknowledges. -/
def opCpyx (d a : SReg) : Op := fun _ s =>
  match s.my.ewait with
  | .cpyx _ _ => .wait 1 none id
  | .cpyxDone v => writes d v
  | _ =>
    match s.ticketed s.my.sup.owner.toNat (s.my.rx a) with
    | some (k, i, q) =>
      if q.st = .ended then writes d q.status
      else .wait 2 none fun t =>
        (t.modCopy k i fun q => { q with stopping := true }).modMy fun h => { h with ewait := .cpyx k i }
    | none => writes d 0x0E

/-- The lighter acknowledges a CPYX: the copy's final status is at hand (R284). -/
def State.cpyxAck (s : State) (core : Nat) : State :=
  match (s.hart core).ewait with
  | .cpyx k i =>
    let q := (s.core k).copies.get i
    if q.st = .ended then s.modHart core fun h => { h with ewait := .cpyxDone q.status } else s
  | _ => s

end Sys2Proof.Machine
end

