-- ==== Sys2Proof/Machine/Grid.lean ====
section
/-! DEFINITION. The G class (R299 to R315): TSHAPE, OPA and its steps, clearing, moving and transposing, and the rows'
status and keeping. -/

namespace Sys2Proof.Machine

/-- The grant of a request at a row width (R300). -/
def tshpGrant (a : Word) (width : Nat) : BitVec 32 :=
  let m := min (a.toNat % 256) 64
  let n := min (min (a.toNat / 256 % 256) 64) (width / 32)
  let k := min (a.toNat / 65536 % 65536) 4096
  BitVec.ofNat 32 (m + 256 * n + 65536 * k)

/-- TSHAPE (R300): the row width is the one before the bundle (R130, R240). -/
def opTshape (d a : SReg) : Op := fun _ s =>
  let r := s.my.rx a
  if r.toNat % 256 = 0 ∨ r.toNat / 256 % 256 = 0 ∨ r.toNat / 65536 % 65536 = 0 then .trap 0x03 0
  else
    let g := tshpGrant r s.my.sup.vlcap.toNat
    commits fun t => t.modMy fun h => (h.modCtl fun c => { c with tshp := g }).wx d (g.setWidth 64)

/-- The rows of a half. -/
def halfRows (h : Nat) : List Nat := (List.range 64).map (64 * h + ·)

/-- Where a G operation stands: what it names of the missing half, the stalls on the rows that it reads or writes (R134, R135,
R314), and on those that it writes while a vector operation has still to read them (R176). On other rows the two run together
(R133). -/
def gridGate (s : State) (rows writes : List Nat) (illegal : Bool) (k : Res) : Res :=
  let h := s.my
  if illegal then .trap 0x03 0
  else h.capTrap rows (if h.longOn writes || h.rowWaits rows then .stall else k)

/-- A scale of a binding's scale stream by its index (R85, R86): one that the stream unit holds, or one fetched now; none
where the stream ends or its companion is exhausted; or a fault. -/
def State.scaleAt (s : State) (k : Nat) (q : Queue) (f i : Nat) : Except (Nat × Word) (Option Nat × State) :=
  match if q.scaleIdx ≤ i then q.scales[i - q.scaleIdx]? else none with
  | some v => .ok (v, s)
  | none =>
    let w := s.streamWho k
    let spot := s.scaleSpot w q f i
    let t := s.xlAll w (s.core k).cache (recSpace q.rcd) .load (spot.reqs f) {}
    let fl := streamFlight w q .read clsQR t
    match lowestFail (t.fails.filter (·.strict)), t.nonres, s.strictError fl with
    | some e, _, _ => .error (0x15, BitVec.ofNat 64 e.addr)
    | none, some a, _ => .error (0x0A, BitVec.ofNat 64 a)
    | none, none, some e => .error (0x15, BitVec.ofNat 64 e.addr)
    | none, none, none =>
      match (s.useEntries k t.used).perform fl with
      | (g, u) => .ok (spot.value f g.got q.fill, u.report g)

/-- The scales that an OPA needs of a binding, as it finds them before it commits (R305): the first `n` after `off` are there,
and of those of all its blocks, `per` a block, none is known to be exhausted. -/
def State.scalesReady (s : State) (i off n per : Nat) : Bool :=
  let q := s.my.queue i
  let blocks := (tshpK s.my.ctl.tshp + max 1 q.blen - 1) / max 1 q.blen
  match q.fmt with
  | some f => !fmtScaled f || (q.scales.take (per * blocks)).all (·.isSome) && (List.range n).all fun j =>
      match s.scaleAt s.cur q f (q.scaleIdx + off + j) with
      | .ok (none, _) => false
      | _ => true
  | none => true

/-- Where a queue that an OPA names stands (R301): claimed, or its format not settled yet; stopped at a fault before that; or
with its effective format. -/
inductive OpaQueue where
  | waits
  | fault (cause : Nat) (addr : Word)
  | fmt (f : Nat)
  deriving DecidableEq, Repr

/-- A queue as an OPA finds it: one not bound for reading, and one with nothing left to settle its format, give the stream
fault (R301, R271). -/
def Queue.forOpa (q : Queue) (i : Nat) : OpaQueue :=
  if q.bind ≠ 1 then .fault 0x15 (BitVec.ofNat 64 i)
  else if q.claim then .waits
  else match q.fmt with
    | some f => .fmt f
    | none => match q.fault with
      | some e => .fault e.1 e.2
      | none => if walkDone q.rcd q.win && q.inbound.isEmpty then .fault 0x15 (BitVec.ofNat 64 i) else .waits

/-- The place of a cause found at execution in the list of R174. -/
def execRank (c : Nat) : Nat :=
  match c with
  | 0x0E => 0
  | 0x0C => 1
  | 0x15 => 2
  | 0x0D => 3
  | 0x0A => 4
  | 0x21 => 5
  | _ => 6

/-- The first cause of the list of R174 among those that one operation meets, at its lowest address. -/
def worstCause : List (Nat × Word) → Option (Nat × Word)
  | [] => none
  | x :: xs => match worstCause xs with
    | none => some x
    | some y =>
      if execRank x.1 < execRank y.1 ∨ (execRank x.1 = execRank y.1 ∧ x.2.toNat ≤ y.2.toNat) then some x else some y

/-- The causes of a queue. -/
def OpaQueue.causes : OpaQueue → List (Nat × Word)
  | .fault c a => [(c, a)]
  | _ => []

/-- The formats that an operand of an OPA may have as far as its queue has settled: any of the table of R302 before that. -/
def OpaQueue.formats : OpaQueue → List Nat
  | .fmt f => [f]
  | _ => [0x02, 0x03, 0x04, 0x05, 0x0A, 0x0E, 0x10, 0x11, 0x12]

/-- No combination of formats that both operands may have is in the table of R302. -/
def opaConflict (a b : OpaQueue) : Bool := !a.formats.any fun f => b.formats.any fun g => (opaKind f g).isSome

/-- The formats of both operands, once both have settled. -/
def opaFmts (a b : OpaQueue) : Option (Nat × Nat) :=
  match a, b with
  | .fmt f, .fmt g => some (f, g)
  | _, _ => none

/-- A fault at which prefetch stopped before the queue's format settled has raised its trap: the stream resumes from that strip
after ERET (R19, R91). -/
def State.takeFaults (s : State) (is : List Nat) : State :=
  s.modMy fun h => is.foldl (fun h i =>
    if (h.queue i).fmt.isNone && (h.queue i).fault.isSome then h.modQueue i fun q => { q with taken := true } else h) h

/-- An OPA begins (R301, R303, R306). -/
def State.startOpa (s : State) (run : OpaRun) : State :=
  let claim (q : Queue) : Queue := { q with claim := true }
  s.modMy fun g =>
    { (g.modQueue run.qa claim).modQueue run.qb claim with
      opas := g.opas ++ [run]
      grid := { g.grid with busy := g.grid.busy ||| halfBits run.half } }

/-- OPA (R301, R303, R306): its steps run after its bundle. A reserved format of a queue is taken without waiting; a stall comes
before any cause found at execution, and of those the first in the list of R174 is taken. -/
def opOpa (h : BitVec 1) (qa qb : QReg) (neg ovw : BitVec 1) : Op := fun oc s =>
  let my := s.my
  let hf := h.toNat
  let i := qa.toNat
  let j := qb.toNat
  let a := (my.queue i).forOpa i
  let b := (my.queue j).forOpa j
  let causes := a.causes ++ b.causes
  match if my.holdsPartial then none else worstCause (causes.filter (·.1 == 0x0E)) with
  | some (c, ad) => .trap c ad (note := fun t => t.takeFaults [i, j])
  | none =>
  gridGate s (halfRows hf) (halfRows hf) my.holdsPartial <|
    if my.opas.any (fun r => decide (r.step < r.steps)) || a == .waits || b == .waits then .stall else
    let m := tshpM my.ctl.tshp
    let n := tshpN my.ctl.tshp
    let short := my.passed.isNone && (!s.scalesReady i 0 m (if i = j then m + n else m) ||
      !s.scalesReady j (if i = j then m else 0) n (if i = j then m + n else n))
    let (fa, fb) := (opaFmts a b).getD (0, 0)
    let found := causes ++ (if opaConflict a b then [(0x0C, (0 : Word))] else
      if (opaFmts a b).isSome && short then [(0x0D, 0)] else [])
    match worstCause found with
    | some (c, ad) => .trap c ad (note := fun t => t.takeFaults [i, j])
    | none =>
      let run : OpaRun :=
        { half := hf, qa := i, qb := j, neg := neg == 1, ovw := ovw == 1, fa := fa, fb := fb, blenA := (my.queue i).blen
          blenB := (my.queue j).blen, tshp := my.ctl.tshp, step := 0, pc := oc.pc, slot := oc.slot }
      commits fun t => t.startOpa run

/-- The scales of one block, one per row of the operand, from an index of the scale stream on (R305). -/
def State.readScales (s : State) (k : Nat) (q : Queue) (f i : Nat) : Nat → Except (Nat × Word) (List Nat × State)
  | 0 => .ok ([], s)
  | m + 1 => match s.scaleAt k q f i with
    | .error e => .error e
    | .ok (none, _) => .error (0x0D, 0)
    | .ok (some c, t) => match t.readScales k q f (i + 1) m with
      | .error e => .error e
      | .ok (cs, u) => .ok (c :: cs, u)

/-- Scales taken from a scale stream (R86). -/
def Queue.dropScales (q : Queue) (n : Nat) : Queue := { q with scaleIdx := q.scaleIdx + n, scales := q.scales.drop n }

/-- The scales of one K position for an operand of `m` rows (R305): at the first position of a block its scales are popped;
elsewhere those in hand apply, which a resumed OPA reads again `back` scales before the next. -/
def State.blockScales (s : State) (k i f blen m back p : Nat) (held : List Nat) : Except (Nat × Word) (List Nat × State) :=
  let q := (s.hart k).queue i
  if !fmtScaled f then .ok ([], s)
  else if p % max 1 blen = 0 then
    match s.readScales k q f q.scaleIdx m with
    | .error e => .error e
    | .ok (cs, t) => .ok (cs, t.modHart k fun h => h.modQueue i (·.dropScales m))
  else if held.isEmpty then s.readScales k q f (q.scaleIdx - back) m
  else .ok (held, s)

/-- The scales of the K positions of a step for both operands, A's of each position before B's (R305): one queue may supply
both. `held` are those of the block in hand. -/
def State.takeScales (s : State) (k : Nat) (o : OpaRun) (held : List Nat × List Nat) :
    List Nat → Except (Nat × Word) (List (List Nat × List Nat) × State)
  | [] => .ok ([], s)
  | p :: ps =>
    let m := tshpM o.tshp
    let n := tshpN o.tshp
    match s.blockScales k o.qa o.fa o.blenA m (if o.qa = o.qb then m + n else m) p held.1 with
    | .error e => .error e
    | .ok (a, t) => match t.blockScales k o.qb o.fb o.blenB n n p held.2 with
      | .error e => .error e
      | .ok (b, t) => match t.takeScales k o (a, b) ps with
        | .error e => .error e
        | .ok (rest, u) => .ok ((a, b) :: rest, u)

/-- The exact values of an entry's operands (R302, R303): element p × m + i at K position p, with its scale; and the
format errors of TERN2 codes. -/
def opaVals (f : Nat) (d : BitVec 2048) (m n : Nat) (scales : List (List Nat)) : List (List Num) × Nat :=
  let w := fmtDelivered f
  let bits (i : Nat) : Nat := d.toNat / 2 ^ (w * i) % 2 ^ w
  let at_ (p i : Nat) : Num :=
    let b := bits (p * m + i)
    if f = 0x10 then bf16.decode b
    else if f = 0x11 ∨ f = 0x12 then scaledDecode f b ((scales.getD p []).getD i 127)
    else (fmtDecode f b { seed := 0 }).1
  let errs := if f = 0x0E then ((List.range (m * n)).filter fun i => bits i == 2).length else 0
  ((List.range n).map fun p => (List.range m).map fun i => at_ p i, errs)

/-- A value of an exact integer. -/
def Num.toInt (x : Num) : Int := Num.scaled 0 x

/-- A cell after a step (R303). -/
def accumulate (float neg : Bool) (old : Nat) (as bs : List Num) (f : FState) : Nat × FState :=
  if float then
    let (ps, f) := (as.zip bs).foldl (fun (r : List Num × FState) p =>
      match p.1.mul p.2 r.2 with
      | (x, f) => (r.1 ++ [if neg then x.negate else x], f)) ([], f)
    let (x, f) := sumNums 1 (fp32.decode old :: ps) f
    fp32.round 1 false x f
  else
    let sum := ((as.zip bs).map fun p => p.1.toInt * p.2.toInt).sum
    let v := (BitVec.ofNat 32 old).toInt + (if neg then -sum else sum)
    let c := max (-(2 ^ 31)) (min v (2 ^ 31 - 1))
    (intBits 32 c, f.raiseIf (c != v) flagSAT)

/-- A row of the tile after a step. -/
def opaRow (float neg fresh : Bool) (old : BitVec 2048) (as : List Num) (bs : List (List Num)) (f : FState) :
    BitVec 2048 × FState :=
  (bs.zip (List.range bs.length)).foldl (fun r p =>
    let cell := if fresh then 0 else old.toNat / 2 ^ (32 * p.2) % 2 ^ 32
    match accumulate float neg cell as p.1 r.2 with
    | (v, f) => (putBits r.1 (32 * p.2) 32 v, f)) (old, f)

/-- The values of each row or column of a step: one list of K positions per tile row or column. -/
def transposeVals (m : Nat) (vs : List (List Num)) : List (List Num) :=
  (List.range m).map fun i => vs.map fun p => p.getD i (.fin false 0 0)

/-- The tile after a step (R303): rows from 64h on, their cells accumulated as they are read in `src`. -/
def opaTile (o : OpaRun) (float : Bool) (src g : Grid) (as bs : List (List Num)) (f : FState) : Grid × FState :=
  (as.zip (List.range as.length)).foldl (fun r p =>
    let row := 64 * o.half + p.2
    match opaRow float o.neg (o.ovw && o.step == 0) (src.rows.get row) p.1 bs r.2 with
    | (v, f) => ((r.1.setRow row v).mend row 0 (32 * bs.length), f)) (g, f)

/-- An OPA stops at a fault met after its bundle committed (R175): it becomes partial, its half is free, and the trap is
due at the next boundary. -/
def State.opaFault (s : State) (k : Nat) (o : OpaRun) (e : Nat × Word) : State :=
  s.modHart k fun h =>
    { h with
      opas := h.opas.filter (· != o)
      popa := some o
      grid := { h.grid with busy := h.grid.busy &&& ~~~(halfBits o.half) }
      due := h.due ++ [{ cause := e.1, addr := e.2, slot := some o.slot, resumable := true }] }

/-- What stops a pop by an OPA: not arrived yet (none), or a fault (R271, R307). -/
def Queue.dry (q : Queue) (i : Nat) : Option (Nat × Word) :=
  match q.inbound, q.fault with
  | _ :: _, _ => none
  | [], some f => some f
  | [], none => if walkDone q.rcd q.win then some (0x15, BitVec.ofNat 64 i) else none

/-- A queue's fault raised by the OPA that met it: the stream resumes from its strip after ERET (R19, R175). -/
def State.clearFault (s : State) (k i : Nat) : State :=
  s.modHart k fun h => h.modQueue i fun q => { q with taken := true }

/-- One step of an OPA on entries that are ready (R303 to R305). -/
def State.opaRunStep (s : State) (k : Nat) (o : OpaRun) (float : Bool) (r : Nat) (ea eb : QWord) : State :=
  let m := tshpM o.tshp
  let n := tshpN o.tshp
  let ks := (List.range (min r (tshpK o.tshp - r * o.step))).map (r * o.step + ·)
  match s.takeScales k o (o.heldA, o.heldB) ks with
  | .error e => s.opaFault k o e
  | .ok (cs, t) =>
    let held := cs.getLast?.getD (o.heldA, o.heldB)
    let (va, xa) := opaVals o.fa ea.data m ks.length (cs.map (·.1))
    let (vb, xb) := opaVals o.fb eb.data n ks.length (cs.map (·.2))
    let t := t.formatErrors k (xa + xb)
    match opaTile o float (t.hart k).readGrid (t.hart k).grid (transposeVals m va) (transposeVals n vb) { seed := 0 } with
    | (g, f) =>
      let last := decide (o.steps ≤ o.step + 1)
      let next := { o with step := o.step + 1, heldA := held.1, heldB := held.2 }
      t.modHart k fun h =>
        let h := { h with grid := g, opas := h.opas.map fun x => if x == o then next else x }
        let h := (h.modQueue o.qa Queue.pop).modQueue o.qb Queue.pop
        let h := if last then
            (h.modQueue o.qa fun q => { q with claim := false }).modQueue o.qb fun q => { q with claim := false }
          else h
        h.modCtl fun c => c.orFlags f.flags

/-- OPA's next step, where its entries have arrived (R303, R306, R307), and no vector operation of its bundle has still to read its
half (R130). -/
def State.opaStep (s : State) (k : Nat) : State :=
  let h := s.hart k
  match h.opas.find? (fun o => decide (o.step < o.steps)) with
  | none => s
  | some o =>
    match if h.longOn (halfRows o.half) then none else opaKind o.fa o.fb with
    | none => s
    | some (float, r) =>
      let qa := h.queue o.qa
      let qb := h.queue o.qb
      let second := if o.qa = o.qb then qb.entries.drop 1 else qb.entries
      match qa.entries, second with
      | ea :: _, eb :: _ => s.opaRunStep k o float r ea eb
      | [], _ => match qa.dry o.qa with
        | some e => (s.opaFault k o e).clearFault k o.qa
        | none => s
      | _ :: _, [] => match qb.dry o.qb with
        | some e => (s.opaFault k o e).clearFault k o.qb
        | none => s

/-- An OPA's last step has retired: the busy bits of its half clear (R134, R306). -/
def State.opaComplete (s : State) (k half : Nat) : State :=
  let h := s.hart k
  match h.opas.find? (fun o => o.half == half && decide (o.steps ≤ o.step)) with
  | none => s
  | some o => s.modHart k fun h =>
      { h with opas := h.opas.filter (· != o), grid := { h.grid with busy := h.grid.busy &&& ~~~(halfBits half) } }

/-- The rows that a clearing, move or transpose writes, at commit; where the model delays they stay busy for a while
(R308, log 6). -/
def State.gridWrite (s : State) (rows : List Nat) (f : Grid → Grid) : State :=
  s.modMy fun h =>
    let h := h.modGrid f
    if s.delay then
      { h with clearing := h.clearing ||| rowBits rows, grid := { h.grid with busy := h.grid.busy ||| rowBits rows } }
    else h

/-- OPZ (R308). -/
def opOpz (h : BitVec 1) : Op := fun _ s =>
  let t := s.my.ctl.tshp
  let rows := (List.range (tshpM t)).map (64 * h.toNat + ·)
  gridGate s rows rows false <| commits fun u => u.gridWrite rows fun g =>
    rows.foldl (fun g r => (g.setRow r (rowBelow (g.rows.get r) 0 (32 * tshpN t))).mend r 0 (32 * tshpN t)) g

/-- GCLR (R308). -/
def opGclr (h : BitVec 1) : Op := fun _ s =>
  let rows := halfRows h.toNat
  gridGate s rows rows false <| commits fun u => u.gridWrite rows fun g => rows.foldl (fun g r => g.putRow r 0) g

/-- GMOV (R309). -/
def opGmov (d r : GReg) : Op := fun _ s =>
  gridGate s [d.toNat, r.toNat] [d.toNat] false <| commits fun u => u.gridWrite [d.toNat] fun g =>
    g.putRow d.toNat (s.my.grid.rows.get r.toNat)

/-- GTRN (R310). -/
def opGtrn (h : BitVec 1) : Op := fun _ s =>
  let rows := halfRows h.toNat
  gridGate s rows rows false <| commits fun u => u.gridWrite rows fun g =>
    (List.range 64).foldl (fun d i => d.putRow (64 * h.toNat + i)
      (BitVec.ofNat 2048 (packAt 32 ((List.range 64).map fun j => s.my.grid.bitsAt (64 * h.toNat + j) (32 * i) 32)))) g

/-- The grid status word (R311). -/
def Core.gridWord (c : Core) : Word :=
  let h := c.hart
  let busy (i : Nat) : Nat := (h.grid.busy &&& halfBits i != 0).toNat
  let opa (i : Nat) : Nat := (h.opas.any (·.half == i)).toNat
  let steps := ((h.opas.find? fun o => decide (o.step < o.steps)).map fun o => o.steps - o.step).getD 0
  BitVec.ofNat 64 (pack [(0, busy 0), (1, busy 1), (2, opa 0), (3, opa 1), (4, h.long.isSome.toNat), (5, h.grid.h1.toNat),
    (6, c.capgrid), (16, min steps 0xFFFF)])

/-- GSTAT (R311): sampled at commit. -/
def opGstat (d : SReg) : Op := fun _ _ => commits fun t => t.modMy (·.wx d t.me.gridWord)

/-- The rows that a committed long operation has still to write: those of its active elements. -/
def LongOp.dueRows (l : LongOp) : BitVec 128 :=
  match l.instr.bind planOf with
  | some p => (p.run l.cap l.src (p.visits l.cap l.src l.start) {} { seed := l.cap.seed }).1.dirty
  | none => 0

/-- The tile rows of an OPA with steps to run. -/
def OpaRun.dueRows (o : OpaRun) : BitVec 128 :=
  if o.step < o.steps then rowBits ((List.range (o.tshp.toNat % 256)).map (64 * o.half + ·)) else 0

/-- The rows that a load on its way writes; one of GLOAD makes no row dirty (R313). -/
def Flight.dueRows (f : Flight) : BitVec 128 :=
  match f.land with
  | .groups _ gs => if f.space = 5 then 0 else rowBits ((gs.filter (!·.elems.isEmpty)).map (·.row))
  | .decode row n _ _ _ _ => rowBits ((List.range n).map (row + ·))
  | .frame row g _ _ _ => rowBits ((List.range (2 ^ g.toNat)).map (row + ·))
  | _ => 0

/-- The rows that bundles of the hart in hand that have committed are still to write (R312). -/
def State.dueRows (s : State) : BitVec 128 :=
  let h := s.my
  let mine := s.flights.filter fun f => f.ofCtx s.cur h.sup.owner.toNat h.sup.saveptr.toNat
  (h.opas.map OpaRun.dueRows ++ h.long.toList.map LongOp.dueRows ++ mine.map Flight.dueRows).foldl (· ||| ·) 0

/-- GDIRTY (R312, R314): the dirty rows as they stood before the bundle, with those still due; rows of h1 count only when H1 is
1 (R191), which a row due there makes it. -/
def opGdirty (d : SReg) (h : BitVec 1) : Op := fun _ s =>
  s.my.capTrap (halfRows h.toNat) <|
    let due := s.dueRows
    let h1 := s.my.grid.h1 || decide (2 ^ 64 ≤ due.toNat)
    let bits := (s.my.grid.dirty ||| due).toNat
    commits fun t => t.modMy (·.wx d (if h = 0 ∨ h1 then BitVec.ofNat 64 (bits / 2 ^ (64 * h.toNat)) else 0))

/-- The blocks of a row's slot in the save area, as physical accesses under the hart's key and the body's tweak (R65,
R313). -/
def State.slotPieces (s : State) (w : Who) (row : Nat) (val : BitVec 2048) : List Piece :=
  (List.range 4).map fun i =>
    let b := 386 + 4 * row + i
    let pa := w.area + 64 * b
    { blk := pa, lo := pa, loc := s.physLoc w.core pa (some (w.owner, b)), strict := w.viol, val := BitVec.ofNat 512 (val.toNat / 2 ^ (512 * i)), mask := ~~~0 }

/-- An access to a row's slot. -/
def State.slotFlight (s : State) (oc : OpCtx) (store : Bool) (row : Nat) : Flight :=
  { newFlight s oc (if store then clsVW else clsVR) true 5 (if store then 1 else 0) (if store then .write else .read) with
    pieces := s.slotPieces (s.who s.cur) row (s.my.grid.rows.get row) }

/-- What an access to slots performs under VIOLMODE it performs before its bundle commits (R107, R313): it waits while a home
cannot perform it or is out of step, and a failure traps. Beside another operation that has been sent it is judged again with
the answer of a load (R173). -/
def State.slotStrict (s : State) (fs : List Flight) (k : Res) : Res :=
  let h := s.my
  let judged := h.passed.isNone || match h.wait with
    | .answer g => g.act == .read
    | _ => false
  if !h.sup.violmode || !judged then k
  else if s.owesAccess || fs.any (fun f => f.pieces.any (s.heldBack f) || !s.inStep s.cur f.pieces) then .stall
  else match lowestFail (fs.filterMap s.strictError) with
    | some e => .trap (if e.data then 0x20 else 0x21) (BitVec.ofNat 64 e.addr)
    | none => k

/-- GSAVE and GLOAD: their rows, and under VIOLMODE the failures that they meet (R313). -/
def slotGate (s : State) (oc : OpCtx) (store : Bool) (f : GReg) (c : BitVec 7) (k : List Nat → Res) : Res :=
  let n := c.toNat + 1
  let rows := (List.range n).map (f.toNat + ·)
  gridGate s rows (if store then [] else rows) (decide (128 < f.toNat + n) || s.my.sup.saveptr == 0) <|
    s.slotStrict (rows.map (s.slotFlight oc store)) (k rows)

/-- An access to a slot at commit: performed there under VIOLMODE, and otherwise issued (R313). -/
def State.issueSlot (t : State) (f : Flight) : State :=
  if t.my.sup.violmode then
    match t.perform f with
    | (g, u) => u.land g
  else t.issue f

/-- GSAVE (R313). -/
def opGsave (f : GReg) (c : BitVec 7) : Op := fun oc s =>
  slotGate s oc true f c fun rows => commits fun t =>
    let t := t.modMy fun h => h.modGrid fun g => { g with dirty := g.dirty &&& ~~~(rowBits rows) }
    rows.foldl (fun t r => t.issueSlot { s.slotFlight oc true r with land := .saved r }) t

/-- The arrival groups of a whole row read from its slot. -/
def slotGroups (area row : Nat) : List ArrGroup :=
  (List.range 8).map fun k => ⟨row, k, (List.range 8).map fun i =>
    { row := row, lo := 256 * k + 32 * i, w := 32, ba := 8 * (area + 24704 + 256 * row) + 256 * k + 32 * i, wm := 32,
      conv := .raw }⟩

/-- GLOAD (R313). -/
def opGload (f : GReg) (c : BitVec 7) : Op := fun oc s =>
  slotGate s oc false f c fun rows => commits fun t =>
    let t := t.modMy fun h => h.modGrid fun g =>
      { g with dirty := g.dirty &&& ~~~(rowBits rows), h1 := g.h1 || rows.any (64 ≤ ·) }
    let gs := slotGroups s.my.sup.saveptr.toNat
    rows.foldl (fun t r =>
      let f := s.slotFlight oc false r
      if s.my.sup.violmode then
        match t.perform { f with land := .groups s.my.ctl.fill (gs r) } with
        | (g, u) => (u.report g).loadDone g s.my.ctl.fill
      else t.issueLoad f s.my.ctl.fill (gs r)) t

end Sys2Proof.Machine
end

