-- ==== Sys2Proof/WellFormed.lean ====
section
/-! DEFINITION. What makes an instruction well-formed: that spec/08 has an encoding for it, and that a step of
another agent names an agent that exists (spec/00 R2, R3). Operands that an encoding admits and an instruction
traps on (illegal operands, R202) are well-formed. -/

namespace Sys2Proof

/-- The masked form of a unit-stride access in a bundle without a header has no extension byte, so its
immediate is one that the nine bits hold (R199, R200). -/
def mselFits (imm : BitVec 17) (m : MaskUse) : Bool :=
  m != .msel || (imm.setWidth 9).signExtend 17 == imm

/-- FADD exists at width 0 only (R205). -/
def amoWidthOk (op : AmoOp) (w : BitVec 1) : Bool :=
  op != .fadd || w == 0

/-- A global core id (R3). -/
def coreOk (c : Nat) : Bool := c < 1536

/-- A die id (R3). -/
def dieOk (d : Nat) : Bool := d < 16

/-- The check itself: an instruction the encoding tables or the package's organisation do not admit is refused. -/
def Instr.wf : Instr → Bool
  | .vld _ _ _ imm m => mselFits imm m
  | .vst _ _ _ imm m => mselFits imm m
  | .amo _ _ w op _ _ => amoWidthOk op w
  | .amos _ _ w op _ _ => amoWidthOk op w
  | .accessReply core => coreOk core
  | .holderDrop _ agent => agent < 17
  | .dredgerMove owner _ _ home => owner < 4096 && dieOk home
  | .gridHalfRetirement core half => coreOk core && half < 2
  | .scratchBankRetirement core bank => coreOk core && bank < 16
  | .dieCacheBankRetirement die bank => dieOk die && bank < 256
  | .hbmRegionRetirement die region => dieOk die && region < 192
  | .evacuatorSegmentMove core => coreOk core
  | .evacuatorLineReadReturn core => coreOk core
  | .evacuatorSegmentDone core => coreOk core
  | .overCapacityFault core => coreOk core
  | .dieFence die => dieOk die
  | .placementGraceExpiry die => dieOk die
  | .ptpSourceEnable source => (source == 1 || source == 2)
  | .timedAccessDue die => dieOk die
  | .noticeTaken core => coreOk core
  | .resumableTrap core => coreOk core
  | .gbarOpeningTime core => coreOk core
  | .opaStep core => coreOk core
  | .opaComplete core half => coreOk core && half < 2
  | .longOperationComplete core => coreOk core
  | .vldcDecodeEnd core => coreOk core
  | .blockEnd core => coreOk core
  | .blockSwitchOut core => coreOk core
  | .blockedCauseClear core _ => coreOk core
  | .placement die slot => dieOk die && slot < 4096
  | .gangPlacement die slot => dieOk die && slot < 4096
  | .switchOut core => coreOk core
  | .switchIn core => coreOk core
  | .saveDrain core => coreOk core
  | .shareWindowStart core => coreOk core
  | .shareTurn core => coreOk core
  | .shareTurnEnd core => coreOk core
  | .sliceDeadlinePassed die slot => dieOk die && slot < 4096
  | .budgetExhausted core => coreOk core
  | .heartbeatTimeout die => dieOk die
  | .eviction core => coreOk core
  | .relaunch core _ => coreOk core
  | .endInstance core _ => coreOk core
  | .saveRestart core _ => coreOk core
  | .copyStart die => dieOk die
  | .copyEnd core slot => coreOk core && slot < 128
  | .cpyxAck core => coreOk core
  | .streamPrefetch core q => coreOk core && q < 4
  | .streamEntryArrival core q => coreOk core && q < 4
  | .streamEntryWrite core q => coreOk core && q < 4
  | .waitaReport core => coreOk core
  | .twaitExpiry core => coreOk core
  | .wfiWake core => coreOk core
  | .powerExcess die => dieOk die
  | .thermalThrottle die => dieOk die
  | .overpowerAtFloorTimeout die => dieOk die
  | .moduleTrip die => dieOk die
  | .circuitRequest entry _ => entry < 88
  | .circuitTeardown entry => entry < 88
  | .meshResize entry _ => entry < 88
  | .circuitActivation entry => entry < 88
  | .circuitDrainComplete entry => entry < 88
  | .routeChangeAck a b => dieOk a && dieOk b
  | .ownerKeyInstall owner _ => owner < 4096
  | .ownerKeyRelease owner => owner < 4096
  | .contextStaged core => coreOk core
  | .clearMoveTransposeComplete core => coreOk core
  | .throttleRelease die => dieOk die
  | _ => true

/-- A step of another agent, which has no encoding (spec/95); the encoded operations of spec/08 are the others. -/
def Instr.isStep : Instr → Bool
  | .nop => false
  | .add _ _ _ => false
  | .sub _ _ _ => false
  | .and _ _ _ => false
  | .or _ _ _ => false
  | .xor _ _ _ => false
  | .sll _ _ _ => false
  | .srl _ _ _ => false
  | .sra _ _ _ => false
  | .slt _ _ _ => false
  | .sltu _ _ _ => false
  | .min _ _ _ => false
  | .max _ _ _ => false
  | .minu _ _ _ => false
  | .maxu _ _ _ => false
  | .csel _ _ _ _ => false
  | .mul _ _ _ => false
  | .mulh _ _ _ => false
  | .mulhu _ _ _ => false
  | .div _ _ _ => false
  | .divu _ _ _ => false
  | .rem _ _ _ => false
  | .remu _ _ _ => false
  | .add32 _ _ _ => false
  | .clz _ _ => false
  | .ctz _ _ => false
  | .popc _ _ => false
  | .fshl _ _ _ _ => false
  | .fshr _ _ _ _ => false
  | .bext _ _ _ => false
  | .bins _ _ _ => false
  | .sext _ _ _ => false
  | .addi _ _ _ => false
  | .andi _ _ _ => false
  | .ori _ _ _ => false
  | .xori _ _ _ => false
  | .slli _ _ _ => false
  | .srli _ _ _ => false
  | .srai _ _ _ => false
  | .slti _ _ _ => false
  | .sltiu _ _ _ => false
  | .lui _ _ => false
  | .addpc _ _ => false
  | .fadd _ _ _ _ => false
  | .fsub _ _ _ _ => false
  | .fmul _ _ _ _ => false
  | .fdiv _ _ _ _ => false
  | .fsqrt _ _ _ => false
  | .fmin _ _ _ => false
  | .fmax _ _ _ => false
  | .fma _ _ _ _ => false
  | .fcvtif _ _ _ => false
  | .fcvtfi _ _ _ => false
  | .feq _ _ _ => false
  | .flt _ _ _ => false
  | .fle _ _ _ => false
  | .fclass _ _ => false
  | .fcvtbf _ _ _ => false
  | .fcvtfb _ _ => false
  | .beq _ _ _ => false
  | .bne _ _ _ => false
  | .blt _ _ _ => false
  | .bge _ _ _ => false
  | .bltu _ _ _ => false
  | .bgeu _ _ _ => false
  | .jal _ _ => false
  | .jalr _ _ _ => false
  | .loop _ _ => false
  | .vloop _ _ => false
  | .setvl _ _ _ _ => false
  | .getc _ _ => false
  | .setc _ _ => false
  | .setci _ _ => false
  | .ldb _ _ _ _ => false
  | .ldbu _ _ _ _ => false
  | .ldh _ _ _ _ => false
  | .ldhu _ _ _ _ => false
  | .ldw _ _ _ _ => false
  | .ldwu _ _ _ _ => false
  | .ldd _ _ _ _ => false
  | .stb _ _ _ _ => false
  | .sth _ _ _ _ => false
  | .stw _ _ _ _ => false
  | .std _ _ _ _ => false
  | .ldnb _ _ _ _ => false
  | .stva _ _ _ _ => false
  | .amo _ _ _ _ _ _ => false
  | .amos _ _ _ _ _ _ => false
  | .fence _ _ _ => false
  | .vld _ _ _ _ _ => false
  | .vlds _ _ _ _ _ => false
  | .vldx _ _ _ _ _ => false
  | .vst _ _ _ _ _ => false
  | .vsts _ _ _ _ _ => false
  | .vstx _ _ _ _ _ => false
  | .vstb _ _ _ _ => false
  | .vldc _ _ _ _ => false
  | .vspill _ _ _ _ => false
  | .vfill _ _ _ _ => false
  | .vstva _ _ _ _ => false
  | .sbind _ _ _ => false
  | .sunbind _ => false
  | .sstat _ _ => false
  | .sskip _ _ => false
  | .sflush _ => false
  | .cpy _ _ => false
  | .cpyw _ => false
  | .cpyq _ _ => false
  | .cpyx _ _ => false
  | .rgprobe _ _ => false
  | .rgsplit _ _ => false
  | .rgmerge _ _ => false
  | .rginv _ _ => false
  | .rgtouch _ => false
  | .rgmove _ _ _ _ => false
  | .time _ => false
  | .twait _ => false
  | .tstat _ => false
  | .gbar _ _ => false
  | .jpost _ _ => false
  | .jyield => false
  | .jdone => false
  | .jwait _ => false
  | .jdec _ => false
  | .waita _ _ => false
  | .capq _ _ _ => false
  | .capr _ _ _ => false
  | .tshape _ _ => false
  | .opa _ _ _ _ _ => false
  | .opz _ => false
  | .gmov _ _ => false
  | .gtrn _ => false
  | .gstat _ => false
  | .gsave _ _ => false
  | .gload _ _ => false
  | .gdirty _ _ => false
  | .gclr _ => false
  | .vadd _ _ _ _ _ => false
  | .vsub _ _ _ _ _ => false
  | .vmul _ _ _ _ _ => false
  | .vfma _ _ _ _ _ => false
  | .vfms _ _ _ _ _ => false
  | .vmin _ _ _ _ _ => false
  | .vmax _ _ _ _ _ => false
  | .vabs _ _ _ _ => false
  | .vneg _ _ _ _ => false
  | .vdiv _ _ _ _ _ => false
  | .vand _ _ _ _ _ => false
  | .vor _ _ _ _ _ => false
  | .vxor _ _ _ _ _ => false
  | .vnot _ _ _ _ => false
  | .vsll _ _ _ _ _ => false
  | .vsrl _ _ _ _ _ => false
  | .vsra _ _ _ _ _ => false
  | .vfshl _ _ _ _ _ => false
  | .vfshr _ _ _ _ _ => false
  | .vcmp _ _ _ _ _ _ => false
  | .vsel _ _ _ _ _ => false
  | .vmv _ _ _ _ => false
  | .vbcast _ _ _ _ => false
  | .vadds _ _ _ _ _ => false
  | .vmuls _ _ _ _ _ => false
  | .vfmas _ _ _ _ _ => false
  | .vid _ _ _ => false
  | .vcvt _ _ _ _ _ => false
  | .vqnt _ _ _ _ _ => false
  | .vhad _ _ _ _ _ => false
  | .vsfu _ _ _ _ _ => false
  | .vredsum _ _ _ _ => false
  | .vredmax _ _ _ _ => false
  | .vredmin _ _ _ _ => false
  | .vredamax _ _ _ _ => false
  | .vsegsum _ _ _ _ _ => false
  | .vsegscan _ _ _ _ _ => false
  | .vscan _ _ _ _ => false
  | .vslideup _ _ _ _ _ => false
  | .vslidedn _ _ _ _ _ => false
  | .vperm _ _ _ _ _ => false
  | .vunpk _ _ _ _ _ => false
  | .vpack _ _ _ _ _ => false
  | .vlut _ _ _ _ _ => false
  | .vexpand _ _ _ _ => false
  | .vcompress _ _ _ _ => false
  | .vsparse _ _ _ _ _ => false
  | .vpop _ _ _ _ => false
  | .vpush _ _ _ => false
  | .vmand _ _ _ => false
  | .vmor _ _ _ => false
  | .vmxor _ _ _ => false
  | .vmnot _ _ => false
  | .vmpopc _ _ => false
  | .vmfirst _ _ => false
  | .vmfrom _ _ _ _ => false
  | .vmto _ _ _ _ => false
  | .vext _ _ _ _ _ => false
  | .vnrw _ _ _ _ _ => false
  | .vpopc _ _ _ _ => false
  | .vshrr _ _ _ _ _ => false
  | .vmulh _ _ _ _ _ => false
  | .vclz _ _ _ _ => false
  | .svc _ => false
  | .brk _ => false
  | .eret => false
  | .wfi => false
  | .rcflush => false
  | .keysel _ _ => false
  | .halt => false
  | .errlog _ _ => false
  | .bundleFetch => true
  | .retrieverSearchEnd _ => true
  | .accessAtHome _ => true
  | .accessReply _ => true
  | .movedResponseResend _ => true
  | .dredgerLockRetry _ => true
  | .holderDrop _ _ => true
  | .rginvComplete _ => true
  | .fillRecord _ => true
  | .sliceDropComplete _ => true
  | .dredgerMove _ _ _ _ => true
  | .chunkOpen _ => true
  | .moveFinish _ => true
  | .scratchAccessComplete _ => true
  | .clusterScratchArrival _ => true
  | .gridHalfRetirement _ _ => true
  | .scratchBankRetirement _ _ => true
  | .dieCacheBankRetirement _ _ => true
  | .hbmRegionRetirement _ _ => true
  | .evacuatorSegmentMove _ => true
  | .evacuatorLineReadReturn _ => true
  | .evacuatorSegmentDone _ => true
  | .overCapacityFault _ => true
  | .manifestReference _ => true
  | .manifestRefusal _ => true
  | .dieFence _ => true
  | .segmentPlacement _ => true
  | .placementGraceExpiry _ => true
  | .ptpSourceEnable _ => true
  | .ptpSourceDisable => true
  | .ptpSync _ _ => true
  | .ptpFollowUp _ => true
  | .ptpDelayResp _ => true
  | .syncTimeout => true
  | .timedAccessArrival _ => true
  | .timedAccessDue _ => true
  | .timedAccessAccept _ => true
  | .missedDeadlineReport _ => true
  | .noticeTaken _ => true
  | .resumableTrap _ => true
  | .hostWrite _ _ _ => true
  | .hostRead _ _ => true
  | .hostCompletion _ => true
  | .peerInboundAccess _ _ _ _ => true
  | .peerAck _ => true
  | .gbarOpeningTime _ => true
  | .opaStep _ => true
  | .opaComplete _ _ => true
  | .longOperationComplete _ => true
  | .arrivalGroupLanded _ => true
  | .vldcDecodeEnd _ => true
  | .blockEnd _ => true
  | .blockSwitchOut _ => true
  | .blockedCauseClear _ _ => true
  | .placement _ _ => true
  | .gangPlacement _ _ => true
  | .switchOut _ => true
  | .switchIn _ => true
  | .saveDrain _ => true
  | .absentBundleResolved _ => true
  | .shareWindowStart _ => true
  | .shareTurn _ => true
  | .shareTurnEnd _ => true
  | .sliceDeadlinePassed _ _ => true
  | .budgetExhausted _ => true
  | .sheepdogSample => true
  | .heartbeat => true
  | .heartbeatTimeout _ => true
  | .eviction _ => true
  | .relaunch _ _ => true
  | .endInstance _ _ => true
  | .saveRestart _ _ => true
  | .copyStart _ => true
  | .copyEnd _ _ => true
  | .cpyxAck _ => true
  | .streamPrefetch _ _ => true
  | .streamEntryArrival _ _ => true
  | .streamEntryWrite _ _ => true
  | .waitaReport _ => true
  | .twaitExpiry _ => true
  | .wfiWake _ => true
  | .fundamentalReset => true
  | .functionLevelReset => true
  | .powerExcess _ => true
  | .thermalThrottle _ => true
  | .overpowerAtFloorTimeout _ => true
  | .moduleTrip _ => true
  | .hostWindowWrite _ _ _ => true
  | .circuitRequest _ _ => true
  | .circuitTeardown _ => true
  | .meshResize _ _ => true
  | .circuitActivation _ => true
  | .circuitDrainComplete _ => true
  | .routeChangeAck _ _ => true
  | .attestationRequest _ => true
  | .spdmRequest _ => true
  | .ownerKeyInstall _ _ => true
  | .ownerKeyRelease _ => true
  | .registerWrite _ _ _ => true
  | .contextStaged _ => true
  | .deputyTakeoverComplete => true
  | .clearMoveTransposeComplete _ => true
  | .throttleRelease _ => true

end Sys2Proof
end

