-- ==== Sys2Proof/Decode.lean ====
section
/-! DEFINITION. The decoder, total on any words and rejecting by name, and after it the encoder, both written
from the encoding tables of spec/08 (R197 to R211). -/

namespace Sys2Proof

/-- Why a slot, a header or a bundle is an illegal encoding (R198, R199, R202): the trap is 0x01 in each case. -/
inductive BadEncoding where
  /-- An opcode unassigned in the tables (R202). -/
  | opcode
  /-- A field the format marks zero is not zero (R202). -/
  | zeroField
  /-- View code 3, or a view a form forbids (R209). -/
  | view
  /-- A space not allowed for the operation (R205). -/
  | space
  /-- Scope code 6 or 7 (R104). -/
  | scope
  /-- AMO sub-operation 11 to 15 (R205). -/
  | subOperation
  /-- A width the sub-operation forbids: FADD with width 1 (R205). -/
  | width
  /-- A nonzero extension byte for a slot without an extensible immediate (R199). -/
  | extension
  /-- Bit 24 of a header (R199). -/
  | headerBit
  /-- A header word in slots 1 to 3 (R198). -/
  | headerSlot
  deriving DecidableEq, Repr

/-- What a bundle's header gives one slot: HMASK and the slot's extension byte; none in a bundle without a
header (R199). -/
abbrev Ext := Option (MReg × Nat)

/-- The field of `len` bits of `w` whose lowest bit is `lo` (R5). -/
def bits (w lo len : Nat) : Nat := w / 2 ^ lo % 2 ^ len

/-- A signed extensible immediate (R200). -/
def immS (x : Ext) (n f : Nat) : BitVec (n + 8) :=
  match x with
  | none => (BitVec.ofNat n f).signExtend (n + 8)
  | some (_, e) => BitVec.ofNat (n + 8) (e * 2 ^ n + f)

/-- An unsigned extensible immediate (R200). -/
def immU (x : Ext) (n f : Nat) : BitVec (n + 8) :=
  match x with
  | none => BitVec.ofNat (n + 8) f
  | some (_, e) => BitVec.ofNat (n + 8) (e * 2 ^ n + f)

/-- The mask operand that the mask-enable bit stands for (R139, R199). -/
def maskOf (x : Ext) (m : Nat) : MaskUse :=
  if m = 0 then .off else match x with
    | none => .msel
    | some (k, _) => .hdr k

/-- The view a code names (R209). -/
def viewOf : Nat → Except BadEncoding View
  | 0 => .ok .row
  | 1 => .ok .col
  | 2 => .ok .diag
  | _ => .error .view

/-- The space a code names, for operations that reach all three (R205). -/
def spaceOf : Nat → Except BadEncoding Space
  | 0 => .ok .dv
  | 1 => .ok .ls
  | 2 => .ok .cs
  | _ => .error .space

/-- The AMO sub-operation a code names (R205). -/
def amoOf : Nat → Except BadEncoding AmoOp
  | 0 => .ok .add
  | 1 => .ok .swap
  | 2 => .ok .cas
  | 3 => .ok .and
  | 4 => .ok .or
  | 5 => .ok .xor
  | 6 => .ok .min
  | 7 => .ok .max
  | 8 => .ok .minu
  | 9 => .ok .maxu
  | 10 => .ok .fadd
  | _ => .error .subOperation

/-- The ordering a code names (R205). -/
def ordOf : Nat → Except BadEncoding AmoOrd
  | 0 => .ok .relaxed
  | 1 => .ok .acquire
  | 2 => .ok .release
  | _ => .ok .acqRel

/-- The scope a code names (R104). -/
def scopeOf : Nat → Except BadEncoding Scope
  | 0 => .ok .hart
  | 1 => .ok .core
  | 2 => .ok .cluster
  | 3 => .ok .die
  | 4 => .ok .package
  | 5 => .ok .system
  | _ => .error .scope

/-- An operation that reaches one space only (R205). -/
def spaceIs (code want : Nat) (r : Except BadEncoding Instr) : Except BadEncoding Instr :=
  if code = want then r else .error .space

/-- A form whose VIEW must be 0 (R209). -/
def viewRow (code : Nat) (r : Except BadEncoding Instr) : Except BadEncoding Instr :=
  if code = 0 then r else .error .view

/-- FADD with width 1 is an illegal encoding (R205). -/
def amoWidth (w : Nat) (op : AmoOp) (r : Except BadEncoding Instr) : Except BadEncoding Instr :=
  if op = .fadd ∧ w = 1 then .error .width else r

/-- The instruction, if every listed field is zero (R202). -/
def zeros (zs : List Nat) (i : Instr) : Except BadEncoding Instr :=
  if zs.all (· == 0) then .ok i else .error .zeroField
/-- SA slots (R203): OP in bits [28:22]. -/
def decodeSA (x : Ext) (wd : Nat) : Except BadEncoding Instr :=
  match bits wd 22 7 with
  | 0x01 => zeros [bits wd 0 7] (.add (.ofNat 5 (bits wd 17 5)) (.ofNat 5 (bits wd 12 5)) (.ofNat 5 (bits wd 7 5)))
  | 0x02 => zeros [bits wd 0 7] (.sub (.ofNat 5 (bits wd 17 5)) (.ofNat 5 (bits wd 12 5)) (.ofNat 5 (bits wd 7 5)))
  | 0x03 => zeros [bits wd 0 7] (.and (.ofNat 5 (bits wd 17 5)) (.ofNat 5 (bits wd 12 5)) (.ofNat 5 (bits wd 7 5)))
  | 0x04 => zeros [bits wd 0 7] (.or (.ofNat 5 (bits wd 17 5)) (.ofNat 5 (bits wd 12 5)) (.ofNat 5 (bits wd 7 5)))
  | 0x05 => zeros [bits wd 0 7] (.xor (.ofNat 5 (bits wd 17 5)) (.ofNat 5 (bits wd 12 5)) (.ofNat 5 (bits wd 7 5)))
  | 0x06 => zeros [bits wd 0 7] (.sll (.ofNat 5 (bits wd 17 5)) (.ofNat 5 (bits wd 12 5)) (.ofNat 5 (bits wd 7 5)))
  | 0x07 => zeros [bits wd 0 7] (.srl (.ofNat 5 (bits wd 17 5)) (.ofNat 5 (bits wd 12 5)) (.ofNat 5 (bits wd 7 5)))
  | 0x08 => zeros [bits wd 0 7] (.sra (.ofNat 5 (bits wd 17 5)) (.ofNat 5 (bits wd 12 5)) (.ofNat 5 (bits wd 7 5)))
  | 0x09 => zeros [bits wd 0 7] (.slt (.ofNat 5 (bits wd 17 5)) (.ofNat 5 (bits wd 12 5)) (.ofNat 5 (bits wd 7 5)))
  | 0x0A => zeros [bits wd 0 7] (.sltu (.ofNat 5 (bits wd 17 5)) (.ofNat 5 (bits wd 12 5)) (.ofNat 5 (bits wd 7 5)))
  | 0x0B => zeros [bits wd 0 7] (.min (.ofNat 5 (bits wd 17 5)) (.ofNat 5 (bits wd 12 5)) (.ofNat 5 (bits wd 7 5)))
  | 0x0C => zeros [bits wd 0 7] (.max (.ofNat 5 (bits wd 17 5)) (.ofNat 5 (bits wd 12 5)) (.ofNat 5 (bits wd 7 5)))
  | 0x0D => zeros [bits wd 0 7] (.minu (.ofNat 5 (bits wd 17 5)) (.ofNat 5 (bits wd 12 5)) (.ofNat 5 (bits wd 7 5)))
  | 0x0E => zeros [bits wd 0 7] (.maxu (.ofNat 5 (bits wd 17 5)) (.ofNat 5 (bits wd 12 5)) (.ofNat 5 (bits wd 7 5)))
  | 0x0F => zeros [bits wd 0 2] (.csel (.ofNat 5 (bits wd 17 5)) (.ofNat 5 (bits wd 12 5)) (.ofNat 5 (bits wd 7 5)) (.ofNat 5 (bits wd 2 5)))
  | 0x10 => zeros [bits wd 0 7] (.mul (.ofNat 5 (bits wd 17 5)) (.ofNat 5 (bits wd 12 5)) (.ofNat 5 (bits wd 7 5)))
  | 0x11 => zeros [bits wd 0 7] (.mulh (.ofNat 5 (bits wd 17 5)) (.ofNat 5 (bits wd 12 5)) (.ofNat 5 (bits wd 7 5)))
  | 0x12 => zeros [bits wd 0 7] (.mulhu (.ofNat 5 (bits wd 17 5)) (.ofNat 5 (bits wd 12 5)) (.ofNat 5 (bits wd 7 5)))
  | 0x13 => zeros [bits wd 0 7] (.div (.ofNat 5 (bits wd 17 5)) (.ofNat 5 (bits wd 12 5)) (.ofNat 5 (bits wd 7 5)))
  | 0x14 => zeros [bits wd 0 7] (.divu (.ofNat 5 (bits wd 17 5)) (.ofNat 5 (bits wd 12 5)) (.ofNat 5 (bits wd 7 5)))
  | 0x15 => zeros [bits wd 0 7] (.rem (.ofNat 5 (bits wd 17 5)) (.ofNat 5 (bits wd 12 5)) (.ofNat 5 (bits wd 7 5)))
  | 0x16 => zeros [bits wd 0 7] (.remu (.ofNat 5 (bits wd 17 5)) (.ofNat 5 (bits wd 12 5)) (.ofNat 5 (bits wd 7 5)))
  | 0x17 => zeros [bits wd 0 7] (.add32 (.ofNat 5 (bits wd 17 5)) (.ofNat 5 (bits wd 12 5)) (.ofNat 5 (bits wd 7 5)))
  | 0x18 => zeros [bits wd 0 12] (.clz (.ofNat 5 (bits wd 17 5)) (.ofNat 5 (bits wd 12 5)))
  | 0x19 => zeros [bits wd 0 12] (.ctz (.ofNat 5 (bits wd 17 5)) (.ofNat 5 (bits wd 12 5)))
  | 0x1A => zeros [bits wd 0 12] (.popc (.ofNat 5 (bits wd 17 5)) (.ofNat 5 (bits wd 12 5)))
  | 0x1B => zeros [bits wd 6 1] (.fshl (.ofNat 5 (bits wd 17 5)) (.ofNat 5 (bits wd 12 5)) (.ofNat 5 (bits wd 7 5)) (.ofNat 6 (bits wd 0 6)))
  | 0x1C => zeros [bits wd 6 1] (.fshr (.ofNat 5 (bits wd 17 5)) (.ofNat 5 (bits wd 12 5)) (.ofNat 5 (bits wd 7 5)) (.ofNat 6 (bits wd 0 6)))
  | 0x1D => zeros [bits wd 0 7] (.bext (.ofNat 5 (bits wd 17 5)) (.ofNat 5 (bits wd 12 5)) (.ofNat 5 (bits wd 7 5)))
  | 0x1E => zeros [bits wd 0 7] (.bins (.ofNat 5 (bits wd 17 5)) (.ofNat 5 (bits wd 12 5)) (.ofNat 5 (bits wd 7 5)))
  | 0x1F => zeros [bits wd 6 6] (.sext (.ofNat 5 (bits wd 17 5)) (.ofNat 5 (bits wd 12 5)) (.ofNat 6 (bits wd 0 6)))
  | 0x20 => zeros [] (.addi (.ofNat 5 (bits wd 17 5)) (.ofNat 5 (bits wd 12 5)) (immS x 12 (bits wd 0 12)))
  | 0x21 => zeros [] (.andi (.ofNat 5 (bits wd 17 5)) (.ofNat 5 (bits wd 12 5)) (immS x 12 (bits wd 0 12)))
  | 0x22 => zeros [] (.ori (.ofNat 5 (bits wd 17 5)) (.ofNat 5 (bits wd 12 5)) (immS x 12 (bits wd 0 12)))
  | 0x23 => zeros [] (.xori (.ofNat 5 (bits wd 17 5)) (.ofNat 5 (bits wd 12 5)) (immS x 12 (bits wd 0 12)))
  | 0x24 => zeros [bits wd 6 6] (.slli (.ofNat 5 (bits wd 17 5)) (.ofNat 5 (bits wd 12 5)) (.ofNat 6 (bits wd 0 6)))
  | 0x25 => zeros [bits wd 6 6] (.srli (.ofNat 5 (bits wd 17 5)) (.ofNat 5 (bits wd 12 5)) (.ofNat 6 (bits wd 0 6)))
  | 0x26 => zeros [bits wd 6 6] (.srai (.ofNat 5 (bits wd 17 5)) (.ofNat 5 (bits wd 12 5)) (.ofNat 6 (bits wd 0 6)))
  | 0x27 => zeros [] (.slti (.ofNat 5 (bits wd 17 5)) (.ofNat 5 (bits wd 12 5)) (immS x 12 (bits wd 0 12)))
  | 0x28 => zeros [] (.sltiu (.ofNat 5 (bits wd 17 5)) (.ofNat 5 (bits wd 12 5)) (immS x 12 (bits wd 0 12)))
  | 0x29 => zeros [bits wd 12 5] (.lui (.ofNat 5 (bits wd 17 5)) (immS x 12 (bits wd 0 12)))
  | 0x2A => zeros [bits wd 12 5] (.addpc (.ofNat 5 (bits wd 17 5)) (immS x 12 (bits wd 0 12)))
  | 0x40 => zeros [bits wd 3 4] (.fadd (.ofNat 5 (bits wd 17 5)) (.ofNat 5 (bits wd 12 5)) (.ofNat 5 (bits wd 7 5)) (.ofNat 3 (bits wd 0 3)))
  | 0x41 => zeros [bits wd 3 4] (.fsub (.ofNat 5 (bits wd 17 5)) (.ofNat 5 (bits wd 12 5)) (.ofNat 5 (bits wd 7 5)) (.ofNat 3 (bits wd 0 3)))
  | 0x42 => zeros [bits wd 3 4] (.fmul (.ofNat 5 (bits wd 17 5)) (.ofNat 5 (bits wd 12 5)) (.ofNat 5 (bits wd 7 5)) (.ofNat 3 (bits wd 0 3)))
  | 0x43 => zeros [bits wd 3 4] (.fdiv (.ofNat 5 (bits wd 17 5)) (.ofNat 5 (bits wd 12 5)) (.ofNat 5 (bits wd 7 5)) (.ofNat 3 (bits wd 0 3)))
  | 0x44 => zeros [bits wd 3 9] (.fsqrt (.ofNat 5 (bits wd 17 5)) (.ofNat 5 (bits wd 12 5)) (.ofNat 3 (bits wd 0 3)))
  | 0x45 => zeros [bits wd 0 7] (.fmin (.ofNat 5 (bits wd 17 5)) (.ofNat 5 (bits wd 12 5)) (.ofNat 5 (bits wd 7 5)))
  | 0x46 => zeros [bits wd 0 7] (.fmax (.ofNat 5 (bits wd 17 5)) (.ofNat 5 (bits wd 12 5)) (.ofNat 5 (bits wd 7 5)))
  | 0x47 => zeros [bits wd 3 4] (.fma (.ofNat 5 (bits wd 17 5)) (.ofNat 5 (bits wd 12 5)) (.ofNat 5 (bits wd 7 5)) (.ofNat 3 (bits wd 0 3)))
  | 0x48 => zeros [bits wd 3 9] (.fcvtif (.ofNat 5 (bits wd 17 5)) (.ofNat 5 (bits wd 12 5)) (.ofNat 3 (bits wd 0 3)))
  | 0x49 => zeros [bits wd 3 9] (.fcvtfi (.ofNat 5 (bits wd 17 5)) (.ofNat 5 (bits wd 12 5)) (.ofNat 3 (bits wd 0 3)))
  | 0x4A => zeros [bits wd 0 7] (.feq (.ofNat 5 (bits wd 17 5)) (.ofNat 5 (bits wd 12 5)) (.ofNat 5 (bits wd 7 5)))
  | 0x4B => zeros [bits wd 0 7] (.flt (.ofNat 5 (bits wd 17 5)) (.ofNat 5 (bits wd 12 5)) (.ofNat 5 (bits wd 7 5)))
  | 0x4C => zeros [bits wd 0 7] (.fle (.ofNat 5 (bits wd 17 5)) (.ofNat 5 (bits wd 12 5)) (.ofNat 5 (bits wd 7 5)))
  | 0x4D => zeros [bits wd 0 12] (.fclass (.ofNat 5 (bits wd 17 5)) (.ofNat 5 (bits wd 12 5)))
  | 0x4E => zeros [bits wd 3 9] (.fcvtbf (.ofNat 5 (bits wd 17 5)) (.ofNat 5 (bits wd 12 5)) (.ofNat 3 (bits wd 0 3)))
  | 0x4F => zeros [bits wd 0 12] (.fcvtfb (.ofNat 5 (bits wd 17 5)) (.ofNat 5 (bits wd 12 5)))
  | _ => .error .opcode

/-- SC slots (R204): OP in bits [28:25]. -/
def decodeSC (x : Ext) (wd : Nat) : Except BadEncoding Instr :=
  match bits wd 25 4 with
  | 0x00 => zeros [] (.beq (.ofNat 5 (bits wd 20 5)) (.ofNat 5 (bits wd 15 5)) (immS x 15 (bits wd 0 15)))
  | 0x01 => zeros [] (.bne (.ofNat 5 (bits wd 20 5)) (.ofNat 5 (bits wd 15 5)) (immS x 15 (bits wd 0 15)))
  | 0x02 => zeros [] (.blt (.ofNat 5 (bits wd 20 5)) (.ofNat 5 (bits wd 15 5)) (immS x 15 (bits wd 0 15)))
  | 0x03 => zeros [] (.bge (.ofNat 5 (bits wd 20 5)) (.ofNat 5 (bits wd 15 5)) (immS x 15 (bits wd 0 15)))
  | 0x04 => zeros [] (.bltu (.ofNat 5 (bits wd 20 5)) (.ofNat 5 (bits wd 15 5)) (immS x 15 (bits wd 0 15)))
  | 0x05 => zeros [] (.bgeu (.ofNat 5 (bits wd 20 5)) (.ofNat 5 (bits wd 15 5)) (immS x 15 (bits wd 0 15)))
  | 0x06 => zeros [] (.jal (.ofNat 5 (bits wd 20 5)) (immS x 20 (bits wd 0 20)))
  | 0x07 => zeros [] (.jalr (.ofNat 5 (bits wd 20 5)) (.ofNat 5 (bits wd 15 5)) (immS x 15 (bits wd 0 15)))
  | 0x08 => zeros [bits wd 15 5] (.loop (.ofNat 5 (bits wd 20 5)) (immU x 15 (bits wd 0 15)))
  | 0x09 => zeros [bits wd 15 5] (.vloop (.ofNat 5 (bits wd 20 5)) (immU x 15 (bits wd 0 15)))
  | 0x0A => zeros [bits wd 0 10] (.setvl (.ofNat 5 (bits wd 20 5)) (.ofNat 5 (bits wd 15 5)) (.ofNat 3 (bits wd 12 3)) (.ofNat 2 (bits wd 10 2)))
  | 0x0B => zeros [bits wd 12 8] (.getc (.ofNat 5 (bits wd 20 5)) (.ofNat 12 (bits wd 0 12)))
  | 0x0C => zeros [bits wd 12 3, bits wd 20 5] (.setc (.ofNat 5 (bits wd 15 5)) (.ofNat 12 (bits wd 0 12)))
  | 0x0D => zeros [] (.setci (immU x 13 (bits wd 12 13)) (.ofNat 12 (bits wd 0 12)))
  | _ => .error .opcode

/-- M slots (R205, R206): OP in bits [28:24]. -/
def decodeM (x : Ext) (wd : Nat) : Except BadEncoding Instr :=
  match bits wd 24 5 with
  | 0x00 => (spaceOf (bits wd 22 2)).bind fun p => zeros [] (.ldb p (.ofNat 5 (bits wd 17 5)) (.ofNat 5 (bits wd 12 5)) (immS x 12 (bits wd 0 12)))
  | 0x01 => (spaceOf (bits wd 22 2)).bind fun p => zeros [] (.ldbu p (.ofNat 5 (bits wd 17 5)) (.ofNat 5 (bits wd 12 5)) (immS x 12 (bits wd 0 12)))
  | 0x02 => (spaceOf (bits wd 22 2)).bind fun p => zeros [] (.ldh p (.ofNat 5 (bits wd 17 5)) (.ofNat 5 (bits wd 12 5)) (immS x 12 (bits wd 0 12)))
  | 0x03 => (spaceOf (bits wd 22 2)).bind fun p => zeros [] (.ldhu p (.ofNat 5 (bits wd 17 5)) (.ofNat 5 (bits wd 12 5)) (immS x 12 (bits wd 0 12)))
  | 0x04 => (spaceOf (bits wd 22 2)).bind fun p => zeros [] (.ldw p (.ofNat 5 (bits wd 17 5)) (.ofNat 5 (bits wd 12 5)) (immS x 12 (bits wd 0 12)))
  | 0x05 => (spaceOf (bits wd 22 2)).bind fun p => zeros [] (.ldwu p (.ofNat 5 (bits wd 17 5)) (.ofNat 5 (bits wd 12 5)) (immS x 12 (bits wd 0 12)))
  | 0x06 => (spaceOf (bits wd 22 2)).bind fun p => zeros [] (.ldd p (.ofNat 5 (bits wd 17 5)) (.ofNat 5 (bits wd 12 5)) (immS x 12 (bits wd 0 12)))
  | 0x07 => (spaceOf (bits wd 22 2)).bind fun p => zeros [] (.stb p (.ofNat 5 (bits wd 17 5)) (.ofNat 5 (bits wd 12 5)) (immS x 12 (bits wd 0 12)))
  | 0x08 => (spaceOf (bits wd 22 2)).bind fun p => zeros [] (.sth p (.ofNat 5 (bits wd 17 5)) (.ofNat 5 (bits wd 12 5)) (immS x 12 (bits wd 0 12)))
  | 0x09 => (spaceOf (bits wd 22 2)).bind fun p => zeros [] (.stw p (.ofNat 5 (bits wd 17 5)) (.ofNat 5 (bits wd 12 5)) (immS x 12 (bits wd 0 12)))
  | 0x0A => (spaceOf (bits wd 22 2)).bind fun p => zeros [] (.std p (.ofNat 5 (bits wd 17 5)) (.ofNat 5 (bits wd 12 5)) (immS x 12 (bits wd 0 12)))
  | 0x0B => spaceIs (bits wd 22 2) 0 <| zeros [bits wd 0 5] (.ldnb (.ofNat 5 (bits wd 17 5)) (.ofNat 5 (bits wd 12 5)) (.ofNat 5 (bits wd 7 5)) (.ofNat 2 (bits wd 5 2)))
  | 0x0C => spaceIs (bits wd 22 2) 0 <| zeros [bits wd 0 5] (.stva (.ofNat 5 (bits wd 17 5)) (.ofNat 5 (bits wd 12 5)) (.ofNat 5 (bits wd 7 5)) (.ofNat 2 (bits wd 5 2)))
  | 0x0D => spaceIs (bits wd 22 2) 0 <| (amoOf (bits wd 5 4)).bind fun op => (ordOf (bits wd 3 2)).bind fun ord => (scopeOf (bits wd 0 3)).bind fun sc => amoWidth (bits wd 9 1) op <| zeros [bits wd 10 2] (.amo (.ofNat 5 (bits wd 17 5)) (.ofNat 5 (bits wd 12 5)) (.ofNat 1 (bits wd 9 1)) op ord sc)
  | 0x0E => spaceIs (bits wd 22 2) 2 <| (amoOf (bits wd 5 4)).bind fun op => (ordOf (bits wd 3 2)).bind fun ord => (scopeOf (bits wd 0 3)).bind fun sc => amoWidth (bits wd 9 1) op <| zeros [bits wd 10 2] (.amos (.ofNat 5 (bits wd 17 5)) (.ofNat 5 (bits wd 12 5)) (.ofNat 1 (bits wd 9 1)) op ord sc)
  | 0x0F => (scopeOf (bits wd 5 3)).bind fun sc => zeros [bits wd 0 5] (.fence (.ofNat 8 (bits wd 16 8)) (.ofNat 8 (bits wd 8 8)) sc)
  | 0x10 => (spaceOf (bits wd 22 2)).bind fun p => zeros [] (.vld p (.ofNat 7 (bits wd 15 7)) (.ofNat 5 (bits wd 10 5)) (immS x 9 (bits wd 1 9)) (maskOf x (bits wd 0 1)))
  | 0x11 => (spaceOf (bits wd 22 2)).bind fun p => zeros [bits wd 1 4] (.vlds p (.ofNat 7 (bits wd 15 7)) (.ofNat 5 (bits wd 10 5)) (.ofNat 5 (bits wd 5 5)) (maskOf x (bits wd 0 1)))
  | 0x12 => (spaceOf (bits wd 22 2)).bind fun p => zeros [bits wd 8 2] (.vldx p (.ofNat 7 (bits wd 15 7)) (.ofNat 5 (bits wd 10 5)) (.ofNat 7 (bits wd 1 7)) (maskOf x (bits wd 0 1)))
  | 0x13 => (spaceOf (bits wd 22 2)).bind fun p => zeros [] (.vst p (.ofNat 7 (bits wd 15 7)) (.ofNat 5 (bits wd 10 5)) (immS x 9 (bits wd 1 9)) (maskOf x (bits wd 0 1)))
  | 0x14 => (spaceOf (bits wd 22 2)).bind fun p => zeros [bits wd 1 4] (.vsts p (.ofNat 7 (bits wd 15 7)) (.ofNat 5 (bits wd 10 5)) (.ofNat 5 (bits wd 5 5)) (maskOf x (bits wd 0 1)))
  | 0x15 => (spaceOf (bits wd 22 2)).bind fun p => zeros [bits wd 8 2] (.vstx p (.ofNat 7 (bits wd 15 7)) (.ofNat 5 (bits wd 10 5)) (.ofNat 7 (bits wd 1 7)) (maskOf x (bits wd 0 1)))
  | 0x16 => (spaceOf (bits wd 22 2)).bind fun p => zeros [bits wd 0 7] (.vstb p (.ofNat 7 (bits wd 15 7)) (.ofNat 5 (bits wd 10 5)) (.ofNat 3 (bits wd 7 3)))
  | 0x17 => (spaceOf (bits wd 22 2)).bind fun p => zeros [bits wd 0 5] (.vldc p (.ofNat 7 (bits wd 15 7)) (.ofNat 5 (bits wd 10 5)) (.ofNat 5 (bits wd 5 5)))
  | 0x18 => (spaceOf (bits wd 22 2)).bind fun p => zeros [bits wd 0 8] (.vspill p (.ofNat 7 (bits wd 15 7)) (.ofNat 5 (bits wd 10 5)) (.ofNat 2 (bits wd 8 2)))
  | 0x19 => (spaceOf (bits wd 22 2)).bind fun p => zeros [bits wd 0 8] (.vfill p (.ofNat 7 (bits wd 15 7)) (.ofNat 5 (bits wd 10 5)) (.ofNat 2 (bits wd 8 2)))
  | 0x1A => spaceIs (bits wd 22 2) 0 <| zeros [bits wd 1 4] (.vstva (.ofNat 7 (bits wd 15 7)) (.ofNat 5 (bits wd 10 5)) (.ofNat 5 (bits wd 5 5)) (maskOf x (bits wd 0 1)))
  | _ => .error .opcode

/-- E slots (R207): OP in bits [28:23]. -/
def decodeE (_x : Ext) (wd : Nat) : Except BadEncoding Instr :=
  match bits wd 23 6 with
  | 0x00 => zeros [bits wd 3 10, bits wd 18 5] (.sbind (.ofNat 5 (bits wd 13 5)) (.ofNat 1 (bits wd 2 1)) (.ofNat 2 (bits wd 0 2)))
  | 0x01 => zeros [bits wd 2 21] (.sunbind (.ofNat 2 (bits wd 0 2)))
  | 0x02 => zeros [bits wd 2 16] (.sstat (.ofNat 5 (bits wd 18 5)) (.ofNat 2 (bits wd 0 2)))
  | 0x03 => zeros [bits wd 2 11, bits wd 18 5] (.sskip (.ofNat 5 (bits wd 13 5)) (.ofNat 2 (bits wd 0 2)))
  | 0x04 => zeros [bits wd 2 21] (.sflush (.ofNat 2 (bits wd 0 2)))
  | 0x08 => zeros [bits wd 0 13] (.cpy (.ofNat 5 (bits wd 18 5)) (.ofNat 5 (bits wd 13 5)))
  | 0x09 => zeros [bits wd 0 13, bits wd 18 5] (.cpyw (.ofNat 5 (bits wd 13 5)))
  | 0x0A => zeros [bits wd 0 13] (.cpyq (.ofNat 5 (bits wd 18 5)) (.ofNat 5 (bits wd 13 5)))
  | 0x0B => zeros [bits wd 0 13] (.cpyx (.ofNat 5 (bits wd 18 5)) (.ofNat 5 (bits wd 13 5)))
  | 0x10 => zeros [bits wd 0 13] (.rgprobe (.ofNat 5 (bits wd 18 5)) (.ofNat 5 (bits wd 13 5)))
  | 0x11 => zeros [bits wd 0 13] (.rgsplit (.ofNat 5 (bits wd 18 5)) (.ofNat 5 (bits wd 13 5)))
  | 0x12 => zeros [bits wd 0 13] (.rgmerge (.ofNat 5 (bits wd 18 5)) (.ofNat 5 (bits wd 13 5)))
  | 0x13 => zeros [bits wd 0 8, bits wd 18 5] (.rginv (.ofNat 5 (bits wd 13 5)) (.ofNat 5 (bits wd 8 5)))
  | 0x14 => zeros [bits wd 0 13, bits wd 18 5] (.rgtouch (.ofNat 5 (bits wd 13 5)))
  | 0x15 => zeros [bits wd 4 4] (.rgmove (.ofNat 5 (bits wd 18 5)) (.ofNat 5 (bits wd 13 5)) (.ofNat 5 (bits wd 8 5)) (.ofNat 4 (bits wd 0 4)))
  | 0x18 => zeros [bits wd 0 18] (.time (.ofNat 5 (bits wd 18 5)))
  | 0x19 => zeros [bits wd 0 13, bits wd 18 5] (.twait (.ofNat 5 (bits wd 13 5)))
  | 0x1A => zeros [bits wd 0 18] (.tstat (.ofNat 5 (bits wd 18 5)))
  | 0x20 => zeros [bits wd 0 13] (.gbar (.ofNat 5 (bits wd 18 5)) (.ofNat 5 (bits wd 13 5)))
  | 0x21 => zeros [bits wd 0 13] (.jpost (.ofNat 5 (bits wd 18 5)) (.ofNat 5 (bits wd 13 5)))
  | 0x22 => zeros [bits wd 0 23] (.jyield)
  | 0x23 => zeros [bits wd 0 23] (.jdone)
  | 0x24 => zeros [bits wd 0 13, bits wd 18 5] (.jwait (.ofNat 5 (bits wd 13 5)))
  | 0x25 => zeros [bits wd 0 13, bits wd 18 5] (.jdec (.ofNat 5 (bits wd 13 5)))
  | 0x26 => zeros [bits wd 0 8, bits wd 18 5] (.waita (.ofNat 5 (bits wd 13 5)) (.ofNat 5 (bits wd 8 5)))
  | 0x2C => zeros [bits wd 8 5] (.capq (.ofNat 5 (bits wd 18 5)) (.ofNat 5 (bits wd 13 5)) (.ofNat 8 (bits wd 0 8)))
  | 0x2D => zeros [bits wd 8 5] (.capr (.ofNat 5 (bits wd 18 5)) (.ofNat 5 (bits wd 13 5)) (.ofNat 8 (bits wd 0 8)))
  | _ => .error .opcode

/-- V slots (R209, R210): OP in bits [29:24]. -/
def decodeV (x : Ext) (wd : Nat) : Except BadEncoding Instr :=
  match bits wd 24 6 with
  | 0x00 => (viewOf (bits wd 22 2)).bind fun w => zeros [] (.vadd w (.ofNat 7 (bits wd 15 7)) (.ofNat 7 (bits wd 8 7)) (.ofNat 7 (bits wd 1 7)) (maskOf x (bits wd 0 1)))
  | 0x01 => (viewOf (bits wd 22 2)).bind fun w => zeros [] (.vsub w (.ofNat 7 (bits wd 15 7)) (.ofNat 7 (bits wd 8 7)) (.ofNat 7 (bits wd 1 7)) (maskOf x (bits wd 0 1)))
  | 0x02 => (viewOf (bits wd 22 2)).bind fun w => zeros [] (.vmul w (.ofNat 7 (bits wd 15 7)) (.ofNat 7 (bits wd 8 7)) (.ofNat 7 (bits wd 1 7)) (maskOf x (bits wd 0 1)))
  | 0x03 => (viewOf (bits wd 22 2)).bind fun w => zeros [] (.vfma w (.ofNat 7 (bits wd 15 7)) (.ofNat 7 (bits wd 8 7)) (.ofNat 7 (bits wd 1 7)) (maskOf x (bits wd 0 1)))
  | 0x04 => (viewOf (bits wd 22 2)).bind fun w => zeros [] (.vfms w (.ofNat 7 (bits wd 15 7)) (.ofNat 7 (bits wd 8 7)) (.ofNat 7 (bits wd 1 7)) (maskOf x (bits wd 0 1)))
  | 0x05 => (viewOf (bits wd 22 2)).bind fun w => zeros [] (.vmin w (.ofNat 7 (bits wd 15 7)) (.ofNat 7 (bits wd 8 7)) (.ofNat 7 (bits wd 1 7)) (maskOf x (bits wd 0 1)))
  | 0x06 => (viewOf (bits wd 22 2)).bind fun w => zeros [] (.vmax w (.ofNat 7 (bits wd 15 7)) (.ofNat 7 (bits wd 8 7)) (.ofNat 7 (bits wd 1 7)) (maskOf x (bits wd 0 1)))
  | 0x07 => (viewOf (bits wd 22 2)).bind fun w => zeros [bits wd 1 7] (.vabs w (.ofNat 7 (bits wd 15 7)) (.ofNat 7 (bits wd 8 7)) (maskOf x (bits wd 0 1)))
  | 0x08 => (viewOf (bits wd 22 2)).bind fun w => zeros [bits wd 1 7] (.vneg w (.ofNat 7 (bits wd 15 7)) (.ofNat 7 (bits wd 8 7)) (maskOf x (bits wd 0 1)))
  | 0x09 => (viewOf (bits wd 22 2)).bind fun w => zeros [] (.vdiv w (.ofNat 7 (bits wd 15 7)) (.ofNat 7 (bits wd 8 7)) (.ofNat 7 (bits wd 1 7)) (maskOf x (bits wd 0 1)))
  | 0x0A => (viewOf (bits wd 22 2)).bind fun w => zeros [] (.vand w (.ofNat 7 (bits wd 15 7)) (.ofNat 7 (bits wd 8 7)) (.ofNat 7 (bits wd 1 7)) (maskOf x (bits wd 0 1)))
  | 0x0B => (viewOf (bits wd 22 2)).bind fun w => zeros [] (.vor w (.ofNat 7 (bits wd 15 7)) (.ofNat 7 (bits wd 8 7)) (.ofNat 7 (bits wd 1 7)) (maskOf x (bits wd 0 1)))
  | 0x0C => (viewOf (bits wd 22 2)).bind fun w => zeros [] (.vxor w (.ofNat 7 (bits wd 15 7)) (.ofNat 7 (bits wd 8 7)) (.ofNat 7 (bits wd 1 7)) (maskOf x (bits wd 0 1)))
  | 0x0D => (viewOf (bits wd 22 2)).bind fun w => zeros [bits wd 1 7] (.vnot w (.ofNat 7 (bits wd 15 7)) (.ofNat 7 (bits wd 8 7)) (maskOf x (bits wd 0 1)))
  | 0x0E => (viewOf (bits wd 22 2)).bind fun w => zeros [] (.vsll w (.ofNat 7 (bits wd 15 7)) (.ofNat 7 (bits wd 8 7)) (.ofNat 7 (bits wd 1 7)) (maskOf x (bits wd 0 1)))
  | 0x0F => (viewOf (bits wd 22 2)).bind fun w => zeros [] (.vsrl w (.ofNat 7 (bits wd 15 7)) (.ofNat 7 (bits wd 8 7)) (.ofNat 7 (bits wd 1 7)) (maskOf x (bits wd 0 1)))
  | 0x10 => (viewOf (bits wd 22 2)).bind fun w => zeros [] (.vsra w (.ofNat 7 (bits wd 15 7)) (.ofNat 7 (bits wd 8 7)) (.ofNat 7 (bits wd 1 7)) (maskOf x (bits wd 0 1)))
  | 0x11 => (viewOf (bits wd 22 2)).bind fun w => zeros [] (.vfshl w (.ofNat 7 (bits wd 15 7)) (.ofNat 7 (bits wd 8 7)) (.ofNat 7 (bits wd 1 7)) (maskOf x (bits wd 0 1)))
  | 0x12 => (viewOf (bits wd 22 2)).bind fun w => zeros [] (.vfshr w (.ofNat 7 (bits wd 15 7)) (.ofNat 7 (bits wd 8 7)) (.ofNat 7 (bits wd 1 7)) (maskOf x (bits wd 0 1)))
  | 0x13 => (viewOf (bits wd 22 2)).bind fun w => zeros [] (.vcmp w (.ofNat 4 (bits wd 18 4)) (.ofNat 3 (bits wd 15 3)) (.ofNat 7 (bits wd 8 7)) (.ofNat 7 (bits wd 1 7)) (maskOf x (bits wd 0 1)))
  | 0x14 => (viewOf (bits wd 22 2)).bind fun w => zeros [] (.vsel w (.ofNat 7 (bits wd 15 7)) (.ofNat 7 (bits wd 8 7)) (.ofNat 7 (bits wd 1 7)) (maskOf x (bits wd 0 1)))
  | 0x15 => (viewOf (bits wd 22 2)).bind fun w => zeros [bits wd 1 7] (.vmv w (.ofNat 7 (bits wd 15 7)) (.ofNat 7 (bits wd 8 7)) (maskOf x (bits wd 0 1)))
  | 0x16 => (viewOf (bits wd 22 2)).bind fun w => zeros [bits wd 1 2, bits wd 8 7] (.vbcast w (.ofNat 7 (bits wd 15 7)) (.ofNat 5 (bits wd 3 5)) (maskOf x (bits wd 0 1)))
  | 0x17 => (viewOf (bits wd 22 2)).bind fun w => zeros [bits wd 1 2] (.vadds w (.ofNat 7 (bits wd 15 7)) (.ofNat 7 (bits wd 8 7)) (.ofNat 5 (bits wd 3 5)) (maskOf x (bits wd 0 1)))
  | 0x18 => (viewOf (bits wd 22 2)).bind fun w => zeros [bits wd 1 2] (.vmuls w (.ofNat 7 (bits wd 15 7)) (.ofNat 7 (bits wd 8 7)) (.ofNat 5 (bits wd 3 5)) (maskOf x (bits wd 0 1)))
  | 0x19 => (viewOf (bits wd 22 2)).bind fun w => zeros [bits wd 1 2] (.vfmas w (.ofNat 7 (bits wd 15 7)) (.ofNat 7 (bits wd 8 7)) (.ofNat 5 (bits wd 3 5)) (maskOf x (bits wd 0 1)))
  | 0x1A => (viewOf (bits wd 22 2)).bind fun w => zeros [bits wd 1 14] (.vid w (.ofNat 7 (bits wd 15 7)) (maskOf x (bits wd 0 1)))
  | 0x1B => (viewOf (bits wd 22 2)).bind fun w => zeros [] (.vcvt w (.ofNat 7 (bits wd 15 7)) (.ofNat 7 (bits wd 8 7)) (.ofNat 7 (bits wd 1 7)) (maskOf x (bits wd 0 1)))
  | 0x1C => (viewOf (bits wd 22 2)).bind fun w => zeros [bits wd 1 2] (.vqnt w (.ofNat 7 (bits wd 15 7)) (.ofNat 7 (bits wd 8 7)) (.ofNat 5 (bits wd 3 5)) (maskOf x (bits wd 0 1)))
  | 0x1D => (viewOf (bits wd 22 2)).bind fun w => zeros [] (.vhad w (.ofNat 7 (bits wd 15 7)) (.ofNat 7 (bits wd 8 7)) (.ofNat 7 (bits wd 1 7)) (maskOf x (bits wd 0 1)))
  | 0x1E => (viewOf (bits wd 22 2)).bind fun w => zeros [] (.vsfu w (.ofNat 7 (bits wd 15 7)) (.ofNat 7 (bits wd 8 7)) (.ofNat 7 (bits wd 1 7)) (maskOf x (bits wd 0 1)))
  | 0x1F => (viewOf (bits wd 22 2)).bind fun w => zeros [bits wd 1 7, bits wd 20 2] (.vredsum w (.ofNat 5 (bits wd 15 5)) (.ofNat 7 (bits wd 8 7)) (maskOf x (bits wd 0 1)))
  | 0x20 => (viewOf (bits wd 22 2)).bind fun w => zeros [bits wd 1 7, bits wd 20 2] (.vredmax w (.ofNat 5 (bits wd 15 5)) (.ofNat 7 (bits wd 8 7)) (maskOf x (bits wd 0 1)))
  | 0x21 => (viewOf (bits wd 22 2)).bind fun w => zeros [bits wd 1 7, bits wd 20 2] (.vredmin w (.ofNat 5 (bits wd 15 5)) (.ofNat 7 (bits wd 8 7)) (maskOf x (bits wd 0 1)))
  | 0x22 => (viewOf (bits wd 22 2)).bind fun w => zeros [bits wd 1 7, bits wd 20 2] (.vredamax w (.ofNat 5 (bits wd 15 5)) (.ofNat 7 (bits wd 8 7)) (maskOf x (bits wd 0 1)))
  | 0x23 => (viewOf (bits wd 22 2)).bind fun w => zeros [bits wd 4 4] (.vsegsum w (.ofNat 7 (bits wd 15 7)) (.ofNat 7 (bits wd 8 7)) (.ofNat 3 (bits wd 1 3)) (maskOf x (bits wd 0 1)))
  | 0x24 => (viewOf (bits wd 22 2)).bind fun w => zeros [bits wd 4 4] (.vsegscan w (.ofNat 7 (bits wd 15 7)) (.ofNat 7 (bits wd 8 7)) (.ofNat 3 (bits wd 1 3)) (maskOf x (bits wd 0 1)))
  | 0x25 => (viewOf (bits wd 22 2)).bind fun w => zeros [bits wd 1 7] (.vscan w (.ofNat 7 (bits wd 15 7)) (.ofNat 7 (bits wd 8 7)) (maskOf x (bits wd 0 1)))
  | 0x26 => (viewOf (bits wd 22 2)).bind fun w => zeros [bits wd 1 2] (.vslideup w (.ofNat 7 (bits wd 15 7)) (.ofNat 7 (bits wd 8 7)) (.ofNat 5 (bits wd 3 5)) (maskOf x (bits wd 0 1)))
  | 0x27 => (viewOf (bits wd 22 2)).bind fun w => zeros [bits wd 1 2] (.vslidedn w (.ofNat 7 (bits wd 15 7)) (.ofNat 7 (bits wd 8 7)) (.ofNat 5 (bits wd 3 5)) (maskOf x (bits wd 0 1)))
  | 0x28 => (viewOf (bits wd 22 2)).bind fun w => zeros [] (.vperm w (.ofNat 7 (bits wd 15 7)) (.ofNat 7 (bits wd 8 7)) (.ofNat 7 (bits wd 1 7)) (maskOf x (bits wd 0 1)))
  | 0x29 => (viewOf (bits wd 22 2)).bind fun w => zeros [] (.vunpk w (.ofNat 7 (bits wd 15 7)) (.ofNat 7 (bits wd 8 7)) (.ofNat 7 (bits wd 1 7)) (maskOf x (bits wd 0 1)))
  | 0x2A => (viewOf (bits wd 22 2)).bind fun w => zeros [] (.vpack w (.ofNat 7 (bits wd 15 7)) (.ofNat 7 (bits wd 8 7)) (.ofNat 7 (bits wd 1 7)) (maskOf x (bits wd 0 1)))
  | 0x2B => (viewOf (bits wd 22 2)).bind fun w => zeros [] (.vlut w (.ofNat 7 (bits wd 15 7)) (.ofNat 7 (bits wd 8 7)) (.ofNat 7 (bits wd 1 7)) (maskOf x (bits wd 0 1)))
  | 0x2C => (viewOf (bits wd 22 2)).bind fun w => zeros [bits wd 1 7] (.vexpand w (.ofNat 7 (bits wd 15 7)) (.ofNat 7 (bits wd 8 7)) (maskOf x (bits wd 0 1)))
  | 0x2D => (viewOf (bits wd 22 2)).bind fun w => zeros [bits wd 1 7] (.vcompress w (.ofNat 7 (bits wd 15 7)) (.ofNat 7 (bits wd 8 7)) (maskOf x (bits wd 0 1)))
  | 0x2E => (viewOf (bits wd 22 2)).bind fun w => zeros [] (.vsparse w (.ofNat 7 (bits wd 15 7)) (.ofNat 7 (bits wd 8 7)) (.ofNat 7 (bits wd 1 7)) (maskOf x (bits wd 0 1)))
  | 0x2F => (viewOf (bits wd 22 2)).bind fun w => zeros [bits wd 1 7, bits wd 10 5] (.vpop w (.ofNat 7 (bits wd 15 7)) (.ofNat 2 (bits wd 8 2)) (maskOf x (bits wd 0 1)))
  | 0x30 => viewRow (bits wd 22 2) <| zeros [bits wd 1 7, bits wd 17 5] (.vpush (.ofNat 2 (bits wd 15 2)) (.ofNat 7 (bits wd 8 7)) (maskOf x (bits wd 0 1)))
  | 0x31 => viewRow (bits wd 22 2) <| zeros [bits wd 0 1, bits wd 4 4, bits wd 11 4, bits wd 18 4] (.vmand (.ofNat 3 (bits wd 15 3)) (.ofNat 3 (bits wd 8 3)) (.ofNat 3 (bits wd 1 3)))
  | 0x32 => viewRow (bits wd 22 2) <| zeros [bits wd 0 1, bits wd 4 4, bits wd 11 4, bits wd 18 4] (.vmor (.ofNat 3 (bits wd 15 3)) (.ofNat 3 (bits wd 8 3)) (.ofNat 3 (bits wd 1 3)))
  | 0x33 => viewRow (bits wd 22 2) <| zeros [bits wd 0 1, bits wd 4 4, bits wd 11 4, bits wd 18 4] (.vmxor (.ofNat 3 (bits wd 15 3)) (.ofNat 3 (bits wd 8 3)) (.ofNat 3 (bits wd 1 3)))
  | 0x34 => viewRow (bits wd 22 2) <| zeros [bits wd 0 8, bits wd 11 4, bits wd 18 4] (.vmnot (.ofNat 3 (bits wd 15 3)) (.ofNat 3 (bits wd 8 3)))
  | 0x35 => viewRow (bits wd 22 2) <| zeros [bits wd 0 8, bits wd 11 4, bits wd 20 2] (.vmpopc (.ofNat 5 (bits wd 15 5)) (.ofNat 3 (bits wd 8 3)))
  | 0x36 => viewRow (bits wd 22 2) <| zeros [bits wd 0 8, bits wd 11 4, bits wd 20 2] (.vmfirst (.ofNat 5 (bits wd 15 5)) (.ofNat 3 (bits wd 8 3)))
  | 0x37 => (viewOf (bits wd 22 2)).bind fun w => zeros [bits wd 1 7, bits wd 18 4] (.vmfrom w (.ofNat 3 (bits wd 15 3)) (.ofNat 7 (bits wd 8 7)) (maskOf x (bits wd 0 1)))
  | 0x38 => (viewOf (bits wd 22 2)).bind fun w => zeros [bits wd 1 7, bits wd 11 4] (.vmto w (.ofNat 7 (bits wd 15 7)) (.ofNat 3 (bits wd 8 3)) (maskOf x (bits wd 0 1)))
  | 0x39 => (viewOf (bits wd 22 2)).bind fun w => zeros [bits wd 1 2, bits wd 20 2] (.vext w (.ofNat 5 (bits wd 15 5)) (.ofNat 7 (bits wd 8 7)) (.ofNat 5 (bits wd 3 5)) (maskOf x (bits wd 0 1)))
  | 0x3A => (viewOf (bits wd 22 2)).bind fun w => zeros [] (.vnrw w (.ofNat 7 (bits wd 15 7)) (.ofNat 7 (bits wd 8 7)) (.ofNat 7 (bits wd 1 7)) (maskOf x (bits wd 0 1)))
  | 0x3B => (viewOf (bits wd 22 2)).bind fun w => zeros [bits wd 1 7] (.vpopc w (.ofNat 7 (bits wd 15 7)) (.ofNat 7 (bits wd 8 7)) (maskOf x (bits wd 0 1)))
  | 0x3C => (viewOf (bits wd 22 2)).bind fun w => zeros [] (.vshrr w (.ofNat 7 (bits wd 15 7)) (.ofNat 7 (bits wd 8 7)) (.ofNat 7 (bits wd 1 7)) (maskOf x (bits wd 0 1)))
  | 0x3D => (viewOf (bits wd 22 2)).bind fun w => zeros [] (.vmulh w (.ofNat 7 (bits wd 15 7)) (.ofNat 7 (bits wd 8 7)) (.ofNat 7 (bits wd 1 7)) (maskOf x (bits wd 0 1)))
  | 0x3E => (viewOf (bits wd 22 2)).bind fun w => zeros [bits wd 1 7] (.vclz w (.ofNat 7 (bits wd 15 7)) (.ofNat 7 (bits wd 8 7)) (maskOf x (bits wd 0 1)))
  | _ => .error .opcode

/-- G slots (R208): OP in bits [28:24]. -/
def decodeG (_x : Ext) (wd : Nat) : Except BadEncoding Instr :=
  match bits wd 24 5 with
  | 0x00 => zeros [bits wd 0 14] (.tshape (.ofNat 5 (bits wd 19 5)) (.ofNat 5 (bits wd 14 5)))
  | 0x01 => zeros [bits wd 0 17] (.opa (.ofNat 1 (bits wd 23 1)) (.ofNat 2 (bits wd 21 2)) (.ofNat 2 (bits wd 19 2)) (.ofNat 1 (bits wd 18 1)) (.ofNat 1 (bits wd 17 1)))
  | 0x02 => zeros [bits wd 0 23] (.opz (.ofNat 1 (bits wd 23 1)))
  | 0x03 => zeros [bits wd 0 10] (.gmov (.ofNat 7 (bits wd 17 7)) (.ofNat 7 (bits wd 10 7)))
  | 0x04 => zeros [bits wd 0 23] (.gtrn (.ofNat 1 (bits wd 23 1)))
  | 0x05 => zeros [bits wd 0 19] (.gstat (.ofNat 5 (bits wd 19 5)))
  | 0x06 => zeros [bits wd 0 10] (.gsave (.ofNat 7 (bits wd 17 7)) (.ofNat 7 (bits wd 10 7)))
  | 0x07 => zeros [bits wd 0 10] (.gload (.ofNat 7 (bits wd 17 7)) (.ofNat 7 (bits wd 10 7)))
  | 0x08 => zeros [bits wd 0 18] (.gdirty (.ofNat 5 (bits wd 19 5)) (.ofNat 1 (bits wd 18 1)))
  | 0x09 => zeros [bits wd 0 23] (.gclr (.ofNat 1 (bits wd 23 1)))
  | _ => .error .opcode

/-- Y slots (R211): OP in bits [27:22]. -/
def decodeY (_x : Ext) (wd : Nat) : Except BadEncoding Instr :=
  match bits wd 22 6 with
  | 0x00 => zeros [bits wd 16 6] (.svc (.ofNat 16 (bits wd 0 16)))
  | 0x01 => zeros [bits wd 16 6] (.brk (.ofNat 16 (bits wd 0 16)))
  | 0x02 => zeros [bits wd 0 22] (.eret)
  | 0x03 => zeros [bits wd 0 22] (.wfi)
  | 0x04 => zeros [bits wd 0 22] (.rcflush)
  | 0x05 => zeros [bits wd 0 7, bits wd 17 5] (.keysel (.ofNat 5 (bits wd 12 5)) (.ofNat 5 (bits wd 7 5)))
  | 0x06 => zeros [bits wd 0 22] (.halt)
  | 0x07 => zeros [bits wd 0 12] (.errlog (.ofNat 5 (bits wd 17 5)) (.ofNat 5 (bits wd 12 5)))
  | _ => .error .opcode

/-- One slot's word, apart from the rule on extension bytes (R198). -/
def decodeWord (x : Ext) (w : Nat) : Except BadEncoding Instr :=
  if w = 0 then .ok .nop else
  match bits w 29 3 with
  | 0 => if bits w 22 7 = 0 then .error .opcode else decodeSA x w
  | 1 => decodeSC x w
  | 2 => decodeM x w
  | 3 => decodeE x w
  | 4 => decodeV x w
  | 5 => decodeV x w
  | 6 => decodeG x w
  | _ => if bits w 28 1 = 0 then decodeY x w else .error .headerSlot

/-- The view's code (R209). -/
def viewCode : View → Nat
  | .row => 0
  | .col => 1
  | .diag => 2

/-- The space's code (R10). -/
def spaceCode : Space → Nat
  | .dv => 0
  | .ls => 1
  | .cs => 2

/-- The sub-operation's code (R205). -/
def amoCode : AmoOp → Nat
  | .add => 0
  | .swap => 1
  | .cas => 2
  | .and => 3
  | .or => 4
  | .xor => 5
  | .min => 6
  | .max => 7
  | .minu => 8
  | .maxu => 9
  | .fadd => 10

/-- The ordering's code (R205). -/
def ordCode : AmoOrd → Nat
  | .relaxed => 0
  | .acquire => 1
  | .release => 2
  | .acqRel => 3

/-- The scope's code (R104). -/
def scopeCode : Scope → Nat
  | .hart => 0
  | .core => 1
  | .cluster => 2
  | .die => 3
  | .package => 4
  | .system => 5

/-- The mask-enable bit (R209). -/
def maskBit : MaskUse → Nat
  | .off => 0
  | .msel => 1
  | .hdr _ => 1

/-- A signed immediate of n + 8 bits is the sign extension of its low n bits (R200). -/
def fitsS (n : Nat) (v : BitVec (n + 8)) : Bool :=
  (v.setWidth n).signExtend (n + 8) == v

/-- An unsigned immediate of n + 8 bits has its high byte zero (R200). -/
def fitsU (n : Nat) (v : BitVec (n + 8)) : Bool :=
  v.toNat / 2 ^ n == 0

/-- A word from its opcode and its fields, each with its lowest bit (R203 to R211). -/
def word (base : Nat) : List (Nat × Nat) → Nat
  | [] => base
  | (lo, v) :: fs => word base fs + v * 2 ^ lo

/-- The 32-bit word of an operation (R203 to R211): its opcode and its fields at their places, zero where
the format says zero; 0 for a step of another agent, which has no word. -/
def encodeWord : Instr → Nat
  | .nop => word 0x00000000 []
  | .add d a b => word 0x00400000 [(17, d.toNat), (12, a.toNat), (7, b.toNat)]
  | .sub d a b => word 0x00800000 [(17, d.toNat), (12, a.toNat), (7, b.toNat)]
  | .and d a b => word 0x00C00000 [(17, d.toNat), (12, a.toNat), (7, b.toNat)]
  | .or d a b => word 0x01000000 [(17, d.toNat), (12, a.toNat), (7, b.toNat)]
  | .xor d a b => word 0x01400000 [(17, d.toNat), (12, a.toNat), (7, b.toNat)]
  | .sll d a b => word 0x01800000 [(17, d.toNat), (12, a.toNat), (7, b.toNat)]
  | .srl d a b => word 0x01C00000 [(17, d.toNat), (12, a.toNat), (7, b.toNat)]
  | .sra d a b => word 0x02000000 [(17, d.toNat), (12, a.toNat), (7, b.toNat)]
  | .slt d a b => word 0x02400000 [(17, d.toNat), (12, a.toNat), (7, b.toNat)]
  | .sltu d a b => word 0x02800000 [(17, d.toNat), (12, a.toNat), (7, b.toNat)]
  | .min d a b => word 0x02C00000 [(17, d.toNat), (12, a.toNat), (7, b.toNat)]
  | .max d a b => word 0x03000000 [(17, d.toNat), (12, a.toNat), (7, b.toNat)]
  | .minu d a b => word 0x03400000 [(17, d.toNat), (12, a.toNat), (7, b.toNat)]
  | .maxu d a b => word 0x03800000 [(17, d.toNat), (12, a.toNat), (7, b.toNat)]
  | .csel d a b c => word 0x03C00000 [(17, d.toNat), (12, a.toNat), (7, b.toNat), (2, c.toNat)]
  | .mul d a b => word 0x04000000 [(17, d.toNat), (12, a.toNat), (7, b.toNat)]
  | .mulh d a b => word 0x04400000 [(17, d.toNat), (12, a.toNat), (7, b.toNat)]
  | .mulhu d a b => word 0x04800000 [(17, d.toNat), (12, a.toNat), (7, b.toNat)]
  | .div d a b => word 0x04C00000 [(17, d.toNat), (12, a.toNat), (7, b.toNat)]
  | .divu d a b => word 0x05000000 [(17, d.toNat), (12, a.toNat), (7, b.toNat)]
  | .rem d a b => word 0x05400000 [(17, d.toNat), (12, a.toNat), (7, b.toNat)]
  | .remu d a b => word 0x05800000 [(17, d.toNat), (12, a.toNat), (7, b.toNat)]
  | .add32 d a b => word 0x05C00000 [(17, d.toNat), (12, a.toNat), (7, b.toNat)]
  | .clz d a => word 0x06000000 [(17, d.toNat), (12, a.toNat)]
  | .ctz d a => word 0x06400000 [(17, d.toNat), (12, a.toNat)]
  | .popc d a => word 0x06800000 [(17, d.toNat), (12, a.toNat)]
  | .fshl d a b n => word 0x06C00000 [(17, d.toNat), (12, a.toNat), (7, b.toNat), (0, n.toNat)]
  | .fshr d a b n => word 0x07000000 [(17, d.toNat), (12, a.toNat), (7, b.toNat), (0, n.toNat)]
  | .bext d a b => word 0x07400000 [(17, d.toNat), (12, a.toNat), (7, b.toNat)]
  | .bins d a b => word 0x07800000 [(17, d.toNat), (12, a.toNat), (7, b.toNat)]
  | .sext d a n => word 0x07C00000 [(17, d.toNat), (12, a.toNat), (0, n.toNat)]
  | .addi d a imm => word 0x08000000 [(17, d.toNat), (12, a.toNat), (0, imm.toNat % 2^12)]
  | .andi d a imm => word 0x08400000 [(17, d.toNat), (12, a.toNat), (0, imm.toNat % 2^12)]
  | .ori d a imm => word 0x08800000 [(17, d.toNat), (12, a.toNat), (0, imm.toNat % 2^12)]
  | .xori d a imm => word 0x08C00000 [(17, d.toNat), (12, a.toNat), (0, imm.toNat % 2^12)]
  | .slli d a n => word 0x09000000 [(17, d.toNat), (12, a.toNat), (0, n.toNat)]
  | .srli d a n => word 0x09400000 [(17, d.toNat), (12, a.toNat), (0, n.toNat)]
  | .srai d a n => word 0x09800000 [(17, d.toNat), (12, a.toNat), (0, n.toNat)]
  | .slti d a imm => word 0x09C00000 [(17, d.toNat), (12, a.toNat), (0, imm.toNat % 2^12)]
  | .sltiu d a imm => word 0x0A000000 [(17, d.toNat), (12, a.toNat), (0, imm.toNat % 2^12)]
  | .lui d imm => word 0x0A400000 [(17, d.toNat), (0, imm.toNat % 2^12)]
  | .addpc d imm => word 0x0A800000 [(17, d.toNat), (0, imm.toNat % 2^12)]
  | .fadd d a b rm => word 0x10000000 [(17, d.toNat), (12, a.toNat), (7, b.toNat), (0, rm.toNat)]
  | .fsub d a b rm => word 0x10400000 [(17, d.toNat), (12, a.toNat), (7, b.toNat), (0, rm.toNat)]
  | .fmul d a b rm => word 0x10800000 [(17, d.toNat), (12, a.toNat), (7, b.toNat), (0, rm.toNat)]
  | .fdiv d a b rm => word 0x10C00000 [(17, d.toNat), (12, a.toNat), (7, b.toNat), (0, rm.toNat)]
  | .fsqrt d a rm => word 0x11000000 [(17, d.toNat), (12, a.toNat), (0, rm.toNat)]
  | .fmin d a b => word 0x11400000 [(17, d.toNat), (12, a.toNat), (7, b.toNat)]
  | .fmax d a b => word 0x11800000 [(17, d.toNat), (12, a.toNat), (7, b.toNat)]
  | .fma d a b rm => word 0x11C00000 [(17, d.toNat), (12, a.toNat), (7, b.toNat), (0, rm.toNat)]
  | .fcvtif d a rm => word 0x12000000 [(17, d.toNat), (12, a.toNat), (0, rm.toNat)]
  | .fcvtfi d a rm => word 0x12400000 [(17, d.toNat), (12, a.toNat), (0, rm.toNat)]
  | .feq d a b => word 0x12800000 [(17, d.toNat), (12, a.toNat), (7, b.toNat)]
  | .flt d a b => word 0x12C00000 [(17, d.toNat), (12, a.toNat), (7, b.toNat)]
  | .fle d a b => word 0x13000000 [(17, d.toNat), (12, a.toNat), (7, b.toNat)]
  | .fclass d a => word 0x13400000 [(17, d.toNat), (12, a.toNat)]
  | .fcvtbf d a rm => word 0x13800000 [(17, d.toNat), (12, a.toNat), (0, rm.toNat)]
  | .fcvtfb d a => word 0x13C00000 [(17, d.toNat), (12, a.toNat)]
  | .beq a b o => word 0x20000000 [(20, a.toNat), (15, b.toNat), (0, o.toNat % 2^15)]
  | .bne a b o => word 0x22000000 [(20, a.toNat), (15, b.toNat), (0, o.toNat % 2^15)]
  | .blt a b o => word 0x24000000 [(20, a.toNat), (15, b.toNat), (0, o.toNat % 2^15)]
  | .bge a b o => word 0x26000000 [(20, a.toNat), (15, b.toNat), (0, o.toNat % 2^15)]
  | .bltu a b o => word 0x28000000 [(20, a.toNat), (15, b.toNat), (0, o.toNat % 2^15)]
  | .bgeu a b o => word 0x2A000000 [(20, a.toNat), (15, b.toNat), (0, o.toNat % 2^15)]
  | .jal d o => word 0x2C000000 [(20, d.toNat), (0, o.toNat % 2^20)]
  | .jalr d a imm => word 0x2E000000 [(20, d.toNat), (15, a.toNat), (0, imm.toNat % 2^15)]
  | .loop a o => word 0x30000000 [(20, a.toNat), (0, o.toNat % 2^15)]
  | .vloop a o => word 0x32000000 [(20, a.toNat), (0, o.toNat % 2^15)]
  | .setvl d a e g => word 0x34000000 [(20, d.toNat), (15, a.toNat), (12, e.toNat), (10, g.toNat)]
  | .getc d c => word 0x36000000 [(20, d.toNat), (0, c.toNat)]
  | .setc a c => word 0x38000000 [(15, a.toNat), (0, c.toNat)]
  | .setci imm c => word 0x3A000000 [(12, imm.toNat % 2^13), (0, c.toNat)]
  | .ldb p d a imm => word 0x40000000 [(22, spaceCode p), (17, d.toNat), (12, a.toNat), (0, imm.toNat % 2^12)]
  | .ldbu p d a imm => word 0x41000000 [(22, spaceCode p), (17, d.toNat), (12, a.toNat), (0, imm.toNat % 2^12)]
  | .ldh p d a imm => word 0x42000000 [(22, spaceCode p), (17, d.toNat), (12, a.toNat), (0, imm.toNat % 2^12)]
  | .ldhu p d a imm => word 0x43000000 [(22, spaceCode p), (17, d.toNat), (12, a.toNat), (0, imm.toNat % 2^12)]
  | .ldw p d a imm => word 0x44000000 [(22, spaceCode p), (17, d.toNat), (12, a.toNat), (0, imm.toNat % 2^12)]
  | .ldwu p d a imm => word 0x45000000 [(22, spaceCode p), (17, d.toNat), (12, a.toNat), (0, imm.toNat % 2^12)]
  | .ldd p d a imm => word 0x46000000 [(22, spaceCode p), (17, d.toNat), (12, a.toNat), (0, imm.toNat % 2^12)]
  | .stb p b a imm => word 0x47000000 [(22, spaceCode p), (17, b.toNat), (12, a.toNat), (0, imm.toNat % 2^12)]
  | .sth p b a imm => word 0x48000000 [(22, spaceCode p), (17, b.toNat), (12, a.toNat), (0, imm.toNat % 2^12)]
  | .stw p b a imm => word 0x49000000 [(22, spaceCode p), (17, b.toNat), (12, a.toNat), (0, imm.toNat % 2^12)]
  | .std p b a imm => word 0x4A000000 [(22, spaceCode p), (17, b.toNat), (12, a.toNat), (0, imm.toNat % 2^12)]
  | .ldnb d a t z => word 0x4B000000 [(17, d.toNat), (12, a.toNat), (7, t.toNat), (5, z.toNat)]
  | .stva b a t z => word 0x4C000000 [(17, b.toNat), (12, a.toNat), (7, t.toNat), (5, z.toNat)]
  | .amo d a w op ord sc => word 0x4D000000 [(17, d.toNat), (12, a.toNat), (9, w.toNat), (5, amoCode op), (3, ordCode ord), (0, scopeCode sc)]
  | .amos d a w op ord sc => word 0x4E800000 [(17, d.toNat), (12, a.toNat), (9, w.toNat), (5, amoCode op), (3, ordCode ord), (0, scopeCode sc)]
  | .fence p q sc => word 0x4F000000 [(16, p.toNat), (8, q.toNat), (5, scopeCode sc)]
  | .vld p v a imm m => word 0x50000000 [(22, spaceCode p), (15, v.toNat), (10, a.toNat), (1, imm.toNat % 2^9), (0, maskBit m)]
  | .vlds p v a b m => word 0x51000000 [(22, spaceCode p), (15, v.toNat), (10, a.toNat), (5, b.toNat), (0, maskBit m)]
  | .vldx p v a x m => word 0x52000000 [(22, spaceCode p), (15, v.toNat), (10, a.toNat), (1, x.toNat), (0, maskBit m)]
  | .vst p v a imm m => word 0x53000000 [(22, spaceCode p), (15, v.toNat), (10, a.toNat), (1, imm.toNat % 2^9), (0, maskBit m)]
  | .vsts p v a b m => word 0x54000000 [(22, spaceCode p), (15, v.toNat), (10, a.toNat), (5, b.toNat), (0, maskBit m)]
  | .vstx p v a x m => word 0x55000000 [(22, spaceCode p), (15, v.toNat), (10, a.toNat), (1, x.toNat), (0, maskBit m)]
  | .vstb p v a k => word 0x56000000 [(22, spaceCode p), (15, v.toNat), (10, a.toNat), (7, k.toNat)]
  | .vldc p v a b => word 0x57000000 [(22, spaceCode p), (15, v.toNat), (10, a.toNat), (5, b.toNat)]
  | .vspill p v a g => word 0x58000000 [(22, spaceCode p), (15, v.toNat), (10, a.toNat), (8, g.toNat)]
  | .vfill p v a g => word 0x59000000 [(22, spaceCode p), (15, v.toNat), (10, a.toNat), (8, g.toNat)]
  | .vstva v a t m => word 0x5A000000 [(15, v.toNat), (10, a.toNat), (5, t.toNat), (0, maskBit m)]
  | .sbind a r q => word 0x60000000 [(13, a.toNat), (2, r.toNat), (0, q.toNat)]
  | .sunbind q => word 0x60800000 [(0, q.toNat)]
  | .sstat d q => word 0x61000000 [(18, d.toNat), (0, q.toNat)]
  | .sskip a q => word 0x61800000 [(13, a.toNat), (0, q.toNat)]
  | .sflush q => word 0x62000000 [(0, q.toNat)]
  | .cpy d a => word 0x64000000 [(18, d.toNat), (13, a.toNat)]
  | .cpyw a => word 0x64800000 [(13, a.toNat)]
  | .cpyq d a => word 0x65000000 [(18, d.toNat), (13, a.toNat)]
  | .cpyx d a => word 0x65800000 [(18, d.toNat), (13, a.toNat)]
  | .rgprobe d a => word 0x68000000 [(18, d.toNat), (13, a.toNat)]
  | .rgsplit d a => word 0x68800000 [(18, d.toNat), (13, a.toNat)]
  | .rgmerge d a => word 0x69000000 [(18, d.toNat), (13, a.toNat)]
  | .rginv a b => word 0x69800000 [(13, a.toNat), (8, b.toNat)]
  | .rgtouch a => word 0x6A000000 [(13, a.toNat)]
  | .rgmove d a b h => word 0x6A800000 [(18, d.toNat), (13, a.toNat), (8, b.toNat), (0, h.toNat)]
  | .time d => word 0x6C000000 [(18, d.toNat)]
  | .twait a => word 0x6C800000 [(13, a.toNat)]
  | .tstat d => word 0x6D000000 [(18, d.toNat)]
  | .gbar d a => word 0x70000000 [(18, d.toNat), (13, a.toNat)]
  | .jpost d a => word 0x70800000 [(18, d.toNat), (13, a.toNat)]
  | .jyield => word 0x71000000 []
  | .jdone => word 0x71800000 []
  | .jwait a => word 0x72000000 [(13, a.toNat)]
  | .jdec a => word 0x72800000 [(13, a.toNat)]
  | .waita a b => word 0x73000000 [(13, a.toNat), (8, b.toNat)]
  | .capq d a x => word 0x76000000 [(18, d.toNat), (13, a.toNat), (0, x.toNat)]
  | .capr d a x => word 0x76800000 [(18, d.toNat), (13, a.toNat), (0, x.toNat)]
  | .tshape d a => word 0xC0000000 [(19, d.toNat), (14, a.toNat)]
  | .opa h qa qb n o => word 0xC1000000 [(23, h.toNat), (21, qa.toNat), (19, qb.toNat), (18, n.toNat), (17, o.toNat)]
  | .opz h => word 0xC2000000 [(23, h.toNat)]
  | .gmov d r => word 0xC3000000 [(17, d.toNat), (10, r.toNat)]
  | .gtrn h => word 0xC4000000 [(23, h.toNat)]
  | .gstat d => word 0xC5000000 [(19, d.toNat)]
  | .gsave f c => word 0xC6000000 [(17, f.toNat), (10, c.toNat)]
  | .gload f c => word 0xC7000000 [(17, f.toNat), (10, c.toNat)]
  | .gdirty d h => word 0xC8000000 [(19, d.toNat), (18, h.toNat)]
  | .gclr h => word 0xC9000000 [(23, h.toNat)]
  | .vadd w d a b m => word 0x80000000 [(22, viewCode w), (15, d.toNat), (8, a.toNat), (1, b.toNat), (0, maskBit m)]
  | .vsub w d a b m => word 0x81000000 [(22, viewCode w), (15, d.toNat), (8, a.toNat), (1, b.toNat), (0, maskBit m)]
  | .vmul w d a b m => word 0x82000000 [(22, viewCode w), (15, d.toNat), (8, a.toNat), (1, b.toNat), (0, maskBit m)]
  | .vfma w d a b m => word 0x83000000 [(22, viewCode w), (15, d.toNat), (8, a.toNat), (1, b.toNat), (0, maskBit m)]
  | .vfms w d a b m => word 0x84000000 [(22, viewCode w), (15, d.toNat), (8, a.toNat), (1, b.toNat), (0, maskBit m)]
  | .vmin w d a b m => word 0x85000000 [(22, viewCode w), (15, d.toNat), (8, a.toNat), (1, b.toNat), (0, maskBit m)]
  | .vmax w d a b m => word 0x86000000 [(22, viewCode w), (15, d.toNat), (8, a.toNat), (1, b.toNat), (0, maskBit m)]
  | .vabs w d a m => word 0x87000000 [(22, viewCode w), (15, d.toNat), (8, a.toNat), (0, maskBit m)]
  | .vneg w d a m => word 0x88000000 [(22, viewCode w), (15, d.toNat), (8, a.toNat), (0, maskBit m)]
  | .vdiv w d a b m => word 0x89000000 [(22, viewCode w), (15, d.toNat), (8, a.toNat), (1, b.toNat), (0, maskBit m)]
  | .vand w d a b m => word 0x8A000000 [(22, viewCode w), (15, d.toNat), (8, a.toNat), (1, b.toNat), (0, maskBit m)]
  | .vor w d a b m => word 0x8B000000 [(22, viewCode w), (15, d.toNat), (8, a.toNat), (1, b.toNat), (0, maskBit m)]
  | .vxor w d a b m => word 0x8C000000 [(22, viewCode w), (15, d.toNat), (8, a.toNat), (1, b.toNat), (0, maskBit m)]
  | .vnot w d a m => word 0x8D000000 [(22, viewCode w), (15, d.toNat), (8, a.toNat), (0, maskBit m)]
  | .vsll w d a b m => word 0x8E000000 [(22, viewCode w), (15, d.toNat), (8, a.toNat), (1, b.toNat), (0, maskBit m)]
  | .vsrl w d a b m => word 0x8F000000 [(22, viewCode w), (15, d.toNat), (8, a.toNat), (1, b.toNat), (0, maskBit m)]
  | .vsra w d a b m => word 0x90000000 [(22, viewCode w), (15, d.toNat), (8, a.toNat), (1, b.toNat), (0, maskBit m)]
  | .vfshl w d a b m => word 0x91000000 [(22, viewCode w), (15, d.toNat), (8, a.toNat), (1, b.toNat), (0, maskBit m)]
  | .vfshr w d a b m => word 0x92000000 [(22, viewCode w), (15, d.toNat), (8, a.toNat), (1, b.toNat), (0, maskBit m)]
  | .vcmp w c k a b m => word 0x93000000 [(22, viewCode w), (18, c.toNat), (15, k.toNat), (8, a.toNat), (1, b.toNat), (0, maskBit m)]
  | .vsel w d a b m => word 0x94000000 [(22, viewCode w), (15, d.toNat), (8, a.toNat), (1, b.toNat), (0, maskBit m)]
  | .vmv w d a m => word 0x95000000 [(22, viewCode w), (15, d.toNat), (8, a.toNat), (0, maskBit m)]
  | .vbcast w d x m => word 0x96000000 [(22, viewCode w), (15, d.toNat), (3, x.toNat), (0, maskBit m)]
  | .vadds w d a x m => word 0x97000000 [(22, viewCode w), (15, d.toNat), (8, a.toNat), (3, x.toNat), (0, maskBit m)]
  | .vmuls w d a x m => word 0x98000000 [(22, viewCode w), (15, d.toNat), (8, a.toNat), (3, x.toNat), (0, maskBit m)]
  | .vfmas w d a x m => word 0x99000000 [(22, viewCode w), (15, d.toNat), (8, a.toNat), (3, x.toNat), (0, maskBit m)]
  | .vid w d m => word 0x9A000000 [(22, viewCode w), (15, d.toNat), (0, maskBit m)]
  | .vcvt w d a k m => word 0x9B000000 [(22, viewCode w), (15, d.toNat), (8, a.toNat), (1, k.toNat), (0, maskBit m)]
  | .vqnt w d a x m => word 0x9C000000 [(22, viewCode w), (15, d.toNat), (8, a.toNat), (3, x.toNat), (0, maskBit m)]
  | .vhad w d a k m => word 0x9D000000 [(22, viewCode w), (15, d.toNat), (8, a.toNat), (1, k.toNat), (0, maskBit m)]
  | .vsfu w d a k m => word 0x9E000000 [(22, viewCode w), (15, d.toNat), (8, a.toNat), (1, k.toNat), (0, maskBit m)]
  | .vredsum w d a m => word 0x9F000000 [(22, viewCode w), (15, d.toNat), (8, a.toNat), (0, maskBit m)]
  | .vredmax w d a m => word 0xA0000000 [(22, viewCode w), (15, d.toNat), (8, a.toNat), (0, maskBit m)]
  | .vredmin w d a m => word 0xA1000000 [(22, viewCode w), (15, d.toNat), (8, a.toNat), (0, maskBit m)]
  | .vredamax w d a m => word 0xA2000000 [(22, viewCode w), (15, d.toNat), (8, a.toNat), (0, maskBit m)]
  | .vsegsum w d a k m => word 0xA3000000 [(22, viewCode w), (15, d.toNat), (8, a.toNat), (1, k.toNat), (0, maskBit m)]
  | .vsegscan w d a k m => word 0xA4000000 [(22, viewCode w), (15, d.toNat), (8, a.toNat), (1, k.toNat), (0, maskBit m)]
  | .vscan w d a m => word 0xA5000000 [(22, viewCode w), (15, d.toNat), (8, a.toNat), (0, maskBit m)]
  | .vslideup w d a x m => word 0xA6000000 [(22, viewCode w), (15, d.toNat), (8, a.toNat), (3, x.toNat), (0, maskBit m)]
  | .vslidedn w d a x m => word 0xA7000000 [(22, viewCode w), (15, d.toNat), (8, a.toNat), (3, x.toNat), (0, maskBit m)]
  | .vperm w d a b m => word 0xA8000000 [(22, viewCode w), (15, d.toNat), (8, a.toNat), (1, b.toNat), (0, maskBit m)]
  | .vunpk w d a k m => word 0xA9000000 [(22, viewCode w), (15, d.toNat), (8, a.toNat), (1, k.toNat), (0, maskBit m)]
  | .vpack w d a k m => word 0xAA000000 [(22, viewCode w), (15, d.toNat), (8, a.toNat), (1, k.toNat), (0, maskBit m)]
  | .vlut w d a b m => word 0xAB000000 [(22, viewCode w), (15, d.toNat), (8, a.toNat), (1, b.toNat), (0, maskBit m)]
  | .vexpand w d a m => word 0xAC000000 [(22, viewCode w), (15, d.toNat), (8, a.toNat), (0, maskBit m)]
  | .vcompress w d a m => word 0xAD000000 [(22, viewCode w), (15, d.toNat), (8, a.toNat), (0, maskBit m)]
  | .vsparse w d a k m => word 0xAE000000 [(22, viewCode w), (15, d.toNat), (8, a.toNat), (1, k.toNat), (0, maskBit m)]
  | .vpop w d q m => word 0xAF000000 [(22, viewCode w), (15, d.toNat), (8, q.toNat), (0, maskBit m)]
  | .vpush q a m => word 0xB0000000 [(15, q.toNat), (8, a.toNat), (0, maskBit m)]
  | .vmand d a b => word 0xB1000000 [(15, d.toNat), (8, a.toNat), (1, b.toNat)]
  | .vmor d a b => word 0xB2000000 [(15, d.toNat), (8, a.toNat), (1, b.toNat)]
  | .vmxor d a b => word 0xB3000000 [(15, d.toNat), (8, a.toNat), (1, b.toNat)]
  | .vmnot d a => word 0xB4000000 [(15, d.toNat), (8, a.toNat)]
  | .vmpopc d a => word 0xB5000000 [(15, d.toNat), (8, a.toNat)]
  | .vmfirst d a => word 0xB6000000 [(15, d.toNat), (8, a.toNat)]
  | .vmfrom w k a m => word 0xB7000000 [(22, viewCode w), (15, k.toNat), (8, a.toNat), (0, maskBit m)]
  | .vmto w d k m => word 0xB8000000 [(22, viewCode w), (15, d.toNat), (8, k.toNat), (0, maskBit m)]
  | .vext w d a x m => word 0xB9000000 [(22, viewCode w), (15, d.toNat), (8, a.toNat), (3, x.toNat), (0, maskBit m)]
  | .vnrw w d a k m => word 0xBA000000 [(22, viewCode w), (15, d.toNat), (8, a.toNat), (1, k.toNat), (0, maskBit m)]
  | .vpopc w d a m => word 0xBB000000 [(22, viewCode w), (15, d.toNat), (8, a.toNat), (0, maskBit m)]
  | .vshrr w d a b m => word 0xBC000000 [(22, viewCode w), (15, d.toNat), (8, a.toNat), (1, b.toNat), (0, maskBit m)]
  | .vmulh w d a b m => word 0xBD000000 [(22, viewCode w), (15, d.toNat), (8, a.toNat), (1, b.toNat), (0, maskBit m)]
  | .vclz w d a m => word 0xBE000000 [(22, viewCode w), (15, d.toNat), (8, a.toNat), (0, maskBit m)]
  | .svc c => word 0xE0000000 [(0, c.toNat)]
  | .brk c => word 0xE0400000 [(0, c.toNat)]
  | .eret => word 0xE0800000 []
  | .wfi => word 0xE0C00000 []
  | .rcflush => word 0xE1000000 []
  | .keysel a b => word 0xE1400000 [(12, a.toNat), (7, b.toNat)]
  | .halt => word 0xE1800000 []
  | .errlog d a => word 0xE1C00000 [(17, d.toNat), (12, a.toNat)]
  | _ => 0

/-- The header's extension byte an operation's immediate needs (R200); 0 for one without such an immediate. -/
def encodeExt : Instr → Nat
  | .addi _ _ imm => imm.toNat / 2^12
  | .andi _ _ imm => imm.toNat / 2^12
  | .ori _ _ imm => imm.toNat / 2^12
  | .xori _ _ imm => imm.toNat / 2^12
  | .slti _ _ imm => imm.toNat / 2^12
  | .sltiu _ _ imm => imm.toNat / 2^12
  | .lui _ imm => imm.toNat / 2^12
  | .addpc _ imm => imm.toNat / 2^12
  | .beq _ _ o => o.toNat / 2^15
  | .bne _ _ o => o.toNat / 2^15
  | .blt _ _ o => o.toNat / 2^15
  | .bge _ _ o => o.toNat / 2^15
  | .bltu _ _ o => o.toNat / 2^15
  | .bgeu _ _ o => o.toNat / 2^15
  | .jal _ o => o.toNat / 2^20
  | .jalr _ _ imm => imm.toNat / 2^15
  | .loop _ o => o.toNat / 2^15
  | .vloop _ o => o.toNat / 2^15
  | .setci imm _ => imm.toNat / 2^13
  | .ldb _ _ _ imm => imm.toNat / 2^12
  | .ldbu _ _ _ imm => imm.toNat / 2^12
  | .ldh _ _ _ imm => imm.toNat / 2^12
  | .ldhu _ _ _ imm => imm.toNat / 2^12
  | .ldw _ _ _ imm => imm.toNat / 2^12
  | .ldwu _ _ _ imm => imm.toNat / 2^12
  | .ldd _ _ _ imm => imm.toNat / 2^12
  | .stb _ _ _ imm => imm.toNat / 2^12
  | .sth _ _ _ imm => imm.toNat / 2^12
  | .stw _ _ _ imm => imm.toNat / 2^12
  | .std _ _ _ imm => imm.toNat / 2^12
  | .vld _ _ _ imm _ => imm.toNat / 2^9
  | .vst _ _ _ imm _ => imm.toNat / 2^9
  | _ => 0

/-- An operation has an extensible immediate (the table of R200). -/
def extensible : Instr → Bool
  | .addi _ _ _ => true
  | .andi _ _ _ => true
  | .ori _ _ _ => true
  | .xori _ _ _ => true
  | .slti _ _ _ => true
  | .sltiu _ _ _ => true
  | .lui _ _ => true
  | .addpc _ _ => true
  | .beq _ _ _ => true
  | .bne _ _ _ => true
  | .blt _ _ _ => true
  | .bge _ _ _ => true
  | .bltu _ _ _ => true
  | .bgeu _ _ _ => true
  | .jal _ _ => true
  | .jalr _ _ _ => true
  | .loop _ _ => true
  | .vloop _ _ => true
  | .setci _ _ => true
  | .ldb _ _ _ _ => true
  | .ldbu _ _ _ _ => true
  | .ldh _ _ _ _ => true
  | .ldhu _ _ _ _ => true
  | .ldw _ _ _ _ => true
  | .ldwu _ _ _ _ => true
  | .ldd _ _ _ _ => true
  | .stb _ _ _ _ => true
  | .sth _ _ _ _ => true
  | .stw _ _ _ _ => true
  | .std _ _ _ _ => true
  | .vld _ _ _ _ _ => true
  | .vst _ _ _ _ _ => true
  | _ => false

/-- The immediate of an operation fits its own field, so that no header is needed for it (R200, R214). -/
def immFits : Instr → Bool
  | .addi _ _ imm => fitsS 12 imm
  | .andi _ _ imm => fitsS 12 imm
  | .ori _ _ imm => fitsS 12 imm
  | .xori _ _ imm => fitsS 12 imm
  | .slti _ _ imm => fitsS 12 imm
  | .sltiu _ _ imm => fitsS 12 imm
  | .lui _ imm => fitsS 12 imm
  | .addpc _ imm => fitsS 12 imm
  | .beq _ _ o => fitsS 15 o
  | .bne _ _ o => fitsS 15 o
  | .blt _ _ o => fitsS 15 o
  | .bge _ _ o => fitsS 15 o
  | .bltu _ _ o => fitsS 15 o
  | .bgeu _ _ o => fitsS 15 o
  | .jal _ o => fitsS 20 o
  | .jalr _ _ imm => fitsS 15 imm
  | .loop _ o => fitsU 15 o
  | .vloop _ o => fitsU 15 o
  | .setci imm _ => fitsU 13 imm
  | .ldb _ _ _ imm => fitsS 12 imm
  | .ldbu _ _ _ imm => fitsS 12 imm
  | .ldh _ _ _ imm => fitsS 12 imm
  | .ldhu _ _ _ imm => fitsS 12 imm
  | .ldw _ _ _ imm => fitsS 12 imm
  | .ldwu _ _ _ imm => fitsS 12 imm
  | .ldd _ _ _ imm => fitsS 12 imm
  | .stb _ _ _ imm => fitsS 12 imm
  | .sth _ _ _ imm => fitsS 12 imm
  | .stw _ _ _ imm => fitsS 12 imm
  | .std _ _ _ imm => fitsS 12 imm
  | .vld _ _ _ imm _ => fitsS 9 imm
  | .vst _ _ _ imm _ => fitsS 9 imm
  | _ => true

/-- The mask operand of an operation; off where it has none (R209). -/
def maskUse : Instr → MaskUse
  | .vld _ _ _ _ m => m
  | .vlds _ _ _ _ m => m
  | .vldx _ _ _ _ m => m
  | .vst _ _ _ _ m => m
  | .vsts _ _ _ _ m => m
  | .vstx _ _ _ _ m => m
  | .vstva _ _ _ m => m
  | .vadd _ _ _ _ m => m
  | .vsub _ _ _ _ m => m
  | .vmul _ _ _ _ m => m
  | .vfma _ _ _ _ m => m
  | .vfms _ _ _ _ m => m
  | .vmin _ _ _ _ m => m
  | .vmax _ _ _ _ m => m
  | .vabs _ _ _ m => m
  | .vneg _ _ _ m => m
  | .vdiv _ _ _ _ m => m
  | .vand _ _ _ _ m => m
  | .vor _ _ _ _ m => m
  | .vxor _ _ _ _ m => m
  | .vnot _ _ _ m => m
  | .vsll _ _ _ _ m => m
  | .vsrl _ _ _ _ m => m
  | .vsra _ _ _ _ m => m
  | .vfshl _ _ _ _ m => m
  | .vfshr _ _ _ _ m => m
  | .vcmp _ _ _ _ _ m => m
  | .vsel _ _ _ _ m => m
  | .vmv _ _ _ m => m
  | .vbcast _ _ _ m => m
  | .vadds _ _ _ _ m => m
  | .vmuls _ _ _ _ m => m
  | .vfmas _ _ _ _ m => m
  | .vid _ _ m => m
  | .vcvt _ _ _ _ m => m
  | .vqnt _ _ _ _ m => m
  | .vhad _ _ _ _ m => m
  | .vsfu _ _ _ _ m => m
  | .vredsum _ _ _ m => m
  | .vredmax _ _ _ m => m
  | .vredmin _ _ _ m => m
  | .vredamax _ _ _ m => m
  | .vsegsum _ _ _ _ m => m
  | .vsegscan _ _ _ _ m => m
  | .vscan _ _ _ m => m
  | .vslideup _ _ _ _ m => m
  | .vslidedn _ _ _ _ m => m
  | .vperm _ _ _ _ m => m
  | .vunpk _ _ _ _ m => m
  | .vpack _ _ _ _ m => m
  | .vlut _ _ _ _ m => m
  | .vexpand _ _ _ m => m
  | .vcompress _ _ _ m => m
  | .vsparse _ _ _ _ m => m
  | .vpop _ _ _ m => m
  | .vpush _ _ m => m
  | .vmfrom _ _ _ m => m
  | .vmto _ _ _ m => m
  | .vext _ _ _ _ m => m
  | .vnrw _ _ _ _ m => m
  | .vpopc _ _ _ m => m
  | .vshrr _ _ _ _ m => m
  | .vmulh _ _ _ _ m => m
  | .vclz _ _ _ m => m
  | _ => .off

/-- An operation that stands only in a bundle with a header: its immediate needs the extension byte, or its
mask is the header's (R199, R200, R214). -/
def needsHeader (i : Instr) : Bool :=
  !immFits i || match maskUse i with
    | .hdr _ => true
    | _ => false

/-- HMASK of the header that an operation needs; 0 where its mask is not the header's. -/
def headerMask (i : Instr) : MReg :=
  match maskUse i with
  | .hdr k => k
  | _ => 0

/-- What the header gives an operation's slot when the operation is encoded. -/
def extOf (i : Instr) : Ext :=
  if needsHeader i then some (headerMask i, encodeExt i) else none

/-- One slot of a bundle (R198 to R200): the word, with the rule that a nonzero extension byte stands only over
an extensible immediate. -/
def decodeSlot (x : Ext) (w : Nat) : Except BadEncoding Instr :=
  match decodeWord x w with
  | .error e => .error e
  | .ok i => match x with
    | none => .ok i
    | some (_, e) => if e = 0 ∨ extensible i then .ok i else .error .extension

/-- A decoded bundle: whether it has a header, and its operations with their slots, NOPs left out (R198). -/
structure Bundle where
  header : Bool
  ops : List (Nat × Instr)
  deriving DecidableEq, Repr

/-- An illegal encoding with the slot that TRAPSLOT names, 0 for the header (R370). -/
structure BadSlot where
  slot : Nat
  why : BadEncoding
  deriving DecidableEq, Repr

/-- Slot i of a 128-bit bundle value (R197). -/
def slotWord (b i : Nat) : Nat := bits b (32 * i) 32

/-- The operations of the listed slots; the lowest-numbered bad slot decides (R174). -/
def decodeSlots (b : Nat) (x : Nat → Ext) : List Nat → Except BadSlot (List (Nat × Instr))
  | [] => .ok []
  | i :: is =>
    match decodeSlot (x i) (slotWord b i) with
    | .error e => .error ⟨i, e⟩
    | .ok op =>
      match decodeSlots b x is with
      | .error e => .error e
      | .ok rest => .ok (if op = .nop then rest else (i, op) :: rest)

/-- A nonzero extension byte stands over an operation that takes none: an illegal encoding of the header (R199). -/
def extensionBad (x : Ext) (w : Nat) : Bool :=
  match decodeSlot x w with
  | .error .extension => true
  | _ => false

/-- A 128-bit bundle value (R197 to R199). -/
def decodeBundle (b : Nat) : Except BadSlot Bundle :=
  if bits b 28 4 = 15 then
    let k : MReg := .ofNat 3 (bits b 25 3)
    let x (i : Nat) : Ext := some (k, bits b (8 * (i - 1)) 8)
    if bits b 24 1 = 1 then .error ⟨0, .headerBit⟩
    else if [1, 2, 3].any (fun i => extensionBad (x i) (slotWord b i)) then .error ⟨0, .extension⟩
    else match decodeSlots b x [1, 2, 3] with
    | .error e => .error e
    | .ok ops => .ok ⟨true, ops⟩
  else
    match decodeSlots b (fun _ => none) [0, 1, 2, 3] with
    | .error e => .error e
    | .ok ops => .ok ⟨false, ops⟩

/-- The header word that an operation in slot 1 needs (R199). -/
def headerWord (i : Instr) : Nat :=
  0xF0000000 + (headerMask i).toNat * 2 ^ 25 + encodeExt i

/-- A bundle that holds one operation: in slot 0, or in slot 1 under a header where it needs one (R214). -/
def encode (i : Instr) : Nat :=
  if needsHeader i then headerWord i + encodeWord i * 2 ^ 32 else encodeWord i

/-- The instruction that the decoder reads from one table row's word: a 32-bit slot in a bundle without a header. -/
def decodeTableWord (nbits w : Nat) : Option Instr :=
  if nbits = 32 then
    match decodeSlot none (bits w 0 32) with
    | .ok i => some i
    | .error _ => none
  else none

end Sys2Proof
end

