-- ==== Sys2Proof/Machine/Ranges.lean ====
section
/-! DEFINITION. Range directories: RGPROBE, RGTOUCH, RGINV, RGSPLIT, RGMERGE and RGMOVE (R285 to R290), and the agents
that serve them: invalidation (R34, R35), the translation directory (R37) and the dredgers (R29, R38 to R41). -/

namespace Sys2Proof.Machine

/-- The word that RGPROBE writes for an address, and the entry that it fills (R289). -/
def State.probeWord (s : State) (va : Nat) : Word × List RcEnt :=
  let w := s.who s.cur
  let fail (c : Nat) : Word := BitVec.ofNat 64 (pack [(56, c), (63, 1)])
  if 2 ^ 57 ≤ va then (fail 0x01, []) else
  match s.lookup s.me.cache w.owner w.dirbase va with
  | .error (c, _) => (fail c, [])
  | .ok (e, used) =>
    let d := e.desc
    let priv := match s.region (d.pa + (va - d.base.toNat)) with
      | .aperture _ _ => true
      | .mmio _ => true
      | _ => false
    if priv && w.lvl == .u then (fail 0x09, used)
    else match lacking d .load with
      | some c => (fail c, used)
      | none =>
        (BitVec.ofNat 64 (pack [(0, (d.bit 0).toNat), (1, (d.bit 1).toNat), (2, (d.bit 2).toNat), (3, d.strict.toNat),
          (4, (d.resident va).toNat), (8, d.fmt), (16, d.home), (32, e.idx)]), used)

/-- RGPROBE (R289). -/
def opRgprobe (d a : SReg) : Op := fun _ s =>
  let (v, e) := s.probeWord (s.my.rx a).toNat
  commits fun t => (t.useEntries t.cur e).modMy (·.wx d v)

/-- RGTOUCH (R290). -/
def opRgtouch (a : SReg) : Op := fun _ s =>
  let w := s.who s.cur
  commits fun t => t.modRanges fun r =>
    { r with searches := r.searches ++ [{ core := s.cur, owner := w.owner, dirbase := w.dirbase, va := s.my.rx a }] }

/-- An interval of device virtual addresses overlaps another; an empty one overlaps none. -/
def cross (lo hi a b : Nat) : Bool := decide (lo < hi) && decide (a < hi) && decide (lo < b)

/-- An entry of a range cache lies in an owner's interval. -/
def RcEnt.inside (e : RcEnt) (owner lo hi : Nat) : Bool :=
  e.owner == owner && cross lo hi e.desc.base.toNat e.desc.lim.toNat

/-- An invalidation begun (R34): it visits the holders that the records of its interval name. -/
def State.startInval (s : State) (owner lo hi : Nat) (what : InvalFor) : State :=
  let rs := s.ranges.records.filter fun t => t.owner == owner && cross lo hi t.lo t.hi
  let holders := rs.foldl (fun h t => h ||| t.holders) 0
  let v : Inval := { id := s.uid, owner := owner, lo := lo, hi := hi, spans := rs.map fun t => (t.lo, t.hi),
                     holders := holders, what := what }
  { s.modRanges fun r => { r with invals := r.invals ++ [v] } with uid := s.uid + 1 }

/-- RGINV (R288, R35): it issues at commit, and the hart issues nothing more until it completes. -/
def opRginv (a b : SReg) : Op := fun _ s =>
  let lo := min (s.my.rx a).toNat (2 ^ 57)
  let hi := min ((s.my.rx a).toNat + (s.my.rx b).toNat) (2 ^ 57)
  commits fun t =>
    let h := t.my
    (t.startInval h.sup.owner.toNat lo hi (.hart t.cur h.sup.saveptr.toNat)).modMy fun h => { h with inval := some t.uid }

/-- A holder drops its entries of an owner that overlap an interval: a die's cores and lighters, or, as agent 16, the
host interface (R34, R37). -/
def State.dropHeld (s : State) (agent owner lo hi : Nat) : State :=
  let keep (c : List RcEnt) : List RcEnt := c.filter fun e => !e.inside owner lo hi
  if agent = 16 then s.modLink fun l => { l with cache := keep l.cache }
  else
    let one (p : Nat × Core) : Nat × Core :=
      if dieOf p.1 = agent then (p.1, { p.2 with cache := keep p.2.cache }) else p
    let t := { s with cores := s.cores.map one }
    t.modDie agent fun d => { d with lighters := d.lighters.map fun p => (p.1, keep p.2) }

/-- An invalidation reaches a holder (R34). -/
def State.holderDrop (s : State) (k agent : Nat) : State :=
  match s.ranges.invals[k]? with
  | none => s
  | some v =>
    if v.holders.getLsbD agent then
      (s.dropHeld agent v.owner v.lo v.hi).modRanges fun r =>
        { r with invals := modAt r.invals k fun v => { v with holders := v.holders &&& ~~~(BitVec.twoPow 17 agent) } }
    else s

/-- An access has a block still to perform that an entry dropped by an invalidation translated (R34 item 2): a block of the
interval of such an entry, or an access that used one. -/
def Flight.stale (f : Flight) (v : Inval) : Bool :=
  f.owner == v.owner && f.space == 0 && !f.pieces.isEmpty &&
  (f.used.any (·.inside v.owner v.lo v.hi) ||
   f.pieces.any fun p => ((v.lo, v.hi) :: v.spans).any fun r => cross r.1 r.2 p.blk (p.blk + 64))

/-- An access that an invalidation waits for has still to perform; one held for its time has not (R34 item 2). -/
def State.accessIn (s : State) (v : Inval) : Bool :=
  s.flights.any (·.stale v) || s.dies.any fun d => d.2.held.any (·.stale v)

/-- A store of a hart has still to perform (R34 item 4). -/
def State.storeOf (s : State) (core area : Nat) : Bool :=
  let hit (f : Flight) : Bool :=
    f.area == area && (area != 0 || f.core == core) && (f.cls &&& 0x0A) != 0 && !f.pieces.isEmpty
  s.flights.any hit || s.dies.any fun d => d.2.held.any hit

/-- The issuing hart of an invalidation has a store still to perform. -/
def State.invalStores (s : State) : InvalFor → Bool
  | .hart c a => s.storeOf c a
  | .edit c a _ => s.storeOf c a
  | _ => false

/-- Everything that R34 asks of an invalidation holds, and its slice has been served (R37). -/
def State.invalDone (s : State) (v : Inval) : Bool :=
  v.holders == 0 && !s.accessIn v && !s.ranges.searches.any (·.owner == v.owner) &&
  !s.invalStores v.what && !s.ranges.waiting.contains (v.owner % 16) &&
  !s.ranges.fills.any (fun f => f.owner == v.owner && cross v.lo v.hi f.lo f.hi) &&
  !s.ranges.invals.any fun u => decide (u.id < v.id) && u.owner == v.owner && cross v.lo v.hi u.lo u.hi && match u.what with
    | .slice _ => true
    | _ => false

/-- What has a wait ended, in whichever hart or absent bundle holds it. -/
def State.endWait (s : State) (id : Nat) (w : Wait) : State :=
  let f (h : Hart) : Hart := if h.ewait = .edit id then { h with ewait := w } else h
  { s with cores := s.cores.map fun p => (p.1, { p.2 with hart := f p.2.hart })
           absent := s.absent.map fun a => { a with hart := f a.hart } }

/-- The hart that waits for its RGINV goes on (R35). -/
def State.endInval (s : State) (id : Nat) : State :=
  { s with cores := s.cores.map fun p =>
      if p.2.hart.inval = some id then (p.1, { p.2 with hart := { p.2.hart with inval := none } }.unblock) else p }

/-- The LOCK word of a directory (R20). -/
def State.lockOf (s : State) (dirbase : Nat) : Option Word :=
  match s.physWord (dirbase + 8) with
  | .ok w => some w
  | .error _ => none

/-- LOCK taken, if it is free (R29). -/
def State.tryLock (s : State) (dirbase holder : Nat) : Option State :=
  if s.lockOf dirbase = some 0 then some (s.physPutWord (dirbase + 8) (BitVec.ofNat 64 holder)) else none

/-- LOCK released. -/
def State.unlock (s : State) (dirbase : Nat) : State := s.physPutWord (dirbase + 8) 0

/-- An invalidation completes (R34, R35, R33, R38): its records are cleared. -/
def State.rginvComplete (s : State) (k : Nat) : State :=
  match s.ranges.invals[k]? with
  | none => s
  | some v =>
    if s.invalDone v then
      let t := s.modRanges fun r =>
        { r with invals := dropAt r.invals k
                 records := r.records.filter fun t => !(t.owner == v.owner && cross v.lo v.hi t.lo t.hi) }
      match v.what with
      | .hart _ _ => t.endInval v.id
      | .edit _ _ dirbase => (t.unlock dirbase).endWait v.id (.edited 0)
      | .move id => t.modRanges fun r =>
          { r with moves := r.moves.map fun m => if m.id = id then { m with st := .finish } else m }
      | .slice _ => t
    else s

/-- A fill's message reaches its slice (R37). -/
def State.fillRecord (s : State) (k : Nat) : State :=
  match s.ranges.fills[k]? with
  | none => s
  | some f =>
    if s.ranges.waiting.contains (f.owner % 16) then s
    else (s.modRanges fun r => { r with fills := dropAt r.fills k }).recordFill f

/-- The harbourmaster's drop for a moved slice completes (R37): every entry of its owners is gone everywhere. -/
def State.sliceDropComplete (s : State) (k : Nat) : State :=
  let mine (o : Nat) : Bool := o % 16 == k % 16
  let open_ (f : Flight) : Bool := mine f.owner && f.space == 0 && !f.pieces.isEmpty
  if !s.ranges.waiting.contains (k % 16) || s.flights.any open_ || s.dies.any (fun d => d.2.held.any open_) || s.ranges.searches.any (fun x => mine x.owner) then s
  else
    let keep (c : List RcEnt) : List RcEnt := c.filter fun e => !mine e.owner
    { s with
      cores := s.cores.map fun p => (p.1, { p.2 with cache := keep p.2.cache })
      dies := s.dies.map fun p => (p.1, { p.2 with lighters := p.2.lighters.map fun c => (c.1, keep c.2) })
      link := { s.link with cache := keep s.link.cache }
      ranges := { s.ranges with waiting := s.ranges.waiting.filter (· != k % 16)
                                invals := s.ranges.invals.map fun v => if mine v.owner then { v with holders := 0 } else v } }

/-- A search begun by RGTOUCH ends (R290): its entry is installed, unless an invalidation discards it (R34). -/
def State.retrieverSearchEnd (s : State) (k : Nat) : State :=
  match s.ranges.searches[k]? with
  | none => s
  | some x =>
    let t := s.modRanges fun r => { r with searches := dropAt r.searches k }
    if 2 ^ 57 ≤ x.va.toNat then t else
    match s.search x.dirbase x.va.toNat with
    | .ent d i c p =>
      if s.ranges.invals.any (fun v => v.owner == x.owner && cross v.lo v.hi d.base.toNat d.lim.toNat) then t
      else t.useEntries x.core ((foundEntries s.link.expanders x.owner i d c p).2.filter fun e =>
        !s.ranges.invals.any fun v => e.inside v.owner v.lo v.hi)
    | _ => t

/-- The valid entry that contains an address, by a search (R22). -/
def State.entryAt (s : State) (dirbase va : Nat) : Option (Nat × Desc) :=
  if 2 ^ 57 ≤ va then none else
  match s.search dirbase va with
  | .ent d i _ _ => some (i, d)
  | _ => none

/-- A descriptor stored at an index of a directory. -/
def State.putEntry (s : State) (dirbase i : Nat) (d : Desc) : State :=
  let a := dirbase + 64 + 32 * i
  (((s.physPutWord a d.base).physPutWord (a + 8) d.lim).physPutWord (a + 16) d.phys).physPutWord (a + 24) d.attr

/-- COUNT stored. -/
def State.putCount (s : State) (dirbase n : Nat) : State :=
  s.physPutWord dirbase (BitVec.ofNat 64 (n + 2 ^ 32))

/-- The entries from an index on, as they stand; one whose block answers with an error counts as empty, V = 0 (log 87). -/
def State.entriesFrom (s : State) (dirbase i n : Nat) : List Desc :=
  (List.range (n - i)).map fun j => match s.dirEntry dirbase (i + j) with
    | .ok d => d
    | .error _ => {}

/-- A list of entries stored from an index on. -/
def State.putEntries (s : State) (dirbase : Nat) : Nat → List Desc → State
  | _, [] => s
  | i, d :: ds => (s.putEntry dirbase i d).putEntries dirbase (i + 1) ds

/-- Every byte of an interval lay in a resident segment of the old entries (R32); an empty segment holds none (R18). -/
def oldResident (old : List Desc) (lo hi : Nat) : Bool :=
  old.all fun d => (List.range 16).all fun j =>
    let a := d.base.toNat + j * d.segLen
    let b := min (a + d.segLen) d.lim.toNat
    d.res.testBit j || decide (d.lim.toNat ≤ a) || !cross lo hi a b

/-- A new entry cut from old ones (R30 to R32). -/
def cutDesc (old : List Desc) (e : Desc) (lo hi pa : Nat) : Desc :=
  let d : Desc := { base := BitVec.ofNat 64 lo, lim := BitVec.ofNat 64 hi, phys := BitVec.ofNat 64 (pa + e.home * 2 ^ 52) }
  let res := ((List.range 16).map fun j =>
    let a := lo + j * d.segLen
    if oldResident old a (min (a + d.segLen) hi) then 2 ^ j else 0).sum
  { d with attr := BitVec.ofNat 64 (e.attr.toNat - e.res * 2 ^ 32 + res * 2 ^ 32) }

/-- The number of a core's LOCK (R20). -/
def lockCore (core : Nat) : Nat := core + 1

/-- An edit decided: a status that ends it at once, or the interval edited and the state with LOCK taken and the new
entries written (R29, R33). -/
inductive Edit where
  | no (status : Nat)
  | yes (lo hi : Nat) (t : State)

/-- A split at an address (R30): LOCK first, then the conditions in the order of its table. -/
def State.splitAt (s : State) (core dirbase va : Nat) : Edit :=
  match s.tryLock dirbase (lockCore core) with
  | none => .no 1
  | some t =>
    match s.dirCount dirbase, s.entryAt dirbase va with
    | .ok n, some (i, d) =>
      let b := d.base.toNat
      if va % 64 ≠ 0 ∨ va = b then .no 3
      else if fmtScaled d.fmt || d.bit 6 then .no 4
      else if n = 4095 then .no 5
      else
        let rest := s.entriesFrom dirbase (i + 1) n
        let u := t.putEntries dirbase i
          (cutDesc [d] d b va d.pa :: cutDesc [d] d va d.lim.toNat (d.pa + (va - b)) :: rest)
        .yes b d.lim.toNat (u.putCount dirbase (n + 1))
    | _, _ => .no 2

/-- The attributes that a merge needs equal (R31). -/
def mergeAttr (d : Desc) : Nat × Nat × Nat × Nat := (d.home, d.attr.toNat % 2 ^ 6, d.attr.toNat / 2 ^ 8 % 2 ^ 24, d.owner)

/-- A merge of the entry that contains an address with the next (R31). -/
def State.mergeAt (s : State) (core dirbase va : Nat) : Edit :=
  match s.tryLock dirbase (lockCore core) with
  | none => .no 1
  | some t =>
    match s.dirCount dirbase, s.entryAt dirbase va with
    | .ok n, some (i, d) =>
      match (s.entriesFrom dirbase (i + 1) n) with
      | [] => .no 6
      | e :: rest =>
        if !e.bit 7 || decide (d.lim ≠ e.base) || decide (d.pa + d.size ≠ e.pa) then .no 6
        else if mergeAttr d != mergeAttr e then .no 7
        else if fmtScaled d.fmt || d.bit 6 || e.bit 6 then .no 4
        else
          let u := t.putEntries dirbase i (cutDesc [d, e] d d.base.toNat e.lim.toNat d.pa :: rest)
          .yes d.base.toNat e.lim.toNat (u.putCount dirbase (n - 1))
    | _, _ => .no 2

/-- An edit by the hart in hand (R285, R33): a status at once, or the edit, its invalidation, and the wait for it. -/
def editOp (d : SReg) (f : State → Edit) : Op := fun _ s =>
  match s.my.ewait with
  | .edit _ => .wait 2 (some (10, 0)) id
  | .edited st => writes d (BitVec.ofNat 64 st)
  | _ =>
    match f s with
    | .no st => writes d (BitVec.ofNat 64 st)
    | .yes _ _ _ => .wait 2 (some (10, 0)) fun t =>
      match f t with
      | .no st => t.modMy fun h => { h with ewait := .edited st }
      | .yes lo hi u =>
        let h := t.my
        (u.startInval h.sup.owner.toNat lo hi (.edit t.cur h.sup.saveptr.toNat h.sup.dirbase.toNat)).modMy
          fun h => { h with ewait := .edit u.uid }

/-- RGSPLIT (R286). -/
def opRgsplit (d a : SReg) : Op := fun c s =>
  editOp d (fun t => t.splitAt t.cur t.my.sup.dirbase.toNat (s.my.rx a).toNat) c s

/-- RGMERGE (R286). -/
def opRgmerge (d a : SReg) : Op := fun c s =>
  editOp d (fun t => t.mergeAt t.cur t.my.sup.dirbase.toNat (s.my.rx a).toNat) c s

/-- The valid ranges of a directory, with their indices. -/
def State.rangesOf (s : State) (dirbase : Nat) : List (Nat × Desc) :=
  match s.dirCount dirbase with
  | .error _ => []
  | .ok n => (List.range n).filterMap fun i => match s.dirEntry dirbase i with
    | .ok d => if d.bit 7 && !d.malformed s.link.expanders then some (i, d) else none
    | .error _ => none

/-- The valid ranges of every owner that is set up: owner, directory, index and descriptor, by owner and BASE (R63). -/
def State.allRanges (s : State) : List (Nat × Nat × Nat × Desc) :=
  (List.range 4096).flatMap fun o => match s.ownEnt o with
    | none => []
    | some e => (s.rangesOf e.dirbase.toNat).map fun p => (o, e.dirbase.toNat, p.1, p.2)

/-- The physical intervals that are taken: those of ranges, those that moves go to or had gone to at a fence, and retired HBM
regions (R58). -/
def State.taken (s : State) : List (Nat × Nat) :=
  (s.allRanges.map fun r => (r.2.2.2.pa, r.2.2.2.pa + r.2.2.2.size)) ++
  (s.ranges.moves.map fun m => (m.dst, m.dst + m.desc.size)) ++
  (s.ranges.placing.flatMap fun p => p.elsewhere.map fun x => (x.2.2, x.2.2 + x.2.1)) ++
  s.dies.flatMap fun d => d.2.hbmGone.map fun i =>
    (d.1 * 0xC00000000 + i * 0x10000000, d.1 * 0xC00000000 + (i + 1) * 0x10000000)

/-- An interval is free of others. -/
def freeOf (occ : List (Nat × Nat)) (lo size : Nat) : Bool := occ.all fun p => !cross lo (lo + size) p.1 p.2

/-- The lowest place for some bytes in an interval. -/
def findRoom (occ : List (Nat × Nat)) (lo hi size : Nat) : Option Nat :=
  ((lo :: occ.map (·.2)).filter fun a => decide (lo ≤ a) && decide (a + size ≤ hi) && freeOf occ a size).foldl lower none

/-- A target of a move has room (R41): in HBM and the second tier, nothing else lies there. -/
def State.roomAt (s : State) (pa size : Nat) : Bool :=
  match s.region pa with
  | .hbm _ => freeOf s.taken pa size
  | .second => freeOf s.taken pa size && (List.range ((size + 63) / 64)).all fun i => fitted s.link.expanders (pa + 64 * i)
  | .unfitted => false
  | _ => true

/-- A move as its dredger holds it (R38). -/
def newMove (id owner dirbase i : Nat) (d : Desc) (pa home : Nat) (own : Bool) (req : Option (Nat × Nat)) : Move :=
  { id := id, owner := owner, dirbase := dirbase, index := i, desc := d, src := d.pa, dst := pa, homeA := d.home,
    homeB := home, own := own, requester := req }

/-- A dredger's LOCK value (R20). -/
def lockDredger (die : Nat) : Nat := 0xFFFF0000 + die

/-- A move that has LOCK goes on to its first chunk. -/
def State.addMove (s : State) (m : Move) : State :=
  { s.modRanges fun r => { r with moves := r.moves ++ [m] } with uid := s.uid + 1 }

/-- RGMOVE (R287): no range, a bad target, LOCK held, no room, or a move that the hart waits for. -/
def State.moveStatus (s : State) (dirbase va pa home : Nat) : Except Nat (Nat × Desc) :=
  match s.entryAt dirbase va with
  | none => .error 2
  | some (i, d) =>
    if pa % 64 ≠ 0 ∨ d.bit 6 ∨ !homeOk s.link.expanders pa d.size home d.owner then .error 9
    else if s.lockOf dirbase ≠ some 0 then .error 1
    else if !s.roomAt pa d.size then .error 8
    else .ok (i, d)

/-- RGMOVE (R287). -/
def opRgmove (d a b : SReg) (x : BitVec 4) : Op := fun _ s =>
  let h := s.my
  let dirbase := h.sup.dirbase.toNat
  let pa := (h.rx b).toNat
  if h.level == .u then .trap 0x04 0 else
  match h.ewait with
  | .edit _ => .wait 2 (some (10, 0)) id
  | .edited st => writes d (BitVec.ofNat 64 st)
  | _ =>
    match s.moveStatus dirbase (h.rx a).toNat pa x.toNat with
    | .error st => writes d (BitVec.ofNat 64 st)
    | .ok (i, e) => .wait 2 (some (10, 0)) fun t =>
      let m := newMove t.uid h.sup.owner.toNat dirbase i e pa x.toNat false (some (t.cur, h.sup.saveptr.toNat))
      match t.tryLock dirbase (lockDredger e.home) with
      | none => t.modMy fun h => { h with ewait := .edited 1 }
      | some u => (u.addMove { m with st := .copying }).modMy fun h => { h with ewait := .edit t.uid }

/-- A device's own move takes LOCK, once it is free; its range may have gone since (R29). -/
def State.dredgerLockRetry (s : State) (k : Nat) : State :=
  match s.ranges.moves[k]? with
  | none => s
  | some m =>
    if m.st != .lock then s else
    match s.tryLock m.dirbase (lockDredger m.homeA) with
    | none => s
    | some t =>
      match s.entryAt m.dirbase m.desc.base.toNat with
      | some (i, d) =>
        if d.phys = m.desc.phys ∧ d.lim = m.desc.lim then
          t.modRanges fun r => { r with moves := modAt r.moves k fun m => { m with st := .copying, index := i, desc := d } }
        else s.modRanges fun r => { r with moves := dropAt r.moves k }
      | none => s.modRanges fun r => { r with moves := dropAt r.moves k }

/-- A dredger starts moving an owner's range by itself (R38): to a target with room; LOCK follows. -/
def State.dredgerMove (s : State) (owner va pa home : Nat) : State :=
  match s.ownEnt owner with
  | none => s
  | some o =>
    match s.entryAt o.dirbase.toNat va with
    | none => s
    | some (i, d) =>
      if pa % 64 ≠ 0 ∨ !homeOk s.link.expanders pa d.size home d.owner ∨ !s.roomAt pa d.size ∨
         s.ranges.moves.any (fun m => m.owner == owner && m.desc.base == d.base && !m.back && m.src == d.pa) then s
      else
        let t := s.addMove (newMove s.uid owner o.dirbase.toNat i d pa home true none)
        t.dredgerLockRetry (t.ranges.moves.length - 1)

/-- A block of memory that is stored bytes, apart from scratch and registers. -/
def storedRegion : Region → Bool
  | .hbm _ => true
  | .second => true
  | .host => true
  | .peer _ => true
  | _ => false

/-- A block poisoned where it lies, in memory or in a scratchpad that an aperture shows (R40). -/
def State.poison (s : State) (pa : Nat) : State :=
  match s.region pa with
  | .aperture k off =>
    let c := s.core k
    if c.segValid (off / 4096) then
      s.setCore k { c with scrMarks := c.scrMarks.put ((c.pseg (off / 4096) * 4096 + off % 4096) / 64) 0x11 }
    else s
  | _ => { s with mem := { s.mem with marks := s.mem.marks.put (pa / 64) 0x11 } }

/-- The HBM of a fenced die does not answer for a block any more (R43, R63). -/
def State.silent (s : State) (pa : Nat) : Bool :=
  match s.region pa with
  | .hbm d => !(s.die d).inService && !Config.hbmAnswers (pa / 64) s.count
  | _ => false

/-- The error that a dredger meets in a block that it copies (R40, R43). -/
def State.dredgeError (s : State) (pa : Nat) : Option Nat :=
  if s.silent pa then some 0x10
  else if storedRegion (s.region pa) then s.mem.mark pa
  else match s.physRead pa 0 0 with
    | .ok _ => none
    | .error e => some e

/-- The errors in a span that a dredger copies are entered in its die's management log (R69). -/
def State.dredgeLog (s : State) (d owner a n : Nat) : State :=
  (List.range ((n + 63) / 64)).foldl (fun t i => match s.dredgeError (a + 64 * i) with
    | some e => t.modDie d fun v => v.log { logEntry s 0 (a + 64 * i) e 0 5 0 owner 0 with time := (s.die d).atime }
    | none => t) s

/-- A block moved as it is stored (R38); an error travels as poison (R40). -/
def State.moveBlock (s : State) (a b : Nat) : State :=
  if s.silent a then s.poison b
  else if storedRegion (s.region a) && storedRegion (s.region b) then { s with mem := s.mem.moveBlock a b }
  else match s.physRead a 0 0 with
    | .ok v => match s.physWrite b 0 0 v (~~~0) with
      | .ok t => t
      | .error _ => s
    | .error _ => s.poison b

/-- A chunk's blocks moved. -/
def State.moveBytes (s : State) (a b n : Nat) : State :=
  (List.range ((n + 63) / 64)).foldl (fun t i => t.moveBlock (a + 64 * i) (b + 64 * i)) s

/-- A watch set on a block that has moved follows it (R297, R39). -/
def Loc.moved (l : Loc) (a b n home : Nat) : Loc :=
  match l with
  | .mem pa h c => if a ≤ pa ∧ pa < a + n then .mem (b + (pa - a)) home c else .mem pa h c
  | l => l

/-- A block that lay in an interval lies in another, at another home (R39). -/
def Piece.moved (p : Piece) (a b n home : Nat) : Piece :=
  { p with loc := p.loc.moved a b n home }

/-- The watches of a core follow a chunk. -/
def Core.moveWatch (c : Core) (f : Loc → Loc) : Core :=
  { c with
    hart := match c.hart.ewait with
      | .watch l o w => { c.hart with ewait := .watch (f l) o w }
      | _ => c.hart
    queue := c.queue.map fun e => { e with watch := e.watch.map fun x => (f x.1, x.2) } }

/-- Timed accesses held at the old home travel with the chunk, and watches follow it (R39). -/
def State.moveHeld (s : State) (a b n home : Nat) : State :=
  let gone (f : Flight) : Bool := f.pieces.any fun p => p.moved a b n home != p
  let all := s.dies.flatMap fun d => d.2.held.filter gone
  let left (d : Nat × Die) : Nat × Die := (d.1, { d.2 with held := d.2.held.filter fun f => !gone f })
  let follow (c : Nat × Core) : Nat × Core := (c.1, c.2.moveWatch fun l => l.moved a b n home)
  let t := { s with dies := s.dies.map left, cores := s.cores.map follow }
  t.modDie home fun d =>
    { d with held := d.held ++ all.map fun f => { f with pieces := f.pieces.map fun p => p.moved a b n home } }

/-- A chunk that a reference may stand for (R62): a whole aligned block between two dies, of a range without NODEDUP, with no
error in it. -/
def State.dedups (s : State) (m : Move) (off len : Nat) : Bool :=
  m.homeA != m.homeB && len == 4096 && (m.dst + off) % 4096 == 0 && !m.desc.bit 5 &&
  storedRegion (s.region (m.src + off)) && storedRegion (s.region (m.dst + off)) &&
  (List.range 64).all fun i => (s.dredgeError (m.src + off + 64 * i)).isNone

/-- A chunk's bytes shipped (R38, R62): in full, or as a reference whose answer the chunk waits for; its move point comes before
its content is taken (R39). -/
def State.shipChunk (s : State) (m : Move) (off len : Nat) : State × Bool :=
  let whole := m.homeA != m.homeB && len == 4096 && (m.dst + off) % 4096 == 0
  let full (t : State) : State := (t.dredgeLog m.homeA m.owner (m.src + off) len).moveBytes (m.src + off) (m.dst + off) len
  let shut (x : Move) : Move := if x.id = m.id then { x with shut := true } else x
  match s.ranges.xfers.find? fun x => x.pa == m.dst + off with
  | some x => if x.done then (s.modRanges fun r => { r with xfers := r.xfers.filter (· != x) }, true) else (s, false)
  | none =>
    if !s.dedups m off len then
      (full (if whole then s.modDie m.homeA fun d => { d with sentFull := d.sentFull.count m.homeB } else s), true) else
    let content := cellsRead s.mem.cells (m.src + off) 4096
    let hash := Config.blockHash m.owner (bytesOf content 4096)
    match ((s.die m.homeA).manifest.get m.homeB).find? fun e => e.1 == m.owner && e.2.1 == hash with
    | some e => (s.modRanges fun r => { r with moves := r.moves.map shut, xfers := r.xfers ++
        [{ src := m.homeA, dst := m.homeB, owner := m.owner, hash := hash, pa := m.dst + off, content := e.2.2 }] }, false)
    | none => (full (s.modDie m.homeA fun d =>
        { d with sentFull := d.sentFull.count m.homeB
                 manifest := d.manifest.mod m.homeB fun l => ((m.owner, hash, content) :: l).take 4096 }), true)

/-- The bytes of a block sent by reference, moved in full; then its transfer is done. -/
def State.shipFull (s : State) (k : Nat) (x : Xfer) (f : Die → Die) : State :=
  match s.ranges.moves.find? fun m => decide (m.dst ≤ x.pa) && decide (x.pa < m.dst + m.desc.size) with
  | none => s.modRanges fun r => { r with xfers := dropAt r.xfers k }
  | some m => ((s.moveBytes (m.src + (x.pa - m.dst)) x.pa 4096).modDie x.src f).modRanges fun r =>
      { r with xfers := modAt r.xfers k fun x => { x with done := true } }

/-- The receiver performs a block sent by reference with the content it holds, which the block's hash stands for (R62). -/
def State.manifestReference (s : State) (k : Nat) : State :=
  match s.ranges.xfers[k]? with
  | none => s
  | some x =>
    if x.done then s else
    let t := s.shipFull k x fun d => { d with sentRef := d.sentRef.count x.dst }
    if Config.blockHash x.owner (bytesOf (cellsRead t.mem.cells x.pa 4096) 4096) = x.hash then
      { t with mem := { t.mem with cells := cellsWrite t.mem.cells x.pa 4096 x.content } }
    else t

/-- The receiver refuses a reference, and the sender sends the block in full (R62). -/
def State.manifestRefusal (s : State) (k : Nat) : State :=
  match s.ranges.xfers[k]? with
  | none => s
  | some x =>
    if x.done then s
    else s.shipFull k x fun d => { d with sentNo := d.sentNo.count x.dst, sentFull := d.sentFull.count x.dst }

/-- All chunks are open at the new home: the descriptor's +16 word, then the invalidation (R38 steps 3 and 4). -/
def State.moveWord (s : State) (k : Nat) (m : Move) : State :=
  let t := s.physPutWord (m.dirbase + 64 + 32 * m.index + 16) (BitVec.ofNat 64 (m.dst + m.homeB * 2 ^ 52))
  (t.startInval m.owner m.desc.base.toNat m.desc.lim.toNat (.move m.id)).modRanges fun r =>
    { r with moves := modAt r.moves k fun m => { m with st := .inval } }

/-- Accesses on their way to a place that a chunk has left again go on to where it is, as after a moved response (R40, R41). -/
def Flight.follow (f : Flight) (a b n home old at_ : Nat) : Flight :=
  if f.pieces.any fun p => p.moved a b n home != p then
    let back := if old = dieOf f.core then at_ else max at_ (f.sent + 8) + 8
    { f with pieces := f.pieces.map (·.moved a b n home), again := max f.again back, sent := max f.sent back }
  else f

/-- Such accesses, and what was held there, follow a chunk. -/
def State.follow (s : State) (a b n home old : Nat) : State :=
  ({ s with flights := s.flights.map fun f => f.follow a b n home old (s.die old).atime.toNat } : State).moveHeld a b n home

/-- A chunk's copy completes and the chunk opens (R38); a move on its way back brings its last chunk home (R41). -/
def State.chunkOpen (s : State) (k : Nat) : State :=
  match s.ranges.moves[k]? with
  | none => s
  | some m =>
    if m.st != .copying then s else
    if m.back then
      match m.chunk, m.desc.chunks[m.chunk - 1]? with
      | n + 1, some (off, len) =>
        let t := (s.dredgeLog m.homeA m.owner (m.dst + off) len).modRanges fun r =>
          { r with moves := modAt r.moves k fun m => { m with chunk := n } }
        (t.moveBytes (m.dst + off) (m.src + off) len).follow (m.dst + off) (m.src + off) len m.homeA m.homeB
      | _, _ => s.modRanges fun r => { r with moves := modAt r.moves k fun m => { m with st := .finish } }
    else
      match m.desc.chunks[m.chunk]? with
      | some (off, len) =>
        match s.shipChunk m off len with
        | (u, false) => u
        | (u, true) =>
          let t := (u.moveHeld (m.src + off) (m.dst + off) len m.homeB).modRanges
            fun r => { r with moves := modAt r.moves k fun m => { m with chunk := m.chunk + 1, shut := false } }
          if m.chunk + 1 = m.desc.chunks.length then t.moveWord k m else t
      | none => s.moveWord k m

/-- A copying move is abandoned (R41): its chunks come back, and a block on its way to the target by reference is dropped. -/
def Ranges.abandon (r : Ranges) (m : Move) : Ranges :=
  { r with
    moves := r.moves.map fun x => if x.id = m.id then { x with back := true, shut := false } else x
    xfers := r.xfers.filter fun x => !(decide (m.dst ≤ x.pa) && decide (x.pa < m.dst + m.desc.size)) }

/-- A move is dropped. -/
def Ranges.forget (r : Ranges) (m : Move) : Ranges := { r with moves := r.moves.filter (·.id != m.id) }

/-- The move ends (R38 step 5): LOCK is released, and an RGMOVE has its status (R41). -/
def State.moveFinish (s : State) (k : Nat) : State :=
  match s.ranges.moves[k]? with
  | none => s
  | some m =>
    if m.st != .finish then s else
    let t := (s.unlock m.dirbase).modRanges fun r => { r with moves := dropAt r.moves k }
    if m.requester.isSome then t.endWait m.id (.edited (if m.back then 8 else 0)) else t

/-- A block of an access on its way that has met a moved response goes to the chunk's new home (R40): where the old home is on
another die, once the access has arrived there and the response has come back, which the time of its sending again says (R102). -/
def State.resend (s : State) (f : Flight) (p : Piece) : Nat × Piece :=
  match p.loc with
  | .mem pa _ c =>
    match s.ranges.moves.find? (·.passed pa) with
    | some m =>
      if !s.arrived { f with pieces := [p] } then (0, p)
      else ((s.die m.homeA).atime.toNat + (if m.homeA = dieOf f.core then 0 else 8),
        { p with loc := .mem (m.dst + (pa - m.src)) m.homeB c })
    | none => (0, p)
  | _ => (0, p)

/-- A fabric interface re-sends the blocks of an access that met moved responses (R40). -/
def State.movedResponseResend (s : State) (k : Nat) : State :=
  { s with flights := modAt s.flights k fun f =>
      let ps := f.pieces.map (s.resend f)
      let back := ps.foldl (fun a q => max a q.1) 0
      { f with pieces := ps.map (·.2), again := max f.again back, sent := max f.sent back } }

end Sys2Proof.Machine
end

