-- ==== Sys2Proof/Machine/Task.lean ====
section
/-! DEFINITION. Time, gangs, slices and capacity: TIME, TWAIT and TSTAT (R291), GBAR (R292, R167), JPOST (R148 to R150,
R293), JYIELD, JDONE, JWAIT and JDEC (R294 to R296), WAITA (R297), CAPQ and CAPR (R58, R298). -/

namespace Sys2Proof.Machine

/-- TIME (R291). -/
def opTime (d : SReg) : Op := fun _ s => writes d (BitVec.ofNat 64 (s.atime s.cur))

/-- TWAIT (R291). -/
def opTwait (a : SReg) : Op := fun _ s =>
  if (s.my.rx a).toNat ≤ s.atime s.cur then commits id else .wait 0 (some (7, s.my.rx a)) id

/-- The time status word (R103). -/
def Ptp.word (p : Ptp) : Word :=
  let o : Int := max (-(2 ^ 31 - 1)) (min (2 ^ 31 - 1) p.offset)
  BitVec.ofNat 64 (pack [(0, (o % 2 ^ 32).toNat), (32, p.state), (34, p.source), (36, p.skew), (48, min p.age 0xFFFF)])

/-- TSTAT (R291). -/
def opTstat (d : SReg) : Op := fun _ s => writes d s.ptp.word

/-- A member's arrival joins the current episode; the last one opens the barrier (R292). -/
def Slot.arrive (t : Slot) (idx : Nat) (now time : Nat) : Slot :=
  let all := t.arrived ++ [(idx, BitVec.ofNat 64 time)]
  let p := t.pending.put idx t.episode
  if t.width ≤ all.length then
    let o := all.foldl (fun m x => max m x.2.toNat) now
    { t with arrived := [], pending := p, opens := t.opens.put t.episode (BitVec.ofNat 64 o), episode := t.episode + 1 }
  else { t with arrived := all, pending := p }

/-- The episode that a member has arrived at and not yet left. -/
def Slot.awaits (t : Slot) (idx : Nat) : Option Nat := (t.pending.find? (·.1 == idx)).map (·.2)

/-- A member leaves its episode; an opening that nobody still awaits is forgotten. -/
def Slot.leave (t : Slot) (idx : Nat) : Slot :=
  let p := t.pending.del idx
  { t with pending := p, opens := t.opens.filter fun o => p.any (·.2 == o.1) }

/-- Accesses that a release waits for are still on their way (R114, R117). -/
def State.releasing (s : State) : Bool :=
  let w := s.who s.cur
  s.pendingIn w 0x0F .package || s.pushesOf w

/-- GBAR at the barrier of a slice's gang (R292). -/
def gbarSlot (d : SReg) (die i : Nat) (t : Slot) (time : Nat) (s : State) : Res :=
  let h := s.my
  let idx := h.ident.gangidx.toNat
  let now := s.atime s.cur
  let blocked : Option (Nat × Word) := some (4, h.ident.gangid)
  let leave (o : Word) (u : State) : State := (u.modSlot die i (·.leave idx)).modMy (·.wx d o)
  match t.awaits idx with
  | some e =>
    match (t.opens.find? (·.1 == e)).map (·.2) with
    | some o => if o.toNat ≤ now then commits (leave o) else .wait 0 blocked id
    | none => match t.orphan with
      | some g => .trap 0x13 (orphanAddr g)
      | none => .wait 0 blocked id
  | none =>
    if now + 2 ^ 30 < time then .trap 0x03 0
    else if s.releasing then .wait 2 blocked id
    else
      let u := t.arrive idx now time
      let join (v : State) : State := v.modSlot die i fun _ => u
      match (u.opens.find? (·.1 == t.episode)).map (·.2) with
      | some o => if o.toNat ≤ now then commits fun v => leave o (join v) else .wait 2 blocked join
      | none => match t.orphan with
        | some g => .trap 0x13 (orphanAddr g) (note := join)
        | none => .wait 2 blocked join

/-- GBAR (R292): a hart without a slice is a gang of width 1. -/
def opGbar (d a : SReg) : Op := fun _ s =>
  let h := s.my
  let time := (h.rx a).toNat
  let now := s.atime s.cur
  if h.ident.indexed then .trap 0x03 0
  else match s.slotOf h.ident.handle with
    | some (die, i, t) => gbarSlot d die i t time s
    | none =>
      match h.ewait with
      | .gbar o => if o ≤ now then writes d (BitVec.ofNat 64 o) else .wait 0 (some (4, h.ident.gangid)) id
      | _ =>
        if now + 2 ^ 30 < time then .trap 0x03 0
        else if s.releasing then .wait 2 (some (4, h.ident.gangid)) id
        else if time ≤ now then writes d (BitVec.ofNat 64 now)
        else .wait 2 (some (4, h.ident.gangid)) fun t => t.modMy fun h => { h with ewait := .gbar time }

/-- The dies in service, lowest first. -/
def State.diesIn (s : State) : List Nat := (List.range 16).filter fun d => (s.die d).inService

/-- The free slot of a die's table that a post takes: the lowest-numbered, which R149 does not say (log 81). -/
def State.freeSlotOf (s : State) (d : Nat) : Option Nat :=
  (List.range 4096).find? fun i => !((s.die d).slots.get i).live

/-- The die that takes a posted slice (R149). -/
def State.postDie (s : State) (core mask : Nat) : Option Nat :=
  let ok := s.diesIn.filter (dieAllowed mask)
  if ok.contains (dieOf core) then some (dieOf core) else ok.head?

/-- A reserved bit of a slice record is nonzero (R148). -/
def postReserved (r : List Word) : Bool :=
  recField r 3 42 6 != 0 || recField r 3 56 8 != 0 || recField r 7 12 4 != 0 || recField r 7 32 32 != 0

/-- The dies that a mask allows (R150). -/
def State.allowedDies (s : State) (mask : Nat) : Nat :=
  if mask = 0 then s.diesIn.length else popcount 16 mask

/-- The successor handles of a record, none where they cannot be read (R150, R293): a list that is held up is waited for, and
a non-resident one traps (R19). What has been found when another operation of the bundle is sent is not read again (R173). -/
def State.successors (s : State) (oc : OpCtx) (r : List Word) (k : Option (List Word × List RcEnt) → Res) : Res :=
  let n := recField r 5 32 32
  let p := recField r 6 0 64
  let was := s.my.passed.getD {}
  if n = 0 then k (some ([], [])) else
  if !was.more.isEmpty then k (some (was.more, [])) else
  let x := s.translate 0 .load (spanReqs p (8 * n))
  if x.moving then .stall else
  match x.held, x.nonres with
  | some a, _ => .wait 0 (some (11, BitVec.ofNat 64 a)) id
  | none, some a => .trap 0x0A (BitVec.ofNat 64 a)
  | none, none =>
    let f := (s.perform { newFlight s oc clsSR false 0 0 .read with pieces := x.pieces, fails := x.fails }).1
    if !f.fails.isEmpty then k none
    else k (some ((List.range n).map fun i => BitVec.ofNat 64 ((gather f.got (p + 8 * i) 8).getD 0), x.used))

/-- The statuses of R150 below 9 that apply, lowest first. -/
def State.postStatus (s : State) (r : List Word) : Option Nat :=
  let u := s.my.level == .u
  let cls := recField r 3 32 8
  let w := recField r 4 0 32
  let mask := recField r 7 16 16
  let checks : List (Nat × Bool) :=
    [(1, decide (cls > 2) || (cls == 0 && u)), (2, (cls == 1) == (recField r 2 0 64 == 0)),
     (3, u && recField r 7 0 16 != s.my.sup.owner.toNat),
     (4, w == 0 || (recField r 3 41 1 == 0 && (decide (w > 1536) || decide (w > 96 * s.allowedDies mask)))),
     (5, decide (recField r 4 32 32 > 512) || decide (recField r 3 48 8 > 2)),
     (6, recField r 0 0 4 != 0 || recField r 6 0 3 != 0 || decide (recField r 5 32 32 > 64) || postReserved r),
     (7, (s.postDie s.cur mask).isNone),
     (8, ((s.postDie s.cur mask).bind s.freeSlotOf).isNone)]
  (checks.find? (·.2)).map (·.1)

/-- A slice posted (R148 to R151): the handle goes to sd. -/
def State.post (s : State) (d : SReg) (r succs : List Word) : State :=
  match s.postDie s.cur (recField r 7 16 16) with
  | none => s
  | some die =>
    match s.freeSlotOf die with
    | none => s
    | some i =>
      let seq := s.harbour.postSeq + 1
      let t : Slot :=
        { live := true, rcd := r, seq := seq, preds := recField r 5 0 32, succs := succs, left := recField r 4 0 32,
          gangid := s.harbour.gangSeq + 1, since := (s.die die).atime }
      ((s.modHarbour fun h => { h with postSeq := seq, gangSeq := h.gangSeq + 1 }).modSlot die i fun _ => t).modMy
        (·.wx d (handleOf die i seq))

/-- JPOST (R293). -/
def opJpost (d a : SReg) : Op := fun oc s =>
  let ea := s.my.rx a
  let refuse (n : Nat) : Res := writes d (BitVec.ofNat 64 (2 ^ 63 + n))
  if ea.toNat % 64 ≠ 0 then .trap 0x03 0
  else if s.harbour.takeover then .stall
  else s.structRead oc ea.toNat 64 fun r =>
    match s.postStatus r with
    | some n => refuse n
    | none =>
      s.successors oc r fun l => match l with
      | none => refuse 9
      | some (succs, used) =>
        if succs.any (fun h => (s.slotOf h).isNone) then refuse 9
        else if (s.ownEnt (recField r 7 0 12)).isNone then refuse 10
        else .commit { run := fun t => (t.useEntries t.cur used).post d r succs, found := fun p => { p with more := succs } }

/-- JYIELD (R294). -/
def opJyield : Op := fun _ _ =>
  .commit { run := id
            after := fun t => t.modCore t.cur fun c =>
              (c.modEntry (·.st == .running) fun e => { e with yielded := true }).rerank }

/-- JDONE (R295): it releases what its own bundle has issued too (R117). -/
def opJdone : Op := fun _ s =>
  if s.my.handler then .trap 0x03 0
  else if s.releasing then .stall
  else .commit { run := id, after := fun t => if t.releasing then t.parkRunning t.cur else t.endRunning t.cur }

/-- An instance that has executed JDONE ends once what it has released has performed (R117, R295). -/
def State.endParked (s : State) (k : Nat) (e : QEntry) : State :=
  let w : Who := { core := k, owner := e.owner, dirbase := 0, lvl := .u, viol := false, area := e.area }
  let pushed := s.cores.any fun p => p.2.left.any fun l => l.owner == e.owner && l.area == e.area
  if s.pendingIn w 0x0F .package || pushed then s else (s.dropEntry k e).leaveSlice e true

/-- The slice of a handle has finished, failed or been ended (R296). -/
def State.sliceOver (s : State) (h : Word) : Bool :=
  match s.slotOf h with
  | none => true
  | some (_, _, t) => t.finished || t.failed

/-- JWAIT (R296). -/
def opJwait (a : SReg) : Op := fun _ s =>
  if s.sliceOver (s.my.rx a) then commits id else .wait 0 (some (5, s.my.rx a)) id

/-- JDEC (R296). -/
def opJdec (a : SReg) : Op := fun _ s =>
  let h := s.my.rx a
  if s.releasing then .stall else commits fun t => t.decrement h

/-- The word that a watch sees, or the error of its block (R297). -/
def State.watched (s : State) (l : Loc) (off : Nat) : Except Nat Word :=
  match s.homeRead false l with
  | .ok b => .ok (blkWord b off)
  | .error e => .error e

/-- WAITA (R297): a word that cannot be read commits at once, logged and counted as a load. The range cache is filled when its
bundle commits (R24, R172). -/
def opWaita (a b : SReg) : Op := fun oc s =>
  let ea := (s.my.rx a).toNat
  let want := s.my.rx b
  let blocked : Option (Nat × Word) := some (6, s.my.rx a)
  let x := s.translate 0 .load (spanReqs ea 8)
  if ea % 8 ≠ 0 then .trap 0x03 0
  else match s.my.ewait with
    | .reported => commits fun t => t.useEntries t.cur x.used
    | .watch _ _ _ => .wait 0 blocked id
    | _ =>
      if x.moving then .stall
      else match x.held, x.nonres with
        | some a, _ => .wait 0 (some (11, BitVec.ofNat 64 a)) id
        | none, some a => .trap 0x0A (BitVec.ofNat 64 a)
        | none, none =>
          let f := { newFlight s oc clsSR false 0 0 .read with fails := x.fails }
          match x.pieces with
          | [] => commits fun t => (t.useEntries t.cur x.used).report f
          | p :: _ =>
            if !s.inView s.cur p.loc then .stall else
            match s.watched p.loc (ea % 64) with
            | .error e => commits fun t => (t.useEntries t.cur x.used).report { f with fails := [⟨ea, e, true, p.strict⟩] }
            | .ok v =>
              if v = want then
                .wait 0 blocked fun t => t.modMy fun h => { h with ewait := .watch p.loc (ea % 64) want }
              else commits fun t => t.useEntries t.cur x.used

/-- A watch of a core has something to report, which has reached it (R102): the word differs, or can no longer be read. -/
def State.reports (s : State) (k : Nat) (l : Loc) (off : Nat) (want : Word) : Bool :=
  s.inView k l && match s.watched l off with
  | .ok v => v != want
  | .error _ => true

/-- The homes of watched words report those that differ (R297, R146). -/
def State.scanWatches (s : State) : State :=
  { s with cores := s.cores.map fun p =>
      let c := p.2
      (p.1, { c with
        hart := match c.hart.ewait with
          | .watch l o w => if s.reports p.1 l o w then { c.hart with ewait := .reported } else c.hart
          | _ => c.hart
        queue := c.queue.map fun e => match e.watch with
          | some (l, o, w) => if s.reports p.1 l o w then { e with watch := none } else e
          | none => e }) }

/-- An interval put among others in order of its start. -/
def insertIval (p : Nat × Nat) : List (Nat × Nat) → List (Nat × Nat)
  | [] => [p]
  | q :: qs => if p.1 < q.1 then p :: q :: qs else q :: insertIval p qs

/-- The length of what intervals, in order of their starts, cover from a point up to a limit. -/
def covered (at_ hi : Nat) : List (Nat × Nat) → Nat
  | [] => 0
  | p :: ps =>
    let lo := max at_ p.1
    let e := min hi p.2
    (e - lo) + covered (max at_ e) hi ps

/-- The bytes of an interval that no range backs, of those usable (R58). -/
def State.freeBytes (s : State) (lo hi : Nat) (gone : List (Nat × Nat)) : Nat :=
  let occ := (s.allRanges.map fun r => (r.2.2.2.pa, r.2.2.2.pa + r.2.2.2.size)) ++ gone
  (hi - lo) - covered lo hi (occ.foldl (fun l p => insertIval p l) [])

/-- The HBM interval of a die, and of a region in it (R13). -/
def hbmBase (d : Nat) : Nat := d * 0xC00000000
/-- The retired regions of a die as intervals. -/
def State.hbmHoles (s : State) (d : Nat) : List (Nat × Nat) :=
  (s.die d).hbmGone.map fun i => (hbmBase d + i * 0x10000000, hbmBase d + (i + 1) * 0x10000000)

/-- The fitted second tier in MiB (R58). -/
def State.tierMib (s : State) : Nat := 4194304 + s.link.expanders.sum

/-- The fitted pieces of the second tier. -/
def State.tiers (s : State) : List (Nat × Nat) :=
  (0x1000000000000, 0x1040000000000) :: tierPieces 0x1040000000000 s.link.expanders

/-- A capacity item of a die (R58), for the core in hand. -/
def State.capItem (s : State) (d x : Nat) : Nat :=
  let v := s.die d
  let up (n : Nat) : Nat := if v.inService then n else 0
  match x with
  | 0 => s.me.capgrid
  | 1 => s.me.capscr
  | 2 => up (32768 - 128 * v.cacheGone.length)
  | 3 => up (49152 - 256 * v.hbmGone.length)
  | 4 => up (s.freeBytes (hbmBase d) (hbmBase (d + 1)) (s.hbmHoles d) / 2 ^ 20)
  | 5 => s.tierMib
  | 6 => ((s.tiers.map fun p => s.freeBytes p.1 p.2 []).sum) / 2 ^ 20
  | 7 => up ((List.range 96).filter fun i => (s.core (96 * d + i)).inService).length
  | 8 => s.diesIn.length
  | _ => 0

/-- CAPQ (R298): for items 0 and 1 the die is ignored. -/
def opCapq (d a : SReg) (x : BitVec 8) : Op := fun _ s =>
  let n := (s.my.rx a).toNat
  if 1 < x.toNat ∧ 15 < n then .trap 0x03 0
  else commits fun t => t.modMy (·.wx d (BitVec.ofNat 64 (t.capItem n x.toNat)))

/-- A capacity item of a core (R298). -/
def Core.capItem (c : Core) (x : Nat) : Nat :=
  match x with
  | 0 => c.capgrid
  | 1 => c.capscr
  | 2 => 64 - c.queue.length
  | 3 => c.inService.toNat
  | _ => 0

/-- CAPR (R298). -/
def opCapr (d a : SReg) (x : BitVec 8) : Op := fun _ s =>
  let k := (s.my.rx a).toNat
  if 1536 ≤ k then .trap 0x03 0
  else commits fun t => t.modMy (·.wx d (BitVec.ofNat 64 ((t.core k).capItem x.toNat)))

end Sys2Proof.Machine
end

