-- ==== Sys2Proof/Machine/Switch.lean ====
section
/-! DEFINITION. Bundle fetch (R19, R27, R28), and switching contexts: switch-out (R183 to R186) with bundles committed in
absence (R184), switch-in (R188, R194), the checks of a restore (R193) and the restore itself (R182). -/

namespace Sys2Proof.Machine

/-- How the fetch of a bundle ends. -/
inductive Fetched where
  | bundle (b : Nat) (used : List RcEnt)
  | trap (cause : Nat)
  | held
  | moving

/-- The bundle at an address, fetched in someone's name (R19, R28): a failure of any kind is a fetch violation. -/
def State.fetch (s : State) (w : Who) (pc : Nat) : Fetched :=
  match s.xl w (s.cacheOf w) 0 .fetch (pc / 64 * 64) with
  | .ok loc _ used =>
    if !s.inView w.core loc then .moving else
    match s.homeRead false loc with
    | .ok b => .bundle (b.toNat / 2 ^ (8 * (pc % 64)) % 2 ^ 128) used
    | .error _ => .trap 0x09
  | .nonresident => .trap 0x0A
  | .held => .held
  | .moving => .moving
  | _ => .trap 0x09

/-- The operation in a slot of a bundle value. -/
def slotOp (b slot : Nat) : Option Instr :=
  match decodeBundle b with
  | .ok d => (d.ops.find? (·.1 == slot)).map (·.2)
  | .error _ => none

/-- The offset of the LOOP or VLOOP that a bundle value holds, by kind (R188). -/
def loopOffset (vloop : Bool) (b : Nat) : Option (BitVec 23) :=
  match decodeBundle b with
  | .ok d => d.ops.findSome? fun p => match p.2 with
    | .loop _ o => if vloop then none else some o
    | .vloop _ o => if vloop then some o else none
    | _ => none
  | .error _ => none

/-- The resident data of a core changed for a context: the resident context's segments go to its swap region, and,
unless it is fresh, the incoming one's come from its own (R194); a context that is resident already keeps them, under the
ALLOC restored. R67 does not say what an error on the way leaves: a scratchpad block with an uncorrectable error makes its
block of the swap region poisoned, and one of the swap region that answers with an error leaves the scratchpad block as it
is (log 82). -/
def State.swapScratch (s : State) (k : Nat) (area owner alloc : Nat) (fresh : Bool) : State :=
  let c := s.core k
  let place (a l : Nat) : Nat := a + 0x100000 + l * 0x1000
  let put (t : State) (a l : Nat) : State :=
    (List.range 64).foldl (fun t i => match (t.core k).scrRead (0x1000 * l + 64 * i) with
      | .ok b => match t.physWrite (place a l + 64 * i) 0 0 b (~~~0) with
        | .ok u => u
        | .error _ => t
      | .error e =>
        if e = 0x08 then t
        else { t with mem := { t.mem with marks := t.mem.marks.put (t.resolve (place a l + 64 * i) / 64) 0x11 } }) t
  let get (t : State) (a l : Nat) : State :=
    (List.range 64).foldl (fun t i => match t.physRead (place a l + 64 * i) 0 0 with
      | .ok b => match (t.core k).scrWrite (0x1000 * l + 64 * i) b (~~~0) with
        | .ok c => t.setCore k c
        | .error _ => t
      | .error _ => t) t
  let same := match c.resident with
    | some r => r.area == area
    | none => false
  if same then s.modCore k fun c => { c with resident := c.resident.map fun r => { r with alloc := alloc } } else
  let s := match c.resident with
    | some r => (List.range r.alloc).foldl (fun t l => put t r.area l) s
    | none => s
  let s := if fresh then s else (List.range alloc).foldl (fun t l => get t area l) s
  s.modCore k fun c => { c with resident := some { area := area, owner := owner, alloc := alloc } }

/-- The bundle at issue forgets what it has started. -/
def Hart.fresh (h : Hart) : Hart := { h with wait := .none, ewait := .none, passed := none }

/-- An access that a switch-out must not lose once it has been sent (R184): an atomic, a strict store or a strict vector load;
a scalar load is abandoned, strict or not, and a held LDNB with them (R119). -/
def Flight.lasting (f : Flight) : Bool := f.act != .read || (f.strict && f.vec)

/-- The hart's M or E operation has something under way that its bundle must not lose (R184): such an access sent, or a
directory edit. -/
def State.underWay (s : State) (k : Nat) : Bool :=
  let h := s.hart k
  (match h.wait with
   | .ask => s.flights.any fun f => f.ofCtx k h.sup.owner.toNat h.sup.saveptr.toNat && f.lasting &&
       match f.land with
       | .ask _ => true
       | _ => false
   | .answer f => f.lasting
   | _ => false) ||
  match h.ewait with
  | .edit _ => true
  | .edited _ => true
  | _ => false

/-- The bundle at issue as a save finds it (R184): committed in absence, or abandoned; a watch stays set (R146). -/
def State.leaveBundle (s : State) (k : Nat) : State :=
  let h := s.hart k
  let t := if s.underWay k then
      { s with absent := s.absent ++ [{ core := k, area := h.sup.saveptr.toNat, hart := h.stopLong }] }
    else s.forgetAsk k
  t.modCore k fun c =>
    { c.modEntry (·.st == .running) (fun e => { e with watch := match h.ewait with
        | .watch l o w => some (l, o, w)
        | _ => none }) with
      hart := c.hart.fresh }

/-- A saving trap that stands at a boundary, with the bundle at issue handled first (R178, R184); the RGINV that the
context waits for runs on without it (R35). -/
def State.trapSaving (s : State) (k cause : Nat) (addr : Word) : State :=
  let t := s.drain k
  match (t.core k).staging with
  | some _ => t
  | none =>
    ((t.leaveBundle k).trap k { cause := cause, addr := addr, slot := none, pc := (t.hart k).pc, save := true }).modCore k
      fun c => { c.unblock with hart := { c.hart with inval := none } }

/-- A switch-out for ranking or blocking (R183, R184, R185): none while the outgoing slot has not drained. -/
def State.switchOut (s : State) (k : Nat) : State :=
  let t := s.drain k
  match (t.core k).staging with
  | some _ => t
  | none =>
    let inval := (t.hart k).inval.isSome
    match (t.leaveBundle k).saveContext k (t.hart k).pc with
    | none => t
    | some u => u.modCore k fun c =>
        let c := c.modEntry (·.st == .running) fun e =>
          { e with st := if e.blk.kind ≠ 0 || inval then .waiting else .out
                   waited := if e.blk.kind ≠ 0 then (s.core k).waited else 0 }
        { c with hart := {}, active := false, wfi := false, preempt := false, waited := 0 }

/-- The supervisor's words with which an entry's context starts or resumes: those of the owner table (R158, R188). -/
def State.supOf (s : State) (base : Sup) (e : QEntry) : Sup :=
  let b := { base with saveptr := BitVec.ofNat 64 e.area }
  match s.ownEnt e.owner with
  | some o => { b with dirbase := o.dirbase, trapvec := o.trapvec, violmode := o.violmode }
  | none => { b with dirbase := e.dirbase, trapvec := e.trapvec, violmode := e.violmode }

/-- The partner of a ring binding found again by its handle and BASE (R276, R187). -/
def State.findPartner (s : State) (q : Queue) (idx : Nat) : Queue :=
  match q.partner with
  | none => q
  | some (_, _, hd) =>
    let es := s.cores.flatMap fun p => p.2.queue.filter fun e => e.handle == hd && e.idx != idx
    let hit := es.findSome? fun e => (List.range 4).findSome? fun i =>
      match s.memberQueue hd e.idx i with
      | some (_, _, r) => if q.ringEnds r then some (e.idx, i) else none
      | none => none
    { q with partner := hit.map fun p => (p.1, p.2, hd) }

/-- A fetch of a switch-in's third and fourth steps: what it found, or the trap that it makes due (R188). -/
def State.refetch (s : State) (k : Nat) (pc bad : Nat) (f : Nat → Option α) : Except DueTrap α :=
  match s.fetch (s.who k) pc with
  | .bundle b _ => match f b with
    | some x => .ok x
    | none => .error { cause := 0x0B, addr := BitVec.ofNat 64 bad }
  | .trap c => .error { cause := c, addr := BitVec.ofNat 64 pc }
  | _ => .error { cause := 0x09, addr := BitVec.ofNat 64 pc }

/-- Such a fetch is held up: the switch-in waits for it (R40, R56, R188). -/
def State.fetchHeld (s : State) (k : Nat) (pc : Word) : Bool :=
  match s.fetch (s.who k) pc.toNat with
  | .held => true
  | .moving => true
  | _ => false

/-- The loop entries of a loaded context, with the last bundles of their bodies; and the trap that is due where a bundle
cannot be fetched or holds no such loop (R188). An entry whose last bundle has been found keeps it. -/
def State.reloop (s : State) (k area : Nat) : Nat → List LoopEnt → List LoopEnt × List DueTrap
  | _, [] => ([], [])
  | i, e :: es =>
    if e.last ≠ e.start then match s.reloop k area (i + 1) es with
      | (l, d) => (e :: l, d)
    else match s.refetch k e.start.toNat (area + 512 + 16 * i) (loopOffset e.vloop) with
    | .ok o => match s.reloop k area (i + 1) es with
      | (l, d) => ({ e with last := e.start + o.setWidth 64 * 16 } :: l, d)
    | .error d => (e :: es, [d])

/-- Partial operations resume (R188 step 4, R177): the vector operation, then the OPA, with their busy bits. -/
def Hart.resumePartial (h : Hart) : Hart :=
  let h := match h.pvec with
    | some l => { h with long := some { l with src := h.readGrid, needs := [] }, pvec := none
                         grid := { h.grid with busy := h.grid.busy ||| rowBits l.rows } }
    | none => h
  match h.popa with
  | some o => { h with opas := h.opas ++ [o], popa := none, grid := { h.grid with busy := h.grid.busy ||| halfBits o.half } }
  | none => h

/-- A partial vector operation with its instruction and its mask operand read again (R177). Where its bundle cannot be fetched,
or holds no operation in its slot, R188 names no trap: it takes that of step 3, and for a bundle that holds none the address of
VBUNDLE (log 89). -/
def State.repvec (s : State) (k area : Nat) (l : LongOp) : Except DueTrap LongOp :=
  match s.refetch k l.pc.toNat (area + 104) (fun b => slotOp b l.slot) with
  | .ok i =>
    let cap := if maskUse i = .off then { l.cap with mask := none } else l.cap
    .ok { l with instr := some i, cap := cap }
  | .error d => .error d

/-- A partial OPA with its operands read again from its bundle and its queues (R177); what cannot be read takes a trap as a
vector operation's does, with the address of OBUNDLE (log 89). -/
def State.repopa (s : State) (k area : Nat) (h : Hart) (o : OpaRun) : Except DueTrap OpaRun :=
  let op (b : Nat) : Option Instr := match slotOp b o.slot with
    | some (.opa f qa qb n w) => some (.opa f qa qb n w)
    | _ => none
  match s.refetch k o.pc.toNat (area + 112) op with
  | .ok (.opa f qa qb n w) =>
    let fmt (q : QReg) : Nat × Queue :=
      let q := h.queue q.toNat
      (match s.queueFmt (s.streamWho k) q with
       | .ok f => f
       | .error _ => 0, q)
    let geom (q : Queue) : Nat := (tensorGeom q.rcd (s.rangeFor (s.streamWho k) (recSpace q.rcd) (recBase q.rcd))).1
    .ok { o with half := f.toNat, qa := qa.toNat, qb := qb.toNat, neg := n == 1, ovw := w == 1, fa := (fmt qa).1,
                 fb := (fmt qb).1, blenA := geom (fmt qa).2, blenB := geom (fmt qb).2 }
  | .ok _ => .ok o
  | .error d => .error d

/-- A queue of a loaded context with what the device has kept of its SBIND (R69, R276). -/
def Queue.withKept (q : Queue) (i core : Nat) (x : Option Kept) : Queue :=
  match x.bind fun x => x.binds.find? (·.1 == i) with
  | some (_, pc, slot, cluster) => { q with pc := pc, slot := slot, cluster := cluster }
  | none => { q with cluster := clusterOf core }

/-- The queues of a loaded context: partners found again, and formats settled where entries are held (R187, R301). -/
def State.requeue (s : State) (k : Nat) (h : Hart) : Tbl Queue :=
  h.queues.map fun p =>
    let x := s.kept.find? (·.of h.sup.owner.toNat h.sup.saveptr.toNat)
    let q := (s.findPartner p.2 h.ident.gangidx.toNat).withKept p.1 k x
    if q.bind = 0 then (p.1, q) else
    match s.queueFmt (s.streamWho k) q with
    | .ok f =>
      let g := tensorGeom q.rcd (s.rangeFor (s.streamWho k) (recSpace q.rcd) (recBase q.rcd))
      let n := q.entries.length
      let back := (List.range n).foldl (fun (l : List (Nat × Nat)) _ =>
        prevPlace q.rcd f (l.headD (q.win, q.pos)) :: l) []
      (p.1, { q with
        fmt := if q.count = 0 ∧ n = 0 then none else some f
        blen := g.1, bdim := g.2
        entries := (q.entries.zip back).map fun e => { e.1 with win := e.2.1, pos := e.2.2 } })
    | .error _ => (p.1, q)

/-- The missing half of a hart placed or switched in on a core (R51). -/
def Core.missing (c : Core) : Option Nat :=
  match c.capgrid with
  | 0 => some 2
  | 1 => some 1
  | _ => none

/-- The strip interval of a loaded context: the one in which it was switched out (R109, R110), or a new one. -/
def State.resumeInterval (s : State) (k owner area : Nat) : State :=
  match s.kept.find? (·.of owner area) with
  | some x => { s.modHart k fun h => { h with interval := x.interval } with kept := s.kept.filter fun y => !y.of owner area }
  | none => s.newInterval k

/-- The bundles that steps 3 and 4 of R188 fetch for a context. -/
def Hart.recalls (h : Hart) : List Word := h.loops.map (·.start) ++ (h.pvec.map (·.pc)).toList ++ (h.popa.map (·.pc)).toList

/-- Steps 3 and 4 of R188 for a context that is on its core, before the traps that are due besides: the loop entries find their
last bundles, and partial operations resume. A fetch that fails makes its trap due, and the steps are made again when the
handler of that trap returns (R196, log 89). -/
def State.recall (s : State) (k area : Nat) (due : List DueTrap) : State :=
  let h := s.hart k
  let (ls, d1) := s.reloop k area 0 h.loops
  let (pv, d2) := match h.pvec with
    | none => (none, [])
    | some l => match s.repvec k area l with
      | .ok l => (some l, [])
      | .error d => (some l, [d])
  let (po, d3) := match h.popa with
    | none => (none, [])
    | some o => match s.repopa k area h o with
      | .ok o => (some o, [])
      | .error d => (some o, [d])
  let bad := (d1 ++ d2 ++ d3).take 1
  s.modHart k fun h =>
    let h := { h with loops := ls, pvec := pv, popa := po, due := bad ++ due ++ h.due, reread := !bad.isEmpty }
    if bad.isEmpty then h.resumePartial else h

/-- A context loaded on a core from its area (R188): registers, queues, loops, partial operations and what is due; the
core, its hart and its ALLOC are set, and its scratch is swapped in (R194). None while a bundle that it must fetch is held
up. -/
def State.loadContext (s : State) (k : Nat) (e : QEntry) (base : Hart) (level : Level) : Option State :=
  let rd : AreaRd := s.areaGet e.area e.owner
  let alloc := rd 424 8
  let base := { base with sup := s.supOf base.sup e
                          ident := { base.ident with counted := e.counted, indexed := e.indexed } }
  let s := s.swapScratch k e.area e.owner alloc false
  let c := s.core k
  let h := { areaHart rd base with
    level := level
    missingHalf := c.missing
    swapped := c.gridGone.getLsbD 0
    inval := (s.ranges.invals.find? fun v => match v.what with
      | .hart _ a => a == e.area && e.area != 0
      | _ => false).map (·.id) }
  let s := s.modCore k fun c =>
    { c with active := true, hart := h, wfi := false, preempt := false, alloc := BitVec.ofNat 8 alloc
             waited := if e.blk.kind ≠ 0 then e.waited else 0 }
  if h.recalls.any (s.fetchHeld k) then none else
  let s := s.modHart k fun _ => { h with queues := s.requeue k h }
  some ((s.recall k e.area e.due).resumeInterval k h.sup.owner.toNat e.area)

/-- A core has less than a context in an area holds (R193 item 3, R59): two grid halves, its scratch allocation, or a wider
row than a VLCAP in force. -/
def State.overCapacity (s : State) (k area owner vlcap : Nat) (grid2 : Bool) : Option (Nat × Word) :=
  let rd : AreaRd := s.areaGet area owner
  let c := s.core k
  if (c.capgrid < 2 ∧ (rd.field 2 1 1 = 1 ∨ grid2)) ∨ c.capscr < 4 * rd 424 8 ∨ vlcap < rd 400 8 then
    some (0x10, BitVec.ofNat 64 (3 * 2 ^ 60))
  else none

/-- The first check of R193 that an area fails: cause and TRAPADDR. `owner` and `vlcap` are those the rule compares with;
`grid2` says that the slice needs two halves. -/
def State.restoreBad (s : State) (k area owner vlcap : Nat) (grid2 : Bool) : Option (Nat × Word) :=
  let hdr : AreaRd := s.areaGet area 0
  let rd : AreaRd := s.areaGet area (hdr 74 2 % 4096)
  if hdr 74 2 ≠ owner then some (0x03, 0)
  else match areaBad rd with
    | some o => some (0x0B, BitVec.ofNat 64 (area + o))
    | none => s.overCapacity k area (hdr 74 2 % 4096) vlcap grid2

/-- The area is not ready to be restored: a save into it has still to complete, from its start in the staging slot on, a bundle
committed in absence to resolve, or a group of a vector load to be written (R188, R192, R263). -/
def State.areaBusy (s : State) (area owner : Nat) : Bool :=
  s.areaGet area 0 2 1 % 2 == 1 || s.absentAt area ||
  (s.cores.any fun p => match p.2.staging with
    | some g => g.area == area
    | none => false) ||
  s.flights.any fun f => f.area == area && f.owner == owner && match f.land with
    | .groups _ _ => true
    | .decode _ _ _ _ _ _ => true
    | .frame _ _ _ _ _ => true
    | .saved _ => true
    | _ => false

/-- An access of a core to its own scratchpad has still to pass its bank: what has issued it is the resident context (R110). -/
def State.scratchOwed (s : State) (k : Nat) : Bool :=
  s.flights.any fun f => f.core == k && f.space == 1 && !f.pieces.isEmpty

/-- The core is free for a switch-in: in service, without a hart, with no segment being moved (R194, R56) and no access of the
departing context on its way to the scratchpad. -/
def State.coreFree (s : State) (k : Nat) : Bool :=
  let c := s.core k
  !c.active && c.inService && (s.die (dieOf k)).inService && c.evac.isEmpty && !s.scratchOwed k

/-- The entry that now holds the core. -/
def Core.take (c : Core) (area : Nat) : Core :=
  c.modEntry (·.area == area) fun e => { e with st := .running, yielded := false, relaunched := false, staged := false, due := [] }

/-- TRAPADDR of the notice that an instance of a late slice receives (R156). -/
def lateAddr (handle : Word) : Word := BitVec.ofNat 64 (handle.toNat % 2 ^ 48 + 2 ^ 63)

/-- The notices with which a fresh instance starts: one where its slice is late already (R156). -/
def State.lateNotices (s : State) (handle : Word) : List Notice :=
  match s.slotOf handle with
  | some (_, _, t) => if t.late then [{ cause := 0x12, addr := lateAddr handle }] else []
  | none => []

/-- A switch-in of the highest-ranked ready entry of a core (R154, R158, R188, R193, R194): a relaunched one passes every check
of R193, any other the capacity check, which a retirement may make it fail (R54, R59): a fresh one is saved with that trap at
its first boundary. The area holds no level: an ordinary
switch-in goes on at U (log 90). -/
def State.switchIn (s : State) (k : Nat) : State :=
  if !s.coreFree k then s else
  match (s.core k).next with
  | none => s
  | some e =>
    match e.st with
    | .fresh =>
      let c := s.core k
      let short := decide (c.capgrid < e.minGrid) || decide (c.capscr < 4 * e.alloc)
      let lacks : List DueTrap := if short then [{ cause := 0x10, addr := BitVec.ofNat 64 (3 * 2 ^ 60) }] else []
      let s := s.swapScratch k e.area e.owner e.alloc true
      let s := s.modCore k fun c =>
        { c.take e.area with
          active := true, wfi := false, preempt := false, waited := 0, alloc := BitVec.ofNat 8 e.alloc
          hart := { freshHart e with sup := s.supOf (freshHart e).sup e
                                     missingHalf := c.missing
                                     swapped := c.gridGone.getLsbD 0
                                     notices := s.lateNotices e.handle, due := lacks ++ e.due } }
      s.newInterval k
    | _ =>
      if s.areaBusy e.area e.owner then s else
      let bad := if e.relaunched then
          s.restoreBad k e.area e.owner (((s.ownEnt e.owner).map (·.vlcap)).getD e.vlcap) (e.minGrid == 2)
        else s.overCapacity k e.area e.owner 4095 (e.minGrid == 2)
      let t := s.modCore k (·.take e.area)
      let base := freshHart e
      match bad with
      | none => (t.loadContext k e base .u).getD s
      | some (c, a) =>
        let base := { base with sup := s.supOf base.sup e }
        t.modCore k fun d =>
          { d with active := true, wfi := false, preempt := false, waited := 0
                   hart := base.enter { cause := c, addr := a, slot := none, save := true,
                                        pc := BitVec.ofNat 64 (s.areaGet e.area e.owner 8 8 / 16 * 16) } true }

/-- A distributor stages the context of the highest-ranked ready entry, and then raises the pre-emption event for it
where it outranks the running hart (R183, R188). -/
def State.stage (s : State) (k : Nat) : State :=
  match (s.core k).next with
  | some e =>
    if e.st == .out && !e.staged && !s.areaBusy e.area e.owner then
      s.modCore k fun c => (c.modEntry (·.area == e.area) fun x => { x with staged := true }).rerank
    else s
  | none => s

/-- The hart of an absent bundle as its area now has what the device keeps there: counts, notices, PEND, DEADLINE and
BUDGET (R184, R181, R190). -/
def State.absentHart (s : State) (h : Hart) (area : Nat) : Hart :=
  let rd : AreaRd := s.areaGet area h.sup.owner.toNat
  let b := areaHart rd h
  { h with
    ctl := { h.ctl with errcnt := b.ctl.errcnt, violcnt := b.ctl.violcnt }
    notices := b.notices, pend := b.pend
    ident := { h.ident with deadline := b.ident.deadline, budget := b.ident.budget } }

/-- Rows that two grids hold differently. -/
def changedRows (g h : Grid) : List Nat := (List.range 128).filter fun r => g.rows.get r != h.rows.get r

/-- What a resolved bundle changed, written into its area (R184): all but the rows that it left alone; SIP stays 1. A long
operation that it issued has all its work left, and is partial (R177). -/
def State.putAbsent (s : State) (area alloc : Nat) (old new : Hart) : State :=
  let rows := changedRows old.grid new.grid
  let g := new.stopLong
  let h := { g with grid := { g.grid with dirty := rowBits rows } }
  let was := s.areaGet area 0 80 16
  let saved := s.areaGet area 0 48 8
  let img := (imageOf h alloc saved s.count).filter fun c => c.1 ≠ 57472
  let t := img.foldl (fun t c => match t.areaPut area new.sup.owner.toNat c.1 c.2.1 c.2.2 with
    | .ok u => u
    | .error _ => t) s
  let both := (BitVec.ofNat 128 was ||| BitVec.ofNat 128 (t.areaGet area 0 80 16)).toNat
  match t.areaPut area 0 80 16 both with
  | .ok u => u
  | .error _ => t

/-- The trap that a bundle committed in absence met, recorded in words 13 and 14 (R184, R189). -/
def State.putAbsentTrap (s : State) (area : Nat) (h : Hart) : State :=
  let w14 := h.sup.trapcause.toNat % 256 + h.sup.trapslot.toNat % 4 * 256 + 2 ^ 63
  let put (t : State) (o v : Nat) : State := match t.areaPut area h.sup.owner.toNat o 8 v with
    | .ok u => u
    | .error _ => t
  put (put s 488 h.sup.trapaddr.toNat) 496 w14

/-- The core of an absent context's entry with that entry and its hart in place (R184). -/
def Core.standIn (c : Core) (area : Nat) (h : Hart) : Core :=
  { c with
    active := true, hart := h
    queue := c.queue.map fun e =>
      if e.area = area then { e with st := .running } else if e.st = .running then { e with st := .out } else e }

/-- The core as it was, with what the bundle did to its queue and devices. -/
def Core.standBack (c old : Core) : Core :=
  { c with
    active := old.active, hart := old.hart, wfi := old.wfi, evict := old.evict, preempt := old.preempt
    waited := old.waited
    queue := c.queue.map fun e => match old.queue.find? (·.area == e.area) with
      | some o => { e with st := o.st, blk := o.blk }
      | none => e }

/-- A switched-out context as the one in whose name the stream unit goes on for it (R147). -/
def State.awayWho (s : State) (k : Nat) (e : QEntry) : Who :=
  let b := s.supOf {} e
  { core := k, owner := e.owner, dirbase := b.dirbase.toNat, lvl := .u, viol := b.violmode, area := e.area }

/-- A queue of a switched-out context, as its save holds it. -/
def State.awayQueue (s : State) (k : Nat) (e : QEntry) (i : Nat) : Queue :=
  (s.findPartner (areaQueue (s.ctxGet e.area e.owner) i) e.idx).withKept i k (s.kept.find? (·.of e.owner e.area))

/-- The stream unit goes on fetching for a read binding of a switched-out context (R146, R147), one that a trap or an eviction has
saved among them: the entry joins those that the save holds. A strip that meets a fault is left for the context to meet. -/
def State.prefetchAway (s : State) (k : Nat) (e : QEntry) (i : Nat) : State :=
  let q := s.awayQueue k e i
  let h := s.hart k
  let here := e.st == .running && !(h.handler && h.saved)
  if e.st == .fresh || e.st == .ended || here || s.absentAt e.area || !s.fetches q then s else
  match { s with pick := none }.fetchEntry (s.awayWho k e) q false with
  | some (r, t) =>
    if r.fault.isSome then s else
    let t := { t with pick := s.pick }
    (t.ctxPut e.area e.owner (7744 + 4112 * i) 4112 (imageQueue r t.count)).ctxPut e.area e.owner (24192 + 128 * i) 128 (imageBinding r)
  | none => s

end Sys2Proof.Machine
end

