-- ==== Sys2Proof/Machine/System.lean ====
section
/-! DEFINITION. The system instructions: SVC, BRK, ERET, WFI, RCFLUSH, KEYSEL, HALT and ERRLOG (R241 to R246, R182), and
what becomes of an instance that is lost with its core or die (R170). -/

namespace Sys2Proof.Machine

/-- SVC (R241): the bundle commits, and then traps with TRAPPC naming the next one. -/
def opSvc (_c : BitVec 16) : Op := fun oc _ =>
  .commit
    { run := id
      after := fun t => t.trap t.cur { cause := 0x18, addr := 0, slot := some oc.slot, pc := (t.hart t.cur).pc, save := false } }

/-- BRK (R241). -/
def opBrk (_c : BitVec 16) : Op := fun _ _ => .trap 0x19 0

/-- WFI (R242): it commits, and then nothing issues until a wake. -/
def opWfi : Op := fun _ _ =>
  .commit { run := id, after := fun t => t.modCore t.cur fun c => { c with wfi := true, waited := 0 } }

/-- RCFLUSH (R243, R26). -/
def opRcflush : Op := fun _ _ => commits fun t => t.modCore t.cur fun c => { c with cache := [] }

/-- The number of the key that a block of 64 bytes holds; 0 is the erased key (log 9). -/
def keyNumber (b : BitVec 512) : Nat := b.toNat + 1

/-- An owner's key installed from the key block at a physical address (R244). A block that cannot be read gives a key that
the spec does not name: a free value (log 13). -/
def State.installKey (s : State) (owner pa : Nat) : State :=
  let key := match s.physRead pa 0 0 with
    | .ok b => keyNumber b
    | .error _ => Config.freshKey s.count
  s.modLink fun l => { l with keys := l.keys.put owner key }

/-- KEYSEL (R244). -/
def opKeysel (a b : SReg) : Op := fun _ s =>
  let owner := (s.my.rx a).toNat
  let pa := (s.my.rx b).toNat
  if s.my.level != .f then .trap 0x04 0
  else if owner = 0 ∨ 4095 < owner ∨ pa % 64 ≠ 0 then .trap 0x03 0
  else commits fun t => t.installKey owner pa

/-- The log word that ERRLOG reads (R246). -/
def Core.logWord (c : Core) (a : Word) : Word :=
  let e := c.errlog.get (a.toNat % 16)
  if a.getLsbD 7 then
    BitVec.ofNat 64 (pack [(0, ((List.range 16).map fun i => if (c.errlog.get i).info.getLsbD 63 then 2 ^ i else 0).sum),
      (16, c.logOver.toNat)])
  else if !e.info.getLsbD 63 then 0
  else match a.toNat / 16 % 4 with
    | 0 => e.addr
    | 1 => e.time
    | 2 => e.info
    | _ => e.pc

/-- What FREE clears (R246). -/
def Core.logFree (c : Core) (a : Word) : Core :=
  if !a.getLsbD 6 then c
  else if a.getLsbD 7 then { c with logOver := 0 }
  else { c with errlog := c.errlog.mod (a.toNat % 16) fun e => { e with info := e.info &&& ~~~(BitVec.twoPow 64 63) } }

/-- ERRLOG (R246): the read and its free are one step. -/
def opErrlog (d a : SReg) : Op := fun _ s =>
  let v := s.my.rx a
  if 256 ≤ v.toNat ∨ (v.getLsbD 7 ∧ v.toNat % 64 ≠ 0) then .trap 0x03 0
  else commits fun t =>
    let w := t.me.logWord v
    t.modCore t.cur fun c => let c := c.logFree v; { c with hart := c.hart.wx d w }

/-- A core can take an existing entry, whose save area it keeps (R157). -/
def State.fits (s : State) (e : QEntry) (k : Nat) : Bool :=
  let c := s.core k
  dieAllowed e.dies (dieOf k) && (s.die (dieOf k)).inService && c.inService && decide (e.minGrid ≤ c.capgrid) &&
  decide (4 * e.alloc ≤ c.capscr) && decide (c.queue.length < 64)

/-- The core of some that fits an entry with the fewest entries ranking at or above it, the lower id on a tie (R157). -/
def State.bestFor (s : State) (e : QEntry) (ks : List Nat) : Option Nat :=
  (ks.foldl (fun (b : Option (Nat × Nat)) k =>
    if s.fits e k then
      let n := (s.core k).above e
      match b with
      | none => some (n, k)
      | some (m, j) => if n < m then some (n, k) else some (m, j)
    else b) none).map (·.2)

/-- Every member of a slice ended without its context (R170): its entries leave their queues. -/
def State.dropMembers (s : State) (h : Word) : State :=
  s.cores.foldl (fun s p =>
    p.2.queue.foldl (fun s e => if e.handle == h then s.dropEntry p.1 e else s) s) s

/-- A slot of a slice that starts anew (R170): nothing handed out, nobody at its barrier. -/
def Slot.anew (t : Slot) (now : Word) : Slot :=
  { t with handedOut := 0, left := t.width, running := 0, redo := [], arrived := [], pending := [], opens := [],
           episode := 0, gone := [], since := now }

/-- An instance lost with its core or die (R170): placed anew where its slice has REISSUE, a gang as a whole; otherwise
its slice fails. A slice none of whose dies is in service fails too. -/
def State.loseInstance (s : State) (k : Nat) (e : QEntry) : State :=
  match s.slotOf e.handle with
  | none => s.dropEntry k e
  | some (d, i, t) =>
    if e.st == .ended then (s.dropEntry k e).leaveSlice e true
    else if t.failed then (s.dropEntry k e).leaveSlice e false
    else if t.reissue && (List.range 16).any (fun d => dieAllowed t.dies d && (s.die d).inService) then
      if !t.indexed && decide (1 < t.width) then (s.dropMembers e.handle).modSlot d i (·.anew (s.die d).atime)
      else (s.dropEntry k e).modSlot d i fun t => { t with running := t.running - 1, redo := t.redo ++ [e.idx] }
    else ((s.dropEntry k e).leaveSlice e false).failSlice e.handle

/-- The entries of a core that has gone out of service moved, with their contexts, to cores of its die (R245): one for
which no core is eligible stays where it is. -/
def State.moveEntries (s : State) (k : Nat) : State :=
  let ks := (List.range 96).map (96 * dieOf k + ·)
  let s := s.modCore k fun c => c.modEntry (·.st == .running) fun e => { e with st := .out }
  (s.core k).queue.foldl (fun (t : State) (e : QEntry) =>
    match t.bestFor e ks with
    | some j =>
      let moved : QEntry := { e with staged := false }
      (t.modCore k fun c => { c with queue := c.queue.filter fun x => x.area != e.area }).modCore j fun c =>
        { c with queue := c.queue ++ [moved] }.rerank
    | none => t) s

/-- The resident context's segments written to its swap region, and the core without one (R194, R245). -/
def State.evictScratch (s : State) (k : Nat) : State :=
  (s.swapScratch k 0 0 0 true).modCore k fun c => { c with resident := none }

/-- A core taken out of service by HALT (R245). A context that its handler has saved counts as switched out. -/
def State.halt (s : State) (k : Nat) : State :=
  let h := s.hart k
  let s := s.modCore k fun c => { c with inService := false }
  let s := match (s.core k).running with
    | some e => if h.handler && h.saved then s else s.loseInstance k e
    | none => s
  let s := (s.drain k).evictScratch k
  (s.modCore k Core.idle).moveEntries k

/-- HALT (R245). -/
def opHalt : Op := fun _ s =>
  if s.my.level == .u then .trap 0x04 0 else .commit { run := id, after := fun t => t.halt t.cur }

/-- What an ERET with SAVED = 1 finds of the context at SAVEPTR (R182): its entry on this core, the core's own entry
to which a context without one passes, or none of it left here. -/
inductive Restored where
  | here (e : QEntry)
  | pass (e : QEntry)
  | bare
  | gone

/-- Which of them holds. -/
def State.restored (s : State) (k area : Nat) : Restored :=
  match s.entryOf area with
  | some (j, e) => if j = k then .here e else .gone
  | none => match (s.core k).running with
    | some e => .pass e
    | none => if (s.hart k).ident.handle = 0 then .bare else .gone

/-- The entry with which a hart that has none restores a context: its own supervisor's words. -/
def bareEntry (h : Hart) : QEntry :=
  { handle := 0, idx := 0, area := h.sup.saveptr.toNat, owner := h.sup.owner.toNat, cls := 0, deadline := 0, seq := 0,
    width := 1, gangid := 0, entry := 0, arg := 0, budget := h.ident.budget, counted := h.ident.counted,
    indexed := false, minGrid := 1, dies := 0, alloc := 0, dirbase := h.sup.dirbase, trapvec := h.sup.trapvec,
    violmode := h.sup.violmode, vlcap := h.sup.vlcap.toNat }

/-- The context of SAVEPTR switched in by an ERET (R182, R188, R193): at the level PREV (log 22); an entry that outranks it
raises its event again (R154). None while a bundle that it must fetch is held up. -/
def State.restoreContext (s : State) (k : Nat) (e : QEntry) : Option State :=
  let h := s.hart k
  let s := s.modCore k fun c => { c with left := c.left ++ c.hart.leftovers }
  let s := s.modCore k fun c =>
    { (c.modEntry (fun x => x.st == .running && x.area != e.area) fun x => { x with st := .out }).take e.area with
      wfi := false }
  (s.loadContext k e { sup := h.sup } (levelOf (h.sup.trapcause.toNat / 256 % 4))).map fun t => t.modCore k (·.rerank)

/-- An ERET with SAVED = 1 (R182, R193): it stalls while the area is not ready, or a segment of the scratchpad is being moved
(R56) or still to be reached (R110); a failing check is a precise trap that leaves the supervisor's state as it is, SAVED with it (log 23). -/
def eretSaved (oc : OpCtx) (s : State) : Res :=
  let k := s.cur
  let h := s.my
  let area := h.sup.saveptr.toNat
  let check (e : QEntry) (f : State → Option State) : Res :=
    if s.areaBusy area h.sup.owner.toNat || !s.me.evac.isEmpty || s.scratchOwed k then .stall
    else match s.restoreBad k area h.sup.owner.toNat h.sup.vlcap.toNat (e.minGrid == 2) with
      | some (c, a) => .trap c a false id true
      | none => if (f s).isNone then .stall else .commit { run := id, next := some oc.pc, after := fun t => (f t).getD t }
  match s.restored k area with
  | .here e => check e fun t => t.restoreContext k e
  | .pass e => check e fun t =>
      (t.modCore k fun c => c.modEntry (·.st == .running) fun x => { x with area := area }).restoreContext k { e with area := area }
  | .bare => check (bareEntry h) fun t => t.restoreContext k (bareEntry h)
  | .gone => .commit { run := id, next := some oc.pc, after := fun t => t.modCore k fun c => c.idle }

/-- A trap is left with SAVED = 0 (R182): partial operations resume, once what a switch-in could not fetch for its context has been
fetched (R188, log 89). -/
def State.leaveTrap (s : State) (k : Nat) : State :=
  let h := s.hart k
  if h.reread then
    (s.modHart k fun h => { ({ h with popa := none, pvec := none } : Hart).leave with popa := h.popa, pvec := h.pvec }).recall k
      h.sup.saveptr.toNat []
  else s.modHart k fun h => h.resumePartial.leave

/-- ERET (R242, R182). -/
def opEret : Op := fun oc s =>
  let h := s.my
  if h.level == .u || (h.level == .s && h.sup.trapcause.toNat / 256 % 4 == 2) then .trap 0x04 0
  else if h.saved then eretSaved oc s
  else if h.reread && h.recalls.any (fun pc => (s.modMy (·.leave)).fetchHeld s.cur pc) then .stall
  else .commit { run := id, next := some h.sup.trappc, after := fun t => t.leaveTrap t.cur }

end Sys2Proof.Machine
end

