-- ==== Sys2Proof/Machine/Issue.lean ====
section
/-! DEFINITION. Issuing a bundle: the meaning of every operation (`opOf`), the class limits and the destinations of a
bundle (R130, R198, R201), what is taken at a bundle boundary (R172, R175, R178, R181, R183), a core's turn, and the bundle
of a context that has left its core (R184). -/

namespace Sys2Proof.Machine

/-- An event is no operation: a bundle never holds one. -/
def noOp : Op := fun _ _ => .stall

/-- The operation that an instruction stands for. -/
def opOf (i : Instr) : Op :=
  match i with
  | .nop => opNop
  | .add d a b => opAdd d a b
  | .sub d a b => opSub d a b
  | .and d a b => opAnd d a b
  | .or d a b => opOr d a b
  | .xor d a b => opXor d a b
  | .sll d a b => opSll d a b
  | .srl d a b => opSrl d a b
  | .sra d a b => opSra d a b
  | .slt d a b => opSlt d a b
  | .sltu d a b => opSltu d a b
  | .min d a b => opMin d a b
  | .max d a b => opMax d a b
  | .minu d a b => opMinu d a b
  | .maxu d a b => opMaxu d a b
  | .csel d a b c => opCsel d a b c
  | .mul d a b => opMul d a b
  | .mulh d a b => opMulh d a b
  | .mulhu d a b => opMulhu d a b
  | .div d a b => opDiv d a b
  | .divu d a b => opDivu d a b
  | .rem d a b => opRem d a b
  | .remu d a b => opRemu d a b
  | .add32 d a b => opAdd32 d a b
  | .clz d a => opClz d a
  | .ctz d a => opCtz d a
  | .popc d a => opPopc d a
  | .fshl d a b n => opFshl d a b n
  | .fshr d a b n => opFshr d a b n
  | .bext d a b => opBext d a b
  | .bins d a b => opBins d a b
  | .sext d a n => opSext d a n
  | .addi d a imm => opAddi d a imm
  | .andi d a imm => opAndi d a imm
  | .ori d a imm => opOri d a imm
  | .xori d a imm => opXori d a imm
  | .slli d a n => opSlli d a n
  | .srli d a n => opSrli d a n
  | .srai d a n => opSrai d a n
  | .slti d a imm => opSlti d a imm
  | .sltiu d a imm => opSltiu d a imm
  | .lui d imm => opLui d imm
  | .addpc d imm => opAddpc d imm
  | .fadd d a b rm => opFadd d a b rm
  | .fsub d a b rm => opFsub d a b rm
  | .fmul d a b rm => opFmul d a b rm
  | .fdiv d a b rm => opFdiv d a b rm
  | .fsqrt d a rm => opFsqrt d a rm
  | .fmin d a b => opFmin d a b
  | .fmax d a b => opFmax d a b
  | .fma d a b rm => opFma d a b rm
  | .fcvtif d a rm => opFcvtif d a rm
  | .fcvtfi d a rm => opFcvtfi d a rm
  | .feq d a b => opFeq d a b
  | .flt d a b => opFlt d a b
  | .fle d a b => opFle d a b
  | .fclass d a => opFclass d a
  | .fcvtbf d a rm => opFcvtbf d a rm
  | .fcvtfb d a => opFcvtfb d a
  | .beq a b o => opBeq a b o
  | .bne a b o => opBne a b o
  | .blt a b o => opBlt a b o
  | .bge a b o => opBge a b o
  | .bltu a b o => opBltu a b o
  | .bgeu a b o => opBgeu a b o
  | .jal d o => opJal d o
  | .jalr d a imm => opJalr d a imm
  | .loop a o => opLoop a o
  | .vloop a o => opVloop a o
  | .setvl d a e g => opSetvl d a e g
  | .getc d c => opGetc d c
  | .setc a c => opSetc a c
  | .setci imm c => opSetci imm c
  | .ldb p d a imm => opLdb p d a imm
  | .ldbu p d a imm => opLdbu p d a imm
  | .ldh p d a imm => opLdh p d a imm
  | .ldhu p d a imm => opLdhu p d a imm
  | .ldw p d a imm => opLdw p d a imm
  | .ldwu p d a imm => opLdwu p d a imm
  | .ldd p d a imm => opLdd p d a imm
  | .stb p b a imm => opStb p b a imm
  | .sth p b a imm => opSth p b a imm
  | .stw p b a imm => opStw p b a imm
  | .std p b a imm => opStd p b a imm
  | .ldnb d a t z => opLdnb d a t z
  | .stva b a t z => opStva b a t z
  | .amo d a w op ord sc => opAmo d a w op ord sc
  | .amos d a w op ord sc => opAmos d a w op ord sc
  | .fence p q sc => opFence p q sc
  | .vld p v a imm m => opVld p v a imm m
  | .vlds p v a b m => opVlds p v a b m
  | .vldx p v a x m => opVldx p v a x m
  | .vst p v a imm m => opVst p v a imm m
  | .vsts p v a b m => opVsts p v a b m
  | .vstx p v a x m => opVstx p v a x m
  | .vstb p v a k => opVstb p v a k
  | .vldc p v a b => opVldc p v a b
  | .vspill p v a g => opVspill p v a g
  | .vfill p v a g => opVfill p v a g
  | .vstva v a t m => opVstva v a t m
  | .sbind a r q => opSbind a r q
  | .sunbind q => opSunbind q
  | .sstat d q => opSstat d q
  | .sskip a q => opSskip a q
  | .sflush q => opSflush q
  | .cpy d a => opCpy d a
  | .cpyw a => opCpyw a
  | .cpyq d a => opCpyq d a
  | .cpyx d a => opCpyx d a
  | .rgprobe d a => opRgprobe d a
  | .rgsplit d a => opRgsplit d a
  | .rgmerge d a => opRgmerge d a
  | .rginv a b => opRginv a b
  | .rgtouch a => opRgtouch a
  | .rgmove d a b h => opRgmove d a b h
  | .time d => opTime d
  | .twait a => opTwait a
  | .tstat d => opTstat d
  | .gbar d a => opGbar d a
  | .jpost d a => opJpost d a
  | .jyield => opJyield
  | .jdone => opJdone
  | .jwait a => opJwait a
  | .jdec a => opJdec a
  | .waita a b => opWaita a b
  | .capq d a x => opCapq d a x
  | .capr d a x => opCapr d a x
  | .tshape d a => opTshape d a
  | .opa h qa qb n o => opOpa h qa qb n o
  | .opz h => opOpz h
  | .gmov d r => opGmov d r
  | .gtrn h => opGtrn h
  | .gstat d => opGstat d
  | .gsave f c => opGsave f c
  | .gload f c => opGload f c
  | .gdirty d h => opGdirty d h
  | .gclr h => opGclr h
  | .vadd w d a b m => opVadd w d a b m
  | .vsub w d a b m => opVsub w d a b m
  | .vmul w d a b m => opVmul w d a b m
  | .vfma w d a b m => opVfma w d a b m
  | .vfms w d a b m => opVfms w d a b m
  | .vmin w d a b m => opVmin w d a b m
  | .vmax w d a b m => opVmax w d a b m
  | .vabs w d a m => opVabs w d a m
  | .vneg w d a m => opVneg w d a m
  | .vdiv w d a b m => opVdiv w d a b m
  | .vand w d a b m => opVand w d a b m
  | .vor w d a b m => opVor w d a b m
  | .vxor w d a b m => opVxor w d a b m
  | .vnot w d a m => opVnot w d a m
  | .vsll w d a b m => opVsll w d a b m
  | .vsrl w d a b m => opVsrl w d a b m
  | .vsra w d a b m => opVsra w d a b m
  | .vfshl w d a b m => opVfshl w d a b m
  | .vfshr w d a b m => opVfshr w d a b m
  | .vcmp w c k a b m => opVcmp w c k a b m
  | .vsel w d a b m => opVsel w d a b m
  | .vmv w d a m => opVmv w d a m
  | .vbcast w d x m => opVbcast w d x m
  | .vadds w d a x m => opVadds w d a x m
  | .vmuls w d a x m => opVmuls w d a x m
  | .vfmas w d a x m => opVfmas w d a x m
  | .vid w d m => opVid w d m
  | .vcvt w d a k m => opVcvt w d a k m
  | .vqnt w d a x m => opVqnt w d a x m
  | .vhad w d a k m => opVhad w d a k m
  | .vsfu w d a k m => opVsfu w d a k m
  | .vredsum w d a m => opVredsum w d a m
  | .vredmax w d a m => opVredmax w d a m
  | .vredmin w d a m => opVredmin w d a m
  | .vredamax w d a m => opVredamax w d a m
  | .vsegsum w d a k m => opVsegsum w d a k m
  | .vsegscan w d a k m => opVsegscan w d a k m
  | .vscan w d a m => opVscan w d a m
  | .vslideup w d a x m => opVslideup w d a x m
  | .vslidedn w d a x m => opVslidedn w d a x m
  | .vperm w d a b m => opVperm w d a b m
  | .vunpk w d a k m => opVunpk w d a k m
  | .vpack w d a k m => opVpack w d a k m
  | .vlut w d a b m => opVlut w d a b m
  | .vexpand w d a m => opVexpand w d a m
  | .vcompress w d a m => opVcompress w d a m
  | .vsparse w d a k m => opVsparse w d a k m
  | .vpop w d q m => opVpop w d q m
  | .vpush q a m => opVpush q a m
  | .vmand d a b => opVmand d a b
  | .vmor d a b => opVmor d a b
  | .vmxor d a b => opVmxor d a b
  | .vmnot d a => opVmnot d a
  | .vmpopc d a => opVmpopc d a
  | .vmfirst d a => opVmfirst d a
  | .vmfrom w k a m => opVmfrom w k a m
  | .vmto w d k m => opVmto w d k m
  | .vext w d a x m => opVext w d a x m
  | .vnrw w d a k m => opVnrw w d a k m
  | .vpopc w d a m => opVpopc w d a m
  | .vshrr w d a b m => opVshrr w d a b m
  | .vmulh w d a b m => opVmulh w d a b m
  | .vclz w d a m => opVclz w d a m
  | .svc c => opSvc c
  | .brk c => opBrk c
  | .eret => opEret
  | .wfi => opWfi
  | .rcflush => opRcflush
  | .keysel a b => opKeysel a b
  | .halt => opHalt
  | .errlog d a => opErrlog d a
  | .bundleFetch => noOp
  | .retrieverSearchEnd _ => noOp
  | .accessAtHome _ => noOp
  | .accessReply _ => noOp
  | .movedResponseResend _ => noOp
  | .dredgerLockRetry _ => noOp
  | .holderDrop _ _ => noOp
  | .rginvComplete _ => noOp
  | .fillRecord _ => noOp
  | .sliceDropComplete _ => noOp
  | .dredgerMove _ _ _ _ => noOp
  | .chunkOpen _ => noOp
  | .moveFinish _ => noOp
  | .scratchAccessComplete _ => noOp
  | .clusterScratchArrival _ => noOp
  | .gridHalfRetirement _ _ => noOp
  | .scratchBankRetirement _ _ => noOp
  | .dieCacheBankRetirement _ _ => noOp
  | .hbmRegionRetirement _ _ => noOp
  | .evacuatorSegmentMove _ => noOp
  | .evacuatorLineReadReturn _ => noOp
  | .evacuatorSegmentDone _ => noOp
  | .overCapacityFault _ => noOp
  | .manifestReference _ => noOp
  | .manifestRefusal _ => noOp
  | .dieFence _ => noOp
  | .segmentPlacement _ => noOp
  | .placementGraceExpiry _ => noOp
  | .ptpSourceEnable _ => noOp
  | .ptpSourceDisable => noOp
  | .ptpSync _ _ => noOp
  | .ptpFollowUp _ => noOp
  | .ptpDelayResp _ => noOp
  | .syncTimeout => noOp
  | .timedAccessArrival _ => noOp
  | .timedAccessDue _ => noOp
  | .timedAccessAccept _ => noOp
  | .missedDeadlineReport _ => noOp
  | .noticeTaken _ => noOp
  | .resumableTrap _ => noOp
  | .hostWrite _ _ _ => noOp
  | .hostRead _ _ => noOp
  | .hostCompletion _ => noOp
  | .peerInboundAccess _ _ _ _ => noOp
  | .peerAck _ => noOp
  | .gbarOpeningTime _ => noOp
  | .opaStep _ => noOp
  | .opaComplete _ _ => noOp
  | .longOperationComplete _ => noOp
  | .arrivalGroupLanded _ => noOp
  | .vldcDecodeEnd _ => noOp
  | .blockEnd _ => noOp
  | .blockSwitchOut _ => noOp
  | .blockedCauseClear _ _ => noOp
  | .placement _ _ => noOp
  | .gangPlacement _ _ => noOp
  | .switchOut _ => noOp
  | .switchIn _ => noOp
  | .saveDrain _ => noOp
  | .absentBundleResolved _ => noOp
  | .shareWindowStart _ => noOp
  | .shareTurn _ => noOp
  | .shareTurnEnd _ => noOp
  | .sliceDeadlinePassed _ _ => noOp
  | .budgetExhausted _ => noOp
  | .sheepdogSample => noOp
  | .heartbeat => noOp
  | .heartbeatTimeout _ => noOp
  | .eviction _ => noOp
  | .relaunch _ _ => noOp
  | .endInstance _ _ => noOp
  | .saveRestart _ _ => noOp
  | .copyStart _ => noOp
  | .copyEnd _ _ => noOp
  | .cpyxAck _ => noOp
  | .streamPrefetch _ _ => noOp
  | .streamEntryArrival _ _ => noOp
  | .streamEntryWrite _ _ => noOp
  | .waitaReport _ => noOp
  | .twaitExpiry _ => noOp
  | .wfiWake _ => noOp
  | .fundamentalReset => noOp
  | .functionLevelReset => noOp
  | .powerExcess _ => noOp
  | .thermalThrottle _ => noOp
  | .overpowerAtFloorTimeout _ => noOp
  | .moduleTrip _ => noOp
  | .hostWindowWrite _ _ _ => noOp
  | .circuitRequest _ _ => noOp
  | .circuitTeardown _ => noOp
  | .meshResize _ _ => noOp
  | .circuitActivation _ => noOp
  | .circuitDrainComplete _ => noOp
  | .routeChangeAck _ _ => noOp
  | .attestationRequest _ => noOp
  | .spdmRequest _ => noOp
  | .ownerKeyInstall _ _ => noOp
  | .ownerKeyRelease _ => noOp
  | .registerWrite _ _ _ => noOp
  | .contextStaged _ => noOp
  | .deputyTakeoverComplete => noOp
  | .clearMoveTransposeComplete _ => noOp
  | .throttleRelease _ => noOp

/-- The class of an operation: the top three bits of its slot (R198); the two codes of V are one class. -/
def classOf (i : Instr) : Nat :=
  let c := encodeWord i / 2 ^ 29
  if c = 5 then 4 else c

/-- The scalar registers that an operation writes; a write of s0 is none (R221). -/
def scalarDst (i : Instr) : List SReg :=
  let ds : List SReg := match i with
    | .add d _ _ => [d]
    | .sub d _ _ => [d]
    | .and d _ _ => [d]
    | .or d _ _ => [d]
    | .xor d _ _ => [d]
    | .sll d _ _ => [d]
    | .srl d _ _ => [d]
    | .sra d _ _ => [d]
    | .slt d _ _ => [d]
    | .sltu d _ _ => [d]
    | .min d _ _ => [d]
    | .max d _ _ => [d]
    | .minu d _ _ => [d]
    | .maxu d _ _ => [d]
    | .csel d _ _ _ => [d]
    | .mul d _ _ => [d]
    | .mulh d _ _ => [d]
    | .mulhu d _ _ => [d]
    | .div d _ _ => [d]
    | .divu d _ _ => [d]
    | .rem d _ _ => [d]
    | .remu d _ _ => [d]
    | .add32 d _ _ => [d]
    | .clz d _ => [d]
    | .ctz d _ => [d]
    | .popc d _ => [d]
    | .fshl d _ _ _ => [d]
    | .fshr d _ _ _ => [d]
    | .bext d _ _ => [d]
    | .bins d _ _ => [d]
    | .sext d _ _ => [d]
    | .addi d _ _ => [d]
    | .andi d _ _ => [d]
    | .ori d _ _ => [d]
    | .xori d _ _ => [d]
    | .slli d _ _ => [d]
    | .srli d _ _ => [d]
    | .srai d _ _ => [d]
    | .slti d _ _ => [d]
    | .sltiu d _ _ => [d]
    | .lui d _ => [d]
    | .addpc d _ => [d]
    | .fadd d _ _ _ => [d]
    | .fsub d _ _ _ => [d]
    | .fmul d _ _ _ => [d]
    | .fdiv d _ _ _ => [d]
    | .fsqrt d _ _ => [d]
    | .fmin d _ _ => [d]
    | .fmax d _ _ => [d]
    | .fma d _ _ _ => [d]
    | .fcvtif d _ _ => [d]
    | .fcvtfi d _ _ => [d]
    | .feq d _ _ => [d]
    | .flt d _ _ => [d]
    | .fle d _ _ => [d]
    | .fclass d _ => [d]
    | .fcvtbf d _ _ => [d]
    | .fcvtfb d _ => [d]
    | .jal d _ => [d]
    | .jalr d _ _ => [d]
    | .setvl d _ _ _ => [d]
    | .getc d _ => [d]
    | .ldb _ d _ _ => [d]
    | .ldbu _ d _ _ => [d]
    | .ldh _ d _ _ => [d]
    | .ldhu _ d _ _ => [d]
    | .ldw _ d _ _ => [d]
    | .ldwu _ d _ _ => [d]
    | .ldd _ d _ _ => [d]
    | .ldnb d _ _ _ => [d]
    | .amo d _ _ _ _ _ => [d]
    | .amos d _ _ _ _ _ => [d]
    | .sstat d _ => [d]
    | .cpy d _ => [d]
    | .cpyq d _ => [d]
    | .cpyx d _ => [d]
    | .rgprobe d _ => [d]
    | .rgsplit d _ => [d]
    | .rgmerge d _ => [d]
    | .rgmove d _ _ _ => [d]
    | .time d => [d]
    | .tstat d => [d]
    | .gbar d _ => [d]
    | .jpost d _ => [d]
    | .capq d _ _ => [d]
    | .capr d _ _ => [d]
    | .tshape d _ => [d]
    | .gstat d => [d]
    | .gdirty d _ => [d]
    | .vredsum _ d _ _ => [d]
    | .vredmax _ d _ _ => [d]
    | .vredmin _ d _ _ => [d]
    | .vredamax _ d _ _ => [d]
    | .vmpopc d _ => [d]
    | .vmfirst d _ => [d]
    | .vext _ d _ _ _ => [d]
    | .errlog d _ => [d]
    | .vldc _ _ _ b => [b]
    | _ => []
  ds.filter (· != 0)

/-- The mask registers that an operation writes. -/
def maskDst (i : Instr) : List MReg :=
  match i with
  | .vmand d _ _ => [d]
  | .vmor d _ _ => [d]
  | .vmxor d _ _ => [d]
  | .vmnot d _ => [d]
  | .vcmp _ _ k _ _ _ => [k]
  | .vmfrom _ k _ _ => [k]
  | _ => []

/-- The scalar registers that an operation names, CAS's second one with them (R253). -/
def scalarOps (i : Instr) : List SReg :=
  match i with
  | .add d a b => [d, a, b]
  | .sub d a b => [d, a, b]
  | .and d a b => [d, a, b]
  | .or d a b => [d, a, b]
  | .xor d a b => [d, a, b]
  | .sll d a b => [d, a, b]
  | .srl d a b => [d, a, b]
  | .sra d a b => [d, a, b]
  | .slt d a b => [d, a, b]
  | .sltu d a b => [d, a, b]
  | .min d a b => [d, a, b]
  | .max d a b => [d, a, b]
  | .minu d a b => [d, a, b]
  | .maxu d a b => [d, a, b]
  | .csel d a b c => [d, a, b, c]
  | .mul d a b => [d, a, b]
  | .mulh d a b => [d, a, b]
  | .mulhu d a b => [d, a, b]
  | .div d a b => [d, a, b]
  | .divu d a b => [d, a, b]
  | .rem d a b => [d, a, b]
  | .remu d a b => [d, a, b]
  | .add32 d a b => [d, a, b]
  | .clz d a => [d, a]
  | .ctz d a => [d, a]
  | .popc d a => [d, a]
  | .fshl d a b _ => [d, a, b]
  | .fshr d a b _ => [d, a, b]
  | .bext d a b => [d, a, b]
  | .bins d a b => [d, a, b]
  | .sext d a _ => [d, a]
  | .addi d a _ => [d, a]
  | .andi d a _ => [d, a]
  | .ori d a _ => [d, a]
  | .xori d a _ => [d, a]
  | .slli d a _ => [d, a]
  | .srli d a _ => [d, a]
  | .srai d a _ => [d, a]
  | .slti d a _ => [d, a]
  | .sltiu d a _ => [d, a]
  | .lui d _ => [d]
  | .addpc d _ => [d]
  | .fadd d a b _ => [d, a, b]
  | .fsub d a b _ => [d, a, b]
  | .fmul d a b _ => [d, a, b]
  | .fdiv d a b _ => [d, a, b]
  | .fsqrt d a _ => [d, a]
  | .fmin d a b => [d, a, b]
  | .fmax d a b => [d, a, b]
  | .fma d a b _ => [d, a, b]
  | .fcvtif d a _ => [d, a]
  | .fcvtfi d a _ => [d, a]
  | .feq d a b => [d, a, b]
  | .flt d a b => [d, a, b]
  | .fle d a b => [d, a, b]
  | .fclass d a => [d, a]
  | .fcvtbf d a _ => [d, a]
  | .fcvtfb d a => [d, a]
  | .beq a b _ => [a, b]
  | .bne a b _ => [a, b]
  | .blt a b _ => [a, b]
  | .bge a b _ => [a, b]
  | .bltu a b _ => [a, b]
  | .bgeu a b _ => [a, b]
  | .jal d _ => [d]
  | .jalr d a _ => [d, a]
  | .loop a _ => [a]
  | .vloop a _ => [a]
  | .setvl d a _ _ => [d, a]
  | .getc d _ => [d]
  | .setc a _ => [a]
  | .ldb _ d a _ => [d, a]
  | .ldbu _ d a _ => [d, a]
  | .ldh _ d a _ => [d, a]
  | .ldhu _ d a _ => [d, a]
  | .ldw _ d a _ => [d, a]
  | .ldwu _ d a _ => [d, a]
  | .ldd _ d a _ => [d, a]
  | .stb _ b a _ => [b, a]
  | .sth _ b a _ => [b, a]
  | .stw _ b a _ => [b, a]
  | .std _ b a _ => [b, a]
  | .ldnb d a t _ => [d, a, t]
  | .stva b a t _ => [b, a, t]
  | .amo d a _ _ _ _ => [d, a, d + 1]
  | .amos d a _ _ _ _ => [d, a, d + 1]
  | .vld _ _ a _ _ => [a]
  | .vlds _ _ a b _ => [a, b]
  | .vldx _ _ a _ _ => [a]
  | .vst _ _ a _ _ => [a]
  | .vsts _ _ a b _ => [a, b]
  | .vstx _ _ a _ _ => [a]
  | .vstb _ _ a _ => [a]
  | .vldc _ _ a b => [a, b]
  | .vspill _ _ a _ => [a]
  | .vfill _ _ a _ => [a]
  | .vstva _ a t _ => [a, t]
  | .sbind a _ _ => [a]
  | .sstat d _ => [d]
  | .sskip a _ => [a]
  | .cpy d a => [d, a]
  | .cpyw a => [a]
  | .cpyq d a => [d, a]
  | .cpyx d a => [d, a]
  | .rgprobe d a => [d, a]
  | .rgsplit d a => [d, a]
  | .rgmerge d a => [d, a]
  | .rginv a b => [a, b]
  | .rgtouch a => [a]
  | .rgmove d a b _ => [d, a, b]
  | .time d => [d]
  | .twait a => [a]
  | .tstat d => [d]
  | .gbar d a => [d, a]
  | .jpost d a => [d, a]
  | .jwait a => [a]
  | .jdec a => [a]
  | .waita a b => [a, b]
  | .capq d a _ => [d, a]
  | .capr d a _ => [d, a]
  | .tshape d a => [d, a]
  | .gstat d => [d]
  | .gdirty d _ => [d]
  | .vbcast _ _ x _ => [x]
  | .vadds _ _ _ x _ => [x]
  | .vmuls _ _ _ x _ => [x]
  | .vfmas _ _ _ x _ => [x]
  | .vqnt _ _ _ x _ => [x]
  | .vredsum _ d _ _ => [d]
  | .vredmax _ d _ _ => [d]
  | .vredmin _ d _ _ => [d]
  | .vredamax _ d _ _ => [d]
  | .vslideup _ _ _ x _ => [x]
  | .vslidedn _ _ _ x _ => [x]
  | .vmpopc d _ => [d]
  | .vmfirst d _ => [d]
  | .vext _ d _ x _ => [d, x]
  | .keysel a b => [a, b]
  | .errlog d a => [d, a]
  | _ => []

/-- An operation reads or writes VL (R263): vector operations and accesses, VSPILL, SETVL, VLOOP, and the control words that
hold or bound it. -/
def touchesVl (i : Instr) : Bool :=
  let word (c : BitVec 12) : Bool := c.toNat == 0 || c.toNat == 1 || c.toNat == 0x100
  classOf i == 4 || match i with
  | .vld _ _ _ _ _ => true
  | .vlds _ _ _ _ _ => true
  | .vldx _ _ _ _ _ => true
  | .vst _ _ _ _ _ => true
  | .vsts _ _ _ _ _ => true
  | .vstx _ _ _ _ _ => true
  | .vstva _ _ _ _ => true
  | .vldc _ _ _ _ => true
  | .vspill _ _ _ _ => true
  | .setvl _ _ _ _ => true
  | .vloop _ _ => true
  | .getc _ c => word c
  | .setc _ c => word c
  | .setci _ c => word c
  | _ => false

/-- The registers in which a hart's VLDCs that have not decoded yet deliver their counts of bytes (R263). -/
def State.decoding (s : State) : List SReg :=
  let w := s.who s.cur
  s.flights.filterMap fun f => if f.ofCtx w.core w.owner w.area then
    match f.land with
    | .decode _ _ _ _ _ reg => some reg
    | _ => none
  else none

/-- A bundle uses a result of a VLDC that has not decoded yet, or ends a pass of a VLOOP: it stalls until that is there
(R263). -/
def State.awaitsDecode (s : State) (is : List Instr) : Bool :=
  let rs := s.decoding
  let h := s.my
  !rs.isEmpty && (is.any (fun i => touchesVl i || (scalarOps i).any fun r => r != 0 && rs.contains r) ||
    h.loops.any fun l => l.vloop && l.last == h.pc)

/-- The grid rows that an operation reads (R67). -/
def rowSrc (s : State) (i : Instr) : List Nat :=
  let h := s.my
  let g := groupOf h.ctl.vtype
  let planned := match planOf i with
    | some p => p.srcs.flatMap (operandRows p.view g)
    | none => []
  planned ++ match i with
  | .vredsum w _ a _ => operandRows w g a
  | .vredmax w _ a _ => operandRows w g a
  | .vredmin w _ a _ => operandRows w g a
  | .vredamax w _ a _ => operandRows w g a
  | .vsegsum w _ a _ _ => operandRows w g a
  | .vsegscan w _ a _ _ => operandRows w g a
  | .vscan w _ a _ => operandRows w g a
  | .vexpand w _ a _ => operandRows w g a
  | .vcompress w _ a _ => operandRows w g a
  | .vsparse w _ a _ _ => operandRows w g a
  | .vpush _ a _ => [a.toNat]
  | .vcmp w _ _ a b _ => operandRows w g a ++ operandRows w g b
  | .vmfrom w _ a _ => operandRows w g a
  | .vext w _ a _ _ => operandRows w g a
  | .vldx _ _ _ x _ => indexRows x s
  | .vst _ v _ _ _ => operandRows .row g v
  | .vsts _ v _ _ _ => operandRows .row g v
  | .vstx _ v _ x _ => operandRows .row g v ++ indexRows x s
  | .vstb _ v _ _ => [v.toNat]
  | .vspill _ v _ n => frameRows v n
  | .vstva v _ _ _ => operandRows .row g v
  | .opa f _ _ _ o => if o = 1 then [] else (List.range (tshpM h.ctl.tshp)).map (64 * f.toNat + ·)
  | .gmov _ r => [r.toNat]
  | .gtrn f => halfRows f.toNat
  | .gsave f c => (List.range (c.toNat + 1)).map (f.toNat + ·)
  | _ => []

/-- The lowest of some rows that holds a cell with an uncorrectable error. -/
def Hart.badRow (h : Hart) (rows : List Nat) : Option Nat :=
  (h.grid.bad.filter fun c => rows.contains c.1).foldl (fun a c => lower a c.1) none

/-- A read of such a row is logged and counted (R67 to R69). -/
def State.rowError (s : State) (row : Nat) (oc : OpCtx) : State :=
  (s.modCore s.cur fun c => c.log (logEntry s s.cur row 0x10 oc.slot 4 0 s.my.sup.owner.toNat oc.pc)).modMy fun h =>
    h.modCtl fun c => { c with errcnt := bump c.errcnt }

/-- An operation with what the rows that it reads hold: a cell with an uncorrectable error reads as FILL, and under VIOLMODE
that is the precise trap 0x20 (R67, log 94). -/
def onRows (i : Instr) (op : Op) : Op := fun oc s =>
  match s.my.badRow (rowSrc s i) with
  | none => op oc s
  | some r =>
    let trap := s.my.sup.violmode && s.my.passed.isNone
    match op oc (s.modMy fun h => { h with grid := h.readGrid }) with
    | .commit c => if trap then .trap 0x20 (BitVec.ofNat 64 r) else .commit { c with run := fun t => c.run (t.rowError r oc) }
    | .wait n b f => if trap && n != 0 then .trap 0x20 (BitVec.ofNat 64 r) else .wait n b f
    | x => x

/-- An operation of a bundle; a grid operation's first write comes after the vector operation's reads (R130). -/
def partOf (p : Nat × Instr) : Part :=
  let keeps := match p.2 with
    | .gsave _ _ => true
    | _ => false
  { slot := p.1, first := keeps, last := classOf p.2 == 6 && !keeps, op := onRows p.2 (opOf p.2) }

/-- A bundle waits so, unless one of its operations that names no such result traps without waiting (R174 items 2 to 4). -/
def State.mustDecode (s : State) (ops : List (Nat × Instr)) : Bool :=
  let rs := s.decoding
  s.awaitsDecode (ops.map (·.2)) &&
    (firstTrap (· < 9) (s.answers ((ops.filter fun p => !(scalarOps p.2).any fun r => r != 0 && rs.contains r).map partOf))).isNone

/-- One operation as the only one of its bundle (R129). -/
def State.runOne (s : State) (i : Instr) (op : Op) : Host.Outcome State Fault Refusal :=
  .next (if s.mustDecode [(0, i)] then s.modCore s.cur (·.unblock) else s.runOps [{ slot := 0, op := onRows i op }])

/-- The control words that an operation writes: a new VTYPE or VLCAP bounds VL too (R136, R137). -/
def wordDst (i : Instr) : List Nat :=
  let set (n : Nat) : List Nat := if n = 0x001 ∨ n = 0x100 then [n, 0x000] else [n]
  match i with
  | .setc _ c => set c.toNat
  | .setci _ c => set c.toNat
  | .setvl _ _ _ _ => [0x000, 0x001]
  | .vloop _ _ => [0x000, 0x008]
  | .vldc _ _ _ _ => [0x000]
  | .tshape _ _ => [0x010]
  | _ => []

/-- The grid rows that an operation writes, under the VTYPE and TSHP of the hart (R130). -/
def rowDst (h : Hart) (i : Instr) : List Nat :=
  let g := groupOf h.ctl.vtype
  match i with
  | .vadd w d _ _ _ => operandRows w g d
  | .vsub w d _ _ _ => operandRows w g d
  | .vmul w d _ _ _ => operandRows w g d
  | .vfma w d _ _ _ => operandRows w g d
  | .vfms w d _ _ _ => operandRows w g d
  | .vmin w d _ _ _ => operandRows w g d
  | .vmax w d _ _ _ => operandRows w g d
  | .vabs w d _ _ => operandRows w g d
  | .vneg w d _ _ => operandRows w g d
  | .vdiv w d _ _ _ => operandRows w g d
  | .vand w d _ _ _ => operandRows w g d
  | .vor w d _ _ _ => operandRows w g d
  | .vxor w d _ _ _ => operandRows w g d
  | .vnot w d _ _ => operandRows w g d
  | .vsll w d _ _ _ => operandRows w g d
  | .vsrl w d _ _ _ => operandRows w g d
  | .vsra w d _ _ _ => operandRows w g d
  | .vfshl w d _ _ _ => operandRows w g d
  | .vfshr w d _ _ _ => operandRows w g d
  | .vsel w d _ _ _ => operandRows w g d
  | .vmv w d _ _ => operandRows w g d
  | .vbcast w d _ _ => operandRows w g d
  | .vadds w d _ _ _ => operandRows w g d
  | .vmuls w d _ _ _ => operandRows w g d
  | .vfmas w d _ _ _ => operandRows w g d
  | .vid w d _ => operandRows w g d
  | .vcvt w d _ _ _ => operandRows w g d
  | .vqnt w d _ _ _ => operandRows w g d
  | .vhad w d _ _ _ => operandRows w g d
  | .vsfu w d _ _ _ => operandRows w g d
  | .vsegsum w d _ _ _ => operandRows w g d
  | .vsegscan w d _ _ _ => operandRows w g d
  | .vscan w d _ _ => operandRows w g d
  | .vslideup w d _ _ _ => operandRows w g d
  | .vslidedn w d _ _ _ => operandRows w g d
  | .vperm w d _ _ _ => operandRows w g d
  | .vunpk w d _ _ _ => operandRows w g d
  | .vpack w d _ _ _ => operandRows w g d
  | .vlut w d _ _ _ => operandRows w g d
  | .vexpand w d _ _ => operandRows w g d
  | .vcompress w d _ _ => operandRows w g d
  | .vsparse w d _ _ _ => operandRows w g d ++ [d.toNat + 1]
  | .vpop w d _ _ => operandRows w g d
  | .vmto w d _ _ => operandRows w g d
  | .vnrw w d _ _ _ => operandRows w g d
  | .vpopc w d _ _ => operandRows w g d
  | .vshrr w d _ _ _ => operandRows w g d
  | .vmulh w d _ _ _ => operandRows w g d
  | .vclz w d _ _ => operandRows w g d
  | .vld _ v _ _ _ => operandRows .row g v
  | .vlds _ v _ _ _ => operandRows .row g v
  | .vldx _ v _ _ _ => operandRows .row g v
  | .vldc _ v _ _ => operandRows .row g v
  | .vfill _ v _ g => frameRows v g
  | .opa f _ _ _ _ => halfRows f.toNat
  | .opz f => (List.range (tshpM h.ctl.tshp)).map (64 * f.toNat + ·)
  | .gclr f => halfRows f.toNat
  | .gtrn f => halfRows f.toNat
  | .gmov d _ => [d.toNat]
  | .gload f c => (List.range (c.toNat + 1)).map (f.toNat + ·)
  | _ => []

/-- An operation breaks the limits of R201 or R130 beside those of the slots before it. -/
def clashes (h : Hart) (header : Bool) (before : List Instr) (i : Instr) : Bool :=
  let c := classOf i
  let most := if c = 0 then 2 else 1
  (c == 7 && (header || !before.isEmpty)) || before.any (fun j => classOf j == 7 || classOf j == 1) ||
  decide (most ≤ (before.filter fun j => classOf j == c).length) ||
  before.any fun j =>
    (scalarDst i).any (scalarDst j).contains || (maskDst i).any (maskDst j).contains ||
    (wordDst i).any (wordDst j).contains || (rowDst h i).any (rowDst h j).contains

/-- The lowest slot whose operation, with those of the slots before it, makes an illegal bundle (R201, R370). -/
def brokenSlot (h : Hart) (header : Bool) : List Instr → List (Nat × Instr) → Option Nat
  | _, [] => none
  | before, p :: ps =>
    if clashes h header before p.2 then some p.1 else brokenSlot h header (before ++ [p.2]) ps

/-- The bundle's own fetch: its range-cache fill takes effect when the bundle commits (R24). -/
def fetchPart (used : List RcEnt) : Part :=
  { slot := 0, first := true, op := fun _ _ => .commit { run := fun t => t.useEntries t.cur used } }

/-- A bundle of which an operation has been sent is not fetched again (R173). -/
def State.keepBundle (s : State) (k b : Nat) (used : List RcEnt) : State :=
  match (s.hart k).passed with
  | some p => s.modHart k fun h => { h with passed := some { p with bundle := some (b, used) } }
  | none => s

/-- A long vector operation that a bundle has issued reads its sources before another operation of the bundle writes them (R130):
it makes all its writes at once where they have been written or a load is to fill them, and while a group of them is still to
arrive for it the bundle stalls (R135). -/
def State.readsFirst (s t : State) : State :=
  match t.my.long with
  | none => t
  | some l =>
    let w := t.who t.cur
    let written (r : Nat) : Bool := l.src.rows.get r != t.my.grid.rows.get r ||
      (List.range 8).any fun g => !l.needs.contains (r, g) &&
        t.flights.any fun f => f.ofCtx w.core w.owner w.area && f.fills r g
    if !l.touches.any written then t
    else if l.needs.isEmpty then t.finishLong t.cur
    else s.modCore s.cur (·.unblock)

/-- A bundle value issues on the core in hand: an illegal encoding, an illegal bundle, or its operations (R174). -/
def State.issueBundle (s : State) (b : Nat) (used : List RcEnt) : State :=
  let k := s.cur
  match decodeBundle b with
  | .error e => (s.trapBundle k 0x01 0 (some e.slot)).modCore k Core.unblock
  | .ok d =>
    match brokenSlot (s.hart k) d.header [] d.ops with
    | some i => (s.trapBundle k 0x02 0 (some i)).modCore k Core.unblock
    | none =>
      if s.mustDecode d.ops then s.modCore k Core.unblock
      else
        let t := s.runOps (fetchPart used :: d.ops.map partOf)
        (if decide (1 < d.ops.length) && s.my.long.isNone then s.readsFirst t else t).keepBundle k b used

/-- The bundle at a core's pc: fetched, or as it was fetched when an operation of it was sent (R129, R197, R173). -/
def State.bundleAt (s : State) (k : Nat) : Fetched :=
  let h := s.hart k
  match h.passed.bind (·.bundle) with
  | some (b, used) => .bundle b used
  | none => s.fetch (s.who k) h.pc.toNat

/-- The bundle at a core's pc traps precisely now (R181). -/
def State.trapsHere (s : State) (k : Nat) : Bool :=
  match ({ s with cur := k } : State).bundleAt k with
  | .trap _ => true
  | .bundle b used => match decodeBundle b with
    | .error _ => true
    | .ok d => (brokenSlot (s.hart k) d.header [] d.ops).isSome ||
      match verdict (({ s with cur := k } : State).answers (fetchPart used :: d.ops.map partOf)) with
      | .raise _ => !({ s with cur := k } : State).mustDecode d.ops
      | _ => false
  | _ => false

/-- The bundle at a core's pc issued (R129, R197, R28, R19, R40). -/
def State.bundleTurn (s : State) (k : Nat) : State :=
  let pc := (s.hart k).pc
  match s.bundleAt k with
  | .bundle b used => s.issueBundle b used
  | .trap c => (s.trapBundle k c pc none).modCore k Core.unblock
  | .held => s.modCore k fun c => c.block 11 pc
  | .moving => s.modCore k Core.unblock

/-- A trap that waits for a boundary is taken (R52, R54, R162, R166, R175, R184). A saving one waits for the staging slot;
any other abandons the bundle at issue. -/
def State.takeDue (s : State) (k : Nat) (d : DueTrap) : State :=
  let clear (t : State) : State := t.modCore k fun c =>
    { c.unblock with wfi := false, hart := { c.hart with due := c.hart.due.filter (· != d) } }
  if savingCause d.cause then
    let t := s.drain k
    match (t.core k).staging with
    | some _ => t
    | none => (clear t).trapSaving k d.cause d.addr
  else
    (clear (s.forgetAsk k)).trap k
      { cause := d.cause, addr := d.addr, slot := d.slot, resumable := d.resumable, pc := (s.hart k).pc, save := false }

/-- One notice taken (R181): the bundle at issue is abandoned for it. -/
def State.takeNotice (s : State) (k : Nat) (n : Notice) : State :=
  let t := (s.forgetAsk k).modCore k fun c =>
    { c.unblock with wfi := false, hart := { c.hart with notices := c.hart.notices.drop 1 } }
  t.trap k { cause := n.cause, addr := n.addr, slot := none, pc := (s.hart k).pc, save := false }

/-- An eviction taken (R183): the context is saved, with cause 0x14. -/
def State.takeEviction (s : State) (k : Nat) : State :=
  let t := s.drain k
  match (t.core k).staging with
  | some _ => t
  | none => (t.modCore k fun c => { c with evict := false, wfi := false }).trapSaving k 0x14 0

/-- The trap that is due first: a resumable one before others; only a saving one while an RGINV is awaited (R35, R175). -/
def Hart.dueTrap (h : Hart) : Option DueTrap :=
  let ds := if h.inval.isSome then h.due.filter fun d => savingCause d.cause else h.due
  (ds.find? (·.resumable)).orElse fun _ => ds.head?

/-- A notice waits: for an RGINV (R35), for an access under way, for a precise trap at its boundary (R181), or for a FENCE that
is waiting, which commits first (R354). -/
def State.noticeWaits (s : State) (k : Nat) : Bool :=
  (s.hart k).inval.isSome || s.underWay k || s.trapsHere k || (match (s.core k).running with
    | some e => e.blk.kind == 9
    | none => false)

/-- What is taken at a boundary before the next bundle (R175, R178, R181 to R183): a due trap; and outside a handler an
eviction, a pre-emption or a notice. -/
def State.boundary (s : State) (k : Nat) : Option State :=
  let c := s.core k
  let h := c.hart
  let rest : Option State :=
    if h.handler then none
    else if c.evict then some (s.takeEviction k)
    else if c.preempt then some (s.switchOut k)
    else match h.notices with
      | n :: _ => if s.noticeWaits k then none else some (s.takeNotice k n)
      | [] => none
  match h.dueTrap with
  | some d => if !savingCause d.cause && s.underWay k then none else some (s.takeDue k d)
  | none => rest

/-- A core's turn (R129): what its boundary brings, or its next bundle; nothing in WFI, and a block while an RGINV of the
hart has not completed (R35, R242). -/
def State.turn (s : State) (k : Nat) : State :=
  let s := { s with cur := k }
  if !(s.core k).active then s else
  match s.boundary k with
  | some t => t
  | none =>
    if (s.core k).wfi then s
    else if (s.hart k).inval.isSome then s.modCore k fun c => c.block 10 0
    else s.bundleTurn k

/-- The answer that a bundle committed in absence waits for has come (R184). -/
def Hart.answered (h : Hart) : Bool :=
  (match h.wait with
   | .answer _ => true
   | _ => false) ||
  match h.ewait with
  | .edited _ => true
  | _ => false

/-- The chunks of a save into an area have all been stored. -/
def State.stored (s : State) (area : Nat) : Bool :=
  s.cores.all fun p => match p.2.staging with
    | some g => g.area != area || g.chunks.isEmpty
    | none => true

/-- A bundle committed in absence runs on with its answer (R184): its effects go into the save area, or its trap does. -/
def State.runAbsent (s : State) (n : Nat) (a : Absent) (j : Nat) : State :=
  let old := s.core j
  let h := s.absentHart a.hart a.area
  let u := State.bundleTurn { s.modCore j (fun c => c.standIn a.area h) with cur := j } j
  let g := u.hart j
  let alloc := s.areaGet a.area h.sup.owner.toNat 424 8
  let back (v : State) : State :=
    { v.modCore j (fun c => { c.standBack old with left := c.left ++ g.leftovers }) with cur := s.cur }
  if g.wait != .none || g.ewait != .none then
    { back u with absent := modAt s.absent n fun a => { a with hart := { g with notices := a.hart.notices } } }
  else
    let v := { back u with absent := dropAt s.absent n }
    if g.handler && !h.handler then v.putAbsentTrap a.area g else v.putAbsent a.area alloc h g

/-- The reply to a bundle committed in absence has arrived (R184): once the save is stored the bundle resolves; that of an
instance that has ended has nobody left. -/
def State.resolveAbsent (s : State) (n : Nat) : State :=
  match s.absent[n]? with
  | none => s
  | some a =>
    if !a.hart.answered then s
    else match s.entryOf a.area with
      | none => { s with absent := dropAt s.absent n }
      | some (j, _) => if s.stored a.area then s.runAbsent n a j else s

end Sys2Proof.Machine
end

