-- ==== Sys2Proof/Machine/Exec.lean ====
section
/-! DEFINITION. The meaning of every encoded operation: it runs as the only operation of its bundle (R129, R172). -/

namespace Sys2Proof.Machine

/-- NOP. -/
def execNop (s : State) : Host.Outcome State Fault Refusal := s.runOne .nop opNop

/-- ADD. -/
def execAdd (d : SReg) (a : SReg) (b : SReg) (s : State) : Host.Outcome State Fault Refusal := s.runOne (.add d a b) (opAdd d a b)

/-- SUB. -/
def execSub (d : SReg) (a : SReg) (b : SReg) (s : State) : Host.Outcome State Fault Refusal := s.runOne (.sub d a b) (opSub d a b)

/-- AND. -/
def execAnd (d : SReg) (a : SReg) (b : SReg) (s : State) : Host.Outcome State Fault Refusal := s.runOne (.and d a b) (opAnd d a b)

/-- OR. -/
def execOr (d : SReg) (a : SReg) (b : SReg) (s : State) : Host.Outcome State Fault Refusal := s.runOne (.or d a b) (opOr d a b)

/-- XOR. -/
def execXor (d : SReg) (a : SReg) (b : SReg) (s : State) : Host.Outcome State Fault Refusal := s.runOne (.xor d a b) (opXor d a b)

/-- SLL. -/
def execSll (d : SReg) (a : SReg) (b : SReg) (s : State) : Host.Outcome State Fault Refusal := s.runOne (.sll d a b) (opSll d a b)

/-- SRL. -/
def execSrl (d : SReg) (a : SReg) (b : SReg) (s : State) : Host.Outcome State Fault Refusal := s.runOne (.srl d a b) (opSrl d a b)

/-- SRA. -/
def execSra (d : SReg) (a : SReg) (b : SReg) (s : State) : Host.Outcome State Fault Refusal := s.runOne (.sra d a b) (opSra d a b)

/-- SLT. -/
def execSlt (d : SReg) (a : SReg) (b : SReg) (s : State) : Host.Outcome State Fault Refusal := s.runOne (.slt d a b) (opSlt d a b)

/-- SLTU. -/
def execSltu (d : SReg) (a : SReg) (b : SReg) (s : State) : Host.Outcome State Fault Refusal := s.runOne (.sltu d a b) (opSltu d a b)

/-- MIN. -/
def execMin (d : SReg) (a : SReg) (b : SReg) (s : State) : Host.Outcome State Fault Refusal := s.runOne (.min d a b) (opMin d a b)

/-- MAX. -/
def execMax (d : SReg) (a : SReg) (b : SReg) (s : State) : Host.Outcome State Fault Refusal := s.runOne (.max d a b) (opMax d a b)

/-- MINU. -/
def execMinu (d : SReg) (a : SReg) (b : SReg) (s : State) : Host.Outcome State Fault Refusal := s.runOne (.minu d a b) (opMinu d a b)

/-- MAXU. -/
def execMaxu (d : SReg) (a : SReg) (b : SReg) (s : State) : Host.Outcome State Fault Refusal := s.runOne (.maxu d a b) (opMaxu d a b)

/-- CSEL. -/
def execCsel (d : SReg) (a : SReg) (b : SReg) (c : SReg) (s : State) : Host.Outcome State Fault Refusal := s.runOne (.csel d a b c) (opCsel d a b c)

/-- MUL. -/
def execMul (d : SReg) (a : SReg) (b : SReg) (s : State) : Host.Outcome State Fault Refusal := s.runOne (.mul d a b) (opMul d a b)

/-- MULH. -/
def execMulh (d : SReg) (a : SReg) (b : SReg) (s : State) : Host.Outcome State Fault Refusal := s.runOne (.mulh d a b) (opMulh d a b)

/-- MULHU. -/
def execMulhu (d : SReg) (a : SReg) (b : SReg) (s : State) : Host.Outcome State Fault Refusal := s.runOne (.mulhu d a b) (opMulhu d a b)

/-- DIV. -/
def execDiv (d : SReg) (a : SReg) (b : SReg) (s : State) : Host.Outcome State Fault Refusal := s.runOne (.div d a b) (opDiv d a b)

/-- DIVU. -/
def execDivu (d : SReg) (a : SReg) (b : SReg) (s : State) : Host.Outcome State Fault Refusal := s.runOne (.divu d a b) (opDivu d a b)

/-- REM. -/
def execRem (d : SReg) (a : SReg) (b : SReg) (s : State) : Host.Outcome State Fault Refusal := s.runOne (.rem d a b) (opRem d a b)

/-- REMU. -/
def execRemu (d : SReg) (a : SReg) (b : SReg) (s : State) : Host.Outcome State Fault Refusal := s.runOne (.remu d a b) (opRemu d a b)

/-- ADD32. -/
def execAdd32 (d : SReg) (a : SReg) (b : SReg) (s : State) : Host.Outcome State Fault Refusal := s.runOne (.add32 d a b) (opAdd32 d a b)

/-- CLZ. -/
def execClz (d : SReg) (a : SReg) (s : State) : Host.Outcome State Fault Refusal := s.runOne (.clz d a) (opClz d a)

/-- CTZ. -/
def execCtz (d : SReg) (a : SReg) (s : State) : Host.Outcome State Fault Refusal := s.runOne (.ctz d a) (opCtz d a)

/-- POPC. -/
def execPopc (d : SReg) (a : SReg) (s : State) : Host.Outcome State Fault Refusal := s.runOne (.popc d a) (opPopc d a)

/-- FSHL. -/
def execFshl (d : SReg) (a : SReg) (b : SReg) (n : BitVec 6) (s : State) : Host.Outcome State Fault Refusal := s.runOne (.fshl d a b n) (opFshl d a b n)

/-- FSHR. -/
def execFshr (d : SReg) (a : SReg) (b : SReg) (n : BitVec 6) (s : State) : Host.Outcome State Fault Refusal := s.runOne (.fshr d a b n) (opFshr d a b n)

/-- BEXT. -/
def execBext (d : SReg) (a : SReg) (b : SReg) (s : State) : Host.Outcome State Fault Refusal := s.runOne (.bext d a b) (opBext d a b)

/-- BINS. -/
def execBins (d : SReg) (a : SReg) (b : SReg) (s : State) : Host.Outcome State Fault Refusal := s.runOne (.bins d a b) (opBins d a b)

/-- SEXT. -/
def execSext (d : SReg) (a : SReg) (n : BitVec 6) (s : State) : Host.Outcome State Fault Refusal := s.runOne (.sext d a n) (opSext d a n)

/-- ADDI. -/
def execAddi (d : SReg) (a : SReg) (imm : BitVec 20) (s : State) : Host.Outcome State Fault Refusal := s.runOne (.addi d a imm) (opAddi d a imm)

/-- ANDI. -/
def execAndi (d : SReg) (a : SReg) (imm : BitVec 20) (s : State) : Host.Outcome State Fault Refusal := s.runOne (.andi d a imm) (opAndi d a imm)

/-- ORI. -/
def execOri (d : SReg) (a : SReg) (imm : BitVec 20) (s : State) : Host.Outcome State Fault Refusal := s.runOne (.ori d a imm) (opOri d a imm)

/-- XORI. -/
def execXori (d : SReg) (a : SReg) (imm : BitVec 20) (s : State) : Host.Outcome State Fault Refusal := s.runOne (.xori d a imm) (opXori d a imm)

/-- SLLI. -/
def execSlli (d : SReg) (a : SReg) (n : BitVec 6) (s : State) : Host.Outcome State Fault Refusal := s.runOne (.slli d a n) (opSlli d a n)

/-- SRLI. -/
def execSrli (d : SReg) (a : SReg) (n : BitVec 6) (s : State) : Host.Outcome State Fault Refusal := s.runOne (.srli d a n) (opSrli d a n)

/-- SRAI. -/
def execSrai (d : SReg) (a : SReg) (n : BitVec 6) (s : State) : Host.Outcome State Fault Refusal := s.runOne (.srai d a n) (opSrai d a n)

/-- SLTI. -/
def execSlti (d : SReg) (a : SReg) (imm : BitVec 20) (s : State) : Host.Outcome State Fault Refusal := s.runOne (.slti d a imm) (opSlti d a imm)

/-- SLTIU. -/
def execSltiu (d : SReg) (a : SReg) (imm : BitVec 20) (s : State) : Host.Outcome State Fault Refusal := s.runOne (.sltiu d a imm) (opSltiu d a imm)

/-- LUI. -/
def execLui (d : SReg) (imm : BitVec 20) (s : State) : Host.Outcome State Fault Refusal := s.runOne (.lui d imm) (opLui d imm)

/-- ADDPC. -/
def execAddpc (d : SReg) (imm : BitVec 20) (s : State) : Host.Outcome State Fault Refusal := s.runOne (.addpc d imm) (opAddpc d imm)

/-- FADD. -/
def execFadd (d : SReg) (a : SReg) (b : SReg) (rm : BitVec 3) (s : State) : Host.Outcome State Fault Refusal := s.runOne (.fadd d a b rm) (opFadd d a b rm)

/-- FSUB. -/
def execFsub (d : SReg) (a : SReg) (b : SReg) (rm : BitVec 3) (s : State) : Host.Outcome State Fault Refusal := s.runOne (.fsub d a b rm) (opFsub d a b rm)

/-- FMUL. -/
def execFmul (d : SReg) (a : SReg) (b : SReg) (rm : BitVec 3) (s : State) : Host.Outcome State Fault Refusal := s.runOne (.fmul d a b rm) (opFmul d a b rm)

/-- FDIV. -/
def execFdiv (d : SReg) (a : SReg) (b : SReg) (rm : BitVec 3) (s : State) : Host.Outcome State Fault Refusal := s.runOne (.fdiv d a b rm) (opFdiv d a b rm)

/-- FSQRT. -/
def execFsqrt (d : SReg) (a : SReg) (rm : BitVec 3) (s : State) : Host.Outcome State Fault Refusal := s.runOne (.fsqrt d a rm) (opFsqrt d a rm)

/-- FMIN. -/
def execFmin (d : SReg) (a : SReg) (b : SReg) (s : State) : Host.Outcome State Fault Refusal := s.runOne (.fmin d a b) (opFmin d a b)

/-- FMAX. -/
def execFmax (d : SReg) (a : SReg) (b : SReg) (s : State) : Host.Outcome State Fault Refusal := s.runOne (.fmax d a b) (opFmax d a b)

/-- FMA. -/
def execFma (d : SReg) (a : SReg) (b : SReg) (rm : BitVec 3) (s : State) : Host.Outcome State Fault Refusal := s.runOne (.fma d a b rm) (opFma d a b rm)

/-- FCVTIF. -/
def execFcvtif (d : SReg) (a : SReg) (rm : BitVec 3) (s : State) : Host.Outcome State Fault Refusal := s.runOne (.fcvtif d a rm) (opFcvtif d a rm)

/-- FCVTFI. -/
def execFcvtfi (d : SReg) (a : SReg) (rm : BitVec 3) (s : State) : Host.Outcome State Fault Refusal := s.runOne (.fcvtfi d a rm) (opFcvtfi d a rm)

/-- FEQ. -/
def execFeq (d : SReg) (a : SReg) (b : SReg) (s : State) : Host.Outcome State Fault Refusal := s.runOne (.feq d a b) (opFeq d a b)

/-- FLT. -/
def execFlt (d : SReg) (a : SReg) (b : SReg) (s : State) : Host.Outcome State Fault Refusal := s.runOne (.flt d a b) (opFlt d a b)

/-- FLE. -/
def execFle (d : SReg) (a : SReg) (b : SReg) (s : State) : Host.Outcome State Fault Refusal := s.runOne (.fle d a b) (opFle d a b)

/-- FCLASS. -/
def execFclass (d : SReg) (a : SReg) (s : State) : Host.Outcome State Fault Refusal := s.runOne (.fclass d a) (opFclass d a)

/-- FCVTBF. -/
def execFcvtbf (d : SReg) (a : SReg) (rm : BitVec 3) (s : State) : Host.Outcome State Fault Refusal := s.runOne (.fcvtbf d a rm) (opFcvtbf d a rm)

/-- FCVTFB. -/
def execFcvtfb (d : SReg) (a : SReg) (s : State) : Host.Outcome State Fault Refusal := s.runOne (.fcvtfb d a) (opFcvtfb d a)

/-- BEQ. -/
def execBeq (a : SReg) (b : SReg) (o : BitVec 23) (s : State) : Host.Outcome State Fault Refusal := s.runOne (.beq a b o) (opBeq a b o)

/-- BNE. -/
def execBne (a : SReg) (b : SReg) (o : BitVec 23) (s : State) : Host.Outcome State Fault Refusal := s.runOne (.bne a b o) (opBne a b o)

/-- BLT. -/
def execBlt (a : SReg) (b : SReg) (o : BitVec 23) (s : State) : Host.Outcome State Fault Refusal := s.runOne (.blt a b o) (opBlt a b o)

/-- BGE. -/
def execBge (a : SReg) (b : SReg) (o : BitVec 23) (s : State) : Host.Outcome State Fault Refusal := s.runOne (.bge a b o) (opBge a b o)

/-- BLTU. -/
def execBltu (a : SReg) (b : SReg) (o : BitVec 23) (s : State) : Host.Outcome State Fault Refusal := s.runOne (.bltu a b o) (opBltu a b o)

/-- BGEU. -/
def execBgeu (a : SReg) (b : SReg) (o : BitVec 23) (s : State) : Host.Outcome State Fault Refusal := s.runOne (.bgeu a b o) (opBgeu a b o)

/-- JAL. -/
def execJal (d : SReg) (o : BitVec 28) (s : State) : Host.Outcome State Fault Refusal := s.runOne (.jal d o) (opJal d o)

/-- JALR. -/
def execJalr (d : SReg) (a : SReg) (imm : BitVec 23) (s : State) : Host.Outcome State Fault Refusal := s.runOne (.jalr d a imm) (opJalr d a imm)

/-- LOOP. -/
def execLoop (a : SReg) (o : BitVec 23) (s : State) : Host.Outcome State Fault Refusal := s.runOne (.loop a o) (opLoop a o)

/-- VLOOP. -/
def execVloop (a : SReg) (o : BitVec 23) (s : State) : Host.Outcome State Fault Refusal := s.runOne (.vloop a o) (opVloop a o)

/-- SETVL. -/
def execSetvl (d : SReg) (a : SReg) (e : BitVec 3) (g : BitVec 2) (s : State) : Host.Outcome State Fault Refusal := s.runOne (.setvl d a e g) (opSetvl d a e g)

/-- GETC. -/
def execGetc (d : SReg) (c : BitVec 12) (s : State) : Host.Outcome State Fault Refusal := s.runOne (.getc d c) (opGetc d c)

/-- SETC. -/
def execSetc (a : SReg) (c : BitVec 12) (s : State) : Host.Outcome State Fault Refusal := s.runOne (.setc a c) (opSetc a c)

/-- SETCI. -/
def execSetci (imm : BitVec 21) (c : BitVec 12) (s : State) : Host.Outcome State Fault Refusal := s.runOne (.setci imm c) (opSetci imm c)

/-- LDB. -/
def execLdb (p : Space) (d : SReg) (a : SReg) (imm : BitVec 20) (s : State) : Host.Outcome State Fault Refusal := s.runOne (.ldb p d a imm) (opLdb p d a imm)

/-- LDBU. -/
def execLdbu (p : Space) (d : SReg) (a : SReg) (imm : BitVec 20) (s : State) : Host.Outcome State Fault Refusal := s.runOne (.ldbu p d a imm) (opLdbu p d a imm)

/-- LDH. -/
def execLdh (p : Space) (d : SReg) (a : SReg) (imm : BitVec 20) (s : State) : Host.Outcome State Fault Refusal := s.runOne (.ldh p d a imm) (opLdh p d a imm)

/-- LDHU. -/
def execLdhu (p : Space) (d : SReg) (a : SReg) (imm : BitVec 20) (s : State) : Host.Outcome State Fault Refusal := s.runOne (.ldhu p d a imm) (opLdhu p d a imm)

/-- LDW. -/
def execLdw (p : Space) (d : SReg) (a : SReg) (imm : BitVec 20) (s : State) : Host.Outcome State Fault Refusal := s.runOne (.ldw p d a imm) (opLdw p d a imm)

/-- LDWU. -/
def execLdwu (p : Space) (d : SReg) (a : SReg) (imm : BitVec 20) (s : State) : Host.Outcome State Fault Refusal := s.runOne (.ldwu p d a imm) (opLdwu p d a imm)

/-- LDD. -/
def execLdd (p : Space) (d : SReg) (a : SReg) (imm : BitVec 20) (s : State) : Host.Outcome State Fault Refusal := s.runOne (.ldd p d a imm) (opLdd p d a imm)

/-- STB. -/
def execStb (p : Space) (b : SReg) (a : SReg) (imm : BitVec 20) (s : State) : Host.Outcome State Fault Refusal := s.runOne (.stb p b a imm) (opStb p b a imm)

/-- STH. -/
def execSth (p : Space) (b : SReg) (a : SReg) (imm : BitVec 20) (s : State) : Host.Outcome State Fault Refusal := s.runOne (.sth p b a imm) (opSth p b a imm)

/-- STW. -/
def execStw (p : Space) (b : SReg) (a : SReg) (imm : BitVec 20) (s : State) : Host.Outcome State Fault Refusal := s.runOne (.stw p b a imm) (opStw p b a imm)

/-- STD. -/
def execStd (p : Space) (b : SReg) (a : SReg) (imm : BitVec 20) (s : State) : Host.Outcome State Fault Refusal := s.runOne (.std p b a imm) (opStd p b a imm)

/-- LDNB. -/
def execLdnb (d : SReg) (a : SReg) (t : SReg) (z : BitVec 2) (s : State) : Host.Outcome State Fault Refusal := s.runOne (.ldnb d a t z) (opLdnb d a t z)

/-- STVA. -/
def execStva (b : SReg) (a : SReg) (t : SReg) (z : BitVec 2) (s : State) : Host.Outcome State Fault Refusal := s.runOne (.stva b a t z) (opStva b a t z)

/-- AMO. -/
def execAmo (d : SReg) (a : SReg) (w : BitVec 1) (op : AmoOp) (ord : AmoOrd) (sc : Scope) (s : State) : Host.Outcome State Fault Refusal := s.runOne (.amo d a w op ord sc) (opAmo d a w op ord sc)

/-- AMOS. -/
def execAmos (d : SReg) (a : SReg) (w : BitVec 1) (op : AmoOp) (ord : AmoOrd) (sc : Scope) (s : State) : Host.Outcome State Fault Refusal := s.runOne (.amos d a w op ord sc) (opAmos d a w op ord sc)

/-- FENCE. -/
def execFence (p : BitVec 8) (q : BitVec 8) (sc : Scope) (s : State) : Host.Outcome State Fault Refusal := s.runOne (.fence p q sc) (opFence p q sc)

/-- VLD. -/
def execVld (p : Space) (v : GReg) (a : SReg) (imm : BitVec 17) (m : MaskUse) (s : State) : Host.Outcome State Fault Refusal := s.runOne (.vld p v a imm m) (opVld p v a imm m)

/-- VLDS. -/
def execVlds (p : Space) (v : GReg) (a : SReg) (b : SReg) (m : MaskUse) (s : State) : Host.Outcome State Fault Refusal := s.runOne (.vlds p v a b m) (opVlds p v a b m)

/-- VLDX. -/
def execVldx (p : Space) (v : GReg) (a : SReg) (x : GReg) (m : MaskUse) (s : State) : Host.Outcome State Fault Refusal := s.runOne (.vldx p v a x m) (opVldx p v a x m)

/-- VST. -/
def execVst (p : Space) (v : GReg) (a : SReg) (imm : BitVec 17) (m : MaskUse) (s : State) : Host.Outcome State Fault Refusal := s.runOne (.vst p v a imm m) (opVst p v a imm m)

/-- VSTS. -/
def execVsts (p : Space) (v : GReg) (a : SReg) (b : SReg) (m : MaskUse) (s : State) : Host.Outcome State Fault Refusal := s.runOne (.vsts p v a b m) (opVsts p v a b m)

/-- VSTX. -/
def execVstx (p : Space) (v : GReg) (a : SReg) (x : GReg) (m : MaskUse) (s : State) : Host.Outcome State Fault Refusal := s.runOne (.vstx p v a x m) (opVstx p v a x m)

/-- VSTB. -/
def execVstb (p : Space) (v : GReg) (a : SReg) (k : MReg) (s : State) : Host.Outcome State Fault Refusal := s.runOne (.vstb p v a k) (opVstb p v a k)

/-- VLDC. -/
def execVldc (p : Space) (v : GReg) (a : SReg) (b : SReg) (s : State) : Host.Outcome State Fault Refusal := s.runOne (.vldc p v a b) (opVldc p v a b)

/-- VSPILL. -/
def execVspill (p : Space) (v : GReg) (a : SReg) (g : BitVec 2) (s : State) : Host.Outcome State Fault Refusal := s.runOne (.vspill p v a g) (opVspill p v a g)

/-- VFILL. -/
def execVfill (p : Space) (v : GReg) (a : SReg) (g : BitVec 2) (s : State) : Host.Outcome State Fault Refusal := s.runOne (.vfill p v a g) (opVfill p v a g)

/-- VSTVA. -/
def execVstva (v : GReg) (a : SReg) (t : SReg) (m : MaskUse) (s : State) : Host.Outcome State Fault Refusal := s.runOne (.vstva v a t m) (opVstva v a t m)

/-- SBIND. -/
def execSbind (a : SReg) (r : BitVec 1) (q : QReg) (s : State) : Host.Outcome State Fault Refusal := s.runOne (.sbind a r q) (opSbind a r q)

/-- SUNBIND. -/
def execSunbind (q : QReg) (s : State) : Host.Outcome State Fault Refusal := s.runOne (.sunbind q) (opSunbind q)

/-- SSTAT. -/
def execSstat (d : SReg) (q : QReg) (s : State) : Host.Outcome State Fault Refusal := s.runOne (.sstat d q) (opSstat d q)

/-- SSKIP. -/
def execSskip (a : SReg) (q : QReg) (s : State) : Host.Outcome State Fault Refusal := s.runOne (.sskip a q) (opSskip a q)

/-- SFLUSH. -/
def execSflush (q : QReg) (s : State) : Host.Outcome State Fault Refusal := s.runOne (.sflush q) (opSflush q)

/-- CPY. -/
def execCpy (d : SReg) (a : SReg) (s : State) : Host.Outcome State Fault Refusal := s.runOne (.cpy d a) (opCpy d a)

/-- CPYW. -/
def execCpyw (a : SReg) (s : State) : Host.Outcome State Fault Refusal := s.runOne (.cpyw a) (opCpyw a)

/-- CPYQ. -/
def execCpyq (d : SReg) (a : SReg) (s : State) : Host.Outcome State Fault Refusal := s.runOne (.cpyq d a) (opCpyq d a)

/-- CPYX. -/
def execCpyx (d : SReg) (a : SReg) (s : State) : Host.Outcome State Fault Refusal := s.runOne (.cpyx d a) (opCpyx d a)

/-- RGPROBE. -/
def execRgprobe (d : SReg) (a : SReg) (s : State) : Host.Outcome State Fault Refusal := s.runOne (.rgprobe d a) (opRgprobe d a)

/-- RGSPLIT. -/
def execRgsplit (d : SReg) (a : SReg) (s : State) : Host.Outcome State Fault Refusal := s.runOne (.rgsplit d a) (opRgsplit d a)

/-- RGMERGE. -/
def execRgmerge (d : SReg) (a : SReg) (s : State) : Host.Outcome State Fault Refusal := s.runOne (.rgmerge d a) (opRgmerge d a)

/-- RGINV. -/
def execRginv (a : SReg) (b : SReg) (s : State) : Host.Outcome State Fault Refusal := s.runOne (.rginv a b) (opRginv a b)

/-- RGTOUCH. -/
def execRgtouch (a : SReg) (s : State) : Host.Outcome State Fault Refusal := s.runOne (.rgtouch a) (opRgtouch a)

/-- RGMOVE. -/
def execRgmove (d : SReg) (a : SReg) (b : SReg) (h : BitVec 4) (s : State) : Host.Outcome State Fault Refusal := s.runOne (.rgmove d a b h) (opRgmove d a b h)

/-- TIME. -/
def execTime (d : SReg) (s : State) : Host.Outcome State Fault Refusal := s.runOne (.time d) (opTime d)

/-- TWAIT. -/
def execTwait (a : SReg) (s : State) : Host.Outcome State Fault Refusal := s.runOne (.twait a) (opTwait a)

/-- TSTAT. -/
def execTstat (d : SReg) (s : State) : Host.Outcome State Fault Refusal := s.runOne (.tstat d) (opTstat d)

/-- GBAR. -/
def execGbar (d : SReg) (a : SReg) (s : State) : Host.Outcome State Fault Refusal := s.runOne (.gbar d a) (opGbar d a)

/-- JPOST. -/
def execJpost (d : SReg) (a : SReg) (s : State) : Host.Outcome State Fault Refusal := s.runOne (.jpost d a) (opJpost d a)

/-- JYIELD. -/
def execJyield (s : State) : Host.Outcome State Fault Refusal := s.runOne .jyield opJyield

/-- JDONE. -/
def execJdone (s : State) : Host.Outcome State Fault Refusal := s.runOne .jdone opJdone

/-- JWAIT. -/
def execJwait (a : SReg) (s : State) : Host.Outcome State Fault Refusal := s.runOne (.jwait a) (opJwait a)

/-- JDEC. -/
def execJdec (a : SReg) (s : State) : Host.Outcome State Fault Refusal := s.runOne (.jdec a) (opJdec a)

/-- WAITA. -/
def execWaita (a : SReg) (b : SReg) (s : State) : Host.Outcome State Fault Refusal := s.runOne (.waita a b) (opWaita a b)

/-- CAPQ. -/
def execCapq (d : SReg) (a : SReg) (x : BitVec 8) (s : State) : Host.Outcome State Fault Refusal := s.runOne (.capq d a x) (opCapq d a x)

/-- CAPR. -/
def execCapr (d : SReg) (a : SReg) (x : BitVec 8) (s : State) : Host.Outcome State Fault Refusal := s.runOne (.capr d a x) (opCapr d a x)

/-- TSHAPE. -/
def execTshape (d : SReg) (a : SReg) (s : State) : Host.Outcome State Fault Refusal := s.runOne (.tshape d a) (opTshape d a)

/-- OPA. -/
def execOpa (h : BitVec 1) (qa : QReg) (qb : QReg) (n : BitVec 1) (o : BitVec 1) (s : State) : Host.Outcome State Fault Refusal := s.runOne (.opa h qa qb n o) (opOpa h qa qb n o)

/-- OPZ. -/
def execOpz (h : BitVec 1) (s : State) : Host.Outcome State Fault Refusal := s.runOne (.opz h) (opOpz h)

/-- GMOV. -/
def execGmov (d : GReg) (r : GReg) (s : State) : Host.Outcome State Fault Refusal := s.runOne (.gmov d r) (opGmov d r)

/-- GTRN. -/
def execGtrn (h : BitVec 1) (s : State) : Host.Outcome State Fault Refusal := s.runOne (.gtrn h) (opGtrn h)

/-- GSTAT. -/
def execGstat (d : SReg) (s : State) : Host.Outcome State Fault Refusal := s.runOne (.gstat d) (opGstat d)

/-- GSAVE. -/
def execGsave (f : GReg) (c : BitVec 7) (s : State) : Host.Outcome State Fault Refusal := s.runOne (.gsave f c) (opGsave f c)

/-- GLOAD. -/
def execGload (f : GReg) (c : BitVec 7) (s : State) : Host.Outcome State Fault Refusal := s.runOne (.gload f c) (opGload f c)

/-- GDIRTY. -/
def execGdirty (d : SReg) (h : BitVec 1) (s : State) : Host.Outcome State Fault Refusal := s.runOne (.gdirty d h) (opGdirty d h)

/-- GCLR. -/
def execGclr (h : BitVec 1) (s : State) : Host.Outcome State Fault Refusal := s.runOne (.gclr h) (opGclr h)

/-- VADD. -/
def execVadd (w : View) (d : GReg) (a : GReg) (b : GReg) (m : MaskUse) (s : State) : Host.Outcome State Fault Refusal := s.runOne (.vadd w d a b m) (opVadd w d a b m)

/-- VSUB. -/
def execVsub (w : View) (d : GReg) (a : GReg) (b : GReg) (m : MaskUse) (s : State) : Host.Outcome State Fault Refusal := s.runOne (.vsub w d a b m) (opVsub w d a b m)

/-- VMUL. -/
def execVmul (w : View) (d : GReg) (a : GReg) (b : GReg) (m : MaskUse) (s : State) : Host.Outcome State Fault Refusal := s.runOne (.vmul w d a b m) (opVmul w d a b m)

/-- VFMA. -/
def execVfma (w : View) (d : GReg) (a : GReg) (b : GReg) (m : MaskUse) (s : State) : Host.Outcome State Fault Refusal := s.runOne (.vfma w d a b m) (opVfma w d a b m)

/-- VFMS. -/
def execVfms (w : View) (d : GReg) (a : GReg) (b : GReg) (m : MaskUse) (s : State) : Host.Outcome State Fault Refusal := s.runOne (.vfms w d a b m) (opVfms w d a b m)

/-- VMIN. -/
def execVmin (w : View) (d : GReg) (a : GReg) (b : GReg) (m : MaskUse) (s : State) : Host.Outcome State Fault Refusal := s.runOne (.vmin w d a b m) (opVmin w d a b m)

/-- VMAX. -/
def execVmax (w : View) (d : GReg) (a : GReg) (b : GReg) (m : MaskUse) (s : State) : Host.Outcome State Fault Refusal := s.runOne (.vmax w d a b m) (opVmax w d a b m)

/-- VABS. -/
def execVabs (w : View) (d : GReg) (a : GReg) (m : MaskUse) (s : State) : Host.Outcome State Fault Refusal := s.runOne (.vabs w d a m) (opVabs w d a m)

/-- VNEG. -/
def execVneg (w : View) (d : GReg) (a : GReg) (m : MaskUse) (s : State) : Host.Outcome State Fault Refusal := s.runOne (.vneg w d a m) (opVneg w d a m)

/-- VDIV. -/
def execVdiv (w : View) (d : GReg) (a : GReg) (b : GReg) (m : MaskUse) (s : State) : Host.Outcome State Fault Refusal := s.runOne (.vdiv w d a b m) (opVdiv w d a b m)

/-- VAND. -/
def execVand (w : View) (d : GReg) (a : GReg) (b : GReg) (m : MaskUse) (s : State) : Host.Outcome State Fault Refusal := s.runOne (.vand w d a b m) (opVand w d a b m)

/-- VOR. -/
def execVor (w : View) (d : GReg) (a : GReg) (b : GReg) (m : MaskUse) (s : State) : Host.Outcome State Fault Refusal := s.runOne (.vor w d a b m) (opVor w d a b m)

/-- VXOR. -/
def execVxor (w : View) (d : GReg) (a : GReg) (b : GReg) (m : MaskUse) (s : State) : Host.Outcome State Fault Refusal := s.runOne (.vxor w d a b m) (opVxor w d a b m)

/-- VNOT. -/
def execVnot (w : View) (d : GReg) (a : GReg) (m : MaskUse) (s : State) : Host.Outcome State Fault Refusal := s.runOne (.vnot w d a m) (opVnot w d a m)

/-- VSLL. -/
def execVsll (w : View) (d : GReg) (a : GReg) (b : GReg) (m : MaskUse) (s : State) : Host.Outcome State Fault Refusal := s.runOne (.vsll w d a b m) (opVsll w d a b m)

/-- VSRL. -/
def execVsrl (w : View) (d : GReg) (a : GReg) (b : GReg) (m : MaskUse) (s : State) : Host.Outcome State Fault Refusal := s.runOne (.vsrl w d a b m) (opVsrl w d a b m)

/-- VSRA. -/
def execVsra (w : View) (d : GReg) (a : GReg) (b : GReg) (m : MaskUse) (s : State) : Host.Outcome State Fault Refusal := s.runOne (.vsra w d a b m) (opVsra w d a b m)

/-- VFSHL. -/
def execVfshl (w : View) (d : GReg) (a : GReg) (b : GReg) (m : MaskUse) (s : State) : Host.Outcome State Fault Refusal := s.runOne (.vfshl w d a b m) (opVfshl w d a b m)

/-- VFSHR. -/
def execVfshr (w : View) (d : GReg) (a : GReg) (b : GReg) (m : MaskUse) (s : State) : Host.Outcome State Fault Refusal := s.runOne (.vfshr w d a b m) (opVfshr w d a b m)

/-- VCMP. -/
def execVcmp (w : View) (c : BitVec 4) (k : MReg) (a : GReg) (b : GReg) (m : MaskUse) (s : State) : Host.Outcome State Fault Refusal := s.runOne (.vcmp w c k a b m) (opVcmp w c k a b m)

/-- VSEL. -/
def execVsel (w : View) (d : GReg) (a : GReg) (b : GReg) (m : MaskUse) (s : State) : Host.Outcome State Fault Refusal := s.runOne (.vsel w d a b m) (opVsel w d a b m)

/-- VMV. -/
def execVmv (w : View) (d : GReg) (a : GReg) (m : MaskUse) (s : State) : Host.Outcome State Fault Refusal := s.runOne (.vmv w d a m) (opVmv w d a m)

/-- VBCAST. -/
def execVbcast (w : View) (d : GReg) (x : SReg) (m : MaskUse) (s : State) : Host.Outcome State Fault Refusal := s.runOne (.vbcast w d x m) (opVbcast w d x m)

/-- VADDS. -/
def execVadds (w : View) (d : GReg) (a : GReg) (x : SReg) (m : MaskUse) (s : State) : Host.Outcome State Fault Refusal := s.runOne (.vadds w d a x m) (opVadds w d a x m)

/-- VMULS. -/
def execVmuls (w : View) (d : GReg) (a : GReg) (x : SReg) (m : MaskUse) (s : State) : Host.Outcome State Fault Refusal := s.runOne (.vmuls w d a x m) (opVmuls w d a x m)

/-- VFMAS. -/
def execVfmas (w : View) (d : GReg) (a : GReg) (x : SReg) (m : MaskUse) (s : State) : Host.Outcome State Fault Refusal := s.runOne (.vfmas w d a x m) (opVfmas w d a x m)

/-- VID. -/
def execVid (w : View) (d : GReg) (m : MaskUse) (s : State) : Host.Outcome State Fault Refusal := s.runOne (.vid w d m) (opVid w d m)

/-- VCVT. -/
def execVcvt (w : View) (d : GReg) (a : GReg) (k : BitVec 7) (m : MaskUse) (s : State) : Host.Outcome State Fault Refusal := s.runOne (.vcvt w d a k m) (opVcvt w d a k m)

/-- VQNT. -/
def execVqnt (w : View) (d : GReg) (a : GReg) (x : SReg) (m : MaskUse) (s : State) : Host.Outcome State Fault Refusal := s.runOne (.vqnt w d a x m) (opVqnt w d a x m)

/-- VHAD. -/
def execVhad (w : View) (d : GReg) (a : GReg) (k : BitVec 7) (m : MaskUse) (s : State) : Host.Outcome State Fault Refusal := s.runOne (.vhad w d a k m) (opVhad w d a k m)

/-- VSFU. -/
def execVsfu (w : View) (d : GReg) (a : GReg) (k : BitVec 7) (m : MaskUse) (s : State) : Host.Outcome State Fault Refusal := s.runOne (.vsfu w d a k m) (opVsfu w d a k m)

/-- VREDSUM. -/
def execVredsum (w : View) (d : SReg) (a : GReg) (m : MaskUse) (s : State) : Host.Outcome State Fault Refusal := s.runOne (.vredsum w d a m) (opVredsum w d a m)

/-- VREDMAX. -/
def execVredmax (w : View) (d : SReg) (a : GReg) (m : MaskUse) (s : State) : Host.Outcome State Fault Refusal := s.runOne (.vredmax w d a m) (opVredmax w d a m)

/-- VREDMIN. -/
def execVredmin (w : View) (d : SReg) (a : GReg) (m : MaskUse) (s : State) : Host.Outcome State Fault Refusal := s.runOne (.vredmin w d a m) (opVredmin w d a m)

/-- VREDAMAX. -/
def execVredamax (w : View) (d : SReg) (a : GReg) (m : MaskUse) (s : State) : Host.Outcome State Fault Refusal := s.runOne (.vredamax w d a m) (opVredamax w d a m)

/-- VSEGSUM. -/
def execVsegsum (w : View) (d : GReg) (a : GReg) (k : MReg) (m : MaskUse) (s : State) : Host.Outcome State Fault Refusal := s.runOne (.vsegsum w d a k m) (opVsegsum w d a k m)

/-- VSEGSCAN. -/
def execVsegscan (w : View) (d : GReg) (a : GReg) (k : MReg) (m : MaskUse) (s : State) : Host.Outcome State Fault Refusal := s.runOne (.vsegscan w d a k m) (opVsegscan w d a k m)

/-- VSCAN. -/
def execVscan (w : View) (d : GReg) (a : GReg) (m : MaskUse) (s : State) : Host.Outcome State Fault Refusal := s.runOne (.vscan w d a m) (opVscan w d a m)

/-- VSLIDEUP. -/
def execVslideup (w : View) (d : GReg) (a : GReg) (x : SReg) (m : MaskUse) (s : State) : Host.Outcome State Fault Refusal := s.runOne (.vslideup w d a x m) (opVslideup w d a x m)

/-- VSLIDEDN. -/
def execVslidedn (w : View) (d : GReg) (a : GReg) (x : SReg) (m : MaskUse) (s : State) : Host.Outcome State Fault Refusal := s.runOne (.vslidedn w d a x m) (opVslidedn w d a x m)

/-- VPERM. -/
def execVperm (w : View) (d : GReg) (a : GReg) (b : GReg) (m : MaskUse) (s : State) : Host.Outcome State Fault Refusal := s.runOne (.vperm w d a b m) (opVperm w d a b m)

/-- VUNPK. -/
def execVunpk (w : View) (d : GReg) (a : GReg) (k : BitVec 7) (m : MaskUse) (s : State) : Host.Outcome State Fault Refusal := s.runOne (.vunpk w d a k m) (opVunpk w d a k m)

/-- VPACK. -/
def execVpack (w : View) (d : GReg) (a : GReg) (k : BitVec 7) (m : MaskUse) (s : State) : Host.Outcome State Fault Refusal := s.runOne (.vpack w d a k m) (opVpack w d a k m)

/-- VLUT. -/
def execVlut (w : View) (d : GReg) (a : GReg) (b : GReg) (m : MaskUse) (s : State) : Host.Outcome State Fault Refusal := s.runOne (.vlut w d a b m) (opVlut w d a b m)

/-- VEXPAND. -/
def execVexpand (w : View) (d : GReg) (a : GReg) (m : MaskUse) (s : State) : Host.Outcome State Fault Refusal := s.runOne (.vexpand w d a m) (opVexpand w d a m)

/-- VCOMPRESS. -/
def execVcompress (w : View) (d : GReg) (a : GReg) (m : MaskUse) (s : State) : Host.Outcome State Fault Refusal := s.runOne (.vcompress w d a m) (opVcompress w d a m)

/-- VSPARSE. -/
def execVsparse (w : View) (d : GReg) (a : GReg) (k : BitVec 7) (m : MaskUse) (s : State) : Host.Outcome State Fault Refusal := s.runOne (.vsparse w d a k m) (opVsparse w d a k m)

/-- VPOP. -/
def execVpop (w : View) (d : GReg) (q : QReg) (m : MaskUse) (s : State) : Host.Outcome State Fault Refusal := s.runOne (.vpop w d q m) (opVpop w d q m)

/-- VPUSH. -/
def execVpush (q : QReg) (a : GReg) (m : MaskUse) (s : State) : Host.Outcome State Fault Refusal := s.runOne (.vpush q a m) (opVpush q a m)

/-- VMAND. -/
def execVmand (d : MReg) (a : MReg) (b : MReg) (s : State) : Host.Outcome State Fault Refusal := s.runOne (.vmand d a b) (opVmand d a b)

/-- VMOR. -/
def execVmor (d : MReg) (a : MReg) (b : MReg) (s : State) : Host.Outcome State Fault Refusal := s.runOne (.vmor d a b) (opVmor d a b)

/-- VMXOR. -/
def execVmxor (d : MReg) (a : MReg) (b : MReg) (s : State) : Host.Outcome State Fault Refusal := s.runOne (.vmxor d a b) (opVmxor d a b)

/-- VMNOT. -/
def execVmnot (d : MReg) (a : MReg) (s : State) : Host.Outcome State Fault Refusal := s.runOne (.vmnot d a) (opVmnot d a)

/-- VMPOPC. -/
def execVmpopc (d : SReg) (a : MReg) (s : State) : Host.Outcome State Fault Refusal := s.runOne (.vmpopc d a) (opVmpopc d a)

/-- VMFIRST. -/
def execVmfirst (d : SReg) (a : MReg) (s : State) : Host.Outcome State Fault Refusal := s.runOne (.vmfirst d a) (opVmfirst d a)

/-- VMFROM. -/
def execVmfrom (w : View) (k : MReg) (a : GReg) (m : MaskUse) (s : State) : Host.Outcome State Fault Refusal := s.runOne (.vmfrom w k a m) (opVmfrom w k a m)

/-- VMTO. -/
def execVmto (w : View) (d : GReg) (k : MReg) (m : MaskUse) (s : State) : Host.Outcome State Fault Refusal := s.runOne (.vmto w d k m) (opVmto w d k m)

/-- VEXT. -/
def execVext (w : View) (d : SReg) (a : GReg) (x : SReg) (m : MaskUse) (s : State) : Host.Outcome State Fault Refusal := s.runOne (.vext w d a x m) (opVext w d a x m)

/-- VNRW. -/
def execVnrw (w : View) (d : GReg) (a : GReg) (k : BitVec 7) (m : MaskUse) (s : State) : Host.Outcome State Fault Refusal := s.runOne (.vnrw w d a k m) (opVnrw w d a k m)

/-- VPOPC. -/
def execVpopc (w : View) (d : GReg) (a : GReg) (m : MaskUse) (s : State) : Host.Outcome State Fault Refusal := s.runOne (.vpopc w d a m) (opVpopc w d a m)

/-- VSHRR. -/
def execVshrr (w : View) (d : GReg) (a : GReg) (b : GReg) (m : MaskUse) (s : State) : Host.Outcome State Fault Refusal := s.runOne (.vshrr w d a b m) (opVshrr w d a b m)

/-- VMULH. -/
def execVmulh (w : View) (d : GReg) (a : GReg) (b : GReg) (m : MaskUse) (s : State) : Host.Outcome State Fault Refusal := s.runOne (.vmulh w d a b m) (opVmulh w d a b m)

/-- VCLZ. -/
def execVclz (w : View) (d : GReg) (a : GReg) (m : MaskUse) (s : State) : Host.Outcome State Fault Refusal := s.runOne (.vclz w d a m) (opVclz w d a m)

/-- SVC. -/
def execSvc (c : BitVec 16) (s : State) : Host.Outcome State Fault Refusal := s.runOne (.svc c) (opSvc c)

/-- BRK. -/
def execBrk (c : BitVec 16) (s : State) : Host.Outcome State Fault Refusal := s.runOne (.brk c) (opBrk c)

/-- ERET. -/
def execEret (s : State) : Host.Outcome State Fault Refusal := s.runOne .eret opEret

/-- WFI. -/
def execWfi (s : State) : Host.Outcome State Fault Refusal := s.runOne .wfi opWfi

/-- RCFLUSH. -/
def execRcflush (s : State) : Host.Outcome State Fault Refusal := s.runOne .rcflush opRcflush

/-- KEYSEL. -/
def execKeysel (a : SReg) (b : SReg) (s : State) : Host.Outcome State Fault Refusal := s.runOne (.keysel a b) (opKeysel a b)

/-- HALT. -/
def execHalt (s : State) : Host.Outcome State Fault Refusal := s.runOne .halt opHalt

/-- ERRLOG. -/
def execErrlog (d : SReg) (a : SReg) (s : State) : Host.Outcome State Fault Refusal := s.runOne (.errlog d a) (opErrlog d a)

end Sys2Proof.Machine
end

