-- ==== Sys2Proof/Machine/Home.lean ====
section
/-! DEFINITION. The events of accesses on their way: performing at a home or in a scratchpad (R45, R47, R105, R126, R127,
R173), replies (R107), arrival groups and decoded rows landing (R135, R263), and timed accesses (R118 to R122). -/

namespace Sys2Proof.Machine

/-- An access on its way changed. -/
def State.modFlight (s : State) (k : Nat) (f : Flight → Flight) : State := { s with flights := modAt s.flights k f }

/-- An access on its way ended. -/
def State.dropFlight (s : State) (k : Nat) : State := { s with flights := dropAt s.flights k }

/-- A block of a lost segment answers with the error response (R64). -/
def State.lostPiece (s : State) (f : Flight) (p : Piece) : Piece :=
  match p.loc with
  | .mem _ h _ =>
    if f.space == 0 && !(s.die h).inService &&
       s.ranges.lost.any (fun l => l.1 == f.owner && decide (l.2.1 ≤ p.blk) && decide (p.blk < l.2.2)) then
      { p with loc := .bad 0x12 }
    else p
  | _ => p

/-- Some blocks of an access perform and the others stay (R45, R109, R248). As the first of a store or an atomic perform, those
that are strict are checked, and where one meets an error none of the access performs (R173); a store's are not strict any more
after that. -/
def State.performSome (s : State) (f : Flight) (now rest : List Piece) : Flight × State :=
  match if f.done.isEmpty && f.act != .read then s.strictError f else none with
  | some e => ({ f with pieces := [], fails := f.fails ++ [e] }, s)
  | none =>
    let settled (p : Piece) : Piece := if f.act == .write then { p with strict := false } else p
    match s.performList { f with pieces := [], heard := s.answerAt f now } (now.map settled) with
    | (g, t) => ({ g with pieces := rest }, t)

/-- What follows when every block of an access has performed: a store is done, a captured row is stored, and what delivers
something waits for its reply or for its groups (R28, R107, R135, R313). -/
def State.performed (s : State) (k : Nat) (f : Flight) : State :=
  match f.land with
  | .ask _ => s.modFlight k fun _ => f
  | .groups _ _ => (s.report f).modFlight k fun _ => { f with fails := [] }
  | .decode _ _ _ _ _ _ => s.modFlight k fun _ => f
  | .frame _ _ _ _ _ => match s.frameEnd f with
    | (g, t) => t.modFlight k fun _ => g
  | _ => (s.dropFlight k).land f

/-- The blocks of an access of which the one that `pick` names among those left performs on its own; without one they perform
together (R248, log 77). -/
def State.blockOf (s : State) (f : Flight) : List Piece × List Piece :=
  match s.pick.bind fun j => f.pieces[j]? with
  | some p => ([p], dropAt f.pieces (s.pick.getD 0))
  | none => (f.pieces, [])

/-- An access, or one block of it, performs at its home (R105, R248): once it has arrived there and what it must follow has
performed. Reads and atomics of host memory go to the host (R126), and a store to a peer awaits its acknowledgement, once all of
it has performed (R127). -/
def State.accessAtHome (s : State) (k : Nat) : State :=
  match s.flights[k]? with
  | none => s
  | some f0 =>
    let f := { f0 with pieces := f0.pieces.map (s.lostPiece f0) }
    let (now, rest) := s.blockOf f
    if f.pieces.isEmpty || f.awaits || f.time.isSome || f.space = 1 || f.space = 2 || !s.arrived f ||
       now.any (s.heldBack f) || !s.mayPerform (s.flights.take k) f then s
    else if f.act != .write && f.pieces.any (fun p => s.locHost p.loc) then s.modFlight k fun _ => { f with awaits := true }
    else
      let peer := f.owed || (f.act == .write && now.any fun p => s.locPeer p.loc)
      match s.performSome f now rest with
      | (g, t) =>
        if !g.pieces.isEmpty then t.modFlight k fun _ => { g with owed := peer }
        else if peer then t.modFlight k fun _ => { g with awaits := true }
        else t.performed k g

/-- The host's completion of a read or AtomicOp, or of a block of it, returns (R126, R248). -/
def State.hostCompletion (s : State) (k : Nat) : State :=
  match s.flights[k]? with
  | none => s
  | some f =>
    let (now, rest) := s.blockOf f
    if !f.awaits || f.pieces.isEmpty || now.any (s.heldBack f) then s else
    match s.performSome f now rest with
    | (g, t) => if g.pieces.isEmpty then t.performed k { g with awaits := false } else t.modFlight k fun _ => g

/-- A peer acknowledges a store (R127). -/
def State.peerAck (s : State) (k : Nat) : State :=
  match s.flights[k]? with
  | none => s
  | some f => if f.awaits && f.pieces.isEmpty then s.performed k { f with awaits := false } else s

/-- A block of cluster scratch checked for its owner at the target core (R12, R47). -/
def State.ownerBad (s : State) (f : Flight) (p : Piece) : Bool :=
  match p.loc with
  | .scr k _ => k != f.core && ((s.core k).resident.map (·.owner)).getD 0 != f.owner
  | _ => false

/-- A cluster-scratch access reaches the target's port (R47), after those that the same core sent there before it. A failed
owner check of a strict access fails the whole of it (R28). -/
def State.clusterArrival (s : State) (k : Nat) : State :=
  match s.flights[k]? with
  | none => s
  | some f =>
    if f.space ≠ 2 ∨ f.accepted ∨
       (s.flights.take k).any (fun g => g.space == 2 && g.core == f.core && !g.accepted && g.meets f) then s else
    let (bad, good) := f.pieces.partition (s.ownerBad f)
    let kept := if bad.any (·.strict) then [] else good
    let g : Flight := { f with
      accepted := true
      port := s.uid
      pieces := kept
      fails := f.fails ++ bad.map fun p => ⟨p.lo, 0x06, false, p.strict⟩ }
    let t := { s with uid := s.uid + 1 }
    if kept.isEmpty then t.performed k g else t.modFlight k fun _ => g

/-- An access waits at the same port of a scratchpad before another one, and not for a segment that is being moved (R46,
R56): at the core's own port in the order of issue, at a cluster port in the order of arrival. -/
def State.portBefore (s : State) (k : Nat) (f : Flight) : Bool :=
  let waits (g : Flight) : Bool := g.meets f && g.pieces.any fun p => !s.heldBack g p
  if f.space = 1 then (s.flights.take k).any fun g => g.space == 1 && waits g
  else s.flights.any fun g => g.space == 2 && g.accepted && decide (g.port < f.port) && waits g

/-- A line of a scratchpad access passes its bank (R45, R46, R56); a cluster-scratch access arrives first. -/
def State.scratchComplete (s : State) (k : Nat) : State :=
  match s.flights[k]? with
  | none => s
  | some f =>
    let (now, rest) := f.firstLine
    if f.pieces.isEmpty || !(f.space = 1 || (f.space = 2 && f.accepted)) || now.any (s.heldBack f) ||
       s.portBefore k f || !s.mayPerform (s.flights.take k) f then s
    else match s.performSome f now rest with
      | (g, t) => if g.pieces.isEmpty then t.performed k g else t.modFlight k fun _ => g

/-- An access whose answer a context waits for has performed (R107, R173). -/
def Flight.ready (f : Flight) : Bool :=
  f.pieces.isEmpty && !f.awaits && f.late.isEmpty && match f.land with
    | .ask _ => true
    | _ => false

/-- A value or error response returns (R107): to the bundle at issue, or to a bundle committed in absence (R184). -/
def State.accessReply (s : State) (core : Nat) : State :=
  let asks (h : Hart) (c : Nat) (f : Flight) : Bool :=
    h.wait == .ask && f.ready && s.returned f && f.ofCtx c h.sup.owner.toNat h.sup.saveptr.toNat
  match indexWhere (asks (s.hart core) core) s.flights with
  | some k => match s.flights[k]? with
    | some f => (s.dropFlight k).modHart core fun h => { h with wait := .answer f }
    | none => s
  | none =>
    match indexWhere (fun a => a.core == core && s.flights.any (asks a.hart core)) s.absent with
    | none => s
    | some n =>
      match s.absent[n]? with
      | none => s
      | some a => match indexWhere (asks a.hart core) s.flights with
        | none => s
        | some k => match s.flights[k]? with
          | some f => { s.dropFlight k with absent := modAt s.absent n fun a => { a with hart := { a.hart with wait := .answer f } } }
          | none => s

/-- The arrival bits of groups that other accesses have still to fill stay clear (R135). -/
def State.reclear (s : State) (f : Flight) (row grp : Nat) : State :=
  if s.present f.core f.area f.lvl && s.groupPending f row grp then
    s.modHart f.core fun h => h.modGrid fun g => g.clearGroups [(row, grp)]
  else s

/-- A group of a load lands, the one that `pick` names among those left: they land in any order (R135, R147). -/
def State.groupLanded (s : State) (k : Nat) : State :=
  let n := s.pick.getD 0
  match s.flights[k]? with
  | none => s
  | some f =>
    match f.land with
    | .groups fill gs =>
      if !f.pieces.isEmpty || f.awaits || !s.returned f then s else
      match gs[n]? with
      | none => if gs.isEmpty then s.dropFlight k else s
      | some g =>
        if !s.groupFree (s.flights.take k) f g.row g.grp then s else
        let t := s.landGroup f fill g
        let u := match dropAt gs n with
          | [] => t.dropFlight k
          | rest => t.modFlight k fun f => { f with land := .groups fill rest }
        u.reclear f g.row g.grp
    | _ => s

/-- The oldest VLDC of a core decodes, once what it reads is there and its rows take its groups (R134, R135, R263). -/
def State.decodeEnd (s : State) (core : Nat) : State :=
  match indexWhere (fun f => f.core == core && match f.land with
    | .decode _ _ _ _ _ _ => true
    | _ => false) s.flights with
  | none => s
  | some k =>
    match s.flights[k]? with
    | none => s
    | some f => match f.land with
      | .decode row n _ _ _ _ =>
        if f.pieces.isEmpty && !f.awaits && s.returned f && s.rowsFree (s.flights.take k) f row n then
          (List.range (8 * n)).foldl (fun t i => t.reclear f (row + i / 8) (i % 8)) ((s.dropFlight k).vldcEnd f)
        else s
      | _ => s

/-- OPZ, GCLR, GMOV and GTRN have made their last write (R308 to R310). -/
def State.clearingDone (s : State) (core : Nat) : State :=
  s.modHart core fun h =>
    { h with clearing := 0, grid := { h.grid with busy := h.grid.busy &&& ~~~h.clearing } }

/-- A timed store whose blocks have arrived (R118, R120, R181): PEND falls unless a report is still to come. -/
def State.storeArrived (s : State) (k : Nat) (f : Flight) : State :=
  if !f.late.isEmpty then s.modFlight k fun _ => f
  else match f.land with
    | .ask _ => (s.modFlight k fun _ => f).pendDown f
    | _ => (s.dropFlight k).pendDown f

/-- The blocks of an LDNB whose time has ended at their homes perform (R119, R118): every timed store that arrives in that tick
comes before them (log 76). One whose time did not lie ahead at issue, or that has failed, is not held (R251). -/
def State.ldnbDue (s : State) (k : Nat) : State :=
  match s.flights[k]? with
  | none => s
  | some f =>
    match f.time with
    | none => s
    | some t =>
      if f.act != .read || !f.accepted then s else
      let (due, rest) := f.pieces.partition fun p => (!f.wasFuture || s.homePassed p.loc t) && !s.heldBack f p
      match s.performSome f due rest with
      | (g, u) => if due.isEmpty then s else u.modFlight k fun _ => g

/-- A timed access that the same die sent to one of the homes of an access before it has still to arrive there: what one die
sends to another arrives in the order in which it was sent (R360). -/
def State.timedBefore (s : State) (k : Nat) (f : Flight) : Bool :=
  (s.flights.take k).any fun g => g.time.isSome && !g.accepted && dieOf g.core == dieOf f.core && decide (g.sent ≤ f.sent) &&
    g.pieces.any fun p => !s.heldBack g p && f.pieces.any fun q => p.loc.die.isSome && p.loc.die == q.loc.die

/-- A timed access, or one block of a timed store, reaches its home, which has room for it (R118, R119, R120, R122). -/
def State.timedArrival (s : State) (k : Nat) : State :=
  let s := s.movedResponseResend k
  match s.flights[k]? with
  | none => s
  | some f =>
    match f.time with
    | none => s
    | some t =>
      let (now, rest) := if f.act == .read then (f.pieces, []) else s.blockOf f
      let n := { f with pieces := now }
      if f.accepted || !s.arrived n || now.any (s.heldBack f) || !s.roomFor n || s.timedBefore k n then s
      else if f.act == .read then (s.modFlight k fun f => { f with accepted := true }).ldnbDue k
      else match s.arriveBlocks t { f with pieces := [] } now with
        | (g, u) => if rest.isEmpty then u.storeArrived k { g with accepted := true }
          else u.modFlight k fun _ => { g with pieces := rest }

/-- A late report reaches its context (R120, R181, R354). -/
def State.missedReport (s : State) (k : Nat) : State :=
  match s.flights[k]? with
  | none => s
  | some f =>
    match f.lateNotice with
    | none => s
    | some n =>
      if !f.accepted then s else
      let t := s.noticeTo f n
      t.storeArrived k { f with late := [] }

/-- The time of a held access. -/
def Flight.due (f : Flight) : Nat := f.time.getD 0

/-- The lowest of some numbers. -/
def leastOf : List Nat → Option Nat
  | [] => none
  | x :: xs => match leastOf xs with
    | none => some x
    | some y => some (min x y)

/-- The timed accesses of one time at a die perform: stores in order of arrival, then LDNBs (R118). -/
def State.timedAt (s : State) (d t : Nat) : State :=
  let mine := (s.die d).held.filter fun f =>
    f.due == t && f.pieces.any (fun p => s.homeReached p.loc t) && !f.pieces.any (s.heldBack f)
  let s := s.modDie d fun v => { v with held := v.held.filter fun f => !mine.contains f }
  let s := mine.foldl (fun s f => f.pieces.foldl (fun s p => s.performTimed f p) s) s
  (List.range s.flights.length).foldl (fun s k =>
    match s.flights[k]? with
    | some f => if f.time == some t then s.ldnbDue k else s
    | none => s) s

/-- The times that the timed accesses which wait at a die have reached there. -/
def State.dueTimes (s : State) (d : Nat) : List Nat :=
  let stores := ((s.die d).held.filter fun f =>
    f.pieces.any (fun p => s.homeReached p.loc f.due) && !f.pieces.any (s.heldBack f)).map (·.due)
  let loads := (s.flights.filter fun f => f.accepted && f.act == .read && f.time.isSome &&
    f.pieces.any fun p => p.loc.die == some d && s.homePassed p.loc f.due && !s.heldBack f p).map (·.due)
  stores ++ loads

/-- The timed accesses due at a die perform in order of their times (R118, R119). -/
def State.timedDue (s : State) (d : Nat) : Nat → State
  | 0 => s
  | n + 1 => match leastOf (s.dueTimes d) with
    | none => s
    | some t => (s.timedAt d t).timedDue d n

/-- TIMED_ACCESS_DUE at a die. -/
def State.timedDueAll (s : State) (d : Nat) : State := s.timedDue d ((s.die d).held.length + s.flights.length)

end Sys2Proof.Machine
end

