-- ==== Sys2Proof/Machine/Place.lean ====
section
/-! DEFINITION. The events of the distributors, the watchdog, the sheepdog and the harbourmaster: placement (R157 to R160,
R144), switching requests (R146, R154, R155), late slices (R156), deadlocks (R165, R166), heartbeats and fences (R63, R64,
R168 to R170). -/

namespace Sys2Proof.Machine

/-- A slice that waits in its slot and could run (R151, R157, R160, R170): some instance of it is not placed. -/
def Slot.waits (t : Slot) : Bool :=
  t.live && !t.failed && !t.finished && t.preds == 0 && (decide (t.handedOut < t.width) || !t.redo.isEmpty)

/-- A gang placed all at once (R159). -/
def Slot.gang (t : Slot) : Bool := !t.indexed && decide (1 < t.width)

/-- The index of the next instance: one to be placed anew, or the next one (R160, R170). -/
def Slot.nextIdx (t : Slot) : Nat := (t.redo.head?).getD t.handedOut

/-- The order of R153 among waiting slices. -/
def Slot.key (t : Slot) : List Nat := [t.cls, if t.cls = 1 then (t.rcd.getD 2 0).toNat else 0, t.seq]

/-- Every core id. -/
def allCores : List Nat := List.range 1536

/-- The cores eligible for a slice (R157). -/
def State.eligibleCores (s : State) (t : Slot) : List Nat := allCores.filter (s.eligible t)

/-- The free save areas of an owner's pool, lowest first (R158). -/
def State.freeAreas (s : State) (owner : Nat) (o : OwnEnt) : List Nat :=
  ((List.range o.savecount).map fun k => o.savebase + k * 0x180000).filter fun a => !(s.harbour.pools.get owner).contains a

/-- A waiting slice can be placed now. -/
def State.placeable (s : State) (t : Slot) : Bool :=
  match s.ownEnt t.owner with
  | none => false
  | some o =>
    let n := if t.gang then t.width else 1
    decide (n ≤ (s.eligibleCores t).length) && decide (n ≤ (s.freeAreas t.owner o).length)

/-- A gang has waited for a full window of R155 (R159): these begin at the multiples of 40,000,000. -/
def State.overdue (s : State) (d : Nat) (t : Slot) : Bool :=
  t.gang && decide ((t.since.toNat + 39999999) / 40000000 * 40000000 + 40000000 ≤ (s.die d).atime.toNat)

/-- A waiting slice goes before another (R157, R159): an overdue gang before its class and lower ones; otherwise a placeable
one in the order of R153. -/
def State.goesBefore (s : State) (d : Nat) (u : Slot) (e : Nat) (t : Slot) : Bool :=
  if s.overdue d u && decide (u.cls ≤ t.cls) then
    !(s.overdue e t && decide (t.cls ≤ u.cls)) || keyLt u.key t.key
  else !(s.overdue e t && decide (t.cls ≤ u.cls)) && keyLt u.key t.key && s.placeable u

/-- No waiting slice goes before this one. -/
def State.firstToPlace (s : State) (d i : Nat) : Bool :=
  let t := (s.die d).slots.get i
  s.dies.all fun p => p.2.slots.all fun q =>
    (p.1 == d && q.1 == i) || !q.2.waits || !s.goesBefore p.1 q.2 d t

/-- An instance enters the slice: it runs, and its index is handed out. -/
def Slot.handOut (t : Slot) : Slot :=
  match t.redo with
  | _ :: rest => { t with running := t.running + 1, redo := rest }
  | [] => { t with running := t.running + 1, handedOut := t.handedOut + 1 }

/-- An instance enters a core's queue and becomes resident there (R158, R194); on a core that a hart or a swap holds it does so
at its first run (log 82). -/
def State.settleOn (s : State) (k : Nat) (e : QEntry) : State :=
  let t := s.enqueue k e
  if t.coreFree k then t.swapScratch k e.area e.owner e.alloc true else t

/-- A distributor places a single hart or one instance of an indexed slice (R157, R158, R160). -/
def State.place (s : State) (d i : Nat) : State :=
  let t := (s.die d).slots.get i
  if !t.waits || t.gang || s.harbour.takeover || !s.firstToPlace d i then s else
  match s.ownEnt t.owner with
  | none => s
  | some o =>
    match s.freeArea t.owner o with
    | none => s
    | some a =>
      let e := newEntry t (t.handle d i) t.nextIdx a o
      match s.bestCore t e allCores with
      | none => s
      | some k => (s.settleOn k e).modSlot d i Slot.handOut

/-- The most cores that some clusters on some dies can give, by how many clusters and dies may be used: row r, column q. -/
def bestTable (dies : List (Nat × Nat)) : List (List Nat) :=
  dies.foldl (fun t p =>
    (List.range 33).map fun r => (List.range 17).map fun q =>
      let at_ (r q : Nat) : Nat := (t.getD r []).getD q 0
      let one := if 1 ≤ r ∧ 1 ≤ q then max p.1 p.2 + at_ (r - 1) (q - 1) else 0
      let both := if 2 ≤ r ∧ 1 ≤ q then p.1 + p.2 + at_ (r - 2) (q - 1) else 0
      max (at_ r q) (max one both)) (List.replicate 33 (List.replicate 17 0))

/-- An entry of that table. -/
def tableAt (t : List (List Nat)) (r q : Nat) : Nat := (t.getD r []).getD q 0

/-- The eligible cores of a cluster. -/
def inCluster (ks : List Nat) (c : Nat) : List Nat := ks.filter fun k => clusterOf k == c

/-- How many eligible cores the two clusters of each die from one on have. -/
def dieCounts (ks : List Nat) (d : Nat) : List (Nat × Nat) :=
  (List.range (16 - d)).map fun i => ((inCluster ks (2 * (d + i))).length, (inCluster ks (2 * (d + i) + 1)).length)

/-- The clusters chosen in increasing order (R159): each is taken where the rest can still be found in the clusters and dies
left. `used` says that the cluster's die holds one already. -/
def chooseClusters (ks : List Nat) : Nat → Nat → Nat → Nat → Nat → Bool → List Nat
  | 0, _, _, _, _, _ => []
  | n + 1, c, need, r, q, used =>
    let have_ := (inCluster ks c).length
    let cost := if used then 0 else 1
    let left := need - min need have_
    let rest := bestTable (dieCounts ks (c / 2 + 1))
    let most := if c % 2 = 0 then
        max (tableAt rest (r - 1) (q - cost))
          (if 2 ≤ r then (inCluster ks (c + 1)).length + tableAt rest (r - 2) (q - cost) else 0)
      else tableAt rest (r - 1) (q - cost)
    let take := decide (0 < need) && decide (0 < have_) && decide (1 ≤ r) && decide (cost ≤ q) && decide (left ≤ most)
    let used' := if c % 2 = 0 then take else false
    if take then c :: chooseClusters ks n (c + 1) left (r - 1) (q - cost) used'
    else chooseClusters ks n (c + 1) need r q (if c % 2 = 0 then false else used')

/-- The cores of a gang (R159): fewest clusters, fewest dies, lowest ids. -/
def gangCores (ks : List Nat) (w : Nat) : Option (List Nat) :=
  let t := bestTable (dieCounts ks 0)
  match (List.range 33).find? fun r => decide (w ≤ tableAt t r 16) with
  | none => none
  | some r =>
    match (List.range 17).find? fun q => decide (w ≤ tableAt t r q) with
    | none => none
    | some q =>
      let cs := chooseClusters ks 32 0 w r q false
      some ((ks.filter fun k => cs.contains (clusterOf k)).take w)

/-- The members of a gang enqueued, GANGIDX in increasing core id (R159). -/
def State.enqueueGang (s : State) (t : Slot) (h : Word) (o : OwnEnt) : List (Nat × Nat) → Nat → State
  | [], _ => s
  | (k, a) :: rest, idx => (s.settleOn k (newEntry t h idx a o)).enqueueGang t h o rest (idx + 1)

/-- A gang is placed all at once (R159, R144). -/
def State.placeGang (s : State) (d i : Nat) : State :=
  let t := (s.die d).slots.get i
  if !t.waits || !t.gang || s.harbour.takeover || !s.firstToPlace d i then s else
  match s.ownEnt t.owner with
  | none => s
  | some o =>
    match gangCores (s.eligibleCores t) t.width with
    | none => s
    | some ks =>
      let areas := s.freeAreas t.owner o
      if areas.length < t.width then s
      else (s.enqueueGang t (t.handle d i) o (ks.zip areas) 0).modSlot d i fun t =>
        { t with running := t.width, handedOut := t.width }

/-- A pre-emption event switches its hart out at a boundary (R154, R183). -/
def State.switchOutEvent (s : State) (k : Nat) : State :=
  let c := s.core k
  if c.active && c.preempt && !c.hart.handler && c.hart.dueTrap.isNone then s.switchOut k else s

/-- A hart blocked for more than 4,096 core cycles is switched out (R146): a request that cannot land yet stays, though the
block ends. -/
def State.blockSwitchOut (s : State) (k : Nat) : State :=
  let c := s.core k
  let blocked := match c.running with
    | some e => e.blk.kind != 0
    | none => false
  if c.active && blocked && !c.hart.handler && decide (4096 < c.waited) then
    let t := s.switchOut k
    if (t.core k).active then t.modCore k fun c => { c with preempt := true } else t
  else s

/-- The bundle at issue of a context that is switched out would block again (R146): it is judged on the context as its area
holds it. -/
def State.wouldBlock (s : State) (k : Nat) (e : QEntry) : Bool :=
  let rd : AreaRd := s.areaGet e.area e.owner
  let base := freshHart e
  let h := areaHart rd { base with sup := s.supOf base.sup e }
  let u := State.bundleTurn { s.modCore k (fun c => c.standIn e.area h) with cur := k } k
  match (u.core k).queue.find? (·.area == e.area) with
  | some x => x.blk.kind == e.blk.kind && x.blk.obj == e.blk.obj && (u.hart k).pc == h.pc
  | none => false

/-- The read queue of a context that is switched out has an entry to pop, or its pop would not wait any more (R146, R147). -/
def State.popGoes (s : State) (k : Nat) (e : QEntry) (q : Queue) : Bool :=
  q.bind != 1 || !q.entries.isEmpty || walkDone q.rcd q.win ||
  match s.examine (s.awayWho k e) q false (q.win, q.pos) fun f es => (es.filterMap id).flatMap (·.reqs f) with
  | .fault _ _ => true
  | _ => false

/-- A ring's partner has let a queue go on (R164, R276). -/
def State.ringGoes (s : State) (k : Nat) (e : QEntry) (q : Queue) : Bool :=
  match s.partnerOf q with
  | none => true
  | some r =>
    if q.bind = 1 then decide (q.count.toNat < r.count.toNat)
    else match s.queueFmt (s.awayWho k e) q with
      | .ok f => decide (q.count.toNat < r.count.toNat + walkEntries q.rcd f)
      | .error _ => true

/-- The barrier that a switched-out member waits at has opened, or is orphaned (R146, R167, R292). -/
def State.barrierGoes (s : State) (k : Nat) (e : QEntry) : Bool :=
  match s.slotOf e.handle with
  | none => true
  | some (_, _, t) =>
    match t.awaits e.idx with
    | none => !s.wouldBlock k e
    | some n => t.orphan.isSome || t.opens.any fun o => o.1 == n && decide (o.2.toNat ≤ s.atime k)

/-- The home of a held LDNB has reached its time (R146): the operation is read again from its bundle. -/
def State.ldnbGoes (s : State) (k : Nat) (e : QEntry) : Bool :=
  let base := freshHart e
  let h := areaHart (s.areaGet e.area e.owner) { base with sup := s.supOf base.sup e }
  let w := s.awayWho k e
  match s.fetch w h.pc.toNat with
  | .bundle b _ => match decodeBundle b with
    | .ok d => d.ops.all fun p => match p.2 with
      | .ldnb _ a t z =>
        let x := s.xlAll w (s.cacheOf w) 0 .load (spanReqs (h.rx a).toNat (2 ^ z.toNat)) {}
        x.pieces.all fun p => s.homeReached p.loc (h.rx t).toNat
      | _ => true
    | .error _ => true
  | _ => true

/-- The cause of a switched-out block has cleared (R146): of the queue waited on, where it waits on one. -/
def State.causeCleared (s : State) (k : Nat) (e : QEntry) : Bool :=
  let q := s.awayQueue k e e.blk.queue
  match e.blk.kind with
  | 0 => true
  | 1 => s.popGoes k e q
  | 2 =>
    let left := s.cores.flatMap fun p => p.2.left.filter fun l => l.area == e.area && l.owner == e.owner && l.queue.rcd == q.rcd
    decide (left.length < 16)
  | 3 => s.ringGoes k e q
  | 4 => s.barrierGoes k e
  | 5 => s.sliceOver e.blk.obj
  | 6 => e.watch.isNone
  | 7 => decide (e.blk.obj.toNat ≤ s.atime k)
  | 8 => s.ldnbGoes k e
  | 10 => !s.ranges.invals.any fun v => match v.what with
      | .hart _ a => a == e.area
      | _ => false
  | 11 => !(s.ranges.placing.any fun p => p.owner == e.owner && p.desc.has e.blk.obj.toNat) &&
      !(s.ranges.moves.any fun m => m.shut && m.owner == e.owner && m.desc.has e.blk.obj.toNat)
  | _ => !s.wouldBlock k e

/-- The cause of a block has cleared for a context that is switched out: it is runnable again (R146, R242). A context that
waits for its RGINV waits until that completes (R35). -/
def State.blockedClear (s : State) (k area : Nat) : State :=
  match (s.core k).queue.find? fun e => e.area == area && e.st == .waiting with
  | none => s
  | some e =>
    let inval := s.ranges.invals.any fun v => match v.what with
      | .hart _ a => a == area
      | _ => false
    if inval || s.areaBusy area e.owner || !s.causeCleared k e then s
    else s.modCore k fun c =>
      { (c.modEntry (·.area == area) fun x =>
        { x with st := .out, waited := 0, blk := { x.blk with kind := 0, obj := 0 } }).rerank with
        wfi := c.wfi && !(e.blk.kind == 4 || e.blk.kind == 5 || e.blk.kind == 6) }

/-- A background entry of a core is owed cycles (R155): it could run, and its like have had less than a sixteenth. -/
def Core.owed (c : Core) : Option QEntry :=
  if c.share.bg * 16 < c.share.elapsed then topEntry none (c.queue.filter fun e => e.ready && e.cls == 2) else none

/-- A new window of 40,000,000 ticks begins (R155); a turn under way, and the work counted towards the next one, go on. -/
def State.shareWindow (s : State) (k : Nat) : State :=
  let n := s.atime k / 40000000
  if (s.core k).share.window = n then s
  else s.modCore k fun c => { c with share := { c.share with window := n, elapsed := 0, bg := 0 } }

/-- After 5,760 cycles of other work a background entry that is owed gets a share turn (R155). -/
def State.shareTurn (s : State) (k : Nat) : State :=
  let c := s.core k
  match c.owed with
  | some e =>
    if c.turn.isNone && decide (5760 ≤ c.share.fg) then
      s.modCore k fun c => { c with turn := some (e.handle, e.idx), share := { c.share with fg := c.share.fg - 5760, ran := 0 } }.rerank
    else s
  | none => s

/-- A share turn ends 384 cycles from its first bundle, and the core requests its switch-out; or with its entry (R155). -/
def State.shareTurnEnd (s : State) (k : Nat) : State :=
  let c := s.core k
  let lapse (c : Core) : Core := { c with turn := none }
  match c.turn, c.running with
  | none, _ => s
  | some t, some e =>
    if (e.handle, e.idx) = t ∧ 384 ≤ c.share.ran then
      s.modCore k fun c =>
        let c := lapse c
        { c with preempt := c.preempt || (match c.next with
          | some x => keyLt (rankKey none x) (rankKey none e)
          | none => false) }
    else if c.queue.any fun e => (e.handle, e.idx) == t then s else s.modCore k lapse
  | some t, none => if c.queue.any fun e => (e.handle, e.idx) == t then s else s.modCore k lapse

/-- A notice for the context of an entry, in its hart or in its save area (R156, R181). -/
def State.noticeEntry (s : State) (k : Nat) (e : QEntry) (n : Notice) : State :=
  s.noticeTo
    { core := k, owner := e.owner, area := e.area, lvl := .u, cls := 0, vec := false, interval := 0, space := 0, kind := 1,
      pc := 0, slot := 0, act := .write, pieces := [], land := .drop } n

/-- ATIME has reached a class-1 slice's deadline (R156): the die counts it, and its instances are told. -/
def State.deadlinePassed (s : State) (d i : Nat) : State :=
  let t := (s.die d).slots.get i
  if !t.live || t.finished || t.failed || t.late || t.cls ≠ 1 || (s.die d).atime.toNat < (t.rcd.getD 2 0).toNat then s else
  let h := t.handle d i
  let s := (s.modSlot d i fun t => { t with late := true }).modDie d fun v => { v with misses := v.misses + 1 }
  s.cores.foldl (fun s p => p.2.queue.foldl (fun s e =>
    if e.handle == h && e.st != .fresh && e.st != .ended then s.noticeEntry p.1 e { cause := 0x12, addr := lateAddr h } else s) s) s

/-- A trap becomes due for the context of an entry (R59, R64, R166): on its core, or when it next runs; a blocked one runs
for it. -/
def State.dueFor (s : State) (k : Nat) (e : QEntry) (d : DueTrap) : State :=
  if e.st == .running && !((s.hart k).handler && (s.hart k).saved) then
    s.modHart k fun h => { h with due := h.due ++ [d] }
  else s.modCore k fun c =>
    c.modEntry (·.area == e.area) fun x =>
      { x with due := x.due ++ [d], st := if x.st == .waiting then .out else x.st }

/-- An instance as the sheepdog names it. -/
abbrev Inst := Word × Nat

/-- The blocked instances with their cores (R163, R178): a hart in a handler counts as not blocked. -/
def State.blockedOnes (s : State) : List (Nat × QEntry) :=
  s.cores.flatMap fun p => (p.2.queue.filter fun e =>
    e.blk.kind != 0 && !(e.st == .running && p.2.hart.handler)).map fun e => (p.1, e)

/-- The placed instances of a slice; none among them stands for one that is not placed. -/
def State.instancesOf (s : State) (h : Word) : List (Option Inst) :=
  let es := s.cores.flatMap fun p => (p.2.queue.filter (·.handle == h)).map fun e => some (e.handle, e.idx)
  match s.slotOf h with
  | none => es
  | some (_, _, t) => if es.length < t.left then none :: es else es

/-- The slices that list a handle among their successors and have not finished: the known predecessors (R165). -/
def State.predecessors (s : State) (h : Word) : List Word :=
  s.dies.flatMap fun p => (p.2.slots.filter fun q => q.2.live && !q.2.finished && !q.2.failed).flatMap fun q =>
    (q.2.succs.filter (· == h)).map fun _ => q.2.handle p.1 q.1

/-- The edges of R165 from a blocked instance; `none` leads to an instance that is not placed. -/
def State.waitsFor (s : State) (e : QEntry) : List (Option Inst) :=
  match e.blk.kind with
  | 3 => match s.memberQueue e.handle e.idx e.blk.queue with
    | some (_, _, q) => ((s.findPartner q e.idx).partner.toList).map fun p => some (p.2.2, p.1)
    | none => []
  | 4 => match s.slotOf e.handle with
    | none => []
    | some (_, _, t) => if t.awaits e.idx != some t.episode then [] else
        ((List.range t.width).filter fun i => !t.arrived.any (·.1 == i)).map fun i => some (e.handle, i)
  | 5 => match s.slotOf e.blk.obj with
    | none => []
    | some (_, _, t) =>
      if t.preds = 0 then s.instancesOf e.blk.obj
      else
        let ps := s.predecessors e.blk.obj
        if ps.length < t.preds then [] else ps.eraseDups.flatMap s.instancesOf
  | _ => []

/-- The largest set in which every instance waits, and only for instances of the set (R166). -/
def deadlocked : Nat → List (Inst × Nat × List (Option Inst)) → List (Inst × Nat × List (Option Inst))
  | 0, xs => xs
  | n + 1, xs =>
    let ids := xs.map (·.1)
    let inSet (e : Option Inst) : Bool := match e with
      | some i => ids.contains i
      | none => false
    deadlocked n (xs.filter fun x => !x.2.2.isEmpty && x.2.2.all inSet)

/-- The members joined to some by edges taken in either direction (R166). -/
def joined (xs : List (Inst × Nat × List (Option Inst))) : Nat → List Inst → List Inst
  | 0, l => l
  | n + 1, l => joined xs n (l ++ (xs.map (·.1)).filter fun i => !l.contains i && xs.any fun x =>
      (x.1 == i && x.2.2.any fun e => (e.map l.contains).getD false) || (l.contains x.1 && x.2.2.contains (some i)))

/-- An instance comes before another: handle, then GANGIDX. -/
def instLt (a b : Inst) : Bool := decide (a.1 < b.1) || (a.1 == b.1 && decide (a.2 < b.2))

/-- A member put among others in order. -/
def insertInst (x : Word × Nat × Nat) : List (Word × Nat × Nat) → List (Word × Nat × Nat)
  | [] => [x]
  | y :: ys => if instLt (x.1, x.2.1) (y.1, y.2.1) then x :: y :: ys else y :: insertInst x ys

/-- The circles of a deadlocked set (R166): each its members in order, with their EPISODEs. -/
def circles (xs : List (Inst × Nat × List (Option Inst))) : Nat → List Inst → List (List (Word × Nat × Nat))
  | 0, _ => []
  | n + 1, seen =>
    match xs.find? fun x => !seen.contains x.1 with
    | none => []
    | some x =>
      let part := joined xs xs.length [x.1]
      let mine := xs.filter fun y => part.contains y.1
      (mine.foldl (fun l y => insertInst (y.1.1, y.1.2, y.2.1) l) []) :: circles xs n (seen ++ part)

/-- The circles that stand now. -/
def State.circlesNow (s : State) : List (List (Word × Nat × Nat)) :=
  let xs := s.blockedOnes.map fun p => ((p.2.handle, p.2.idx), p.2.blk.episode, s.waitsFor p.2)
  let set := deadlocked xs.length xs
  circles set set.length []

/-- The lowest member of a circle takes the deadlock trap (R166). -/
def State.trapCircle (s : State) (c : List (Word × Nat × Nat)) : State :=
  match c with
  | [] => s
  | m :: _ =>
    match s.cores.findSome? fun p => (p.2.queue.find? fun e => e.handle == m.1 && e.idx == m.2.1).map fun e => (p.1, e) with
    | none => s
    | some (k, e) => s.dueFor k e { cause := 0x13, addr := BitVec.ofNat 64 (c.length % 65536) }

/-- The sheepdog's sample, every 4,000,000 ticks (R166): a circle of the last sample that still stands is reported, once
until its trapped member, which a resumption gives another EPISODE, has run. -/
def State.sheepdog (s : State) : State :=
  if s.harbour.sampled = s.master / 4000000 then s else
  let now := s.circlesNow
  let found := now.filter fun c => s.harbour.sample.contains c && !s.harbour.told.contains c
  let s := s.modHarbour fun b =>
    { b with
      sample := now, sampled := s.master / 4000000
      told := now.filter b.told.contains ++ found
      report := if found.isEmpty then b.report else found.flatMap fun c => c.map fun m => (m.1, m.2.1) }
  found.foldl State.trapCircle s

/-- The harbourmaster's heartbeat to every die, every 4,000 ticks (R168). -/
def State.heartbeat (s : State) : State :=
  if s.harbour.beat = s.master / 4000 then s else
  let s := s.modHarbour fun b => { b with beat := s.master / 4000 }
  s.diesIn.foldl (fun s d => s.modDie d fun v => { v with heartbeats := v.heartbeats + 1 }) s

/-- The die where a slice of the translation directory lies (R37): its own, or the next in service above it. -/
def State.sliceDie (s : State) (k : Nat) : Nat :=
  (((List.range 16).map fun i => (k + i) % 16).find? fun d => (s.die d).inService).getD k

/-- The HBM of a die that backs no range (R58, R63). -/
def State.freeHbm (s : State) (d : Nat) : Nat := s.freeBytes (hbmBase d) (hbmBase (d + 1)) (s.hbmHoles d)

/-- The dies in service by free HBM, most first, the lower id on a tie (R63). -/
def State.roomiest (s : State) : List Nat :=
  s.diesIn.foldl (fun l d =>
    let n := s.freeHbm d
    (l.takeWhile fun e => n ≤ s.freeHbm e) ++ d :: l.dropWhile fun e => n ≤ s.freeHbm e) []

/-- Room in a die's HBM, clear of its retired regions. -/
def State.hbmRoom (s : State) (d size : Nat) : Option Nat := findRoom s.taken (hbmBase d) (hbmBase (d + 1)) size

/-- Room in the second tier. -/
def State.tierRoom (s : State) (size : Nat) : Option Nat := s.tiers.findSome? fun p => findRoom s.taken p.1 p.2 size

/-- A new place for a range (R51, R63): a die's HBM, the roomiest first that has room, or the second tier, homed at the
roomiest die. -/
def State.newPlace (s : State) (dies : List Nat) (size : Nat) : Option (Nat × Nat) :=
  match dies.findSome? fun d => (s.hbmRoom d size).map fun a => (a, d) with
  | some x => some x
  | none => (s.tierRoom size).map fun a => (a, (dies.head?).getD 0)

/-- The owner's dispatcher hart (log 24): the entry of that owner of class 0 without a budget, the earliest posted. -/
def State.dispatcher (s : State) (owner : Nat) : Option (Nat × QEntry) :=
  let es := s.cores.flatMap fun p => (p.2.queue.filter fun e => e.owner == owner && e.cls == 0 && !e.counted).map fun e => (p.1, e)
  es.foldl (fun b x => match b with
    | none => some x
    | some y => if x.2.seq < y.2.seq then some x else some y) none

/-- The over-capacity fault, kind 4, of an owner's dispatcher (R51, R59, R64). -/
def State.placementFault (s : State) (owner va : Nat) : State :=
  match s.dispatcher owner with
  | none => s
  | some (k, e) => s.dueFor k e { cause := 0x10, addr := BitVec.ofNat 64 (4 * 2 ^ 60 + va % 2 ^ 57) }

/-- A range has a resident byte in an interval of physical addresses. -/
def Desc.residentIn (d : Desc) (lo hi : Nat) : Bool := d.chunks.any fun c => cross lo hi (d.pa + c.1) (d.pa + c.1 + c.2)

/-- A range of a retired region set moving, or its owner's dispatcher told (R51). -/
def State.clearRange (s : State) (d : Nat) (r : Nat × Nat × Nat × Desc) : State :=
  match s.newPlace (d :: s.roomiest.filter (· != d)) r.2.2.2.size with
  | some (pa, home) => s.dredgerMove r.1 r.2.2.2.base.toNat pa home
  | none => s.placementFault r.1 r.2.2.2.base.toNat

/-- A range that has not left a retired HBM region after all, since its move there has been abandoned or dropped, is set moving
anew (R41, R51). -/
def State.replan (s : State) (m : Move) : State :=
  match s.entryAt m.dirbase m.desc.base.toNat with
  | none => s
  | some (i, d) =>
    let die := d.pa / 0xC00000000
    if (s.hbmHoles die).any fun r => d.residentIn r.1 r.2 then s.clearRange die (m.owner, m.dirbase, i, d) else s

/-- MOVE_FINISH: a move ends, and one that was abandoned may leave its range to be moved elsewhere (R38, R41, R51). -/
def State.moveEnds (s : State) (k : Nat) : State :=
  match s.ranges.moves[k]? with
  | some m => if m.st == .finish && m.back then (s.moveFinish k).replan m else s.moveFinish k
  | none => s

/-- The moves whose target lies in a retired region: those that copy are abandoned, and those that wait for LOCK
planned anew (R41, R51). -/
def State.abandonMoves (s : State) (lo hi : Nat) : State :=
  let into (m : Move) : Bool := m.desc.chunks.any fun c => cross lo hi (m.dst + c.1) (m.dst + c.1 + c.2)
  (s.ranges.moves.filter fun m => into m).foldl (fun s m => match m.st with
    | .lock => (s.modRanges (·.forget m)).replan m
    | .copying => if m.back then s else s.modRanges (·.abandon m)
    | _ => s) s

/-- Where a block of an evacuated range lies: what a move had brought elsewhere is there (log 84). -/
def Placing.source (p : Placing) (pa : Nat) : Nat :=
  match p.elsewhere.find? fun x => decide (x.1 ≤ pa) && decide (pa < x.1 + x.2.1) with
  | some x => x.2.2 + (pa - x.1)
  | none => pa

/-- A chunk of a fenced die's range brought to its new place; a block that its HBM does not give arrives poisoned (R43, R63). The
dredger that brings it is of the harbourmaster's die (log 84). -/
def State.evacuateBytes (s : State) (p : Placing) (a b n : Nat) : State :=
  (List.range ((n + 63) / 64)).foldl (fun t i =>
    let x := p.source (a + 64 * i)
    (t.dredgeLog s.harbour.master p.owner x 1).moveBlock x (b + 64 * i)) s

/-- The range that waits for a place, as its directory holds it now: split since, it is the first part of it; a descriptor
written anew, or gone, is none of it (R30, R36). -/
def State.placingNow (s : State) (p : Placing) : Option (Nat × Desc) :=
  match s.entryAt p.dirbase p.desc.base.toNat with
  | some (i, d) =>
    if d.pa + (p.desc.base.toNat - d.base.toNat) = p.desc.pa ∧ d.home = p.desc.home then some (i, d) else none
  | none => none

/-- What still waits for a place once a range has one: not what was merged into it, and, of what it was split from, the rest
(R30, R31). -/
def Placing.rest (p : Placing) (d : Desc) : List Placing :=
  if d.lim < p.desc.lim then
    [{ p with
        desc := { p.desc with base := d.lim, phys := p.desc.phys + BitVec.ofNat 64 (d.lim.toNat - p.desc.base.toNat) }, told := false }]
  else []

/-- A range evacuated with the die that is its home is placed anew, by owner and then by BASE (R63): its bytes, which the
harbourmaster's die sends (R62, log 84), its descriptor, and the RGINV that follows. Without room its owner's dispatcher is told
once (R64), and the next range is taken. One whose descriptor is gone waits no more. -/
def State.segmentPlacement (s : State) (k : Nat) : State :=
  match s.ranges.placing[k]? with
  | none => s
  | some p =>
    if (s.ranges.placing.take k).any fun q => q.die == p.die && !q.told then s else
    match s.placingNow p with
    | none => s.modRanges fun r => { r with placing := dropAt r.placing k }
    | some (i, d) =>
    match s.newPlace s.roomiest d.size with
    | none =>
      if p.told then s
      else (s.modRanges fun r => { r with placing := modAt r.placing k fun p => { p with told := true } }).placementFault
        p.owner p.desc.base.toNat
    | some (pa, home) =>
      match s.tryLock p.dirbase (lockDredger home) with
      | none => s
      | some t =>
        let m := { newMove t.uid p.owner p.dirbase i d pa home true none with st := .copying, chunk := d.chunks.length }
        let t := d.chunks.foldl (fun t c =>
          (t.evacuateBytes p (d.pa + c.1) (pa + c.1) c.2).sendSpan s.harbour.master home p.owner (pa + c.1) c.2 (d.bit 5)) t
        let t := p.elsewhere.foldl (fun t x =>
          if d.pa ≤ x.1 ∧ x.1 < d.pa + d.size then t.follow x.2.2 (pa + (x.1 - d.pa)) x.2.1 home p.die else t) t
        let t := (t.moveHeld d.pa pa d.size home).addMove m
        (t.moveWord (t.ranges.moves.length - 1) m).modRanges fun r =>
          { r with placing := r.placing.take k ++ p.rest d ++ (r.placing.drop (k + 1)).filter fun q =>
              !(q.owner == p.owner && q.dirbase == p.dirbase && d.has q.desc.base.toNat) }

/-- The grace time of a fenced die's ranges has passed (R64): what is still unplaced is lost. -/
def State.graceExpiry (s : State) (d : Nat) : State :=
  let (gone, left) := s.ranges.placing.partition fun p => p.die == d && decide (p.grace ≤ s.master)
  s.modRanges fun r =>
    { r with placing := left, lost := r.lost ++ gone.map fun p => (p.owner, p.desc.base.toNat, p.desc.lim.toNat) }

/-- The next harbourmaster and deputy when a die leaves (R168, R169). -/
def Harbour.without (h : Harbour) (d : Nat) (left : List Nat) : Harbour :=
  let pick (m : Nat) : Nat := ((left.filter (· != m)).head?).getD m
  if h.master = d then { h with master := h.deputy, deputy := pick h.deputy, takeover := true }
  else if h.deputy = d then { h with deputy := pick h.master }
  else h

/-- The connection table without a die's circuits (R360). -/
def Link.freeDie (l : Link) (d : Nat) : Link :=
  (List.range 88).foldl (fun l i =>
    let w := l.entry i
    if connSrc w = d ∨ connDst w = d then
      { l with conn := l.conn.put i (if i < 24 then connSetState w 0 else 0), resizing := l.resizing.del i }
    else l) { l with routes := l.routes.filter fun r => r.1 != d && r.2.1 != d }

/-- The contents of a fenced die's cores are lost, and their copies end (R63). -/
def Core.lost (c : Core) : Core :=
  { c with
    active := false, hart := {}, wfi := false, inService := false, cache := [], scr := [], scrMarks := []
    resident := none, evac := [], queue := [], turn := none, staging := none, left := [], evict := false, preempt := false
    copies := c.copies.map fun p => (p.1, { p.2 with st := .ended }) }

/-- The instances that a fence ends (R170, R192): those on the die's cores, and those whose saves its staging store holds. -/
def State.loseDie (s : State) (d : Nat) : State :=
  let held := s.cores.filterMap fun p => if dieOf p.1 = d then p.2.staging.map (·.area) else none
  let s := s.cores.foldl (fun s p =>
    if dieOf p.1 = d then
      p.2.queue.foldl (fun s e => if (s.core p.1).queue.any (·.area == e.area) then s.loseInstance p.1 e else s) s
    else s) s
  held.foldl (fun s a => match s.entryOf a with
    | some (k, e) => s.loseInstance k e
    | none => s) s

/-- The slices that no die in service may run any more fail (R170). -/
def State.failStranded (s : State) : State :=
  s.dies.foldl (fun s p => p.2.slots.foldl (fun s q =>
    if q.2.live && !q.2.finished && !q.2.failed && !(s.diesIn.any (dieAllowed q.2.dies)) then
      s.failSlice (q.2.handle p.1 q.1)
    else s) s) s

/-- The slots of a fenced die's table move to the table of another allowed die: the lowest-numbered that has room (R170,
log 84). -/
def State.moveSlots (s : State) (d : Nat) : State :=
  (s.die d).slots.foldl (fun s q =>
    if !q.2.live then s else
    match (s.diesIn.filter (dieAllowed q.2.dies)).findSome? fun e => (s.freeSlotOf e).map fun i => (e, i) with
    | none => s
    | some (e, i) =>
      let t := { q.2 with home := some (q.2.home.getD (d, q.1)) }
      (s.modSlot d q.1 fun _ => {}).modSlot e i fun _ => t) s

/-- A move that a fence of a die ends with its range still of that die (R63, log 84): it copies, or it has come back. -/
def Move.stranded (m : Move) (d : Nat) : Bool := m.homeA == d && (m.st == .copying || (m.st == .finish && m.back))

/-- What such a move had brought elsewhere. -/
def Move.elsewhere (m : Move) : List (Nat × Nat × Nat) :=
  (m.desc.chunks.take m.chunk).map fun c => (m.src + c.1, c.2, m.dst + c.1)

/-- A die's moves when it is fenced (R41, R43, log 84): one that still waits for LOCK is dropped; one that copies to the die
is abandoned; one that copies from it ends, and what it had brought elsewhere is placed with the rest of its range; one whose +16
word has been written ends at once, so that its range can be evacuated from there. -/
def State.endMoves (s : State) (d : Nat) : State :=
  s.ranges.moves.foldl (fun s m =>
    if m.st == .lock then (if m.homeA = d ∨ m.homeB = d then s.modRanges (·.forget m) else s)
    else if m.stranded d then
      let t := (s.unlock m.dirbase).modRanges fun r => (r.abandon m).forget m
      if m.requester.isSome then t.endWait m.id (.edited 8) else t
    else if m.homeB ≠ d then s
    else if m.st == .copying then (if m.back then s else s.modRanges (·.abandon m))
    else if m.back then s
    else
      let s : State := (List.range 17).foldl (fun s a => s.dropHeld a m.owner m.desc.base.toNat m.desc.lim.toNat) s
      let s : State := { s with flights := s.flights.map fun f =>
        { f with pieces := f.pieces.map fun p => p.moved m.src m.dst m.desc.size m.homeB } }
      let s := s.modRanges fun r => { r.forget m with invals := r.invals.filter (·.what != .move m.id) }
      (s.unlock m.dirbase).endWait m.id (.edited 0)) s

/-- A die is fenced off (R63, R64, R169, R170, R37, R360). -/
def State.fence (s : State) (d : Nat) : State :=
  if !(s.die d).inService then s else
  let slices := (List.range 16).filter fun k => s.sliceDie k == d
  let moves := s.ranges.moves
  let s := s.endMoves d
  let ranges := s.allRanges.filter fun r => r.2.2.2.home == d && storedRegion (s.region r.2.2.2.pa) &&
    !s.ranges.moves.any fun m => m.owner == r.1 && m.desc.base == r.2.2.2.base
  let s := s.modDie d fun v => { v with inService := false }
  let s := (s.modHarbour fun h => h.without d s.diesIn).modLink fun l => l.freeDie d
  let s := ((s.loseDie d).failStranded).moveSlots d
  let one (p : Nat × Core) : Nat × Core := if dieOf p.1 = d then (p.1, p.2.lost) else p
  let s := { s with cores := s.cores.map one }
  let s := s.modDie d fun v => { v with lighters := [], manifest := [] }
  let split (x : Nat × Nat × Nat × Desc) : List (Nat × Nat × Nat) :=
    ((moves.find? fun m => m.stranded d && m.owner == x.1 && m.desc.base == x.2.2.2.base).map (·.elsewhere)).getD []
  let s := s.modRanges fun r =>
    { r with
      records := r.records.filter fun t => !slices.contains (t.owner % 16)
      waiting := r.waiting ++ slices.filter fun k => !r.waiting.contains k
      searches := r.searches.filter fun x => dieOf x.core != d
      invals := r.invals.map fun v => { v with holders := v.holders &&& ~~~(BitVec.twoPow 17 d) }
      placing := r.placing ++ ranges.map fun x =>
        { owner := x.1, dirbase := x.2.1, index := x.2.2.1, desc := x.2.2.2, die := d, grace := s.master + 40000000
          elsewhere := split x } }
  (moves.filter fun m => m.st == .lock && m.homeB == d && m.homeA != d).foldl State.replan s

/-- The deputy has taken over as harbourmaster (R169). -/
def State.takeoverDone (s : State) : State := s.modHarbour fun h => { h with takeover := false }

end Sys2Proof.Machine
end

