-- ==== Sys2Proof/Machine/Retire.lean ====
section
/-! DEFINITION. Retirement of units (R51 to R54), the evacuator (R55), and an over-capacity fault that is due (R59). -/

namespace Sys2Proof.Machine

/-- The logical half that lies on a physical half for a hart (R51). -/
def Hart.onPhysical (h : Hart) (half : Nat) : Nat := if h.swapped then 1 - half else half

/-- The lowest row of a half in the row-dirty bitmap, with those that committed bundles are still to write, if any (R52, R312). -/
def Hart.dirtyIn (h : Hart) (due : BitVec 128) (m : Nat) : Option Nat :=
  (halfRows m).find? fun r => (h.grid.dirty ||| due).getLsbD r && (r < 64 || h.grid.h1 || decide (2 ^ 64 ≤ due.toNat))

/-- An OPA, or a vector operation that reads or writes rows of a half, has issued and not completed (R52, R177). -/
def Hart.busyOn (h : Hart) (m : Nat) : Bool :=
  (h.opas ++ h.popa.toList).any (·.half == m) ||
    (h.long.toList ++ h.pvec.toList).any fun l => l.touches.any fun r => r / 64 == m

/-- The hart running at the retirement of a half: that half is missing, and it faults in the cases of R52, with the lowest dirty row
or 0x7F (R59). -/
def Hart.loseHalf (h : Hart) (due : BitVec 128) (m : Nat) (needs2 : Bool) : Hart :=
  let lost := match h.missingHalf with
    | none => some m
    | some x => if x = m then some x else some 2
  let low := (h.dirtyIn due m).getD 0x7F
  let faults := needs2 || (h.dirtyIn due m).isSome || h.busyOn m
  { h with
    missingHalf := lost
    due := if faults then h.due ++ [{ cause := 0x10, addr := BitVec.ofNat 64 (2 ^ 60 + low) }] else h.due }

/-- GRID_HALF_RETIREMENT: a physical half of a core's grid (R51, R52). -/
def State.retireHalf (s : State) (k half : Nat) : State :=
  if 2 ≤ half ∨ (s.core k).gridGone.getLsbD half then s else
  let due := ({ s with cur := k } : State).dueRows
  s.modCore k fun c =>
    let needs2 := match c.running with
      | some e => e.minGrid == 2
      | none => false
    { c with
      gridGone := c.gridGone ||| BitVec.twoPow 2 half
      hart := if c.active then c.hart.loseHalf due (c.hart.onPhysical half) needs2 else c.hart }

/-- The physical segment that a logical one has or is on its way to. -/
def Core.goal (c : Core) (seg : Nat) : Nat :=
  match c.evac.find? (·.seg == seg) with
  | some e => e.dst
  | none => c.pseg seg

/-- One spilled segment stored at a physical address under owner 0's key; a block with an error arrives poisoned (R54). -/
def State.spillSeg (s : State) (k seg pa : Nat) : State :=
  (List.range 64).foldl (fun t i => match (t.core k).scrRead (0x1000 * seg + 64 * i) with
    | .ok b => match t.physWrite (pa + 64 * i) 0 0 b (~~~0) with
      | .ok u => u
      | .error _ => t
    | .error _ => { t with mem := { t.mem with marks := t.mem.marks.put (t.resolve (pa + 64 * i) / 64) 0x11 } }) s

/-- The physical segments that logical ones at or above `n` give up, in order, outside a bank (R53). -/
def Core.givenUp (c : Core) (n bank : Nat) : List Nat :=
  let held := ((List.range 128).filter fun l => decide (n ≤ l) && c.segValid l).map c.goal
  (List.range 128).filter fun p => held.contains p && decide (p / 8 ≠ bank)

/-- A spilled segment moved to another place of its spill (R54). -/
def State.respillSeg (s : State) (a b : Nat) : State :=
  (List.range 64).foldl (fun t i => match t.physRead (a + 64 * i) 0 0 with
    | .ok v => match t.physWrite (b + 64 * i) 0 0 v (~~~0) with
      | .ok u => u
      | .error _ => t
    | .error _ => { t with mem := { t.mem with marks := t.mem.marks.put (t.resolve (b + 64 * i) / 64) 0x11 } }) s

/-- EVAC (R49): the banks that some segments still have to leave. -/
def Core.evacBits (c : Core) (es : List Evac) : BitVec 16 :=
  es.foldl (fun b e => b ||| BitVec.twoPow 16 (c.pseg e.seg / 8)) 0

/-- The bank map after a retirement (R53): segments below `n` of the bank take the places given up, the ones below `alloc`
by evacuation. -/
def Core.remap (c : Core) (n alloc bank : Nat) : Core :=
  let hit := (List.range n).filter fun l => c.segValid l && c.goal l / 8 == bank
  let plan := hit.zip (c.givenUp n bank)
  let c := { c with evac := c.evac.filter fun e => decide (e.seg < n) }
  let c := plan.foldl (fun (c : Core) (p : Nat × Nat) =>
    if p.1 < alloc then
      let e : Evac := { seg := p.1, dst := p.2 }
      { c with evac := c.evac.filter (·.seg != p.1) ++ [e]
               bank := c.bank.put p.1 (BitVec.ofNat 9 (c.pseg p.1 + 128)) }
    else { c with evac := c.evac.filter (·.seg != p.1), bank := c.bank.put p.1 (BitVec.ofNat 9 (p.2 + 128)) }) c
  let drop (b : Tbl (BitVec 9)) (l : Nat) : Tbl (BitVec 9) := b.put l (BitVec.ofNat 9 (c.pseg l))
  { c with bank := ((List.range 128).filter fun l => decide (n ≤ l)).foldl drop c.bank
           evacuating := c.evacBits c.evac }

/-- SCRATCH_BANK_RETIREMENT: the spill, the remapping, and the fault of a running context, whose save area SAVEPTR
names (R53, R54). Segments that an earlier
retirement has spilled already move up in the spill, highest first, since its offsets count from the new N. -/
def State.retireBank (s : State) (k bank : Nat) : State :=
  let c := s.core k
  if 16 ≤ bank ∨ c.retired.getLsbD bank then s else
  let s := s.modCore k fun c => { c with retired := c.retired ||| BitVec.twoPow 16 bank }
  let n := (s.core k).nseg
  let alloc := (c.resident.map (·.alloc)).getD 0
  let area := if c.active then c.hart.sup.saveptr.toNat else (c.resident.map (·.area)).getD 0
  let s := ((List.range alloc).reverse.filter fun l => decide (c.nseg ≤ l)).foldl
    (fun t l => t.respillSeg (area + 0x10000 + (l - c.nseg) * 0x1000) (area + 0x10000 + (l - n) * 0x1000)) s
  let s := ((List.range alloc).filter fun l => decide (n ≤ l) && c.segValid l).foldl
    (fun t l => t.spillSeg k l (area + 0x10000 + (l - n) * 0x1000)) s
  let s := s.modCore k fun c => c.remap n alloc bank
  if n < alloc ∧ s.present k area .u then
    s.modHart k fun h => { h with due := h.due ++ [{ cause := 0x10, addr := BitVec.ofNat 64 (2 ^ 61 + 0x1000 * n) }] }
  else s

/-- DIE_CACHE_BANK_RETIREMENT: only the capacity changes (R51, R58). -/
def State.retireCacheBank (s : State) (d bank : Nat) : State :=
  if 256 ≤ bank ∨ (s.die d).cacheGone.contains bank then s
  else s.modDie d fun v => { v with cacheGone := v.cacheGone ++ [bank] }

/-- HBM_REGION_RETIREMENT: no new allocation there; moves to it are abandoned, and the dredger moves its ranges, whose LOCK a
move that has still to end holds until then (R51, R41). -/
def State.retireRegion (s : State) (d region : Nat) : State :=
  if 192 ≤ region ∨ 16 ≤ d ∨ (s.die d).hbmGone.contains region then s else
  let s := s.modDie d fun v => { v with hbmGone := v.hbmGone ++ [region] }
  let lo := hbmBase d + region * 0x10000000
  let s := s.abandonMoves lo (lo + 0x10000000)
  (s.allRanges.filter fun r => r.2.2.2.residentIn lo (lo + 0x10000000) &&
    !s.ranges.moves.any fun m => m.owner == r.1 && m.desc.base == r.2.2.2.base && !m.back && m.src == r.2.2.2.pa).foldl
    (fun t r => t.clearRange d r) s

/-- EVACUATOR_SEGMENT_MOVE: the first segment of the list is marked MOVING (R55 item 1). -/
def State.evacStart (s : State) (k : Nat) : State :=
  match (s.core k).evac with
  | e :: rest =>
    if e.started then s
    else s.modCore k fun c =>
      { c with evac := { e with started := true, lines := 0 } :: rest
               bank := c.bank.put e.seg (BitVec.ofNat 9 (c.pseg e.seg + 384)) }
  | [] => s

/-- A line of a segment copied to its new place; a block with an error keeps it, and the die's management log records it
(R55, R67, R69). -/
def Core.copyLine (c : Core) (src dst : Nat) : Core :=
  let bad := c.scrMarks.filter fun p => decide (src / 64 ≤ p.1) && decide (p.1 < src / 64 + 4)
  let clean := c.scrMarks.filter fun p => !(decide (dst / 64 ≤ p.1) && decide (p.1 < dst / 64 + 4))
  { c with
    scr := cellsWrite c.scr dst 256 (cellsRead c.scr src 256)
    scrMarks := bad.foldl (fun m p => m.put (dst / 64 + (p.1 - src / 64)) 0x11) clean }

/-- EVACUATOR_LINE_READ_RETURN: the next line is read and written (R55 items 2 and 3). -/
def State.evacLine (s : State) (k : Nat) : State :=
  match (s.core k).evac with
  | e :: rest =>
    if !e.started || decide (16 ≤ e.lines) then s
    else
      let src := (s.core k).pseg e.seg * 4096 + 256 * e.lines
      let bad := (s.core k).scrMarks.filter fun p => decide (src / 64 ≤ p.1) && decide (p.1 < src / 64 + 4)
      let t := s.modCore k fun c =>
        { c.copyLine src (e.dst * 4096 + 256 * e.lines) with evac := { e with lines := e.lines + 1 } :: rest }
      bad.foldl (fun t p => t.modDie (dieOf k) fun d =>
        d.log (logEntry s k (4096 * e.seg + 64 * p.1 % 4096) p.2 0 1 0 0 0)) t
  | [] => s

/-- EVACUATOR_SEGMENT_DONE: the new place is in the map (R55 item 4); EVAC clears with the last segment. -/
def State.evacDone (s : State) (k : Nat) : State :=
  match (s.core k).evac with
  | e :: rest =>
    if !e.started || decide (e.lines < 16) then s
    else s.modCore k fun c =>
      { c with evac := rest
               bank := c.bank.put e.seg (BitVec.ofNat 9 (e.dst + 128))
               evacuating := c.evacBits rest }
  | [] => s

/-- A due trap with a cause taken at its boundary. -/
def State.takeCause (s : State) (k cause : Nat) : State :=
  let c := s.core k
  match c.hart.due.find? (·.cause == cause) with
  | some d => if c.active then s.takeDue k d else s
  | none => s

end Sys2Proof.Machine
end

