-- ==== Sys2Proof/Machine/Outside.lean ====
section
/-! DEFINITION. What reaches the package from outside: time messages (R101), the host through its windows (R125, R357), a
peer (R358), register writes and circuits (R359 to R361), attestation and keys (R363, R364), power (R365) and resets (R366). -/

namespace Sys2Proof.Machine

/-- A PTP source enabled: 1 the host link, 2 scale-out port 0 (R101, R103). -/
def State.ptpEnable (s : State) (src : Nat) : State :=
  if src = 1 ∨ src = 2 then { s with ptp := { s.ptp with state := 1, source := src, stepped := false, inLimit := 0, twoStep := false } }
  else s

/-- The source disabled (R101): OFFSET keeps its last value, and AGE counts on (log 83). -/
def State.ptpDisable (s : State) : State :=
  { s with ptp := { s.ptp with state := 0, source := 0, stepped := false, inLimit := 0, twoStep := false } }

/-- The forward step (R101): every count of ATIME moves on, and the timed accesses held anywhere that it passes perform, not
late, those held at the issuing interface for want of room (R122) among them; one that is still on its way is held nowhere. -/
def State.stepTime (s : State) (n : Nat) : State :=
  let on (s : State) (d : Nat) : State := s.modDie d fun v => { v with atime := v.atime + BitVec.ofNat 64 n }
  let u := (List.range 16).foldl on { s with master := s.master + n }
  let spare (f : Flight) : Flight := match f.time, f.pieces.head?.bind fun p => p.loc.die with
    | some t, some d => if decide (t ≤ (u.die d).atime.toNat) && (if f.accepted then f.act == .read else !s.roomFor f) then
        { f with wasFuture := false } else f
    | _, _ => f
  (List.range 16).foldl State.timedDueAll { u with flights := u.flights.map spare }

/-- A Sync message has been accepted (R101, R103): messages that resume end a holdover. -/
def Ptp.heard (p : Ptp) : Ptp :=
  let p := { p with age := 0 }
  if p.state = 3 then { p with state := 1, stepped := false, inLimit := 0 } else p

/-- A new estimate of local ATIME minus grandmaster time (R101). -/
def State.ptpEstimate (s : State) (o : Int) : State :=
  let p := s.ptp
  if p.state = 1 ∧ !p.stepped ∧ o < -4000000 then
    { s with ptp := { p with offset := 0, stepped := true, inLimit := 0 } }.stepTime o.natAbs
  else
    let n := if -400 ≤ o ∧ o ≤ 400 then p.inLimit + 1 else 0
    let lock := p.state = 1 ∧ 16 ≤ n
    { s with ptp := { p with offset := o, stepped := p.stepped || p.state == 1, inLimit := n,
                             state := if lock then 2 else p.state } }

/-- A Sync message (R101): a one-step Sync brings an estimate, a two-step one waits for its Follow_Up. -/
def State.ptpSync (s : State) (twoStep : Bool) (o : Int) : State :=
  if s.ptp.state = 0 then s else
  let s := { s with ptp := { s.ptp.heard with twoStep := twoStep } }
  if twoStep then s else s.ptpEstimate o

/-- A Follow_Up (R101). -/
def State.ptpFollowUp (s : State) (o : Int) : State :=
  if s.ptp.state = 0 ∨ !s.ptp.twoStep then s else { s with ptp := { s.ptp with twoStep := false } }.ptpEstimate o

/-- A delay response (R101). -/
def State.ptpDelay (s : State) (d : Int) : State :=
  if s.ptp.state = 0 then s else { s with ptp := { s.ptp with delay := d } }

/-- With the eighth Sync interval without a Sync message a locked discipline is in holdover, and none of the eight is one of the
sixteen within the limit (R101). -/
def Ptp.lapse (p : Ptp) : Ptp :=
  if p.state = 0 ∨ p.age < 8 then p else { p with inLimit := 0, state := if p.state = 2 then 3 else p.state }

/-- Some Sync intervals end without a Sync message (R101, R103). -/
def Ptp.wait (p : Ptp) (n : Nat) : Ptp := { p with age := min 0xFFFF (p.age + n) }.lapse

/-- SYNC_TIMEOUT: eight Sync intervals have passed without a Sync message (R101, R103). -/
def State.ptpTimeout (s : State) : State :=
  if s.ptp.state = 0 then s else { s with ptp := { s.ptp with age := max 8 s.ptp.age }.lapse }

/-- The routing die, whose management log is kept beside those of the compute dies. -/
def routingDie : Nat := 16

/-- An entry for an access from outside (R69): no bundle, slot or core. -/
def outsideEntry (s : State) (addr cause kind owner : Nat) : LogEnt :=
  { addr := BitVec.ofNat 64 addr, time := BitVec.ofNat 64 s.master
    info := BitVec.ofNat 64 (pack [(0, cause), (13, kind), (16, owner), (63, 1)]), pc := 0 }

/-- The module answers nothing but its mailbox (R362, R365). -/
def State.down (s : State) : Bool := s.link.tripped || s.link.recovery

/-- Where a host access at a BAR2 offset goes (R357): device virtual address and owner. -/
def State.windowAt (s : State) (off n : Nat) : Option (Nat × Nat) :=
  let w := off / 2 ^ 36
  let o := off % 2 ^ 36
  let fld (i : Nat) : Nat := (s.link.windows.get (4 * w + i)).toNat
  if w < 16 ∧ o + n ≤ fld 1 then some (fld 0 + o, fld 2) else none

/-- In whose name the host interface translates (R357): at U, in the owner's directory; none where the owner table has no
entry for it. -/
def State.hostWho (s : State) (owner : Nat) : Option Who :=
  (s.ownEnt owner).map fun o =>
    { core := 0, owner := owner, dirbase := o.dirbase.toNat, lvl := .u, viol := false, area := 0 }

/-- Entries that the host interface used, in its cache of sixteen (R357, R25, R37). -/
def State.useHost (s : State) (es : List RcEnt) : State :=
  es.foldl (fun t e =>
    let u := t.modLink fun l => { l with cache := cacheUse 16 l.cache e }
    if t.link.cache.any (·.same e) then u else u.sendFill e 16) s

/-- An access of the host interface. -/
def hostFlight (owner : Nat) (act : Act) (pieces : List Piece) : Flight :=
  { core := 0, owner := owner, area := 0, lvl := .u, cls := 0, vec := false, interval := 0, space := 0,
    kind := if act = .read then 0 else 1, pc := 0, slot := 0, act := act, pieces := pieces, land := .drop }

/-- How a host access ends: it must wait for a range that is being placed anew; or with its failures, and whether a block of
it was not resident. -/
inductive HostEnd where
  | wait
  | done (f : Flight) (absent : Bool) (t : State)

/-- A host access translated and performed (R357, R27): a block that fails is not performed. A block of a non-resident
segment is not performed either, and R70 has no cause for it (log 34). -/
def State.hostAccess (s : State) (owner va : Nat) (act : Act) (reqs : List Req) : HostEnd :=
  match s.hostWho owner with
  | none => .done { hostFlight owner act [] with fails := [⟨va, 0x07, false, false⟩] } false s
  | some w =>
    let x := s.xlAll w s.link.cache 0 (if act = .read then .load else .store) reqs {}
    if x.held.isSome || x.moving then .wait
    else
      match (s.useHost x.used).performList (hostFlight owner act []) x.pieces with
      | (f, t) => .done { f with fails := f.fails ++ x.fails } x.nonres.isSome t

/-- A failing host access in the routing die's management log (R357). -/
def State.hostLog (s : State) (f : Flight) : State :=
  match lowestFail f.fails with
  | none => s
  | some e => s.modDie routingDie fun v => v.log (outsideEntry s e.addr e.cause f.kind f.owner)

/-- A host write performs (R125): `none` while it must wait. -/
def State.hostPut (s : State) (w : HostWr) : Option State :=
  match s.hostAccess w.owner w.va.toNat .write (storeReqs w.va.toNat w.data.length (ofBytes w.data)) with
  | .wait => none
  | .done f _ t => some (t.hostLog f)

/-- Host writes that have arrived perform in that order (R125). -/
def State.hostFlush (s : State) : List HostWr → State
  | [] => s.modLink fun l => { l with held := [] }
  | w :: rest => match s.hostPut w with
    | some t => t.hostFlush rest
    | none => s.modLink fun l => { l with held := w :: rest }

/-- A relaxed write may pass earlier ones (R125): every range that it reaches has HORD = 0. -/
def State.mayPass (s : State) (w : HostWr) : Bool :=
  match s.hostWho w.owner with
  | none => false
  | some x => (storeReqs w.va.toNat w.data.length 0).all fun q =>
      match s.lookup s.link.cache w.owner x.dirbase q.blk with
      | .ok e => !e.1.desc.bit 3
      | .error _ => false

/-- HOST_WRITE (R125, R357): one that may pass others performs at once; the rest wait for those before them, and while the
fabric answers later (log 6). -/
def State.hostWrite (s : State) (off : Nat) (data : List Byte) (relaxed : Bool) : State :=
  if s.down || data.isEmpty then s else
  match s.windowAt off data.length with
  | none => s.modDie routingDie fun v => v.log (outsideEntry s off 0x02 1 0)
  | some (va, owner) =>
    let w : HostWr := { va := BitVec.ofNat 64 va, owner := owner, data := data }
    let wait := s.modLink fun l => { l with held := l.held ++ [w] }
    if relaxed && s.mayPass w && s.delay then (s.hostPut w).getD wait
    else if s.delay then wait
    else s.hostFlush (s.link.held ++ [w])

/-- The mailbox holds an interval of register offsets (R361). -/
def mailOffsets (off n : Nat) : Bool := decide (0x20004000 ≤ off) && decide (off + n ≤ 0x20005000)

/-- Bytes of the management registers (R361). -/
def State.regBytes (s : State) (off n : Nat) : List Byte :=
  (List.range n).map fun i => BitVec.ofNat 8 ((s.regRead ((off + i) / 8 * 8)).toNat / 2 ^ (8 * ((off + i) % 8)))

/-- A read of management registers through BAR0, or over I3C (R356, R361): in recovery only the mailbox answers (R362). -/
def State.bar0Read (s : State) (off n : Nat) : State :=
  if s.link.recovery && !mailOffsets off n then s
  else s.modLink fun l =>
    { l with reply := some (if off + n ≤ 2 ^ 30 then s.regBytes off n else List.replicate n 0xFF) }

/-- HOST_READ (R125, R357): behind every earlier host write; all ones where a block fails. Offsets from 2^40 on are BAR0's (R356,
log 93). -/
def State.hostRead (s : State) (off n : Nat) : State :=
  if s.link.tripped then s else
  if 2 ^ 40 ≤ off then s.bar0Read (off - 2 ^ 40) n else
  if s.link.recovery then s else
  let ones : List Byte := List.replicate n 0xFF
  let answer (t : State) (b : List Byte) : State := t.modLink fun l => { l with reply := some b }
  match s.windowAt off n with
  | none => answer s ones
  | some (va, owner) =>
    let t := s.hostFlush s.link.held
    if t.link.held.isEmpty then
      match t.hostAccess owner va .read (spanReqs va n) with
      | .wait => t
      | .done f absent u => match f.fails.isEmpty && !absent, gather f.got va n with
        | true, some v => answer u (bytesOf v n)
        | _, _ => answer u ones
    else t

/-- The entry of the peer table that accepts an inbound access (R358): its LOWNER. -/
def State.peerEntry (s : State) (part pa n : Nat) : Option Nat :=
  (List.range 64).findSome? fun i =>
    let w := s.peerWord i
    if s.peerClean i ∧ w 0 / 2 % 2 = 1 ∧ w 1 % 2 ^ 32 = part ∧ w 2 ≤ pa ∧ pa + n ≤ w 3 ∧ pa + n ≤ 0xC000000000 then
      some (w 0 / 2 ^ 16 % 4096) else none

/-- PEER_INBOUND_ACCESS (R358): a read where no data comes with it, and otherwise a write; under LOWNER's key, with the
physical address as tweak (log 35). One that reaches a chunk which is incoming waits: the peer's interface sends it again (R39). -/
def State.peerAccess (s : State) (part pa n : Nat) (data : List Byte) : State :=
  if s.down then s else
  let len := if data.isEmpty then n else data.length
  let answer (t : State) (b : Option (List Byte)) : State := t.modLink fun l => { l with reply := b }
  match s.peerEntry part pa len with
  | none => answer (s.modDie 0 fun v => v.log (outsideEntry s pa 0x13 (if data.isEmpty then 0 else 1) 0)) none
  | some owner =>
    let loc (b : Nat) : Loc := .mem b (b / 0xC00000000) (if owner = 0 then none else some (owner, b / 64))
    let piece (q : Req) : Piece := { blk := q.blk, lo := q.lo, loc := loc q.blk, val := q.val, mask := q.mask }
    if (spanReqs pa len).any fun q => s.incoming q.blk then s else
    if data.isEmpty then
      match s.performList (hostFlight owner .read []) ((spanReqs pa len).map piece) with
      | (f, t) => answer t (if f.fails.isEmpty then (gather f.got pa len).map fun v => bytesOf v len else none)
    else
      match s.performList (hostFlight owner .write []) ((storeReqs pa len (ofBytes data)).map piece) with
      | (f, t) => answer t (if f.fails.isEmpty then some [] else none)

/-- A register written at a level, or by the host; in recovery only the mailbox answers (R361, R362). -/
def State.writeReg (s : State) (lvl : Option Level) (off : Nat) (v : Word) : State :=
  if s.link.tripped || (s.link.recovery && !mailOffsets off 1) then s else s.regWrite lvl (off / 8 * 8) v

/-- HOST_WINDOW_WRITE: a field at an offset in the window table (R357). -/
def State.writeWindow (s : State) (lvl : Level) (off : Nat) (v : Word) : State :=
  if off < 0x200 ∧ off % 8 = 0 then s.writeReg (some lvl) (0x20002000 + off) v else s

/-- CIRCUIT_REQUEST (R359): a direct entry written with STATE 1. -/
def State.requestCircuit (s : State) (i : Nat) (v : Word) : State :=
  if 24 ≤ i ∧ connState v = 1 then s.connWrite i v else s

/-- CIRCUIT_TEARDOWN (R359): a direct entry written with STATE 3. -/
def State.teardown (s : State) (i : Nat) : State :=
  if 24 ≤ i then s.connWrite i (connSetState (s.link.entry i) 3) else s

/-- MESH_RESIZE (R359): a mesh entry written with other WAVES. -/
def State.resize (s : State) (i n : Nat) : State :=
  if i < 24 ∧ n < 128 then s.connWrite i (connSetWaves (s.link.entry i) n) else s

/-- CIRCUIT_ACTIVATION (R360): both dies have the wavelengths free; the pair's route changes. -/
def State.activate (s : State) (i : Nat) : State :=
  let l := s.link
  let w := l.entry i
  if 24 ≤ i ∧ i < 88 ∧ connState w = 1 ∧ connWaves w ≤ l.freeWaves (connSrc w) ∧ connWaves w ≤ l.freeWaves (connDst w) then
    s.modLink fun l => { l with
      conn := l.conn.put i (connSetState w 2)
      routes := l.routes ++ s.newRoutes (connSrc w) (connDst w) }
  else s

/-- CIRCUIT_DRAIN_COMPLETE (R360): a draining circuit, once its messages are acknowledged, or a shrinking mesh entry gives its
wavelengths back. -/
def State.drainCircuit (s : State) (i : Nat) : State :=
  let w := s.link.entry i
  if i < 24 then s.modLink fun l => { l with resizing := l.resizing.del i }
  else if i < 88 ∧ connState w = 3 ∧ !s.link.rerouting (connSrc w) (connDst w) then
    s.modLink fun l => { l with conn := l.conn.put i 0 }
  else s

/-- A message of an access from a die to another has still to arrive (R360). -/
def Flight.bound (f : Flight) (a b : Nat) : Bool := dieOf f.core == a && f.pieces.any fun p => p.loc.die == some b

/-- ROUTE_CHANGE_ACK (R360): die `b` has acknowledged every message that die `a` sent on the old route; those that have waited
for that leave now. -/
def State.routeAck (s : State) (a b : Nat) : State :=
  match s.link.routes.find? fun r => r.1 == a && r.2.1 == b with
  | none => s
  | some r =>
    if s.flights.any fun f => f.bound a b && decide (f.sent < r.2.2) && !f.accepted && !s.arrived f then s else
    let t := s.modLink fun l => { l with routes := l.routes.filter fun r => r.1 != a || r.2.1 != b }
    let now := (s.die a).atime.toNat
    { t with flights := t.flights.map fun f => if f.bound a b then { f with sent := max f.sent now } else f }

/-- Bytes 0 to 447 of the report (R363). -/
def State.reportBody (s : State) (nonce : Nat) : List Byte :=
  bytesOf 1 4 ++ bytesOf (Config.debugUnlocked.toNat + 2 * s.link.recovery.toNat) 4 ++ bytesOf nonce 32 ++
  bytesOf s.master 8 ++ bytesOf Config.partIdentity.toNat 8 ++
  (List.range 8).flatMap (fun i => bytesOf (s.link.meas.get i) 48) ++
  bytesOf Config.securityVersion.toNat 4 ++ bytesOf 0 4

/-- The signed report (R363): r and s, each big-endian. -/
def State.signedReport (s : State) (nonce : Nat) : List Byte :=
  let body := s.reportBody nonce
  body ++ (bytesOf (Config.sign (Config.sha384 body)).toNat 96).reverse

/-- ATTESTATION_REQUEST: the report in the mailbox (R363). -/
def State.attest (s : State) (nonce : Nat) : State :=
  if s.link.tripped then s else s.modLink fun l => { l with report := s.signedReport nonce }

/-- SPDM_REQUEST: the same report, answered over PCIe (R363). -/
def State.spdm (s : State) (nonce : Nat) : State :=
  if s.down then s else s.modLink fun l => { l with reply := some (s.signedReport nonce) }

/-- OWNER_KEY_INSTALL (R364): a fresh key, or the one that a wrapped block holds (log 13). -/
def State.giveKey (s : State) (owner : Nat) (wrapped : Option Nat) : State :=
  if owner = 0 ∨ 4095 < owner then s else
  s.modLink fun l => { l with keys := l.keys.put owner (match wrapped with
    | none => Config.freshKey s.count
    | some w => Config.unwrapKey w) }

/-- A die's core clock, in MHz: 100 lower, never below 0.6 GHz (R365). -/
def Die.slower (v : Die) : Die := { v with mhz := max 600 (v.mhz - 100) }

/-- THROTTLE_RELEASE: 100 MHz higher, up to nominal (R365). -/
def Die.faster (v : Die) : Die := { v with mhz := min 1800 (v.mhz + 100), hot := false }

/-- A MODULE RESET (R366, R362): memory and expanders stay as they are, everything else is as after reset. A boot image that
does not verify leaves the part in recovery, and no compute die starts. -/
def State.moduleReset (s : State) : State :=
  let ok (i : Nat) : Bool := Config.bootVerifies i
  let up := ok 0 && ok 1
  let meas : Tbl Nat := if up then bootMeasures else if ok 0 then [(0, bootMeasure 0)] else []
  let keep (p : Nat × Core) : Nat × Core := (p.1, { scr := p.2.scr, scrMarks := p.2.scrMarks })
  let cores := s.cores.map keep
  let first (c : Core) : Core := { c with active := true, hart := { level := .f } }
  { State.reset with
    cores := if up then Tbl.mod cores 0 first else cores
    mem := s.mem, agenda := s.agenda, delay := s.delay, count := s.count, uid := s.uid
    link := { expanders := s.link.expanders, meas := meas, recovery := !up } }

/-- A trip (R365): a module reset that holds until the host asserts a new fundamental reset. -/
def State.trip (s : State) : State :=
  let t := s.moduleReset
  let off (p : Nat × Core) : Nat × Core := (p.1, { p.2 with active := false })
  { t with cores := t.cores.map off }.modLink fun l => { l with tripped := true }

/-- OVERPOWER_AT_FLOOR_TIMEOUT (R365): only a die at 0.6 GHz trips the module. -/
def State.overpower (s : State) (d : Nat) : State := if (s.die d).mhz = 600 then s.trip else s

/-- FUNCTION_LEVEL_RESET (R366). -/
def State.functionReset (s : State) : State := s.modLink fun l => { l with windows := [], msix := [] }

/-- EVICTION (R183): the register's write, and the save where the hart is at a boundary outside a handler. -/
def State.evictNow (s : State) (k : Nat) : State :=
  let t := s.coreRegWrite false k 0x100 1
  let c := t.core k
  if c.active && c.evict && !c.hart.handler && c.hart.dueTrap.isNone then t.takeEviction k else t

end Sys2Proof.Machine
end

