-- ==== Sys2Proof/Machine/Happen.lean ====
section
/-! DEFINITION. The meaning of every step of an agent (spec/95): a step without an occasion changes nothing (log 8). -/

namespace Sys2Proof.Machine

/-- A step at one of the 1,536 cores (R3). -/
def State.onCore (s : State) (k : Nat) (f : State → State) : State := if k < 1536 then f s else s

/-- A step at one of the sixteen compute dies (R3). -/
def State.onDie (s : State) (d : Nat) (f : State → State) : State := if d < 16 then f s else s

/-- The block of a core's running entry: its KIND, 0 where there is none (R163). -/
def State.blockKind (s : State) (k : Nat) : Nat := ((s.core k).running.map (·.blk.kind)).getD 0

/-- A blocked bundle of some kind issues again (R131, R146). -/
def State.wakeTurn (s : State) (k : Nat) (p : Nat → Bool) : State := if p (s.blockKind k) then s.turn k else s

/-- WAITA's word has been reported, and its bundle goes on (R297). -/
def State.waitaReport (s : State) (k : Nat) : State :=
  let t := s.scanWatches
  if (t.hart k).ewait == .reported then t.turn k else t

/-- The oldest notice taken at a boundary with no other trap, outside a handler (R181). -/
def State.noticeNow (s : State) (k : Nat) : State :=
  let c := s.core k
  match c.hart.notices with
  | n :: _ =>
    if !c.active || c.hart.handler || c.hart.dueTrap.isSome || s.noticeWaits k then s else s.takeNotice k n
  | [] => s

/-- A resumable trap taken at the boundary (R175). -/
def State.takeResumable (s : State) (k : Nat) : State :=
  let c := s.core k
  match c.hart.due.find? (·.resumable) with
  | some d => if c.active && c.hart.inval.isNone && !s.underWay k then s.takeDue k d else s
  | none => s

/-- WFI ends (R242). -/
def State.wfiWake (s : State) (k : Nat) : State :=
  s.modCore k fun c =>
    if !c.hart.notices.isEmpty || c.preempt || c.evict || decide (4096 ≤ c.waited) then { c with wfi := false } else c

/-- A core's register written at S by a step of its own (R361). -/
def State.coreWrite (s : State) (k r area : Nat) : State := s.coreRegWrite false k r (BitVec.ofNat 64 area)


/-- BUNDLE_FETCH. -/
def execBundleFetch (s : State) : Host.Outcome State Fault Refusal := .next (s.turn s.cur)

/-- RETRIEVER_SEARCH_END. -/
def execRetrieverSearchEnd (k : Nat) (s : State) : Host.Outcome State Fault Refusal := .next (s.retrieverSearchEnd k)

/-- ACCESS_AT_HOME: of the access, or of the block of it that `pick` names (log 77). -/
def execAccessAtHome (k : Nat) (s : State) : Host.Outcome State Fault Refusal := .next (s.accessAtHome k)

/-- ACCESS_REPLY. -/
def execAccessReply (core : Nat) (s : State) : Host.Outcome State Fault Refusal := .next (s.onCore core fun s => s.accessReply core)

/-- MOVED_RESPONSE_RESEND. -/
def execMovedResponseResend (k : Nat) (s : State) : Host.Outcome State Fault Refusal := .next (s.movedResponseResend k)

/-- DREDGER_LOCK_RETRY. -/
def execDredgerLockRetry (k : Nat) (s : State) : Host.Outcome State Fault Refusal := .next (s.dredgerLockRetry k)

/-- HOLDER_DROP. -/
def execHolderDrop (k : Nat) (agent : Nat) (s : State) : Host.Outcome State Fault Refusal := .next (s.holderDrop k agent)

/-- RGINV_COMPLETE. -/
def execRginvComplete (k : Nat) (s : State) : Host.Outcome State Fault Refusal := .next (s.rginvComplete k)

/-- FILL_RECORD. -/
def execFillRecord (k : Nat) (s : State) : Host.Outcome State Fault Refusal := .next (s.fillRecord k)

/-- SLICE_DROP_COMPLETE. -/
def execSliceDropComplete (k : Nat) (s : State) : Host.Outcome State Fault Refusal := .next (s.sliceDropComplete k)

/-- DREDGER_MOVE. -/
def execDredgerMove (owner : Nat) (va : Nat) (pbase : Nat) (home : Nat) (s : State) : Host.Outcome State Fault Refusal := .next (s.dredgerMove owner va pbase home)

/-- CHUNK_OPEN. -/
def execChunkOpen (k : Nat) (s : State) : Host.Outcome State Fault Refusal := .next (s.chunkOpen k)

/-- MOVE_FINISH. -/
def execMoveFinish (k : Nat) (s : State) : Host.Outcome State Fault Refusal := .next (s.moveEnds k)

/-- SCRATCH_ACCESS_COMPLETE. -/
def execScratchAccessComplete (k : Nat) (s : State) : Host.Outcome State Fault Refusal := .next (s.scratchComplete k)

/-- CLUSTER_SCRATCH_ARRIVAL. -/
def execClusterScratchArrival (k : Nat) (s : State) : Host.Outcome State Fault Refusal := .next (s.clusterArrival k)

/-- GRID_HALF_RETIREMENT. -/
def execGridHalfRetirement (core : Nat) (half : Nat) (s : State) : Host.Outcome State Fault Refusal := .next (s.onCore core fun s => s.retireHalf core half)

/-- SCRATCH_BANK_RETIREMENT. -/
def execScratchBankRetirement (core : Nat) (bank : Nat) (s : State) : Host.Outcome State Fault Refusal := .next (s.onCore core fun s => s.retireBank core bank)

/-- DIE_CACHE_BANK_RETIREMENT. -/
def execDieCacheBankRetirement (die : Nat) (bank : Nat) (s : State) : Host.Outcome State Fault Refusal := .next (s.onDie die fun s => s.retireCacheBank die bank)

/-- HBM_REGION_RETIREMENT. -/
def execHbmRegionRetirement (die : Nat) (region : Nat) (s : State) : Host.Outcome State Fault Refusal := .next (s.onDie die fun s => s.retireRegion die region)

/-- EVACUATOR_SEGMENT_MOVE. -/
def execEvacuatorSegmentMove (core : Nat) (s : State) : Host.Outcome State Fault Refusal := .next (s.onCore core fun s => s.evacStart core)

/-- EVACUATOR_LINE_READ_RETURN. -/
def execEvacuatorLineReadReturn (core : Nat) (s : State) : Host.Outcome State Fault Refusal := .next (s.onCore core fun s => s.evacLine core)

/-- EVACUATOR_SEGMENT_DONE. -/
def execEvacuatorSegmentDone (core : Nat) (s : State) : Host.Outcome State Fault Refusal := .next (s.onCore core fun s => s.evacDone core)

/-- OVER_CAPACITY_FAULT. -/
def execOverCapacityFault (core : Nat) (s : State) : Host.Outcome State Fault Refusal := .next (s.onCore core fun s => s.takeCause core 0x10)

/-- MANIFEST_REFERENCE. -/
def execManifestReference (k : Nat) (s : State) : Host.Outcome State Fault Refusal := .next (s.manifestReference k)

/-- MANIFEST_REFUSAL. -/
def execManifestRefusal (k : Nat) (s : State) : Host.Outcome State Fault Refusal := .next (s.manifestRefusal k)

/-- DIE_FENCE. -/
def execDieFence (die : Nat) (s : State) : Host.Outcome State Fault Refusal := .next (s.onDie die fun s => s.fence die)

/-- SEGMENT_PLACEMENT. -/
def execSegmentPlacement (k : Nat) (s : State) : Host.Outcome State Fault Refusal := .next (s.segmentPlacement k)

/-- PLACEMENT_GRACE_EXPIRY. -/
def execPlacementGraceExpiry (die : Nat) (s : State) : Host.Outcome State Fault Refusal := .next (s.onDie die fun s => s.graceExpiry die)

/-- PTP_SOURCE_ENABLE. -/
def execPtpSourceEnable (source : Nat) (s : State) : Host.Outcome State Fault Refusal := .next (s.ptpEnable source)

/-- PTP_SOURCE_DISABLE. -/
def execPtpSourceDisable (s : State) : Host.Outcome State Fault Refusal := .next (s.ptpDisable)

/-- PTP_SYNC. -/
def execPtpSync (twoStep : Bool) (offset : Int) (s : State) : Host.Outcome State Fault Refusal := .next (s.ptpSync twoStep offset)

/-- PTP_FOLLOW_UP. -/
def execPtpFollowUp (offset : Int) (s : State) : Host.Outcome State Fault Refusal := .next (s.ptpFollowUp offset)

/-- PTP_DELAY_RESP. -/
def execPtpDelayResp (delay : Int) (s : State) : Host.Outcome State Fault Refusal := .next (s.ptpDelay delay)

/-- SYNC_TIMEOUT. -/
def execSyncTimeout (s : State) : Host.Outcome State Fault Refusal := .next (s.ptpTimeout)

/-- TIMED_ACCESS_ARRIVAL. -/
def execTimedAccessArrival (k : Nat) (s : State) : Host.Outcome State Fault Refusal := .next (s.timedArrival k)

/-- TIMED_ACCESS_DUE. -/
def execTimedAccessDue (die : Nat) (s : State) : Host.Outcome State Fault Refusal := .next (s.onDie die fun s => s.timedDueAll die)

/-- TIMED_ACCESS_ACCEPT. -/
def execTimedAccessAccept (k : Nat) (s : State) : Host.Outcome State Fault Refusal := .next (s.timedArrival k)

/-- MISSED_DEADLINE_REPORT. -/
def execMissedDeadlineReport (k : Nat) (s : State) : Host.Outcome State Fault Refusal := .next (s.missedReport k)

/-- NOTICE_TAKEN. -/
def execNoticeTaken (core : Nat) (s : State) : Host.Outcome State Fault Refusal := .next (s.onCore core fun s => s.noticeNow core)

/-- RESUMABLE_TRAP. -/
def execResumableTrap (core : Nat) (s : State) : Host.Outcome State Fault Refusal := .next (s.onCore core fun s => s.takeResumable core)

/-- HOST_WRITE. -/
def execHostWrite (offset : Nat) (data : List Byte) (relaxed : Bool) (s : State) : Host.Outcome State Fault Refusal := .next (s.hostWrite offset data relaxed)

/-- HOST_READ. -/
def execHostRead (offset : Nat) (n : Nat) (s : State) : Host.Outcome State Fault Refusal := .next (s.hostRead offset n)

/-- HOST_COMPLETION. -/
def execHostCompletion (k : Nat) (s : State) : Host.Outcome State Fault Refusal := .next (s.hostCompletion k)

/-- PEER_INBOUND_ACCESS. -/
def execPeerInboundAccess (part : Nat) (pa : Nat) (n : Nat) (data : List Byte) (s : State) : Host.Outcome State Fault Refusal := .next (s.peerAccess part pa n data)

/-- PEER_ACK. -/
def execPeerAck (k : Nat) (s : State) : Host.Outcome State Fault Refusal := .next (s.peerAck k)

/-- GBAR_OPENING_TIME. -/
def execGbarOpeningTime (core : Nat) (s : State) : Host.Outcome State Fault Refusal := .next (s.onCore core fun s => s.wakeTurn core (· == 4))

/-- OPA_STEP. -/
def execOpaStep (core : Nat) (s : State) : Host.Outcome State Fault Refusal := .next (s.onCore core fun s => s.opaStep core)

/-- OPA_COMPLETE. -/
def execOpaComplete (core : Nat) (half : Nat) (s : State) : Host.Outcome State Fault Refusal := .next (s.onCore core fun s => s.opaComplete core half)

/-- LONG_OPERATION_COMPLETE. -/
def execLongOperationComplete (core : Nat) (s : State) : Host.Outcome State Fault Refusal := .next (s.onCore core fun s => s.finishLong core)

/-- ARRIVAL_GROUP_LANDED: of the group that `pick` names among those left, the first without one. -/
def execArrivalGroupLanded (k : Nat) (s : State) : Host.Outcome State Fault Refusal := .next (s.groupLanded k)

/-- VLDC_DECODE_END. -/
def execVldcDecodeEnd (core : Nat) (s : State) : Host.Outcome State Fault Refusal := .next (s.onCore core fun s => s.decodeEnd core)

/-- BLOCK_END. -/
def execBlockEnd (core : Nat) (s : State) : Host.Outcome State Fault Refusal := .next (s.onCore core fun s => s.wakeTurn core (· != 0))

/-- BLOCK_SWITCH_OUT. -/
def execBlockSwitchOut (core : Nat) (s : State) : Host.Outcome State Fault Refusal := .next (s.onCore core fun s => s.blockSwitchOut core)

/-- BLOCKED_CAUSE_CLEAR. -/
def execBlockedCauseClear (core : Nat) (area : Nat) (s : State) : Host.Outcome State Fault Refusal := .next (s.onCore core fun s => s.blockedClear core area)

/-- PLACEMENT. -/
def execPlacement (die : Nat) (slot : Nat) (s : State) : Host.Outcome State Fault Refusal := .next (s.onDie die fun s => s.place die slot)

/-- GANG_PLACEMENT. -/
def execGangPlacement (die : Nat) (slot : Nat) (s : State) : Host.Outcome State Fault Refusal := .next (s.onDie die fun s => s.placeGang die slot)

/-- SWITCH_OUT. -/
def execSwitchOut (core : Nat) (s : State) : Host.Outcome State Fault Refusal := .next (s.onCore core fun s => s.switchOutEvent core)

/-- SWITCH_IN. -/
def execSwitchIn (core : Nat) (s : State) : Host.Outcome State Fault Refusal := .next (s.onCore core fun s => s.switchIn core)

/-- SAVE_DRAIN. -/
def execSaveDrain (core : Nat) (s : State) : Host.Outcome State Fault Refusal := .next (s.onCore core fun s => s.drain core)

/-- ABSENT_BUNDLE_RESOLVED. -/
def execAbsentBundleResolved (k : Nat) (s : State) : Host.Outcome State Fault Refusal := .next (s.resolveAbsent k)

/-- SHARE_WINDOW_START. -/
def execShareWindowStart (core : Nat) (s : State) : Host.Outcome State Fault Refusal := .next (s.onCore core fun s => s.shareWindow core)

/-- SHARE_TURN. -/
def execShareTurn (core : Nat) (s : State) : Host.Outcome State Fault Refusal := .next (s.onCore core fun s => s.shareTurn core)

/-- SHARE_TURN_END. -/
def execShareTurnEnd (core : Nat) (s : State) : Host.Outcome State Fault Refusal := .next (s.onCore core fun s => s.shareTurnEnd core)

/-- SLICE_DEADLINE_PASSED. -/
def execSliceDeadlinePassed (die : Nat) (slot : Nat) (s : State) : Host.Outcome State Fault Refusal := .next (s.onDie die fun s => s.deadlinePassed die slot)

/-- BUDGET_EXHAUSTED. -/
def execBudgetExhausted (core : Nat) (s : State) : Host.Outcome State Fault Refusal := .next (s.onCore core fun s => s.takeCause core 0x11)

/-- SHEEPDOG_SAMPLE. -/
def execSheepdogSample (s : State) : Host.Outcome State Fault Refusal := .next (s.sheepdog)

/-- HEARTBEAT. -/
def execHeartbeat (s : State) : Host.Outcome State Fault Refusal := .next (s.heartbeat)

/-- HEARTBEAT_TIMEOUT. -/
def execHeartbeatTimeout (die : Nat) (s : State) : Host.Outcome State Fault Refusal := .next (s.onDie die fun s => s.fence die)

/-- EVICTION. -/
def execEviction (core : Nat) (s : State) : Host.Outcome State Fault Refusal := .next (s.onCore core fun s => s.evictNow core)

/-- RELAUNCH. -/
def execRelaunch (core : Nat) (area : Nat) (s : State) : Host.Outcome State Fault Refusal := .next (s.onCore core fun s => s.coreWrite core 0x120 area)

/-- END_INSTANCE. -/
def execEndInstance (core : Nat) (area : Nat) (s : State) : Host.Outcome State Fault Refusal := .next (s.onCore core fun s => s.coreWrite core 0x130 area)

/-- SAVE_RESTART. -/
def execSaveRestart (core : Nat) (area : Nat) (s : State) : Host.Outcome State Fault Refusal := .next (s.onCore core fun s => s.coreWrite core 0x108 area)

/-- COPY_START. -/
def execCopyStart (die : Nat) (s : State) : Host.Outcome State Fault Refusal := .next (s.onDie die fun s => s.copyStart die)

/-- COPY_END: a copy that is stopped ends after as many writes as `pick` says, none without it. -/
def execCopyEnd (core : Nat) (slot : Nat) (s : State) : Host.Outcome State Fault Refusal :=
  .next (s.onCore core fun s => s.copyEnd core slot)

/-- CPYX_ACK. -/
def execCpyxAck (core : Nat) (s : State) : Host.Outcome State Fault Refusal := .next (s.onCore core fun s => s.cpyxAck core)

/-- STREAM_PREFETCH. -/
def execStreamPrefetch (core : Nat) (q : Nat) (s : State) : Host.Outcome State Fault Refusal := .next (s.onCore core fun s => s.prefetch core q)

/-- STREAM_ENTRY_ARRIVAL. -/
def execStreamEntryArrival (core : Nat) (q : Nat) (s : State) : Host.Outcome State Fault Refusal := .next (s.onCore core fun s => s.entryArrives core q)

/-- STREAM_ENTRY_WRITE. -/
def execStreamEntryWrite (core : Nat) (q : Nat) (s : State) : Host.Outcome State Fault Refusal := .next (s.onCore core fun s => s.writeEntry core q)

/-- WAITA_REPORT. -/
def execWaitaReport (core : Nat) (s : State) : Host.Outcome State Fault Refusal := .next (s.onCore core fun s => s.waitaReport core)

/-- TWAIT_EXPIRY. -/
def execTwaitExpiry (core : Nat) (s : State) : Host.Outcome State Fault Refusal := .next (s.onCore core fun s => s.wakeTurn core (· == 7))

/-- WFI_WAKE. -/
def execWfiWake (core : Nat) (s : State) : Host.Outcome State Fault Refusal := .next (s.onCore core fun s => s.wfiWake core)

/-- FUNDAMENTAL_RESET. -/
def execFundamentalReset (s : State) : Host.Outcome State Fault Refusal := .next (s.moduleReset)

/-- FUNCTION_LEVEL_RESET. -/
def execFunctionLevelReset (s : State) : Host.Outcome State Fault Refusal := .next (s.functionReset)

/-- POWER_EXCESS. -/
def execPowerExcess (die : Nat) (s : State) : Host.Outcome State Fault Refusal := .next (s.onDie die fun s => s.modDie die Die.slower)

/-- THERMAL_THROTTLE. -/
def execThermalThrottle (die : Nat) (s : State) : Host.Outcome State Fault Refusal := .next (s.onDie die fun s => s.modDie die fun v => { v.slower with hot := true })

/-- OVERPOWER_AT_FLOOR_TIMEOUT. -/
def execOverpowerAtFloorTimeout (die : Nat) (s : State) : Host.Outcome State Fault Refusal := .next (s.onDie die fun s => s.overpower die)

/-- MODULE_TRIP. -/
def execModuleTrip (_die : Nat) (s : State) : Host.Outcome State Fault Refusal := .next (s.trip)

/-- HOST_WINDOW_WRITE. -/
def execHostWindowWrite (level : Level) (off : Nat) (val : Word) (s : State) : Host.Outcome State Fault Refusal := .next (s.writeWindow level off val)

/-- CIRCUIT_REQUEST. -/
def execCircuitRequest (entry : Nat) (val : Word) (s : State) : Host.Outcome State Fault Refusal := .next (s.requestCircuit entry val)

/-- CIRCUIT_TEARDOWN. -/
def execCircuitTeardown (entry : Nat) (s : State) : Host.Outcome State Fault Refusal := .next (s.teardown entry)

/-- MESH_RESIZE. -/
def execMeshResize (entry : Nat) (waves : Nat) (s : State) : Host.Outcome State Fault Refusal := .next (s.resize entry waves)

/-- CIRCUIT_ACTIVATION. -/
def execCircuitActivation (entry : Nat) (s : State) : Host.Outcome State Fault Refusal := .next (s.activate entry)

/-- CIRCUIT_DRAIN_COMPLETE. -/
def execCircuitDrainComplete (entry : Nat) (s : State) : Host.Outcome State Fault Refusal := .next (s.drainCircuit entry)

/-- ROUTE_CHANGE_ACK. -/
def execRouteChangeAck (a : Nat) (b : Nat) (s : State) : Host.Outcome State Fault Refusal := .next (s.routeAck a b)

/-- ATTESTATION_REQUEST. -/
def execAttestationRequest (nonce : Nat) (s : State) : Host.Outcome State Fault Refusal := .next (s.attest nonce)

/-- SPDM_REQUEST. -/
def execSpdmRequest (nonce : Nat) (s : State) : Host.Outcome State Fault Refusal := .next (s.spdm nonce)

/-- OWNER_KEY_INSTALL. -/
def execOwnerKeyInstall (owner : Nat) (wrapped : Option Nat) (s : State) : Host.Outcome State Fault Refusal := .next (s.giveKey owner wrapped)

/-- OWNER_KEY_RELEASE. -/
def execOwnerKeyRelease (owner : Nat) (s : State) : Host.Outcome State Fault Refusal := .next (s.giveKey owner none)

/-- REGISTER_WRITE. -/
def execRegisterWrite (level : Option Level) (off : Nat) (val : Word) (s : State) : Host.Outcome State Fault Refusal := .next (s.writeReg level off val)

/-- CONTEXT_STAGED. -/
def execContextStaged (core : Nat) (s : State) : Host.Outcome State Fault Refusal := .next (s.onCore core fun s => s.stage core)

/-- DEPUTY_TAKEOVER_COMPLETE. -/
def execDeputyTakeoverComplete (s : State) : Host.Outcome State Fault Refusal := .next (s.takeoverDone)

/-- CLEAR_MOVE_TRANSPOSE_COMPLETE. -/
def execClearMoveTransposeComplete (core : Nat) (s : State) : Host.Outcome State Fault Refusal := .next (s.onCore core fun s => s.clearingDone core)

/-- THROTTLE_RELEASE. -/
def execThrottleRelease (die : Nat) (s : State) : Host.Outcome State Fault Refusal := .next (s.onDie die fun s => s.modDie die Die.faster)

end Sys2Proof.Machine
end

