-- ==== Sys2Proof/Machine/Dispatch.lean ====
section
/-! DEFINITION. One arm per constructor: each calls its meaning (spec/09 to spec/13, spec/95). -/

namespace Sys2Proof.Machine

/-- The meaning of an instruction, or of a step of another agent. -/
def exec (i : Instr) (s : State) : Host.Outcome State Fault Refusal :=
  match i with
  | .nop => Sys2Proof.Machine.execNop s
  | .add d a b => Sys2Proof.Machine.execAdd d a b s
  | .sub d a b => Sys2Proof.Machine.execSub d a b s
  | .and d a b => Sys2Proof.Machine.execAnd d a b s
  | .or d a b => Sys2Proof.Machine.execOr d a b s
  | .xor d a b => Sys2Proof.Machine.execXor d a b s
  | .sll d a b => Sys2Proof.Machine.execSll d a b s
  | .srl d a b => Sys2Proof.Machine.execSrl d a b s
  | .sra d a b => Sys2Proof.Machine.execSra d a b s
  | .slt d a b => Sys2Proof.Machine.execSlt d a b s
  | .sltu d a b => Sys2Proof.Machine.execSltu d a b s
  | .min d a b => Sys2Proof.Machine.execMin d a b s
  | .max d a b => Sys2Proof.Machine.execMax d a b s
  | .minu d a b => Sys2Proof.Machine.execMinu d a b s
  | .maxu d a b => Sys2Proof.Machine.execMaxu d a b s
  | .csel d a b c => Sys2Proof.Machine.execCsel d a b c s
  | .mul d a b => Sys2Proof.Machine.execMul d a b s
  | .mulh d a b => Sys2Proof.Machine.execMulh d a b s
  | .mulhu d a b => Sys2Proof.Machine.execMulhu d a b s
  | .div d a b => Sys2Proof.Machine.execDiv d a b s
  | .divu d a b => Sys2Proof.Machine.execDivu d a b s
  | .rem d a b => Sys2Proof.Machine.execRem d a b s
  | .remu d a b => Sys2Proof.Machine.execRemu d a b s
  | .add32 d a b => Sys2Proof.Machine.execAdd32 d a b s
  | .clz d a => Sys2Proof.Machine.execClz d a s
  | .ctz d a => Sys2Proof.Machine.execCtz d a s
  | .popc d a => Sys2Proof.Machine.execPopc d a s
  | .fshl d a b n => Sys2Proof.Machine.execFshl d a b n s
  | .fshr d a b n => Sys2Proof.Machine.execFshr d a b n s
  | .bext d a b => Sys2Proof.Machine.execBext d a b s
  | .bins d a b => Sys2Proof.Machine.execBins d a b s
  | .sext d a n => Sys2Proof.Machine.execSext d a n s
  | .addi d a imm => Sys2Proof.Machine.execAddi d a imm s
  | .andi d a imm => Sys2Proof.Machine.execAndi d a imm s
  | .ori d a imm => Sys2Proof.Machine.execOri d a imm s
  | .xori d a imm => Sys2Proof.Machine.execXori d a imm s
  | .slli d a n => Sys2Proof.Machine.execSlli d a n s
  | .srli d a n => Sys2Proof.Machine.execSrli d a n s
  | .srai d a n => Sys2Proof.Machine.execSrai d a n s
  | .slti d a imm => Sys2Proof.Machine.execSlti d a imm s
  | .sltiu d a imm => Sys2Proof.Machine.execSltiu d a imm s
  | .lui d imm => Sys2Proof.Machine.execLui d imm s
  | .addpc d imm => Sys2Proof.Machine.execAddpc d imm s
  | .fadd d a b rm => Sys2Proof.Machine.execFadd d a b rm s
  | .fsub d a b rm => Sys2Proof.Machine.execFsub d a b rm s
  | .fmul d a b rm => Sys2Proof.Machine.execFmul d a b rm s
  | .fdiv d a b rm => Sys2Proof.Machine.execFdiv d a b rm s
  | .fsqrt d a rm => Sys2Proof.Machine.execFsqrt d a rm s
  | .fmin d a b => Sys2Proof.Machine.execFmin d a b s
  | .fmax d a b => Sys2Proof.Machine.execFmax d a b s
  | .fma d a b rm => Sys2Proof.Machine.execFma d a b rm s
  | .fcvtif d a rm => Sys2Proof.Machine.execFcvtif d a rm s
  | .fcvtfi d a rm => Sys2Proof.Machine.execFcvtfi d a rm s
  | .feq d a b => Sys2Proof.Machine.execFeq d a b s
  | .flt d a b => Sys2Proof.Machine.execFlt d a b s
  | .fle d a b => Sys2Proof.Machine.execFle d a b s
  | .fclass d a => Sys2Proof.Machine.execFclass d a s
  | .fcvtbf d a rm => Sys2Proof.Machine.execFcvtbf d a rm s
  | .fcvtfb d a => Sys2Proof.Machine.execFcvtfb d a s
  | .beq a b o => Sys2Proof.Machine.execBeq a b o s
  | .bne a b o => Sys2Proof.Machine.execBne a b o s
  | .blt a b o => Sys2Proof.Machine.execBlt a b o s
  | .bge a b o => Sys2Proof.Machine.execBge a b o s
  | .bltu a b o => Sys2Proof.Machine.execBltu a b o s
  | .bgeu a b o => Sys2Proof.Machine.execBgeu a b o s
  | .jal d o => Sys2Proof.Machine.execJal d o s
  | .jalr d a imm => Sys2Proof.Machine.execJalr d a imm s
  | .loop a o => Sys2Proof.Machine.execLoop a o s
  | .vloop a o => Sys2Proof.Machine.execVloop a o s
  | .setvl d a e g => Sys2Proof.Machine.execSetvl d a e g s
  | .getc d c => Sys2Proof.Machine.execGetc d c s
  | .setc a c => Sys2Proof.Machine.execSetc a c s
  | .setci imm c => Sys2Proof.Machine.execSetci imm c s
  | .ldb p d a imm => Sys2Proof.Machine.execLdb p d a imm s
  | .ldbu p d a imm => Sys2Proof.Machine.execLdbu p d a imm s
  | .ldh p d a imm => Sys2Proof.Machine.execLdh p d a imm s
  | .ldhu p d a imm => Sys2Proof.Machine.execLdhu p d a imm s
  | .ldw p d a imm => Sys2Proof.Machine.execLdw p d a imm s
  | .ldwu p d a imm => Sys2Proof.Machine.execLdwu p d a imm s
  | .ldd p d a imm => Sys2Proof.Machine.execLdd p d a imm s
  | .stb p b a imm => Sys2Proof.Machine.execStb p b a imm s
  | .sth p b a imm => Sys2Proof.Machine.execSth p b a imm s
  | .stw p b a imm => Sys2Proof.Machine.execStw p b a imm s
  | .std p b a imm => Sys2Proof.Machine.execStd p b a imm s
  | .ldnb d a t z => Sys2Proof.Machine.execLdnb d a t z s
  | .stva b a t z => Sys2Proof.Machine.execStva b a t z s
  | .amo d a w op ord sc => Sys2Proof.Machine.execAmo d a w op ord sc s
  | .amos d a w op ord sc => Sys2Proof.Machine.execAmos d a w op ord sc s
  | .fence p q sc => Sys2Proof.Machine.execFence p q sc s
  | .vld p v a imm m => Sys2Proof.Machine.execVld p v a imm m s
  | .vlds p v a b m => Sys2Proof.Machine.execVlds p v a b m s
  | .vldx p v a x m => Sys2Proof.Machine.execVldx p v a x m s
  | .vst p v a imm m => Sys2Proof.Machine.execVst p v a imm m s
  | .vsts p v a b m => Sys2Proof.Machine.execVsts p v a b m s
  | .vstx p v a x m => Sys2Proof.Machine.execVstx p v a x m s
  | .vstb p v a k => Sys2Proof.Machine.execVstb p v a k s
  | .vldc p v a b => Sys2Proof.Machine.execVldc p v a b s
  | .vspill p v a g => Sys2Proof.Machine.execVspill p v a g s
  | .vfill p v a g => Sys2Proof.Machine.execVfill p v a g s
  | .vstva v a t m => Sys2Proof.Machine.execVstva v a t m s
  | .sbind a r q => Sys2Proof.Machine.execSbind a r q s
  | .sunbind q => Sys2Proof.Machine.execSunbind q s
  | .sstat d q => Sys2Proof.Machine.execSstat d q s
  | .sskip a q => Sys2Proof.Machine.execSskip a q s
  | .sflush q => Sys2Proof.Machine.execSflush q s
  | .cpy d a => Sys2Proof.Machine.execCpy d a s
  | .cpyw a => Sys2Proof.Machine.execCpyw a s
  | .cpyq d a => Sys2Proof.Machine.execCpyq d a s
  | .cpyx d a => Sys2Proof.Machine.execCpyx d a s
  | .rgprobe d a => Sys2Proof.Machine.execRgprobe d a s
  | .rgsplit d a => Sys2Proof.Machine.execRgsplit d a s
  | .rgmerge d a => Sys2Proof.Machine.execRgmerge d a s
  | .rginv a b => Sys2Proof.Machine.execRginv a b s
  | .rgtouch a => Sys2Proof.Machine.execRgtouch a s
  | .rgmove d a b h => Sys2Proof.Machine.execRgmove d a b h s
  | .time d => Sys2Proof.Machine.execTime d s
  | .twait a => Sys2Proof.Machine.execTwait a s
  | .tstat d => Sys2Proof.Machine.execTstat d s
  | .gbar d a => Sys2Proof.Machine.execGbar d a s
  | .jpost d a => Sys2Proof.Machine.execJpost d a s
  | .jyield => Sys2Proof.Machine.execJyield s
  | .jdone => Sys2Proof.Machine.execJdone s
  | .jwait a => Sys2Proof.Machine.execJwait a s
  | .jdec a => Sys2Proof.Machine.execJdec a s
  | .waita a b => Sys2Proof.Machine.execWaita a b s
  | .capq d a x => Sys2Proof.Machine.execCapq d a x s
  | .capr d a x => Sys2Proof.Machine.execCapr d a x s
  | .tshape d a => Sys2Proof.Machine.execTshape d a s
  | .opa h qa qb n o => Sys2Proof.Machine.execOpa h qa qb n o s
  | .opz h => Sys2Proof.Machine.execOpz h s
  | .gmov d r => Sys2Proof.Machine.execGmov d r s
  | .gtrn h => Sys2Proof.Machine.execGtrn h s
  | .gstat d => Sys2Proof.Machine.execGstat d s
  | .gsave f c => Sys2Proof.Machine.execGsave f c s
  | .gload f c => Sys2Proof.Machine.execGload f c s
  | .gdirty d h => Sys2Proof.Machine.execGdirty d h s
  | .gclr h => Sys2Proof.Machine.execGclr h s
  | .vadd w d a b m => Sys2Proof.Machine.execVadd w d a b m s
  | .vsub w d a b m => Sys2Proof.Machine.execVsub w d a b m s
  | .vmul w d a b m => Sys2Proof.Machine.execVmul w d a b m s
  | .vfma w d a b m => Sys2Proof.Machine.execVfma w d a b m s
  | .vfms w d a b m => Sys2Proof.Machine.execVfms w d a b m s
  | .vmin w d a b m => Sys2Proof.Machine.execVmin w d a b m s
  | .vmax w d a b m => Sys2Proof.Machine.execVmax w d a b m s
  | .vabs w d a m => Sys2Proof.Machine.execVabs w d a m s
  | .vneg w d a m => Sys2Proof.Machine.execVneg w d a m s
  | .vdiv w d a b m => Sys2Proof.Machine.execVdiv w d a b m s
  | .vand w d a b m => Sys2Proof.Machine.execVand w d a b m s
  | .vor w d a b m => Sys2Proof.Machine.execVor w d a b m s
  | .vxor w d a b m => Sys2Proof.Machine.execVxor w d a b m s
  | .vnot w d a m => Sys2Proof.Machine.execVnot w d a m s
  | .vsll w d a b m => Sys2Proof.Machine.execVsll w d a b m s
  | .vsrl w d a b m => Sys2Proof.Machine.execVsrl w d a b m s
  | .vsra w d a b m => Sys2Proof.Machine.execVsra w d a b m s
  | .vfshl w d a b m => Sys2Proof.Machine.execVfshl w d a b m s
  | .vfshr w d a b m => Sys2Proof.Machine.execVfshr w d a b m s
  | .vcmp w c k a b m => Sys2Proof.Machine.execVcmp w c k a b m s
  | .vsel w d a b m => Sys2Proof.Machine.execVsel w d a b m s
  | .vmv w d a m => Sys2Proof.Machine.execVmv w d a m s
  | .vbcast w d x m => Sys2Proof.Machine.execVbcast w d x m s
  | .vadds w d a x m => Sys2Proof.Machine.execVadds w d a x m s
  | .vmuls w d a x m => Sys2Proof.Machine.execVmuls w d a x m s
  | .vfmas w d a x m => Sys2Proof.Machine.execVfmas w d a x m s
  | .vid w d m => Sys2Proof.Machine.execVid w d m s
  | .vcvt w d a k m => Sys2Proof.Machine.execVcvt w d a k m s
  | .vqnt w d a x m => Sys2Proof.Machine.execVqnt w d a x m s
  | .vhad w d a k m => Sys2Proof.Machine.execVhad w d a k m s
  | .vsfu w d a k m => Sys2Proof.Machine.execVsfu w d a k m s
  | .vredsum w d a m => Sys2Proof.Machine.execVredsum w d a m s
  | .vredmax w d a m => Sys2Proof.Machine.execVredmax w d a m s
  | .vredmin w d a m => Sys2Proof.Machine.execVredmin w d a m s
  | .vredamax w d a m => Sys2Proof.Machine.execVredamax w d a m s
  | .vsegsum w d a k m => Sys2Proof.Machine.execVsegsum w d a k m s
  | .vsegscan w d a k m => Sys2Proof.Machine.execVsegscan w d a k m s
  | .vscan w d a m => Sys2Proof.Machine.execVscan w d a m s
  | .vslideup w d a x m => Sys2Proof.Machine.execVslideup w d a x m s
  | .vslidedn w d a x m => Sys2Proof.Machine.execVslidedn w d a x m s
  | .vperm w d a b m => Sys2Proof.Machine.execVperm w d a b m s
  | .vunpk w d a k m => Sys2Proof.Machine.execVunpk w d a k m s
  | .vpack w d a k m => Sys2Proof.Machine.execVpack w d a k m s
  | .vlut w d a b m => Sys2Proof.Machine.execVlut w d a b m s
  | .vexpand w d a m => Sys2Proof.Machine.execVexpand w d a m s
  | .vcompress w d a m => Sys2Proof.Machine.execVcompress w d a m s
  | .vsparse w d a k m => Sys2Proof.Machine.execVsparse w d a k m s
  | .vpop w d q m => Sys2Proof.Machine.execVpop w d q m s
  | .vpush q a m => Sys2Proof.Machine.execVpush q a m s
  | .vmand d a b => Sys2Proof.Machine.execVmand d a b s
  | .vmor d a b => Sys2Proof.Machine.execVmor d a b s
  | .vmxor d a b => Sys2Proof.Machine.execVmxor d a b s
  | .vmnot d a => Sys2Proof.Machine.execVmnot d a s
  | .vmpopc d a => Sys2Proof.Machine.execVmpopc d a s
  | .vmfirst d a => Sys2Proof.Machine.execVmfirst d a s
  | .vmfrom w k a m => Sys2Proof.Machine.execVmfrom w k a m s
  | .vmto w d k m => Sys2Proof.Machine.execVmto w d k m s
  | .vext w d a x m => Sys2Proof.Machine.execVext w d a x m s
  | .vnrw w d a k m => Sys2Proof.Machine.execVnrw w d a k m s
  | .vpopc w d a m => Sys2Proof.Machine.execVpopc w d a m s
  | .vshrr w d a b m => Sys2Proof.Machine.execVshrr w d a b m s
  | .vmulh w d a b m => Sys2Proof.Machine.execVmulh w d a b m s
  | .vclz w d a m => Sys2Proof.Machine.execVclz w d a m s
  | .svc c => Sys2Proof.Machine.execSvc c s
  | .brk c => Sys2Proof.Machine.execBrk c s
  | .eret => Sys2Proof.Machine.execEret s
  | .wfi => Sys2Proof.Machine.execWfi s
  | .rcflush => Sys2Proof.Machine.execRcflush s
  | .keysel a b => Sys2Proof.Machine.execKeysel a b s
  | .halt => Sys2Proof.Machine.execHalt s
  | .errlog d a => Sys2Proof.Machine.execErrlog d a s
  | .bundleFetch => Sys2Proof.Machine.execBundleFetch s
  | .retrieverSearchEnd k => Sys2Proof.Machine.execRetrieverSearchEnd k s
  | .accessAtHome k => Sys2Proof.Machine.execAccessAtHome k s
  | .accessReply core => Sys2Proof.Machine.execAccessReply core s
  | .movedResponseResend k => Sys2Proof.Machine.execMovedResponseResend k s
  | .dredgerLockRetry k => Sys2Proof.Machine.execDredgerLockRetry k s
  | .holderDrop k agent => Sys2Proof.Machine.execHolderDrop k agent s
  | .rginvComplete k => Sys2Proof.Machine.execRginvComplete k s
  | .fillRecord k => Sys2Proof.Machine.execFillRecord k s
  | .sliceDropComplete k => Sys2Proof.Machine.execSliceDropComplete k s
  | .dredgerMove owner va pbase home => Sys2Proof.Machine.execDredgerMove owner va pbase home s
  | .chunkOpen k => Sys2Proof.Machine.execChunkOpen k s
  | .moveFinish k => Sys2Proof.Machine.execMoveFinish k s
  | .scratchAccessComplete k => Sys2Proof.Machine.execScratchAccessComplete k s
  | .clusterScratchArrival k => Sys2Proof.Machine.execClusterScratchArrival k s
  | .gridHalfRetirement core half => Sys2Proof.Machine.execGridHalfRetirement core half s
  | .scratchBankRetirement core bank => Sys2Proof.Machine.execScratchBankRetirement core bank s
  | .dieCacheBankRetirement die bank => Sys2Proof.Machine.execDieCacheBankRetirement die bank s
  | .hbmRegionRetirement die region => Sys2Proof.Machine.execHbmRegionRetirement die region s
  | .evacuatorSegmentMove core => Sys2Proof.Machine.execEvacuatorSegmentMove core s
  | .evacuatorLineReadReturn core => Sys2Proof.Machine.execEvacuatorLineReadReturn core s
  | .evacuatorSegmentDone core => Sys2Proof.Machine.execEvacuatorSegmentDone core s
  | .overCapacityFault core => Sys2Proof.Machine.execOverCapacityFault core s
  | .manifestReference k => Sys2Proof.Machine.execManifestReference k s
  | .manifestRefusal k => Sys2Proof.Machine.execManifestRefusal k s
  | .dieFence die => Sys2Proof.Machine.execDieFence die s
  | .segmentPlacement k => Sys2Proof.Machine.execSegmentPlacement k s
  | .placementGraceExpiry die => Sys2Proof.Machine.execPlacementGraceExpiry die s
  | .ptpSourceEnable source => Sys2Proof.Machine.execPtpSourceEnable source s
  | .ptpSourceDisable => Sys2Proof.Machine.execPtpSourceDisable s
  | .ptpSync twoStep offset => Sys2Proof.Machine.execPtpSync twoStep offset s
  | .ptpFollowUp offset => Sys2Proof.Machine.execPtpFollowUp offset s
  | .ptpDelayResp delay => Sys2Proof.Machine.execPtpDelayResp delay s
  | .syncTimeout => Sys2Proof.Machine.execSyncTimeout s
  | .timedAccessArrival k => Sys2Proof.Machine.execTimedAccessArrival k s
  | .timedAccessDue die => Sys2Proof.Machine.execTimedAccessDue die s
  | .timedAccessAccept k => Sys2Proof.Machine.execTimedAccessAccept k s
  | .missedDeadlineReport k => Sys2Proof.Machine.execMissedDeadlineReport k s
  | .noticeTaken core => Sys2Proof.Machine.execNoticeTaken core s
  | .resumableTrap core => Sys2Proof.Machine.execResumableTrap core s
  | .hostWrite offset data relaxed => Sys2Proof.Machine.execHostWrite offset data relaxed s
  | .hostRead offset n => Sys2Proof.Machine.execHostRead offset n s
  | .hostCompletion k => Sys2Proof.Machine.execHostCompletion k s
  | .peerInboundAccess part pa n data => Sys2Proof.Machine.execPeerInboundAccess part pa n data s
  | .peerAck k => Sys2Proof.Machine.execPeerAck k s
  | .gbarOpeningTime core => Sys2Proof.Machine.execGbarOpeningTime core s
  | .opaStep core => Sys2Proof.Machine.execOpaStep core s
  | .opaComplete core half => Sys2Proof.Machine.execOpaComplete core half s
  | .longOperationComplete core => Sys2Proof.Machine.execLongOperationComplete core s
  | .arrivalGroupLanded k => Sys2Proof.Machine.execArrivalGroupLanded k s
  | .vldcDecodeEnd core => Sys2Proof.Machine.execVldcDecodeEnd core s
  | .blockEnd core => Sys2Proof.Machine.execBlockEnd core s
  | .blockSwitchOut core => Sys2Proof.Machine.execBlockSwitchOut core s
  | .blockedCauseClear core area => Sys2Proof.Machine.execBlockedCauseClear core area s
  | .placement die slot => Sys2Proof.Machine.execPlacement die slot s
  | .gangPlacement die slot => Sys2Proof.Machine.execGangPlacement die slot s
  | .switchOut core => Sys2Proof.Machine.execSwitchOut core s
  | .switchIn core => Sys2Proof.Machine.execSwitchIn core s
  | .saveDrain core => Sys2Proof.Machine.execSaveDrain core s
  | .absentBundleResolved k => Sys2Proof.Machine.execAbsentBundleResolved k s
  | .shareWindowStart core => Sys2Proof.Machine.execShareWindowStart core s
  | .shareTurn core => Sys2Proof.Machine.execShareTurn core s
  | .shareTurnEnd core => Sys2Proof.Machine.execShareTurnEnd core s
  | .sliceDeadlinePassed die slot => Sys2Proof.Machine.execSliceDeadlinePassed die slot s
  | .budgetExhausted core => Sys2Proof.Machine.execBudgetExhausted core s
  | .sheepdogSample => Sys2Proof.Machine.execSheepdogSample s
  | .heartbeat => Sys2Proof.Machine.execHeartbeat s
  | .heartbeatTimeout die => Sys2Proof.Machine.execHeartbeatTimeout die s
  | .eviction core => Sys2Proof.Machine.execEviction core s
  | .relaunch core area => Sys2Proof.Machine.execRelaunch core area s
  | .endInstance core area => Sys2Proof.Machine.execEndInstance core area s
  | .saveRestart core area => Sys2Proof.Machine.execSaveRestart core area s
  | .copyStart die => Sys2Proof.Machine.execCopyStart die s
  | .copyEnd core slot => Sys2Proof.Machine.execCopyEnd core slot s
  | .cpyxAck core => Sys2Proof.Machine.execCpyxAck core s
  | .streamPrefetch core q => Sys2Proof.Machine.execStreamPrefetch core q s
  | .streamEntryArrival core q => Sys2Proof.Machine.execStreamEntryArrival core q s
  | .streamEntryWrite core q => Sys2Proof.Machine.execStreamEntryWrite core q s
  | .waitaReport core => Sys2Proof.Machine.execWaitaReport core s
  | .twaitExpiry core => Sys2Proof.Machine.execTwaitExpiry core s
  | .wfiWake core => Sys2Proof.Machine.execWfiWake core s
  | .fundamentalReset => Sys2Proof.Machine.execFundamentalReset s
  | .functionLevelReset => Sys2Proof.Machine.execFunctionLevelReset s
  | .powerExcess die => Sys2Proof.Machine.execPowerExcess die s
  | .thermalThrottle die => Sys2Proof.Machine.execThermalThrottle die s
  | .overpowerAtFloorTimeout die => Sys2Proof.Machine.execOverpowerAtFloorTimeout die s
  | .moduleTrip die => Sys2Proof.Machine.execModuleTrip die s
  | .hostWindowWrite level off val => Sys2Proof.Machine.execHostWindowWrite level off val s
  | .circuitRequest entry val => Sys2Proof.Machine.execCircuitRequest entry val s
  | .circuitTeardown entry => Sys2Proof.Machine.execCircuitTeardown entry s
  | .meshResize entry waves => Sys2Proof.Machine.execMeshResize entry waves s
  | .circuitActivation entry => Sys2Proof.Machine.execCircuitActivation entry s
  | .circuitDrainComplete entry => Sys2Proof.Machine.execCircuitDrainComplete entry s
  | .routeChangeAck a b => Sys2Proof.Machine.execRouteChangeAck a b s
  | .attestationRequest nonce => Sys2Proof.Machine.execAttestationRequest nonce s
  | .spdmRequest nonce => Sys2Proof.Machine.execSpdmRequest nonce s
  | .ownerKeyInstall owner wrapped => Sys2Proof.Machine.execOwnerKeyInstall owner wrapped s
  | .ownerKeyRelease owner => Sys2Proof.Machine.execOwnerKeyRelease owner s
  | .registerWrite level off val => Sys2Proof.Machine.execRegisterWrite level off val s
  | .contextStaged core => Sys2Proof.Machine.execContextStaged core s
  | .deputyTakeoverComplete => Sys2Proof.Machine.execDeputyTakeoverComplete s
  | .clearMoveTransposeComplete core => Sys2Proof.Machine.execClearMoveTransposeComplete core s
  | .throttleRelease die => Sys2Proof.Machine.execThrottleRelease die s

end Sys2Proof.Machine
end

