-- ==== Sys2Proof/Machine/Clock.lean ====
section
/-! DEFINITION. What a step of the package is made of: accesses and writes that are due (R118, R125), one agent's action, and
time passing (R100, R102, R155, R161). The order among agents is the model's own (logs 5, 7, 16). -/

namespace Sys2Proof.Machine

/-- What is due before the step: timed accesses whose time has come (R118), host writes that have arrived (R125), and the
reports of watched words (R297). -/
def State.settle (s : State) : State :=
  let s := (List.range 16).foldl State.timedDueAll s
  let s := if s.delay || s.link.held.isEmpty then s else s.hostFlush s.link.held
  s.scanWatches

/-- The state after one action of an agent. -/
def State.after (s : State) (i : Instr) : State :=
  match exec i s with
  | .next t => t
  | _ => s

/-- An action that some agent may take. -/
abbrev Auto := State → State

/-- Actions that agents of a core may have to take. -/
def coreAutos (p : Nat × Core) : List Auto :=
  let k := p.1
  let c := p.2
  let h := c.hart
  let when_ (b : Bool) (l : List Auto) : List Auto := if b then l else []
  List.flatten
    [when_ (!c.evac.isEmpty) [fun s => s.evacStart k, fun s => s.evacLine k, fun s => s.evacDone k],
     [fun s => s.accessReply k, fun s => s.cpyxAck k, fun s => s.decodeEnd k],
     when_ (!h.opas.isEmpty) [fun s => s.opaStep k, fun s => s.opaComplete k 0, fun s => s.opaComplete k 1],
     when_ h.long.isSome [fun s => s.longRow k],
     when_ (h.clearing != 0) [fun s => s.clearingDone k],
     when_ c.staging.isSome [fun s => s.drain k],
     h.queues.flatMap fun q => [fun s => s.entryArrives k q.1, fun s => s.prefetch k q.1, fun s => s.writeEntry k q.1],
     when_ (!c.left.isEmpty) [fun s => s.writeEntry k 0],
     (c.copies.filter fun x => x.2.st == .running || (x.2.st == .waiting && x.2.stopping)).map fun x => fun s => s.copyEnd k x.1,
     (c.queue.filter fun e => e.st != .fresh && e.st != .ended).flatMap fun e => (List.range 4).map fun i => fun s => s.prefetchAway k e i,
     (c.queue.filter fun e => e.st == .waiting).map fun e => fun s => s.blockedClear k e.area,
     (c.queue.filter fun e => e.st == .ended).map fun e => fun s => s.endParked k e,
     when_ (!c.queue.isEmpty)
       [fun s => s.stage k, fun s => s.shareWindow k, fun s => s.shareTurn k, fun s => s.shareTurnEnd k,
        fun s => s.switchOutEvent k, fun s => s.switchIn k],
     when_ c.next.isSome [fun s => s.blockSwitchOut k],
     when_ c.wfi [fun s => s.wfiWake k]]

/-- Actions that agents of a die may have to take. -/
def dieAutos (p : Nat × Die) : List Auto :=
  let slot (q : Nat × Slot) : List Auto :=
    if !q.2.live then [] else [fun s => s.deadlinePassed p.1 q.1, fun s => s.place p.1 q.1, fun s => s.placeGang p.1 q.1]
  List.cons (fun s => s.copyStart p.1) (p.2.slots.flatMap slot)

/-- Actions on accesses that are on their way. -/
def flightAutos (n : Nat) : List Auto :=
  (List.range n).flatMap fun k =>
    [fun s => s.movedResponseResend k, fun s => s.clusterArrival k, fun s => s.scratchComplete k, fun s => s.timedArrival k,
     fun s => s.accessAtHome k, fun s => s.hostCompletion k, fun s => s.peerAck k, fun s => s.missedReport k,
     fun s => s.groupLanded k]

/-- Actions of the range agents. -/
def rangeAutos (r : Ranges) : List Auto :=
  let inval (k : Nat) : List Auto := ((List.range 17).map fun a => fun s => s.holderDrop k a) ++ [fun s => s.rginvComplete k]
  List.flatten
    [(List.range r.invals.length).flatMap inval,
     (List.range r.fills.length).map fun k => fun s => s.fillRecord k,
     r.waiting.map fun k => fun s => s.sliceDropComplete k,
     (List.range r.xfers.length).flatMap fun k => [fun s => s.manifestReference k, fun s => s.manifestRefusal k],
     (List.range r.moves.length).flatMap fun k => [fun s => s.chunkOpen k, fun s => s.moveEnds k, fun s => s.dredgerLockRetry k],
     (List.range r.searches.length).map fun k => fun s => s.retrieverSearchEnd k,
     (List.range r.placing.length).map fun k => fun s => s.segmentPlacement k,
     r.placing.map fun p => fun s => s.graceExpiry p.die]

/-- Actions of the package's own units. -/
def State.unitAutos (s : State) : List Auto :=
  let takeover : List Auto := if s.harbour.takeover then [fun s => s.takeoverDone] else []
  List.flatten
    [(List.range s.absent.length).map fun k => fun s => s.resolveAbsent k,
     s.link.conn.flatMap fun p => [fun s => s.drainCircuit p.1, fun s => s.activate p.1],
     s.link.routes.map fun p => fun s => s.routeAck p.1 p.2.1, takeover, [fun s => s.sheepdog, fun s => s.heartbeat]]

/-- Every action that some agent may take now without being told from outside. -/
def State.autos (s : State) : List Auto :=
  List.flatten [flightAutos s.flights.length, s.cores.flatMap coreAutos, rangeAutos s.ranges, s.dies.flatMap dieAutos, s.unitAutos]

/-- The next core with a hart after the one in hand, in the order of ids. -/
def State.nextCore (s : State) : Nat :=
  let on := (s.cores.filter fun p => p.2.active).map fun p => p.1
  ((on.find? fun k => decide (s.cur < k)).orElse fun _ => on.head?).getD s.cur

/-- The first of those actions that changes something (log 16), or another core's hart in hand. -/
def State.autoStep (s : State) : State :=
  match s.autos.find? fun f => f s != s with
  | some f => f s
  | none => { s with cur := s.nextCore }

/-- The hart in hand has moved on: another bundle is next, or it is in another handler state or at another level. -/
def State.moved (s t : State) : Bool :=
  (s.my.pc != (t.hart s.cur).pc) || (s.my.handler != (t.hart s.cur).handler) || (s.my.level != (t.hart s.cur).level)

/-- What the module takes part in while it is down (R362, R365): a trip or a new fundamental reset, and in recovery what BAR0's
mailbox answers. -/
def State.admits (s : State) (i : Instr) : Bool :=
  !s.down || match i with
  | .fundamentalReset => true
  | .moduleTrip _ => true
  | .registerWrite _ _ _ => s.link.recovery
  | .hostRead _ _ => s.link.recovery
  | .attestationRequest _ => s.link.recovery
  | _ => false

/-- One action (log 5): the turn that the agenda names; without one the turn of the core in hand and, where that hart does
not move on, an action of another agent. -/
def State.advance (s : State) : State :=
  match s.agenda with
  | .event i :: rest => if s.admits i then { s with agenda := rest }.after i else { s with agenda := rest }
  | .hart k :: rest => { s with agenda := rest }.turn k
  | .delay b :: rest => { s with agenda := rest, delay := b }
  | .pick n :: rest => { s with agenda := rest, pick := n }
  | [] =>
    let t := s.turn s.cur
    if s.moved t then t else t.autoStep

/-- A core's counts after some cycles: the budget (R161, R162), how long it has waited (R146, R242), its shares (R155).
A counted instance that is resumed with BUDGET still 0 goes on and is not stopped again (log 95). -/
def Core.spend (c : Core) (n : Nat) : Core :=
  let h := c.hart
  let counts := c.active && !h.handler && h.ident.counted && decide (0 < h.ident.budget.toNat)
  let ends := decide (h.ident.budget.toNat ≤ n)
  let ident := if counts then { h.ident with budget := h.ident.budget - BitVec.ofNat 64 (min n h.ident.budget.toNat) } else h.ident
  let due := if counts && ends then h.due ++ [{ cause := 0x11, addr := 0 }] else h.due
  let blocked := match c.running with
    | some e => e.blk.kind != 0
    | none => false
  let sh := match c.running with
    | none => { c.share with elapsed := c.share.elapsed + n }
    | some e =>
      { c.share with
        elapsed := c.share.elapsed + n
        bg := if e.cls = 2 then c.share.bg + n else c.share.bg
        fg := if e.cls < 2 && c.owed.isSome then c.share.fg + n else c.share.fg
        ran := if c.turn == some (e.handle, e.idx) then c.share.ran + n else c.share.ran }
  { c with hart := { h with ident := ident, due := due }, waited := if blocked || c.wfi then c.waited + n else 0, share := sh }

/-- A die's copy of ATIME (R100, R102): it never falls, is never behind the master count and at most 8 ticks ahead. -/
def Die.pace (v : Die) (master skew : Nat) : Die :=
  { v with atime := BitVec.ofNat 64 (min (master + 8) (max v.atime.toNat (master + skew % 9))) }

/-- The cycles that a core clock in MHz counts while the master count goes from one value to another: 4,000 ticks are a
microsecond (R7). -/
def cyclesOf (mhz a b : Nat) : Nat := b * mhz / 4000 - a * mhz / 4000

/-- Time passes (R100, R102, R155, R161): ticks that the spec does not tie to a step (log 7), and each core's cycles at the
clock of its die (R7). -/
def State.pass (s : State) : State :=
  let m := s.master + (Config.ticks s.count).toNat
  let core (p : Nat × Core) : Nat × Core := (p.1, p.2.spend (cyclesOf (s.die (dieOf p.1)).mhz s.master m))
  let die (t : Tbl Die) (d : Nat) : Tbl Die := t.mod d fun v => v.pace m (Config.dieSkew d s.count)
  { s with master := m, cores := s.cores.map core, dies := (List.range 16).foldl die s.dies, count := s.count + 1,
           ptp := s.ptp.wait (Config.syncIntervals s.count).toNat }

/-- Something from outside is next. -/
def State.outsideNext (s : State) : Bool :=
  match s.agenda with
  | .event _ :: _ => true
  | _ => false

/-- The range-cache entry and the block of memory through which the core in hand fetches a bundle value at its pc. -/
def State.placeBundle (s : State) (b : Nat) : State :=
  let pc := s.my.pc.toNat
  let d : Desc := { base := BitVec.ofNat 64 (pc / 64 * 64), lim := BitVec.ofNat 64 (pc / 64 * 64 + 64), phys := 0x1000,
                    attr := BitVec.ofNat 64 (2 ^ 2 + 2 ^ 7 + 0xFFFF * 2 ^ 32) }
  let e : RcEnt := { desc := d, owner := s.my.sup.owner.toNat }
  let put (c : Core) : Core := { c with cache := cacheUse 32 c.cache e, active := true, wfi := false, hart := { c.hart with passed := none } }
  let t := s.modCore s.cur put
  { t with
    agenda := []
    mem := { cells := cellsWrite t.mem.cells (0x1000 + pc % 64) 16 b, tags := t.mem.tags.del 64, marks := t.mem.marks.del 64 } }

end Sys2Proof.Machine
end

