-- ==== Sys2Proof/Machine/Step.lean ====
section
/-! DEFINITION. One step of the package. -/

namespace Sys2Proof.Machine

/-- One step: what is due, one agent's action, and time passing; a module that holds itself in reset waits for the host
(R362, R365). -/
def step (s : State) : Host.Outcome State Fault Refusal :=
  if s.down && !s.outsideNext then .fault .heldInReset
  else .next s.settle.advance.pass

/-- The instruction of a table word stored where the next step fetches: the lowest bits of a bundle (log 2). -/
def State.withFetchWord (s : State) (nbits w : Nat) : State := s.placeBundle (w % 2 ^ nbits)

end Sys2Proof.Machine
end

