-- ==== Sys2Proof/Safety.lean ====
section
/-! DEFINITION. What counts as a safe run (every step answers a next state), and the terms in which claims say what an
instruction changes and what it leaves alone. -/

namespace Sys2Proof.Machine

/-- A step that answers a next state. -/
def Steps (s t : State) : Prop := step s = .next t

/-- States that some steps lead to. -/
inductive Reaches (s : State) : State → Prop
  | refl : Reaches s s
  | tail {t u : State} : Reaches s t → Steps t u → Reaches s u

/-- A run is safe when every state it reaches steps on: no fault and no refusal. -/
def Safe (s : State) : Prop := ∀ t, Reaches s t → ∃ u, Steps t u

/-- A step of another agent: exec answers a next state, and it has a property. -/
def Happens (i : Instr) (s : State) (P : State → Prop) : Prop := ∃ t, exec i s = .next t ∧ P t

/-- An instruction completes in a state, unless it waits there for the results of a VLDC that has still to decode (R263): exec
answers a next state, and it has a property. -/
def Runs (i : Instr) (s : State) (P : State → Prop) : Prop := s.awaitsDecode [i] = false → Happens i s P

/-- Everything outside the core in hand is as it was: memory, dies, accesses on their way, the package's units and every
other core. -/
def OutsideKept (s t : State) : Prop :=
  t.mem = s.mem ∧ t.dies = s.dies ∧ t.flights = s.flights ∧ t.absent = s.absent ∧ t.ranges = s.ranges ∧
  t.harbour = s.harbour ∧ t.link = s.link ∧ t.ptp = s.ptp ∧ t.master = s.master ∧ t.kept = s.kept ∧ t.cur = s.cur ∧
  t.agenda = s.agenda ∧ t.delay = s.delay ∧ t.count = s.count ∧ ∀ k, k ≠ s.cur → t.core k = s.core k

/-- A core is as it was but for its hart and the blocked-state records of its queue (R163). -/
def CoreKept (c d : Core) : Prop :=
  d = { c with hart := d.hart, queue := d.queue } ∧
  d.queue.map (fun e => { e with blk := {} }) = c.queue.map fun e => { e with blk := {} }

/-- A hart is as it was but for its pc, registers, control words, loops, grid and strip interval; nothing that its bundle
had started is still waited for. -/
def HartKept (h g : Hart) : Prop :=
  g = { h with pc := g.pc, x := g.x, ctl := g.ctl, loops := g.loops, grid := g.grid, interval := g.interval,
               wait := .none, ewait := .none, passed := none }

/-- The end of a bundle that transfers no control (R233): the next bundle, the loop stack, VL and STRIP are those of the
loop end, and flags are ORed into FFLAGS (R240). -/
def BundleEnds (h g : Hart) (flags : BitVec 6) : Prop :=
  let a := (h.advance h.pc none).1
  g.pc = a.pc ∧ g.loops = a.loops ∧
  g.ctl = { h.ctl with vl := a.ctl.vl, strip := a.ctl.strip, fflags := h.ctl.fflags ||| flags, srseed := g.ctl.srseed }

/-- A bundle of one operation has committed that changes nothing outside its hart: its flags, and what it may change of
the hart is registers, grid and SRSEED. -/
def Past (s t : State) (flags : BitVec 6) : Prop :=
  OutsideKept s t ∧ CoreKept s.me t.me ∧ HartKept s.my t.my ∧ BundleEnds s.my t.my flags

/-- Scalar registers: one has a value, unless it is s0, which reads zero; every other one is as it was (R221). -/
def OnlyReg (h g : Hart) (d : SReg) (v : Word) : Prop :=
  g.rx d = (if d = 0 then 0 else v) ∧ ∀ r, r ≠ d → g.rx r = h.rx r

/-- Every scalar register is as it was. -/
def RegsKept (h g : Hart) : Prop := ∀ r, g.rx r = h.rx r

/-- An operation whose whole effect is a scalar register (R221 to R225). -/
def Gives (i : Instr) (s : State) (d : SReg) (v : Word) : Prop :=
  Runs i s fun t => OnlyReg s.my t.my d v ∧ t.my.grid = s.my.grid ∧ t.my.ctl.srseed = s.my.ctl.srseed ∧ Past s t 0

/-- A precise trap of the bundle in hand is taken (R178, R179): the trap words, the level S, the handler state, the pc at
TRAPVEC; memory, registers, grid, queues and loops are as they were. `slot` is TRAPSLOT's value. The bundle has not sent an
operation before (R173), in whose stead a resumable trap may have come up (R175), nor a load, which it would forget (R172). -/
def Traps (i : Instr) (s : State) (cause : Nat) (addr : Word) (slot : BitVec 4) : Prop :=
  s.my.passed = none → s.my.wait ≠ .ask → Runs i s fun t =>
    t.my.sup.trapcause.toNat = cause + 256 * levelCode s.my.level ∧ t.my.sup.trappc = s.my.pc ∧
    t.my.sup.trapaddr = addr ∧ t.my.sup.trapslot = slot ∧ t.my.level = .s ∧ t.my.handler = true ∧
    t.my.pc = s.my.sup.trapvec ∧ RegsKept s.my t.my ∧ t.my.ctl = s.my.ctl ∧ t.my.grid = s.my.grid ∧
    t.my.queues = s.my.queues ∧ t.my.loops = s.my.loops ∧ OutsideKept s t ∧ CoreKept s.me t.me

/-- A taken transfer of control has committed (R230, R231, R233): the next bundle and the loop stack; flags, VL, STRIP and
every other control word, the grid and all outside the hart are as they were. -/
def Transfers (s t : State) (target : Word) (loops : List LoopEnt) : Prop :=
  OutsideKept s t ∧ CoreKept s.me t.me ∧ HartKept s.my t.my ∧ t.my.pc = target ∧ t.my.loops = loops ∧
  t.my.ctl = s.my.ctl ∧ t.my.grid = s.my.grid

/-- The loop stack after a transfer from `pc` to `target` (R234): the innermost entries whose body it leaves are popped, up
to the first that it does not leave. -/
def Popped (before after : List LoopEnt) (pc target : Word) : Prop :=
  ∃ out, before = after ++ out ∧ (∀ e ∈ out, e.inBody pc = true ∧ e.inBody target = false) ∧
    ∀ e, after.getLast? = some e → ¬(e.inBody pc = true ∧ e.inBody target = false)

/-- An instruction whose whole effect is a change of its hart completes, its bundle ends, and it raises flags (R172, R233,
R240): the hart is the changed one with the end of the bundle applied, and all else is as it was. -/
def Changes (i : Instr) (s : State) (f : Hart → Hart) (flags : BitVec 6) : Prop :=
  Runs i s fun t => OutsideKept s t ∧ CoreKept s.me t.me ∧
    t.my = { (((f s.my).modCtl (·.orFlags flags)).advance s.my.pc none).1 with
      wait := .none, ewait := .none, passed := none, interval := t.my.interval }

/-- An instruction transfers control: the hart is the changed one, the target is its next bundle, and all else is as it
was. -/
def GoesTo (i : Instr) (s : State) (f : Hart → Hart) (target : Word) : Prop :=
  Runs i s fun t => OutsideKept s t ∧ CoreKept s.me t.me ∧
    t.my = { f s.my with pc := target, wait := .none, ewait := .none, passed := none, interval := t.my.interval }

/-- A bundle of one instruction stalls: nothing of its hart, and nothing outside its core, has changed (R131). -/
def Stalls (i : Instr) (s : State) : Prop := Happens i s fun t => OutsideKept s t ∧ CoreKept s.me t.me ∧ t.my = s.my

end Sys2Proof.Machine
end

