-- ==== Sys2Proof/Certificates/Slice0/Obligations.lean ====
section
/-! DEFINITION. The statements for the provers: what the rules of spec/ say of the instructions, of the steps of the other
agents and of the machine as a whole. -/

open Sys2Proof Sys2Proof.Machine

/-! ## Scalar integers and scalar FP32 (spec/09) -/

/-- The register forms write sd as R222's table says, division as R223's; every other register, every flag, the grid,
memory and all outside the hart are as they were. -/
def Obligations.IntegerRegisterForms : Prop :=
  ∀ (s : State) (d a b : SReg),
    let x := s.my.rx a
    let y := s.my.rx b
    let n := y.toNat % 64
    Gives (.add d a b) s d (BitVec.ofNat 64 (x.toNat + y.toNat)) ∧
    Gives (.sub d a b) s d (BitVec.ofInt 64 ((x.toNat : Int) - y.toNat)) ∧
    Gives (.and d a b) s d (x &&& y) ∧ Gives (.or d a b) s d (x ||| y) ∧ Gives (.xor d a b) s d (x ^^^ y) ∧
    Gives (.sll d a b) s d (BitVec.ofNat 64 (x.toNat * 2 ^ n)) ∧
    Gives (.srl d a b) s d (BitVec.ofNat 64 (x.toNat / 2 ^ n)) ∧
    Gives (.sra d a b) s d (BitVec.ofInt 64 (x.toInt / 2 ^ n)) ∧
    Gives (.slt d a b) s d (if x.toInt < y.toInt then 1 else 0) ∧
    Gives (.sltu d a b) s d (if x.toNat < y.toNat then 1 else 0) ∧
    Gives (.min d a b) s d (BitVec.ofInt 64 (min x.toInt y.toInt)) ∧
    Gives (.max d a b) s d (BitVec.ofInt 64 (max x.toInt y.toInt)) ∧
    Gives (.minu d a b) s d (BitVec.ofNat 64 (min x.toNat y.toNat)) ∧
    Gives (.maxu d a b) s d (BitVec.ofNat 64 (max x.toNat y.toNat)) ∧
    Gives (.mul d a b) s d (BitVec.ofNat 64 (x.toNat * y.toNat)) ∧
    Gives (.mulh d a b) s d (BitVec.ofInt 64 (x.toInt * y.toInt / 2 ^ 64)) ∧
    Gives (.mulhu d a b) s d (BitVec.ofNat 64 (x.toNat * y.toNat / 2 ^ 64)) ∧
    Gives (.add32 d a b) s d (((x + y).setWidth 32).signExtend 64) ∧
    Gives (.div d a b) s d
      (if y = 0 then (if 0 ≤ x.toInt then 0x7FFFFFFFFFFFFFFF else 0x8000000000000000)
       else if x.toInt = -2 ^ 63 ∧ y.toInt = -1 then 0x7FFFFFFFFFFFFFFF else BitVec.ofInt 64 (x.toInt.tdiv y.toInt)) ∧
    Gives (.rem d a b) s d
      (if y = 0 then x else if x.toInt = -2 ^ 63 ∧ y.toInt = -1 then 0 else BitVec.ofInt 64 (x.toInt.tmod y.toInt)) ∧
    Gives (.divu d a b) s d (if y = 0 then 0xFFFFFFFFFFFFFFFF else BitVec.ofNat 64 (x.toNat / y.toNat)) ∧
    Gives (.remu d a b) s d (if y = 0 then x else BitVec.ofNat 64 (x.toNat % y.toNat))

/-- The number of 1 bits among the low `n`. -/
def Sys2Proof.Claim.ones (x : Nat) : Nat → Nat
  | 0 => 0
  | n + 1 => (if x.testBit n then 1 else 0) + Sys2Proof.Claim.ones x n

/-- The bit-manipulation operations write sd as R224's table says, with the frame of the integer operations. Leading zeros:
the number is below 2^(64 - n) and not below 2^(63 - n); trailing zeros: 2^n divides it and 2^(n + 1) does not; of the number
0 both are 64. -/
def Obligations.BitManipulationForms : Prop :=
  ∀ (s : State) (d a b c : SReg) (n : BitVec 6),
    let x := s.my.rx a
    let y := s.my.rx b
    let pos := y.toNat % 64
    let len := y.toNat / 64 % 64 + 1
    (∃ k : Nat, Gives (.clz d a) s d (BitVec.ofNat 64 k) ∧ k ≤ 64 ∧ x.toNat < 2 ^ (64 - k) ∧
      (x ≠ 0 → 2 ^ (63 - k) ≤ x.toNat) ∧ (x = 0 → k = 64)) ∧
    (∃ k : Nat, Gives (.ctz d a) s d (BitVec.ofNat 64 k) ∧ k ≤ 64 ∧ 2 ^ k ∣ x.toNat ∧ (x ≠ 0 → ¬2 ^ (k + 1) ∣ x.toNat) ∧
      (x = 0 → k = 64)) ∧
    Gives (.popc d a) s d (BitVec.ofNat 64 (Claim.ones x.toNat 64)) ∧
    Gives (.fshl d a b n) s d (BitVec.ofNat 64 ((x.toNat * 2 ^ 64 + y.toNat) * 2 ^ n.toNat / 2 ^ 64)) ∧
    Gives (.fshr d a b n) s d (BitVec.ofNat 64 ((x.toNat * 2 ^ 64 + y.toNat) / 2 ^ n.toNat)) ∧
    Gives (.bext d a b) s d (BitVec.ofNat 64 (x.toNat / 2 ^ pos % 2 ^ len)) ∧
    Gives (.bins d a b) s d
      (let mask := BitVec.ofNat 64 ((2 ^ len - 1) * 2 ^ pos)
       (s.my.rx d &&& ~~~mask) ||| (BitVec.ofNat 64 (x.toNat * 2 ^ pos) &&& mask)) ∧
    Gives (.sext d a n) s d ((x.setWidth (n.toNat + 1)).signExtend 64) ∧
    Gives (.csel d a b c) s d (if s.my.rx c ≠ 0 then x else y)

/-- The immediate forms write sd as R225's table says; a shift moves by the count field, and ADDPC adds to the bundle's own
address. NOP changes nothing (R198). -/
def Obligations.ImmediateForms : Prop :=
  ∀ (s : State) (d a : SReg) (imm : BitVec 20) (n : BitVec 6),
    let x := s.my.rx a
    let i : Word := BitVec.ofInt 64 imm.toInt
    Gives (.addi d a imm) s d (x + i) ∧ Gives (.andi d a imm) s d (x &&& i) ∧ Gives (.ori d a imm) s d (x ||| i) ∧
    Gives (.xori d a imm) s d (x ^^^ i) ∧
    Gives (.slti d a imm) s d (if x.toInt < imm.toInt then 1 else 0) ∧
    Gives (.sltiu d a imm) s d (if x.toNat < i.toNat then 1 else 0) ∧
    Gives (.slli d a n) s d (BitVec.ofNat 64 (x.toNat * 2 ^ n.toNat)) ∧
    Gives (.srli d a n) s d (BitVec.ofNat 64 (x.toNat / 2 ^ n.toNat)) ∧
    Gives (.srai d a n) s d (BitVec.ofInt 64 (x.toInt / 2 ^ n.toNat)) ∧
    Gives (.lui d imm) s d (BitVec.ofInt 64 (imm.toInt * 4096)) ∧
    Gives (.addpc d imm) s d (s.my.pc + i) ∧
    Gives .nop s 0 0

/-- A floating-point operation completes: sd holds a value computed by some function of the generator's state before it,
whose flags are ORed into FFLAGS and whose draws move SRSEED (R226, R240, R76); nothing else changes. -/
def Sys2Proof.Claim.Floats (i : Instr) (s : State) (d : SReg) (f : FState → Nat × FState) : Prop :=
  let r := f { seed := s.my.ctl.srseed }
  Runs i s fun t => OnlyReg s.my t.my d (BitVec.ofNat 64 r.1) ∧ t.my.ctl.srseed = r.2.seed ∧ t.my.grid = s.my.grid ∧
    Past s t r.2.flags

/-- The rounded FP32 operations (R226, R227, R229): with a rounding code other than 7, the exact result of the operands'
numbers is rounded once in the mode that the code or, for code 0, FRM names. FMA's addend is the old sd. -/
def Sys2Proof.Claim.RoundedFloatForms : Prop :=
  ∀ (s : State) (d a b : SReg) (rm : BitVec 3), rm ≠ 7 →
    let x := fp32.decode ((s.my.rx a).toNat % 2 ^ 32)
    let y := fp32.decode ((s.my.rx b).toNat % 2 ^ 32)
    let z := fp32.decode ((s.my.rx d).toNat % 2 ^ 32)
    let r := if rm = 0 then s.my.ctl.frm.toNat else rm.toNat
    let round (p : Machine.Num × FState) : Nat × FState := fp32.round r false p.1 p.2
    Claim.Floats (.fadd d a b rm) s d (fun f => round (x.add r y f)) ∧
    Claim.Floats (.fsub d a b rm) s d (fun f => round (x.add r y.negate f)) ∧
    Claim.Floats (.fmul d a b rm) s d (fun f => round (x.mul y f)) ∧
    Claim.Floats (.fdiv d a b rm) s d (fun f => round (x.div y f)) ∧
    Claim.Floats (.fsqrt d a rm) s d (fun f => round (x.sqrt f)) ∧
    Claim.Floats (.fma d a b rm) s d (fun f => round (Machine.Num.fma r x y z f)) ∧
    Claim.Floats (.fcvtif d a rm) s d (fun f => round (Machine.Num.ofInt (s.my.rx a).toInt, f)) ∧
    Claim.Floats (.fcvtfi d a rm) s d (fun f => (⟨64, true⟩ : IntFmt).convert r true false true x f) ∧
    Claim.Floats (.fcvtbf d a rm) s d (fun f => bf16.round r false x f)

/-- A rounding code of 7 is an illegal operand in every form that rounds (R226, R75). -/
def Sys2Proof.Claim.RoundingCodeSevenTraps : Prop :=
  ∀ (s : State) (d a b : SReg) (i : Instr),
    i ∈ ([.fadd d a b 7, .fsub d a b 7, .fmul d a b 7, .fdiv d a b 7, .fsqrt d a 7, .fma d a b 7, .fcvtif d a 7,
          .fcvtfi d a 7, .fcvtbf d a 7] : List Instr) → Traps i s 0x03 0 4

/-- The FP32 operations that round, in the mode their code or FRM names (R226, R227, R229, R75); code 7 is an illegal operand. -/
def Obligations.RoundingForms : Prop := Claim.RoundedFloatForms ∧ Claim.RoundingCodeSevenTraps

/-- The operations that do not round (R228), and FCVTFB (R229): FMIN and FMAX of two numbers give the lesser and the greater,
-0 below +0, a NaN yields to a number, two give the canonical NaN; the comparisons write 0 or 1; FCLASS writes 2^k for the
class k of x; and the flags are those of R228. -/
def Obligations.UnroundedFloatForms : Prop :=
  ∀ (s : State) (d a b : SReg),
    let x := fp32.decode ((s.my.rx a).toNat % 2 ^ 32)
    let y := fp32.decode ((s.my.rx b).toNat % 2 ^ 32)
    let sig : BitVec 6 := if x.isSig || y.isSig then flagNV else 0
    let nan : BitVec 6 := if x.isNan || y.isNan then flagNV else 0
    let num (i : Instr) (greater : Bool) : Prop :=
      ∃ v : Word, Runs i s fun t => OnlyReg s.my t.my d v ∧ t.my.ctl.srseed = s.my.ctl.srseed ∧ Past s t sig ∧
        (x.isNan = false → y.isNan = false → fp32.decode v.toNat = x ∨ fp32.decode v.toNat = y) ∧
        (x.isNan = false → y.isNan = false → (if greater then y.lt x else x.lt y) = true → fp32.decode v.toNat = x) ∧
        (x.isNan = false → y.isNan = false → (if greater then x.lt y else y.lt x) = true → fp32.decode v.toNat = y) ∧
        (∀ e k, x = .fin true 0 e → y = .fin false 0 k → fp32.decode v.toNat = if greater then y else x) ∧
        (∀ e k, x = .fin false 0 e → y = .fin true 0 k → fp32.decode v.toNat = if greater then x else y) ∧
        (x.isNan = true → y.isNan = true → v = 0x7FC00000) ∧
        (x.isNan = true → y.isNan = false → fp32.decode v.toNat = y) ∧
        (x.isNan = false → y.isNan = true → fp32.decode v.toNat = x)
    let cmp (i : Instr) (v : Bool) (fl : BitVec 6) : Prop :=
      Runs i s fun t => OnlyReg s.my t.my d (if v then 1 else 0) ∧ t.my.ctl.srseed = s.my.ctl.srseed ∧ Past s t fl
    num (.fmin d a b) false ∧ num (.fmax d a b) true ∧
    cmp (.feq d a b) (x.eq y) sig ∧ cmp (.flt d a b) (x.lt y) nan ∧ cmp (.fle d a b) (x.lt y || x.eq y) nan ∧
    (∃ k < 10, Gives (.fclass d a) s d (BitVec.ofNat 64 (2 ^ k)) ∧ (k = 0 ↔ x = .nan false) ∧ (k = 1 ↔ x = .nan true) ∧
      (k = 2 ↔ x = .inf true) ∧ (k = 9 ↔ x = .inf false) ∧
      ∀ neg m e, x = .fin neg m e →
        k = if m = 0 then (if neg then 5 else 6) else if m < 2 ^ 23 then (if neg then 4 else 7) else if neg then 3 else 8) ∧
    Claim.Floats (.fcvtfb d a) s d (fun f => fp32.round 1 false (bf16.decode ((s.my.rx a).toNat % 2 ^ 16)) f)


/-! ## Branches, jumps, loops and control words (spec/09) -/

/-- The branches (R230, R234): on its condition the next bundle is PC + offset × 16 and the loops that the transfer leaves are
popped; otherwise the bundle ends as a NOP's does. No register, flag or other control word changes either way. -/
def Sys2Proof.Claim.BranchForms : Prop :=
  ∀ (s : State) (a b : SReg) (o : BitVec 23),
    let x := s.my.rx a
    let y := s.my.rx b
    let target : Word := BitVec.ofInt 64 (s.my.pc.toNat + 16 * o.toInt)
    let branch (i : Instr) (c : Prop) : Prop :=
      (c → Runs i s fun t => Transfers s t target t.my.loops ∧ RegsKept s.my t.my ∧
        Popped s.my.loops t.my.loops s.my.pc target) ∧
      (¬c → Changes i s id 0)
    branch (.beq a b o) (x = y) ∧ branch (.bne a b o) (x ≠ y) ∧
    branch (.blt a b o) (x.toInt < y.toInt) ∧ branch (.bge a b o) (y.toInt ≤ x.toInt) ∧
    branch (.bltu a b o) (x.toNat < y.toNat) ∧ branch (.bgeu a b o) (y.toNat ≤ x.toNat)

/-- JAL and JALR (R231, R234): the link PC + 16 in sd, the target with bits [3:0] clear; with sd s0 the loops left are popped,
with another sd none is; an imm of JALR with bits [3:0] nonzero is an illegal operand. -/
def Sys2Proof.Claim.JumpForms : Prop :=
  ∀ (s : State) (d a : SReg) (o : BitVec 28) (imm : BitVec 23),
    let jump (i : Instr) (target : Word) : Prop :=
      Runs i s fun t => Transfers s t target t.my.loops ∧ OnlyReg s.my t.my d (s.my.pc + 16) ∧
        (d = 0 → Popped s.my.loops t.my.loops s.my.pc target) ∧ (d ≠ 0 → t.my.loops = s.my.loops)
    jump (.jal d o) (BitVec.ofInt 64 (s.my.pc.toNat + 16 * o.toInt)) ∧
    (imm.toNat % 16 = 0 → jump (.jalr d a imm)
      (BitVec.ofNat 64 (((s.my.rx a).toNat + (imm.signExtend 64).toNat) % 2 ^ 64 / 16 * 16))) ∧
    (imm.toNat % 16 ≠ 0 → Traps (.jalr d a imm) s 0x03 0 4)

/-- Branches and jumps (R230, R231, R234): the target, the link, and the loop entries that a transfer pops. -/
def Obligations.TransferForms : Prop := Claim.BranchForms ∧ Claim.JumpForms

/-- LOOP (R232): an illegal offset or a fifth entry traps; a count of 0 goes past the last bundle and pushes nothing; any other
pushes one entry, and the body begins with the next bundle. -/
def Sys2Proof.Claim.LoopPushes : Prop :=
  ∀ (s : State) (a : SReg) (o : BitVec 23),
    let n := s.my.rx a
    let last : Word := s.my.pc + BitVec.ofNat 64 (16 * o.toNat)
    (o = 0 → Traps (.loop a o) s 0x03 0 4) ∧
    (n ≠ 0 → 4 ≤ s.my.loops.length → Traps (.loop a o) s 0x03 0 4) ∧
    (o ≠ 0 → n = 0 → GoesTo (.loop a o) s id (last + 16)) ∧
    (o ≠ 0 → n ≠ 0 → s.my.loops.length < 4 → Runs (.loop a o) s fun t =>
      Transfers s t (s.my.pc + 16) (s.my.loops ++ [⟨false, n, s.my.pc, last⟩]) ∧ RegsKept s.my t.my)

/-- VLOOP (R235, R140): as LOOP, and a second VLOOP on the stack traps; an entry of 0 elements leaves STRIP and VL 0; otherwise
STRIP is the element count and VL the lesser of it and g × VLMAX. -/
def Sys2Proof.Claim.VloopPushes : Prop :=
  ∀ (s : State) (a : SReg) (o : BitVec 23),
    let n := s.my.rx a
    let last : Word := s.my.pc + BitVec.ofNat 64 (16 * o.toNat)
    (o = 0 ∨ (∃ e ∈ s.my.loops, e.vloop = true) ∨ (n ≠ 0 ∧ 4 ≤ s.my.loops.length) → Traps (.vloop a o) s 0x03 0 4) ∧
    (o ≠ 0 → (∀ e ∈ s.my.loops, e.vloop = false) → n = 0 →
      GoesTo (.vloop a o) s (fun h => { h with ctl := { h.ctl with strip := 0, vl := 0 } }) (last + 16)) ∧
    (o ≠ 0 → (∀ e ∈ s.my.loops, e.vloop = false) → n ≠ 0 → s.my.loops.length < 4 → Runs (.vloop a o) s fun t =>
      OutsideKept s t ∧ CoreKept s.me t.me ∧ HartKept s.my t.my ∧ RegsKept s.my t.my ∧ t.my.grid = s.my.grid ∧
      t.my.pc = s.my.pc + 16 ∧ t.my.loops = s.my.loops ++ [⟨true, 0, s.my.pc, last⟩] ∧
      t.my.ctl = { s.my.ctl with strip := n, vl := min n.toNat s.my.vlLimit })

/-- LOOP and VLOOP (R232, R235, R140): the entry pushed, the loop skipped, and the operands that trap. -/
def Obligations.LoopForms : Prop := Claim.LoopPushes ∧ Claim.VloopPushes

/-- The loop end (R233, R140), at a bundle that does nothing itself: away from the last bundle of the innermost entry nothing
but the pc changes; a count above 1 goes down by one and the body begins again; a count of 1 pops the entry, and the end of
the bundle is then that of the stack below; the same for a VLOOP by what VL leaves of STRIP. -/
def Obligations.LoopEndOfABundle : Prop :=
  ∀ (s : State) (below : List LoopEnt) (e : LoopEnt),
    let under (ls : List LoopEnt) (strip : Word) : Hart := ({ s.my with loops := ls, ctl := { s.my.ctl with strip := strip } } : Hart)
    let left : Word := s.my.ctl.strip - BitVec.ofNat 64 (min s.my.ctl.vl s.my.ctl.strip.toNat)
    let ends (pc : Word) (ls : List LoopEnt) (ctl : Ctl) : Prop :=
      Runs .nop s fun t => OutsideKept s t ∧ CoreKept s.me t.me ∧ HartKept s.my t.my ∧ RegsKept s.my t.my ∧
        t.my.grid = s.my.grid ∧ t.my.pc = pc ∧ t.my.loops = ls ∧ t.my.ctl = ctl
    let asBelow (strip : Word) : Prop :=
      s.decoding = [] → ∃ t u, exec .nop s = .next t ∧ exec .nop (s.modMy fun _ => under below strip) = .next u ∧
        t.my.pc = u.my.pc ∧ t.my.loops = u.my.loops ∧ t.my.ctl = u.my.ctl
    (s.my.loops = [] → ends (s.my.pc + 16) [] s.my.ctl) ∧
    (s.my.loops = below ++ [e] →
      (e.last ≠ s.my.pc → ends (s.my.pc + 16) s.my.loops s.my.ctl) ∧
      (e.last = s.my.pc → e.vloop = false → e.count ≠ 1 →
        ends (e.start + 16) (below ++ [{ e with count := e.count - 1 }]) s.my.ctl) ∧
      (e.last = s.my.pc → e.vloop = false → e.count = 1 → asBelow s.my.ctl.strip) ∧
      (e.last = s.my.pc → e.vloop = true → left ≠ 0 →
        ends (e.start + 16) s.my.loops { s.my.ctl with strip := left, vl := min left.toNat s.my.vlLimit }) ∧
      (e.last = s.my.pc → e.vloop = true → left = 0 → asBelow 0))

/-- VLMAX of a register group under an element-width code and VLCAP (R137, R138): 2,048 bits a row, or VLCAP, over the
width, for 1, 2, 4 or 8 rows. -/
def Sys2Proof.Claim.groupLength (vlcap : Nat) (e : BitVec 3) (g : BitVec 2) : Nat := 2 ^ g.toNat * (vlcap / 2 ^ (e.toNat + 1))

/-- SETVL (R236): VTYPE, then VL as the lesser of a and g × VLMAX under the new type, and sd := VL; SEW 5 to 7 traps. -/
def Obligations.SetvlForms : Prop :=
  ∀ (s : State) (d a : SReg) (e : BitVec 3) (g : BitVec 2),
    let vl := min (s.my.rx a).toNat (Claim.groupLength s.my.sup.vlcap.toNat e g)
    (e.toNat ≤ 4 → Changes (.setvl d a e g) s
      (fun h => ({ h with ctl := { h.ctl with vtype := g ++ e, vl := vl } } : Hart).wx d (BitVec.ofNat 64 vl)) 0) ∧
    (4 < e.toNat → Traps (.setvl d a e g) s 0x03 0 4)

/-- GETC (R237 to R239): sd is the word, zero-extended, for every number of the two tables; any other number traps with 0x03,
and a number from 0x100 to 0x10A at U with 0x04; FFLAGS is read once no earlier operation may still raise a flag. -/
def Sys2Proof.Claim.GetcForms : Prop :=
  ∀ (s : State) (d : SReg),
    let h := s.my
    let c := h.ctl
    let p := h.sup
    let reads (n : Nat) (v : Word) : Prop := Gives (.getc d (BitVec.ofNat 12 n)) s d v
    reads 0x000 (BitVec.ofNat 64 c.vl) ∧ reads 0x001 (c.vtype.setWidth 64) ∧
    reads 0x002 (BitVec.ofNat 64 (p.vlcap.toNat / 2 ^ (c.vtype.toNat % 8 + 1))) ∧ reads 0x003 (c.fill.setWidth 64) ∧
    reads 0x004 (c.frm.setWidth 64) ∧ reads 0x006 (c.qfmt.setWidth 64) ∧ reads 0x007 c.srseed ∧ reads 0x008 c.strip ∧
    reads 0x010 (c.tshp.setWidth 64) ∧ reads 0x011 (c.msel.setWidth 64) ∧
    reads 0x020 (s.die (s.cur / 96)).atime ∧ reads 0x021 h.ident.deadline ∧
    reads 0x022 (if h.ident.counted then h.ident.budget else 0xFFFFFFFF) ∧
    reads 0x030 (BitVec.ofNat 64 s.cur) ∧ reads 0x031 h.ident.gangid ∧ reads 0x032 (h.ident.gangidx.setWidth 64) ∧
    reads 0x033 (h.ident.gangw.setWidth 64) ∧ reads 0x034 h.ident.arg ∧
    reads 0x040 (BitVec.ofNat 64 s.me.capgrid) ∧ reads 0x041 (BitVec.ofNat 64 (4 * s.me.nseg)) ∧
    reads 0x050 (c.errcnt.setWidth 64) ∧ reads 0x051 (c.violcnt.setWidth 64) ∧
    (h.opas = [] → h.long = none → reads 0x005 (c.fflags.setWidth 64)) ∧
    (h.opas ≠ [] ∨ h.long ≠ none → Stalls (.getc d 0x005) s) ∧
    (h.level ≠ .u →
      reads 0x100 (p.vlcap.setWidth 64) ∧ reads 0x101 (p.owner.setWidth 64) ∧ reads 0x102 p.dirbase ∧
      reads 0x103 p.trapvec ∧ reads 0x104 (p.trapcause.setWidth 64) ∧ reads 0x105 p.trappc ∧ reads 0x106 p.trapaddr ∧
      reads 0x107 (p.trapslot.setWidth 64) ∧ reads 0x108 p.saveptr ∧ reads 0x109 (if p.violmode then 1 else 0) ∧
      reads 0x10A s.me.bankmap) ∧
    ∀ n : BitVec 12,
      (h.level = .u → 0x100 ≤ n.toNat → n.toNat ≤ 0x10A → Traps (.getc d n) s 0x04 0 4) ∧
      ((0x009 ≤ n.toNat ∧ n.toNat < 0x010) ∨ (0x012 ≤ n.toNat ∧ n.toNat < 0x020) ∨ (0x023 ≤ n.toNat ∧ n.toNat < 0x030) ∨
        (0x035 ≤ n.toNat ∧ n.toNat < 0x040) ∨ (0x042 ≤ n.toNat ∧ n.toNat < 0x050) ∨
        (0x052 ≤ n.toNat ∧ n.toNat < 0x100) ∨ 0x10B ≤ n.toNat → Traps (.getc d n) s 0x03 0 4)

/-- What SETC and SETCI accept and write (R237 to R239): for a number, the values accepted and the effect on the hart; none for
a number that cannot be written. VTYPE and VLCAP bound VL again (R136, R137), and SAVEPTR makes every row dirty (R191). -/
def Sys2Proof.Claim.writable (n v : Nat) : Option (Prop × (Hart → Hart)) :=
  let w (k : Nat) : BitVec k := BitVec.ofNat k v
  let limit (h : Hart) : Hart := { h with ctl := { h.ctl with vl := min h.ctl.vl h.vlLimit } }
  match n with
  | 0x001 => some (v % 8 ≤ 4 ∧ v < 32, fun h => limit { h with ctl := { h.ctl with vtype := w 5 } })
  | 0x003 => some (v < 2 ^ 32, fun h => { h with ctl := { h.ctl with fill := w 32 } })
  | 0x004 => some (1 ≤ v ∧ v ≤ 6, fun h => { h with ctl := { h.ctl with frm := w 3 } })
  | 0x005 => some (True, fun h => { h with ctl := { h.ctl with fflags := w 6 } })
  | 0x006 => some (v < 2 ^ 10, fun h => { h with ctl := { h.ctl with qfmt := w 10 } })
  | 0x007 => some (True, fun h => { h with ctl := { h.ctl with srseed := w 64 } })
  | 0x011 => some (v ≤ 7, fun h => { h with ctl := { h.ctl with msel := w 3 } })
  | 0x100 => some (v ∈ ([256, 512, 1024, 2048] : List Nat), fun h => limit { h with sup := { h.sup with vlcap := w 12 } })
  | 0x101 => some (v ≤ 4095, fun h => { h with sup := { h.sup with owner := w 12 } })
  | 0x102 => some (v % 64 = 0 ∧ v < 2 ^ 52, fun h => { h with sup := { h.sup with dirbase := w 64 } })
  | 0x103 => some (v % 16 = 0, fun h => { h with sup := { h.sup with trapvec := w 64 } })
  | 0x104 => some (v < 2 ^ 11 ∧ v / 2 ^ 8 % 4 ≠ 3, fun h => { h with sup := { h.sup with trapcause := w 11 } })
  | 0x105 => some (v % 16 = 0, fun h => { h with sup := { h.sup with trappc := w 64 } })
  | 0x106 => some (True, fun h => { h with sup := { h.sup with trapaddr := w 64 } })
  | 0x107 => some (True, id)
  | 0x108 => some (v % 4096 = 0, fun h =>
      { h with sup := { h.sup with saveptr := w 64 }, grid := { h.grid with dirty := BitVec.allOnes 128 } })
  | 0x109 => some (v ≤ 1, fun h => { h with sup := { h.sup with violmode := v == 1 } })
  | _ => none

/-- SETC and SETCI: a value that the word's rule accepts is written, and nothing else changes; a refused value, a read-only
word and an unlisted number trap with 0x03, a number from 0x100 to 0x10A at U with 0x04 (R237, R212). -/
def Sys2Proof.Claim.SetcForms : Prop :=
  ∀ (s : State) (a : SReg) (n : BitVec 12) (imm : BitVec 21),
    let sets (i : Instr) (v : Nat) : Prop :=
      (s.my.level = .u → 0x100 ≤ n.toNat → n.toNat ≤ 0x10A → Traps i s 0x04 0 4) ∧
      (s.my.level ≠ .u ∨ n.toNat < 0x100 ∨ 0x10A < n.toNat →
        match Claim.writable n.toNat v with
        | none => Traps i s 0x03 0 4
        | some (ok, f) =>
          (¬ok → Traps i s 0x03 0 4) ∧
          (ok → (n = 5 → s.my.opas = [] ∧ s.my.long = none) → Changes i s f 0) ∧
          (n = 5 → s.my.opas ≠ [] ∨ s.my.long ≠ none → Stalls i s))
    sets (.setc a n) (s.my.rx a).toNat ∧ sets (.setci imm n) imm.toNat

/-- GETC, SETC and SETCI (R237 to R239, R212): every control word read and written, and the traps. -/
def Obligations.ControlWordForms : Prop := Claim.GetcForms ∧ Claim.SetcForms

/-! ## Loads, stores, timed accesses, atomics and fences (spec/10) -/

/-- The number that bytes stand for, least significant first (R5). -/
def Sys2Proof.Claim.value (f : Nat → Nat) : Nat → Nat
  | 0 => 0
  | n + 1 => Sys2Proof.Claim.value f n + f n * 256 ^ n

/-- An address holds a byte, as the blocks of an access read at their homes. -/
def Sys2Proof.Claim.Byte (s : State) (plain : Bool) (ps : List Piece) (a v : Nat) : Prop :=
  ∃ p ∈ ps, ∃ b, p.blk = a / 64 * 64 ∧ s.homeRead plain p.loc = .ok b ∧ v = b.toNat / 2 ^ (8 * (a % 64)) % 256

/-- Some bits of consecutive bytes, as the blocks of an access read at their homes. -/
def Sys2Proof.Claim.Bits (s : State) (ps : List Piece) (ba w v : Nat) : Prop :=
  ∃ f : Nat → Nat, (∀ k, 8 * k < ba % 8 + w → Claim.Byte s true ps ((ba / 8 + k) % 2 ^ 64) (f k)) ∧
    v = Claim.value f ((ba % 8 + w + 7) / 8) / 2 ^ (ba % 8) % 2 ^ w

/-- The 64-byte block of storage where a location lies: in memory, or in a core's scratchpad; none for a register, an
unmapped segment, or an address that is no block's. -/
def Sys2Proof.Claim.place (s : State) (l : Loc) : Option (Option Nat × Nat) :=
  let scr (k off : Nat) : Option (Option Nat × Nat) :=
    if (s.core k).segValid (off / 4096) ∧ off % 64 = 0 then some (some k, (s.core k).pseg (off / 4096) * 4096 + off % 4096)
    else none
  match l with
  | .bad _ => none
  | .scr k off => scr k off
  | .mem pa _ _ =>
    match s.region pa with
    | .mmio _ => none
    | _ =>
      let q := s.resolve pa
      match s.region q with
      | .aperture k off => scr k off
      | .hbm _ => if q % 64 = 0 then some (none, q) else none
      | .second => if q % 64 = 0 then some (none, q) else none
      | .host => if q % 64 = 0 then some (none, q) else none
      | .peer _ => if q % 64 = 0 then some (none, q) else none
      | _ => none

/-- Nothing keeps an access of the bundle in hand from performing as it is issued: the bundle does not wait yet, nothing is on
its way, no block lies where a message would have to travel, and none is being moved, waited for or absent, nor would an access
of the hart's owner be held there. -/
def Sys2Proof.Claim.Clear (s : State) (x : Xls) : Prop :=
  s.my.wait = .none ∧ s.immediate = true ∧
  (∀ p ∈ x.pieces, s.nearBy s.cur p.loc = true ∧ ∀ f : Flight, f.owner = s.my.sup.owner.toNat → s.heldBack f p = false) ∧
  x.moving = false ∧ x.held = none ∧ x.nonres = none

/-- Every block of an access answers, from storage; two of one place have one name, and touch different bits of it. -/
def Sys2Proof.Claim.Answers (s : State) (plain : Bool) (ps : List Piece) : Prop :=
  (∀ p ∈ ps, (∃ b, s.homeRead plain p.loc = .ok b) ∧ (Claim.place s p.loc).isSome = true) ∧
  ps.Pairwise fun p q => Claim.place s p.loc = Claim.place s q.loc → p.loc = q.loc ∧ p.mask &&& q.mask = 0

/-- All but memory, scratchpads, the hart and what a use of the range cache records is as it was (R24, R37). -/
def Sys2Proof.Claim.Around (s t : State) : Prop :=
  t.dies = s.dies ∧ t.flights = s.flights ∧ t.absent = s.absent ∧ t.harbour = s.harbour ∧ t.link = s.link ∧
  t.ptp = s.ptp ∧ t.master = s.master ∧ t.kept = s.kept ∧ t.cur = s.cur ∧ t.agenda = s.agenda ∧ t.delay = s.delay ∧
  t.count = s.count ∧ t.ranges = { s.ranges with records := t.ranges.records, fills := t.ranges.fills, invals := t.ranges.invals } ∧
  CoreKept { s.me with cache := t.me.cache, scr := t.me.scr, scrMarks := t.me.scrMarks } t.me ∧
  ∀ k, k ≠ s.cur → t.core k = { s.core k with scr := (t.core k).scr, scrMarks := (t.core k).scrMarks }

/-- Memory and every scratchpad, with their marks, are as they were. -/
def Sys2Proof.Claim.Stored (s t : State) : Prop :=
  t.mem = s.mem ∧ ∀ k, (t.core k).scr = (s.core k).scr ∧ (t.core k).scrMarks = (s.core k).scrMarks

/-- Only the blocks of an access have changed, each by the values of its requests where the requests' masks are set: every
other block of storage, in whoever's name it is read, reads as before. -/
def Sys2Proof.Claim.Writes (s t : State) (plain : Bool) (ps : List Piece) : Prop :=
  (∀ p ∈ ps, ∀ b, s.homeRead plain p.loc = .ok b → ∃ c, t.homeRead plain p.loc = .ok c ∧
    ∀ i, (∀ q ∈ ps, q.loc = p.loc → q.mask.getLsbD i = true → c.getLsbD i = q.val.getLsbD i) ∧
      ((∀ q ∈ ps, q.loc = p.loc → q.mask.getLsbD i = false) → c.getLsbD i = b.getLsbD i)) ∧
  ∀ l, (Claim.place s l).isSome = true → (∀ p ∈ ps, Claim.place s p.loc ≠ Claim.place s l) →
    t.homeRead plain l = s.homeRead plain l

/-- An access's bundle has committed: nothing else of the machine changed, and of the hart only what the end of a bundle
changes (R233), with flags, and its registers and grid. -/
def Sys2Proof.Claim.Accessed (s t : State) (flags : BitVec 6) : Prop :=
  Claim.Around s t ∧ HartKept s.my t.my ∧ BundleEnds s.my t.my flags ∧ t.my.ctl.srseed = s.my.ctl.srseed

/-- The effective address of a scalar load or store: a + imm mod 2^64 (R247). -/
def Sys2Proof.Claim.address (s : State) (a : SReg) (imm : BitVec 20) : Nat :=
  ((s.my.rx a).toNat + (BitVec.ofInt 64 imm.toInt).toNat) % 2 ^ 64

/-- A load writes a value to sd and changes nothing else. -/
def Sys2Proof.Claim.Loads (i : Instr) (s : State) (d : SReg) (v : Word) : Prop :=
  Runs i s fun t => OnlyReg s.my t.my d v ∧ t.my.grid = s.my.grid ∧ Claim.Accessed s t 0 ∧ Claim.Stored s t

/-- The scalar loads (R249, R247, R5): where every block translates and answers, sd is the little-endian value of the bytes at
a + imm, sign- or zero-extended; memory is as it was. -/
def Obligations.ScalarLoadForms : Prop :=
  ∀ (s : State) (p : Space) (d a : SReg) (imm : BitVec 20) (bytes : Nat → Nat),
    let ea := Claim.address s a imm
    let loads (i : Instr) (n : Nat) (signed : Bool) : Prop :=
      let x := s.translate (spaceNum p) .load (scalarReqs ea n (spanReqs ea n))
      Claim.Clear s x → x.fails = [] → (∀ k, k < n → Claim.Byte s true x.pieces ((ea + k) % 2 ^ 64) (bytes k)) →
      Claim.Loads i s d (if signed then BitVec.ofInt 64 (BitVec.ofNat (8 * n) (Claim.value bytes n)).toInt
        else BitVec.ofNat 64 (Claim.value bytes n))
    loads (.ldb p d a imm) 1 true ∧ loads (.ldbu p d a imm) 1 false ∧ loads (.ldh p d a imm) 2 true ∧
    loads (.ldhu p d a imm) 2 false ∧ loads (.ldw p d a imm) 4 true ∧ loads (.ldwu p d a imm) 4 false ∧
    loads (.ldd p d a imm) 8 false

/-- A load that fails without a trap (R249, R28): its translation failures, none strict, and nothing else lead to FILL truncated
to the width and extended, and memory is as it was; a strict failure traps at the lowest such address. -/
def Obligations.FailingLoads : Prop :=
  ∀ (s : State) (p : Space) (d a : SReg) (imm : BitVec 20),
    let ea := Claim.address s a imm
    let fails (i : Instr) (n : Nat) (signed : Bool) : Prop :=
      let x := s.translate (spaceNum p) .load (scalarReqs ea n (spanReqs ea n))
      let v := s.my.ctl.fill.toNat % 2 ^ (8 * n)
      Claim.Clear s x → x.fails ≠ [] → (∀ e ∈ x.fails, e.data = false) →
      ((∀ e ∈ x.fails, e.strict = false) → (∀ q ∈ x.pieces, ∃ b, s.homeRead true q.loc = .ok b) →
        s.me.active = true → (s.my.handler = true → s.my.level ≠ .u) →
        Runs i s fun t => t.mem = s.mem ∧ (∀ k, (t.core k).scr = (s.core k).scr) ∧ t.my.grid = s.my.grid ∧
          OnlyReg s.my t.my d (if signed then BitVec.ofInt 64 (BitVec.ofNat (8 * n) v).toInt else BitVec.ofNat 64 v)) ∧
      ∀ e ∈ x.fails, e.strict = true → (∀ f ∈ x.fails, f.strict = true → e.addr ≤ f.addr) →
        Traps i s 0x21 (BitVec.ofNat 64 e.addr) 4
    fails (.ldb p d a imm) 1 true ∧ fails (.ldbu p d a imm) 1 false ∧ fails (.ldh p d a imm) 2 true ∧
    fails (.ldhu p d a imm) 2 false ∧ fails (.ldw p d a imm) 4 true ∧ fails (.ldwu p d a imm) 4 false ∧
    fails (.ldd p d a imm) 8 false

/-- The scalar stores (R249, R247, R5): where every block translates and answers, the low bytes of b stand at a + imm, least
significant first; every other byte of storage reads as before, and no register, flag or grid row changes. -/
def Obligations.ScalarStoreForms : Prop :=
  ∀ (s : State) (p : Space) (a b : SReg) (imm : BitVec 20),
    let ea := Claim.address s a imm
    let v := (s.my.rx b).toNat
    let stores (i : Instr) (n : Nat) : Prop :=
      let x := s.translate (spaceNum p) .store (scalarReqs ea n (storeReqs ea n (v % 2 ^ (8 * n))))
      Claim.Clear s x → x.fails = [] → Claim.Answers s true x.pieces →
      Runs i s fun t => RegsKept s.my t.my ∧ t.my.grid = s.my.grid ∧ Claim.Accessed s t 0 ∧
        (∀ k, k < n → Claim.Byte t true x.pieces ((ea + k) % 2 ^ 64) (v / 256 ^ k % 256)) ∧
        (∀ q ∈ x.pieces, ∀ j, j < 64 → (∀ k, k < n → (ea + k) % 2 ^ 64 ≠ q.blk + j) → ∀ w,
          Claim.Byte s true x.pieces (q.blk + j) w → Claim.Byte t true x.pieces (q.blk + j) w) ∧
        Claim.Writes s t true x.pieces
    stores (.stb p b a imm) 1 ∧ stores (.sth p b a imm) 2 ∧ stores (.stw p b a imm) 4 ∧ stores (.std p b a imm) 8

/-- LDNB (R251, R119, R122): a time more than 2^30 ticks ahead is an illegal operand; a time before the die's ATIME does not
delay the load, which reads zero-extended; a later one blocks the bundle with KIND 8, the access on its way, and the hart is as
it was but for the wait. A time equal to the die's ATIME waits, at a home of that die, for the tick to end: the model's choice
(log 76). -/
def Sys2Proof.Claim.NotBeforeLoad : Prop :=
  ∀ (s : State) (d a t : SReg) (z : BitVec 2) (bytes : Nat → Nat),
    let ea := (s.my.rx a).toNat
    let n := 2 ^ z.toNat
    let time := (s.my.rx t).toNat
    let now := (s.die (s.cur / 96)).atime.toNat
    let x := s.translate 0 .load (spanReqs ea n)
    (s.my.wait = .none → now + 2 ^ 30 < time → Traps (.ldnb d a t z) s 0x03 0 4) ∧
    (x.fails = [] → time ≤ now + 2 ^ 30 →
      (time < now → Claim.Clear s x → (∀ k, k < n → Claim.Byte s false x.pieces ((ea + k) % 2 ^ 64) (bytes k)) →
        Claim.Loads (.ldnb d a t z) s d (BitVec.ofNat 64 (Claim.value bytes n))) ∧
      ((now < time ∨ time = now ∧ ∃ p ∈ x.pieces, s.nearBy s.cur p.loc = true) → s.my.wait = .none → x.moving = false → x.held = none → x.nonres = none →
        (∀ p ∈ x.pieces, s.refused p.loc = none) →
        Runs (.ldnb d a t z) s fun u => u.my = { s.my with wait := .ask } ∧ Claim.Stored s u ∧
          (∀ e, s.me.running = some e → ∃ e' ∈ u.me.queue, e'.area = e.area ∧ e'.blk.kind = 8 ∧ e'.blk.obj = s.my.rx a) ∧
          ∃ f, u.flights = s.flights ++ [f] ∧ f.time = some time ∧ f.pieces = x.pieces))

/-- A timed store, at its time or before it (R118, R120, R251, R266): where the issuing die's ATIME has reached its time it is
performed as a store is; where it lies ahead at the one home it travels to, that home holds it, and storage is as it was. -/
def Sys2Proof.Claim.StoresAt (i : Instr) (s : State) (time : Nat) (x : Xls) : Prop :=
  (time ≤ (s.die (s.cur / 96)).atime.toNat → Claim.Answers s false x.pieces →
    Runs i s fun t => RegsKept s.my t.my ∧ t.my.grid = s.my.grid ∧ Claim.Accessed s t 0 ∧ Claim.Writes s t false x.pieces) ∧
  ∀ p d, x.pieces = [p] → p.loc.die = some d → s.refused p.loc = none → s.homeReached p.loc time = false →
    Runs i s fun t => RegsKept s.my t.my ∧ t.my.grid = s.my.grid ∧ Claim.Stored s t ∧
      ∃ f, (t.die d).held = (s.die d).held ++ [f] ∧ f.time = some time ∧ f.pieces = [p] ∧
        ∀ e, e ≠ d → t.die e = s.die e

/-- STVA (R251, R118, R122): a time more than 2^30 ticks ahead is an illegal operand; otherwise the store performs at its home
at its time. -/
def Sys2Proof.Claim.VisibleAtStore : Prop :=
  ∀ (s : State) (a b t : SReg) (z : BitVec 2),
    let n := 2 ^ z.toNat
    let time := (s.my.rx t).toNat
    let now := (s.die (s.cur / 96)).atime.toNat
    let x := s.translate 0 .store (storeReqs (s.my.rx a).toNat n ((s.my.rx b).toNat % 2 ^ (8 * n)))
    (s.my.wait = .none → now + 2 ^ 30 < time → Traps (.stva b a t z) s 0x03 0 4) ∧
    (Claim.Clear s x → x.fails = [] → time ≤ now + 2 ^ 30 → s.my.pend < 4096 →
      (∀ p ∈ x.pieces, ∀ d, p.loc.die = some d → (s.die d).held.length + x.pieces.length ≤ 4096) →
      Claim.StoresAt (.stva b a t z) s time x)

/-- LDNB and STVA (R251, R118, R119, R122): the timed accesses of one word. -/
def Obligations.TimedScalarForms : Prop := Claim.NotBeforeLoad ∧ Claim.VisibleAtStore

/-- What an atomic of `w` bits makes of the old word (R253); none where CAS does not match. -/
def Sys2Proof.Claim.atomic (op : AmoOp) (w old arg new : Nat) : Option Nat :=
  let sg (v : Nat) : Int := (BitVec.ofNat w v).toInt
  match op with
  | .add => some ((old + arg) % 2 ^ w)
  | .swap => some arg
  | .cas => if old = arg then some new else none
  | .and => some (old &&& arg)
  | .or => some (old ||| arg)
  | .xor => some (old ^^^ arg)
  | .min => some (if sg arg < sg old then arg else old)
  | .max => some (if sg old < sg arg then arg else old)
  | .minu => some (if arg < old then arg else old)
  | .maxu => some (if old < arg then arg else old)
  | .fadd =>
    let r := (fp32.decode old).add 1 (fp32.decode arg) { seed := 0 }
    some (fp32.round 1 false r.1 r.2).1

/-- The flags of an atomic: FADD's, rounded to nearest even; no other raises any (R253). -/
def Sys2Proof.Claim.atomicFlags (op : AmoOp) (old arg : Nat) : BitVec 6 :=
  match op with
  | .fadd =>
    let r := (fp32.decode old).add 1 (fp32.decode arg) { seed := 0 }
    (fp32.round 1 false r.1 r.2).2.flags
  | _ => 0

/-- AMO and AMOS (R252 to R255, R114): CAS with an odd sd or s0 is an illegal operand; otherwise the aligned word at a becomes
the operation's result, sd its old value, sign-extended from 32 bits but for FADD, and nothing else changes. -/
def Sys2Proof.Claim.AtomicForms : Prop :=
  ∀ (s : State) (d a : SReg) (wd : BitVec 1) (op : AmoOp) (ord : AmoOrd) (sc : Scope),
    let w := if wd = 0 then 32 else 64
    let ea := (s.my.rx a).toNat / (w / 8) * (w / 8)
    let arg := (s.my.rx d).toNat % 2 ^ w
    let new := (s.my.rx (d + 1)).toNat % 2 ^ w
    let sh := 8 * (ea % 64)
    let amo (i : Instr) (space : Nat) : Prop :=
      let x := s.translate space .atomic
        [{ blk := ea / 64 * 64, lo := ea, mask := byteMask (ea % 64) (ea % 64 + w / 8) }]
      (op = .cas → d = 0 ∨ d.toNat % 2 = 1 → Traps i s 0x03 0 4) ∧
      ∀ p b, (op = .cas → d ≠ 0 ∧ d.toNat % 2 = 0) → (ordReleases ord = true → s.pushesOf (s.who s.cur) = false) →
        Claim.Clear s x → x.fails = [] → x.pieces = [p] → Claim.Answers s false x.pieces →
        s.homeRead false p.loc = .ok b →
        let old := b.toNat / 2 ^ sh % 2 ^ w
        Runs i s fun t =>
          OnlyReg s.my t.my d (if w = 32 ∧ op ≠ .fadd then BitVec.ofInt 64 (BitVec.ofNat 32 old).toInt else BitVec.ofNat 64 old) ∧
          t.my.grid = s.my.grid ∧ Claim.Accessed s t (Claim.atomicFlags op old arg) ∧
          Claim.Writes s t false
            [match Claim.atomic op w old arg new with
             | some v => { p with val := BitVec.ofNat 512 (v * 2 ^ sh), mask := BitVec.ofNat 512 ((2 ^ w - 1) * 2 ^ sh) }
             | none => { p with val := 0, mask := 0 }]
    amo (.amo d a wd op ord sc) 0 ∧ amo (.amos d a wd op ord sc) 2

/-- The bundle blocks with a KIND and an OBJ and has no other effect (R163). -/
def Sys2Proof.Claim.Blocks (i : Instr) (s : State) (kind : Nat) (obj : Word) : Prop :=
  s.awaitsDecode [i] = false → exec i s = .next (s.modCore s.cur (·.block kind obj))

/-- FENCE (R111 to R113, R256): with an access of a predecessor class that has still to perform at its scope it blocks with
KIND 9; otherwise, or with an empty set, it commits, and where stream reads follow it, what was prefetched and not popped is
read again. At HART and CORE scope nothing is waited for that the core's own order serves: what the context has on its way in
the predecessor classes holds its successor classes behind it. -/
def Sys2Proof.Claim.FenceForm : Prop :=
  ∀ (s : State) (p q : BitVec 8) (sc : Scope),
    let inner := sc = .hart ∨ sc = .core
    let refetched (h : Hart) : Hart :=
      if p ≠ 0 ∧ q.getLsbD 4 = true then { h with queues := h.queues.map fun x => (x.1, x.2.refetch) } else h
    (p ≠ 0 → q ≠ 0 → s.fencePending p sc = true → Claim.Blocks (.fence p q sc) s 9 0) ∧
    (p = 0 ∨ q = 0 ∨ s.fencePending p sc = false →
      Runs (.fence p q sc) s fun t =>
        OutsideKept { s with flights := t.flights } t ∧ CoreKept s.me t.me ∧
        t.my = { ((refetched s.my).advance s.my.pc none).1 with
          wait := .none, ewait := .none, passed := none, interval := t.my.interval } ∧
        (¬inner → t.flights = s.flights) ∧ (inner → p ≠ 0 → t.flights = s.flights.map fun f =>
          if f.ofCtx s.cur s.my.sup.owner.toNat s.my.sup.saveptr.toNat = true ∧ f.cls &&& p ≠ 0 then
            { f with fenced := f.fenced ||| q } else f))

/-- AMO, AMOS and FENCE (R252 to R256, R111, R114). -/
def Obligations.AtomicAndFenceForms : Prop := Claim.AtomicForms ∧ Claim.FenceForm

/-! ## Vector operations (spec/05, spec/13) -/

/-- Where element `i` of a vector operand lies: its row and its lowest bit there (R132, R138). -/
def Sys2Proof.Claim.at (h : Hart) (v : View) (r : GReg) (i : Nat) : Nat × Nat :=
  let w := 2 ^ (h.ctl.vtype.toNat % 8 + 1)
  let per := h.sup.vlcap.toNat / w
  match v with
  | .row => (r.toNat + i / per, w * (i % per))
  | .col => (r.toNat / 64 * 64 + i, 32 * (r.toNat % 64))
  | .diag => (r.toNat / 64 * 64 + i, 32 * ((i + r.toNat % 64) % 64))

/-- The bits of element `i` of a vector operand in a grid. -/
def Sys2Proof.Claim.elem (h : Hart) (g : Grid) (v : View) (r : GReg) (i : Nat) : Nat :=
  let p := Claim.at h v r i
  (g.rows.get p.1).toNat / 2 ^ p.2 % 2 ^ 2 ^ (h.ctl.vtype.toNat % 8 + 1)

/-- The rows of a vector operand: its group, or its half of the grid (R138). -/
def Sys2Proof.Claim.inRows (h : Hart) (v : View) (r : GReg) (n : Nat) : Prop :=
  match v with
  | .row => r.toNat ≤ n ∧ n < r.toNat + 2 ^ (h.ctl.vtype.toNat / 8)
  | _ => r.toNat / 64 * 64 ≤ n ∧ n < r.toNat / 64 * 64 + 64

/-- A vector operand keeps to R138. -/
def Sys2Proof.Claim.Legal (h : Hart) (v : View) (r : GReg) : Prop :=
  match v with
  | .row => r.toNat % 2 ^ (h.ctl.vtype.toNat / 8) = 0
  | _ => h.ctl.vtype.toNat = 4

/-- A row is neither busy nor waiting for an arrival (R134, R135). -/
def Sys2Proof.Claim.Free (h : Hart) (n : Nat) : Prop := h.grid.busy.getLsbD n = false ∧ h.grid.missing.getD n 0xFF = 0xFF

/-- No cell of a row holds an error (R67). -/
def Sys2Proof.Claim.Sound (h : Hart) (n : Nat) : Prop := ∀ c ∈ h.grid.bad, c.1 ≠ n

/-- VTYPE, VLCAP and VL stand in the relations that every write of them keeps (R136 to R138). -/
def Sys2Proof.Claim.Shape (h : Hart) : Prop :=
  h.ctl.vtype.toNat % 8 ≤ 4 ∧ h.sup.vlcap.toNat ∈ ([256, 512, 1024, 2048] : List Nat) ∧ h.ctl.vl ≤ h.vlLimit

/-- A vector operation may run to its end at once: its operands are legal, their rows free and without errors, both halves
present, no earlier long operation under way, no partial one held, and the fabric delays nothing (R51, R67, R134, R135, R176,
R178). -/
def Sys2Proof.Claim.Ready (s : State) (v : View) (regs : List GReg) : Prop :=
  Claim.Shape s.my ∧ s.delay = false ∧ s.my.missingHalf = none ∧ s.my.long = none ∧ s.my.popa = none ∧ s.my.pvec = none ∧
  ∀ r ∈ regs, Claim.Legal s.my v r ∧ ∀ n, Claim.inRows s.my v r n → Claim.Free s.my n ∧ Claim.Sound s.my n

/-- Element `i` is below VL and active (R139). -/
def Sys2Proof.Claim.Active (h : Hart) (m : MaskUse) (i : Nat) : Prop :=
  i < h.ctl.vl ∧
  match m with
  | .off => True
  | .msel => (h.mask h.ctl.msel).getLsbD i = true
  | .hdr k => (h.mask k).getLsbD i = true

/-- A grid changed in rows at some bits only: the rest of the rows, the masks, the arrival and busy bits are as they were; a row
of which nothing changed keeps its dirty bit, and no dirty bit is lost (R191). -/
def Sys2Proof.Claim.GridKept (g k : Grid) (p : Nat → Nat → Prop) : Prop :=
  (∀ n b, ¬p n b → (k.rows.get n).getLsbD b = (g.rows.get n).getLsbD b) ∧
  (∀ n, (∀ b, ¬p n b) → k.dirty.getLsbD n = g.dirty.getLsbD n) ∧
  (∀ n, g.dirty.getLsbD n = true → k.dirty.getLsbD n = true) ∧
  k.masks = g.masks ∧ k.missing = g.missing ∧ k.busy = g.busy

/-- A vector operation whose result is a function of the element index: every active element below VL of the destination has
its value, its row is dirty, and every other bit of the grid, every register, mask and flag is as it was (R139, R191, R319). -/
def Sys2Proof.Claim.Elements (i : Instr) (s : State) (m : MaskUse) (v : View) (d : GReg) (val : Nat → Nat) : Prop :=
  Runs i s fun t =>
    RegsKept s.my t.my ∧ t.my.ctl.srseed = s.my.ctl.srseed ∧ Past s t 0 ∧
    (∀ j, Claim.Active s.my m j → Claim.elem s.my t.my.grid v d j = val j ∧
      t.my.grid.dirty.getLsbD (Claim.at s.my v d j).1 = true) ∧
    Claim.GridKept s.my.grid t.my.grid fun n b =>
      ∃ j, Claim.Active s.my m j ∧ n = (Claim.at s.my v d j).1 ∧ (Claim.at s.my v d j).2 ≤ b ∧
        b < (Claim.at s.my v d j).2 + 2 ^ (s.my.ctl.vtype.toNat % 8 + 1)

/-- The bit and move operations (R322, R323), VMTO (R325), the slides (R337), VPERM and VLUT (R338), on elements of every
width. VSEL, without a mask, is an illegal operand, and so are the slides, VPERM and VLUT whose destination is the source that
they read across lanes (R317); a source at or beyond VL reads FILL (R139). -/
def Obligations.VectorBitForms : Prop :=
  ∀ (s : State) (v : View) (d a b : GReg) (r : SReg) (k : MReg) (m : MaskUse),
    let h := s.my
    let w := 2 ^ (h.ctl.vtype.toNat % 8 + 1)
    let x := Claim.elem h h.grid v a
    let y := Claim.elem h h.grid v b
    let z := Claim.elem h h.grid v d
    let sg (n : Nat) : Int := (BitVec.ofNat w n).toInt
    let u (n : Int) : Nat := (BitVec.ofInt w n).toNat
    let lane (f : Nat → Nat) (j : Nat) : Nat := if j < h.ctl.vl then f j else h.ctl.fill.toNat % 2 ^ w
    let n := (h.rx r).toNat
    let vv (i : Instr) (f : Nat → Nat) : Prop := Claim.Ready s v [d, a, b] → Claim.Elements i s m v d f
    let vu (i : Instr) (f : Nat → Nat) : Prop := Claim.Ready s v [d, a] → Claim.Elements i s m v d f
    let vd (i : Instr) (f : Nat → Nat) : Prop := Claim.Ready s v [d] → Claim.Elements i s m v d f
    vv (.vand v d a b m) (fun j => x j &&& y j) ∧ vv (.vor v d a b m) (fun j => x j ||| y j) ∧
    vv (.vxor v d a b m) (fun j => x j ^^^ y j) ∧ vu (.vnot v d a m) (fun j => 2 ^ w - 1 - x j) ∧
    vv (.vsll v d a b m) (fun j => x j * 2 ^ (y j % w) % 2 ^ w) ∧ vv (.vsrl v d a b m) (fun j => x j / 2 ^ (y j % w)) ∧
    vv (.vsra v d a b m) (fun j => u (sg (x j) / 2 ^ (y j % w))) ∧
    vv (.vfshl v d a b m) (fun j => (z j * 2 ^ w + x j) * 2 ^ (y j % w) / 2 ^ w % 2 ^ w) ∧
    vv (.vfshr v d a b m) (fun j => (x j * 2 ^ w + z j) / 2 ^ (y j % w) % 2 ^ w) ∧
    vv (.vmulh v d a b m) (fun j => u (sg (x j) * sg (y j) / 2 ^ w)) ∧
    vv (.vshrr v d a b m) (fun j => u ((sg (x j) + if y j % w = 0 then 0 else 2 ^ (y j % w - 1)) / 2 ^ (y j % w))) ∧
    vu (.vclz v d a m) (fun j => (w - Nat.size (x j)) % 2 ^ w) ∧
    vu (.vpopc v d a m) (fun j => Claim.ones (x j) w % 2 ^ w) ∧
    vu (.vmv v d a m) x ∧ vd (.vbcast v d r m) (fun _ => n % 2 ^ w) ∧ vd (.vid v d m) (fun j => j % 2 ^ w) ∧
    (m = .off → Claim.Ready s v [d, a, b] → Traps (.vsel v d a b m) s 0x03 0 4) ∧
    (m ≠ .off → Claim.Ready s v [d, a, b] → ∀ f : Nat → Nat,
      (∀ j, Claim.Active h m j → f j = x j) → (∀ j, j < h.ctl.vl → ¬Claim.Active h m j → f j = y j) →
      Claim.Elements (.vsel v d a b m) s .off v d f) ∧
    vd (.vmto v d k m) (fun j => if (h.mask k).getLsbD j then 1 else 0) ∧
    (d = a → Claim.Ready s v [d, a, b] → ∀ i, i ∈ ([.vslideup v d a r m, .vslidedn v d a r m, .vperm v d a b m, .vlut v d a b m] :
      List Instr) → Traps i s 0x03 0 4) ∧
    (d ≠ a →
      vu (.vslideup v d a r m) (fun j => if j < n then h.ctl.fill.toNat % 2 ^ w else x (j - n)) ∧
      vu (.vslidedn v d a r m) (fun j => lane x (j + n)) ∧ vv (.vperm v d a b m) (fun j => lane x (y j)) ∧
      vv (.vlut v d a b m) (fun j => x (min (sg (y j)).toNat (h.ctl.vl - 1))))

/-- The numeric operations of integer kind, at SEW 2, 4 and 8 (R318, R319, R321): modular, and no flag; VDIV saturates on a
divisor of 0 and on overflow. A scalar operand is taken at the element width. -/
def Obligations.VectorIntegerForms : Prop :=
  ∀ (s : State) (v : View) (d a b : GReg) (r : SReg) (m : MaskUse),
    let h := s.my
    let w := 2 ^ (h.ctl.vtype.toNat % 8 + 1)
    let sg (n : Nat) : Int := (BitVec.ofNat w n).toInt
    let u (n : Int) : Nat := (BitVec.ofInt w n).toNat
    let x (j : Nat) : Int := sg (Claim.elem h h.grid v a j)
    let y (j : Nat) : Int := sg (Claim.elem h h.grid v b j)
    let z (j : Nat) : Int := sg (Claim.elem h h.grid v d j)
    let c : Int := sg ((h.rx r).toNat % 2 ^ w)
    let quo (p q : Int) : Int :=
      if q = 0 then (if p < 0 then -2 ^ (w - 1) else 2 ^ (w - 1) - 1)
      else if p = -2 ^ (w - 1) ∧ q = -1 then 2 ^ (w - 1) - 1 else p.tdiv q
    let vv (i : Instr) (f : Nat → Int) : Prop := Claim.Ready s v [d, a, b] → Claim.Elements i s m v d fun j => u (f j)
    let vu (i : Instr) (f : Nat → Int) : Prop := Claim.Ready s v [d, a] → Claim.Elements i s m v d fun j => u (f j)
    h.ctl.vtype.toNat % 8 < 3 →
    vv (.vadd v d a b m) (fun j => x j + y j) ∧ vv (.vsub v d a b m) (fun j => x j - y j) ∧
    vv (.vmul v d a b m) (fun j => x j * y j) ∧ vv (.vfma v d a b m) (fun j => z j + x j * y j) ∧
    vv (.vfms v d a b m) (fun j => z j - x j * y j) ∧ vv (.vmin v d a b m) (fun j => min (x j) (y j)) ∧
    vv (.vmax v d a b m) (fun j => max (x j) (y j)) ∧ vu (.vabs v d a m) (fun j => (x j).natAbs) ∧
    vu (.vneg v d a m) (fun j => -x j) ∧ vv (.vdiv v d a b m) (fun j => quo (x j) (y j)) ∧
    vu (.vadds v d a r m) (fun j => x j + c) ∧ vu (.vmuls v d a r m) (fun j => x j * c) ∧
    vu (.vfmas v d a r m) (fun j => z j + x j * c)

/-- An operation of the grid completes: at each index of a set it leaves a value of some width at a place of the grid, that row
dirty; the flags of all of them are ORed into FFLAGS; and every other bit of the grid, every register and mask and SRSEED is as
it was (R139, R191, R240, R319). -/
def Sys2Proof.Claim.Results (i : Instr) (s : State) (on : Nat → Prop) (place : Nat → Nat × Nat) (w : Nat)
    (val : Nat → Nat × BitVec 6) : Prop :=
  Runs i s fun t =>
    RegsKept s.my t.my ∧ t.my.ctl.srseed = s.my.ctl.srseed ∧
    (∃ fl, Past s t fl ∧ ∀ b, fl.getLsbD b = true ↔ ∃ j, on j ∧ (val j).2.getLsbD b = true) ∧
    (∀ j, on j → (t.my.grid.rows.get (place j).1).toNat / 2 ^ (place j).2 % 2 ^ w = (val j).1 ∧
      t.my.grid.dirty.getLsbD (place j).1 = true) ∧
    Claim.GridKept s.my.grid t.my.grid fun n b => ∃ j, on j ∧ n = (place j).1 ∧ (place j).2 ≤ b ∧ b < (place j).2 + w

/-- An exact value rounded once into a format, with the flags that its computation and the rounding raise (R75, R77). -/
def Sys2Proof.Claim.rounded (p : Fp) (rm : Nat) (sat : Bool) (q : Machine.Num × FState) : Nat × BitVec 6 :=
  let r := p.round rm sat q.1 q.2
  (r.1, r.2.flags)

/-- The numeric operations of float kind, at SEW 16 (BF16) and 32 (FP32), in a rounding mode that draws nothing (R318, R319,
R321, R77): every active element is the exact result rounded once in the mode that FRM names, its flags go to FFLAGS, and every
other bit is as it was. -/
def Obligations.VectorFloatForms : Prop :=
  ∀ (s : State) (v : View) (d a b : GReg) (r : SReg) (m : MaskUse),
    let h := s.my
    let sew := h.ctl.vtype.toNat % 8
    let w := 2 ^ (sew + 1)
    let p := if sew = 3 then bf16 else fp32
    let x (j : Nat) := p.decode (Claim.elem h h.grid v a j)
    let y (j : Nat) := p.decode (Claim.elem h h.grid v b j)
    let z (j : Nat) := p.decode (Claim.elem h h.grid v d j)
    let c := p.decode ((h.rx r).toNat % 2 ^ w)
    let rm := h.ctl.frm.toNat
    let f : FState := { seed := 0 }
    let signed (j k : Nat) : Nat × BitVec 6 :=
      if (x j).isNan then (p.nanBits, if (x j).isSig then flagNV else 0) else (k, 0)
    let gives (i : Instr) (regs : List GReg) (val : Nat → Nat × BitVec 6) : Prop :=
      Claim.Ready s v regs → Claim.Results i s (Claim.Active h m) (Claim.at h v d) w val
    let rounds (i : Instr) (regs : List GReg) (val : Nat → Machine.Num × FState) : Prop :=
      gives i regs fun j => Claim.rounded p rm false (val j)
    3 ≤ sew → rm ≠ 6 →
    rounds (.vadd v d a b m) [d, a, b] (fun j => (x j).add rm (y j) f) ∧
    rounds (.vsub v d a b m) [d, a, b] (fun j => (x j).add rm (y j).negate f) ∧
    rounds (.vmul v d a b m) [d, a, b] (fun j => (x j).mul (y j) f) ∧
    rounds (.vfma v d a b m) [d, a, b] (fun j => Machine.Num.fma rm (x j) (y j) (z j) f) ∧
    rounds (.vfms v d a b m) [d, a, b] (fun j => Machine.Num.fma rm (x j).negate (y j) (z j) f) ∧
    rounds (.vmin v d a b m) [d, a, b] (fun j => numMin false (x j) (y j) f) ∧
    rounds (.vmax v d a b m) [d, a, b] (fun j => numMin true (x j) (y j) f) ∧
    rounds (.vdiv v d a b m) [d, a, b] (fun j => (x j).div (y j) f) ∧
    rounds (.vadds v d a r m) [d, a] (fun j => (x j).add rm c f) ∧
    rounds (.vmuls v d a r m) [d, a] (fun j => (x j).mul c f) ∧
    rounds (.vfmas v d a r m) [d, a] (fun j => Machine.Num.fma rm (x j) c (z j) f) ∧
    gives (.vabs v d a m) [d, a] (fun j => signed j (Claim.elem h h.grid v a j % 2 ^ (w - 1))) ∧
    gives (.vneg v d a m) [d, a] (fun j => signed j (Claim.elem h h.grid v a j ^^^ 2 ^ (w - 1)))

/-- An operation of the grid completes, whatever its rounding mode: no register changes (R172, R319). -/
def Sys2Proof.Claim.Completes (i : Instr) (s : State) : Prop :=
  Runs i s fun t => RegsKept s.my t.my ∧ ∃ fl, Past s t fl

/-- An exact value converted to the format of a code (R71): floats with one saturate control, integers with another, TERN2 and
E8M0 as their rules say (R73, R75, R78, R79), with the flags raised from those before. -/
def Sys2Proof.Claim.converted (t rm : Nat) (satF satI sym : Bool) (q : Machine.Num × FState) : Nat × BitVec 6 :=
  let int (w : Nat) (signed : Bool) : Nat × FState := (⟨w, signed⟩ : IntFmt).convert rm satI sym true q.1 q.2
  let r : Nat × FState := match t with
    | 0x01 => fp32.round rm satF q.1 q.2
    | 0x02 => bf16.round rm satF q.1 q.2
    | 0x03 => fp16.round rm satF q.1 q.2
    | 0x04 => e4m3.round rm satF q.1 q.2
    | 0x05 => e5m2.round rm satF q.1 q.2
    | 0x06 => e8m0Encode q.1 q.2
    | 0x08 => int 32 true
    | 0x09 => int 16 true
    | 0x0A => int 8 true
    | 0x0B => int 8 false
    | 0x0C => int 4 true
    | 0x0D => int 2 true
    | _ => ternConvert rm q.1 q.2
  (r.1, r.2.flags)

/-- VCVT (R326): the source follows SEW and in two cases the target; the rounding is k[1:0]'s; the result stands in the low bits
of the element, zero above; a target missing from the SEW's row is an illegal operand, a reserved code traps with 0x0E. -/
def Sys2Proof.Claim.ConversionForm : Prop :=
  ∀ (s : State) (v : View) (d a : GReg) (k : BitVec 7) (m : MaskUse),
    let h := s.my
    let sew := h.ctl.vtype.toNat % 8
    let w := 2 ^ (sew + 1)
    let t := k.toNat / 4
    let rm := match k.toNat % 4 with
      | 0 => 1
      | 1 => 3
      | 2 => 6
      | _ => h.ctl.frm.toNat
    let x (j : Nat) : Machine.Num :=
      let e := Claim.elem h h.grid v a j
      if sew = 4 ∧ t ≠ 0x01 then fp32.decode e
      else if sew = 3 then (if t = 0x02 then fp16.decode e else bf16.decode e)
      else Machine.Num.ofInt (BitVec.ofNat w e).toInt
    let targets : List Nat := match sew with
      | 4 => [0x01, 0x02, 0x03, 0x04, 0x05, 0x06, 0x08, 0x09, 0x0A, 0x0B, 0x0C, 0x0D, 0x0E]
      | 3 => [0x02, 0x03, 0x04, 0x05, 0x06, 0x09, 0x0A, 0x0B, 0x0C, 0x0D, 0x0E]
      | 2 => [0x04, 0x05, 0x0B, 0x0C, 0x0D, 0x0E]
      | 1 => [0x0D, 0x0E]
      | _ => [0x0E]
    let reserved := t = 0x07 ∨ t = 0x0F ∨ 0x14 ≤ t
    Claim.Ready s v [d, a] →
      (t ∈ targets → rm ≠ 6 → Claim.Results (.vcvt v d a k m) s (Claim.Active h m) (Claim.at h v d) w fun j =>
        Claim.converted t rm false true false (x j, { seed := 0 })) ∧
      (t ∈ targets → Claim.Completes (.vcvt v d a k m) s) ∧
      (t ∉ targets → ¬reserved → Traps (.vcvt v d a k m) s 0x03 0 4) ∧
      (reserved → Traps (.vcvt v d a k m) s 0x0E 0 4)

/-- The scale code of a block of 32 element indices (R87, R328): 0xFF where a value is infinite or a NaN, 0 where all are zero,
and otherwise from the binary exponent of the largest magnitude. -/
def Sys2Proof.Claim.BlockCode (top : Int) (q : Nat → Machine.Num) (on : Nat → Prop) (blk code : Nat) : Prop :=
  let among (j : Nat) : Prop := on j ∧ j / 32 = blk
  ((∃ j, among j ∧ ∀ n m e, q j ≠ .fin n m e) → code = 0xFF) ∧
  ((∀ j, among j → ∃ n e, q j = .fin n 0 e) → code = 0) ∧
  ∀ j n m e, among j → q j = .fin n m e → m ≠ 0 →
    (∀ i, among i → (∃ n' m' e', q i = .fin n' m' e') ∧ (q j).abs.lt (q i).abs = false) →
    (code : Int) = max 0 (min 254 ((m.log2 : Int) + e - top + 127))

/-- VQNT (R327, R328): the exact product with the FP32 scale, converted under QFMT and FRM; under a block-scaled QFMT stored
under its block's scale, always saturated, the scale in bits [15:8]; the widths and formats that are illegal operands, and
reserved codes. -/
def Sys2Proof.Claim.QuantisationForm : Prop :=
  ∀ (s : State) (v : View) (d a : GReg) (r : SReg) (m : MaskUse),
    let h := s.my
    let sew := h.ctl.vtype.toNat % 8
    let w := 2 ^ (sew + 1)
    let rm := h.ctl.frm.toNat
    let t := h.ctl.qfmt.toNat % 256
    let f : FState := { seed := 0 }
    let q (j : Nat) : Machine.Num × FState :=
      ((if sew = 3 then bf16 else fp32).decode (Claim.elem h h.grid v a j)).mul (fp32.decode ((h.rx r).toNat % 2 ^ 32)) f
    let p := if t = 0x11 then e4m3 else e5m2
    let scaled := t = 0x11 ∨ t = 0x12
    Claim.Ready s v [d, a] →
      (fmtReserved t = false → qntBad s = true → Traps (.vqnt v d a r m) s 0x03 0 4) ∧
      (fmtReserved t = true → qntBad s = false → Traps (.vqnt v d a r m) s 0x0E 0 4) ∧
      (fmtReserved t = false → qntBad s = false →
        Claim.Completes (.vqnt v d a r m) s ∧
        (¬scaled → rm ≠ 6 → Claim.Results (.vqnt v d a r m) s (Claim.Active h m) (Claim.at h v d) w fun j =>
          Claim.converted t rm (h.ctl.qfmt.getLsbD 8) (h.ctl.qfmt.getLsbD 8) (h.ctl.qfmt.getLsbD 9) (q j)) ∧
        (scaled → rm ≠ 6 → ∀ code : Nat → Nat,
          (∀ blk, (∃ j, Claim.Active h m j ∧ j / 32 = blk) →
            Claim.BlockCode (if t = 0x11 then 8 else 15) (fun j => (q j).1) (Claim.Active h m) blk (code blk)) →
          Claim.Results (.vqnt v d a r m) s (Claim.Active h m) (Claim.at h v d) w fun j =>
            let c := code (j / 32)
            let e := match (q j).1 with
              | .fin n k x => if c = 0xFF then (p.nanBits, (q j).2.flags)
                else Claim.rounded p rm true (.fin n k (x - ((c : Int) - 127)), (q j).2)
              | _ => (p.nanBits, (q j).2.flags)
            (e.1 + 256 * c, e.2)))

/-- The sum or difference of two elements, in the kind that SEW gives (R318, R319). -/
def Sys2Proof.Claim.sum2 (h : Hart) (sub : Bool) (x y : Nat) : Nat × BitVec 6 :=
  let sew := h.ctl.vtype.toNat % 8
  let w := 2 ^ (sew + 1)
  if sew < 3 then
    let b := (BitVec.ofNat w y).toInt
    ((BitVec.ofInt w ((BitVec.ofNat w x).toInt + if sub then -b else b)).toNat, 0)
  else
    let p := if sew = 3 then bf16 else fp32
    let b := p.decode y
    Claim.rounded p h.ctl.frm.toNat false ((p.decode x).add h.ctl.frm.toNat (if sub then b.negate else b) { seed := 0 })

/-- VHAD (R332): one butterfly at distance 2^k; a partner at or beyond VL reads FILL; its own source as destination, or k above
10, is an illegal operand (R317). -/
def Sys2Proof.Claim.ButterflyForm : Prop :=
  ∀ (s : State) (v : View) (d a : GReg) (k : BitVec 7) (m : MaskUse),
    let h := s.my
    let w := 2 ^ (h.ctl.vtype.toNat % 8 + 1)
    let x := Claim.elem h h.grid v a
    let y (j : Nat) : Nat :=
      let n := j ^^^ 2 ^ k.toNat
      if n < h.ctl.vl then x n else h.ctl.fill.toNat % 2 ^ w
    Claim.Ready s v [d, a] →
      (d ≠ a → k.toNat ≤ 10 → Claim.Completes (.vhad v d a k m) s ∧
        (h.ctl.vtype.toNat % 8 < 3 ∨ h.ctl.frm ≠ 6 →
          Claim.Results (.vhad v d a k m) s (Claim.Active h m) (Claim.at h v d) w fun j =>
            if j.testBit k.toNat then Claim.sum2 h true (y j) (x j) else Claim.sum2 h false (x j) (y j))) ∧
      (d = a ∨ 10 < k.toNat → Traps (.vhad v d a k m) s 0x03 0 4)

/-- The special results of R333's table, before rounding, with the flags they raise; for other operands the reciprocal and the
square root are exact quotients and roots, and every other function is the model's approximation of the real value, close enough
to round as it does (log 19). -/
def Sys2Proof.Claim.function (k : Nat) (a : Machine.Num) : Machine.Num × FState :=
  let f : FState := { seed := 0 }
  let zero (n : Bool) : Machine.Num := .fin n 0 0
  let one (n : Bool) : Machine.Num := .fin n 1 0
  let bad : Machine.Num × FState := (.nan false, f.raise flagNV)
  match a with
  | .nan sig => (.nan false, f.raiseIf sig flagNV)
  | .inf true => match k with
    | 2 => (zero true, f)
    | 5 => (one true, f)
    | 7 => (zero true, f)
    | 8 => (zero true, f)
    | 0 => (zero false, f)
    | 6 => (zero false, f)
    | 11 => (zero false, f)
    | _ => bad
  | .inf false => match k with
    | 2 => (zero false, f)
    | 3 => (zero false, f)
    | 5 => (one false, f)
    | 6 => (one false, f)
    | 9 => bad
    | 10 => bad
    | _ => (.inf false, f)
  | .fin n m e =>
    if m = 0 then
      if k ∈ ([0, 10, 11] : List Nat) then (one false, f)
      else if k = 1 then (.inf true, f.raise flagDZ)
      else if k = 2 ∨ k = 3 then (.inf n, f.raise flagDZ)
      else if k = 6 then (.fin false 1 (-1), f)
      else (zero n, f)
    else if n ∧ k ∈ ([1, 3, 4] : List Nat) then bad
    else if k = 2 then Machine.Num.div (one false) a f
    else if k = 4 then Machine.Num.sqrt a f
    else sfuFinite k n m e f

/-- VSFU (R333): the function's value rounded to nearest even, whatever FRM is; SEW below 16 bits, or k above 11, is an illegal
operand. -/
def Sys2Proof.Claim.FunctionForm : Prop :=
  ∀ (s : State) (v : View) (d a : GReg) (k : BitVec 7) (m : MaskUse),
    let h := s.my
    let sew := h.ctl.vtype.toNat % 8
    let p := if sew = 3 then bf16 else fp32
    Claim.Ready s v [d, a] →
      (3 ≤ sew → k.toNat ≤ 11 →
        Claim.Results (.vsfu v d a k m) s (Claim.Active h m) (Claim.at h v d) (2 ^ (sew + 1)) fun j =>
          Claim.rounded p 1 false (Claim.function k.toNat (p.decode (Claim.elem h h.grid v a j)))) ∧
      (sew < 3 ∨ 11 < k.toNat → Traps (.vsfu v d a k m) s 0x03 0 4)

/-- Where element `n` of a width of its own lies in a row-view group (R80). -/
def Sys2Proof.Claim.narrow (h : Hart) (r : GReg) (w n : Nat) : Nat × Nat :=
  (r.toNat + n / (h.sup.vlcap.toNat / w), w * (n % (h.sup.vlcap.toNat / w)))

/-- A number clamped to a range, with the flags of a clamp (R330, R331). -/
def Sys2Proof.Claim.clamped (w : Nat) (lo hi x : Int) : Nat × BitVec 6 :=
  ((BitVec.ofInt w (max lo (min x hi))).toNat, if x < lo ∨ hi < x then flagOF ||| flagSAT else 0)

/-- VUNPK, VPACK and VNRW (R329 to R331): elements between widths, by the modes of k, in the row view alone; the fields of k
that are illegal operands. -/
def Sys2Proof.Claim.WidthForms : Prop :=
  ∀ (s : State) (v : View) (d a : GReg) (k : BitVec 7) (m : MaskUse),
    let h := s.my
    let sew := h.ctl.vtype.toNat % 8
    let w := 2 ^ (sew + 1)
    let code := k.toNat % 8
    let nw := 2 ^ (code + 1)
    let mode := k.toNat / 8 % 4
    let part := k.toNat / 32
    let sg (w n : Nat) : Int := (BitVec.ofNat w n).toInt
    let beyond := 2 ^ (h.ctl.vtype.toNat / 8) * (h.sup.vlcap.toNat / nw) < (part + 1) * h.ctl.vl
    let f : FState := { seed := 0 }
    let x := Claim.elem h h.grid .row a
    let low (j : Nat) : Nat :=
      let q := Claim.narrow h a nw (part * h.ctl.vl + j)
      (h.grid.rows.get q.1).toNat / 2 ^ q.2 % 2 ^ nw
    let wide (j : Nat) : Nat × BitVec 6 :=
      let p := if sew = 3 then bf16 else fp32
      match mode with
      | 0 => (low j, 0)
      | 1 => ((BitVec.ofInt w (sg nw (low j))).toNat, 0)
      | 2 => Claim.rounded p 1 false ((if code = 2 then e4m3 else bf16).decode (low j), f)
      | _ => Claim.rounded p 1 false (e5m2.decode (low j), f)
    let packed (j : Nat) : Nat × BitVec 6 :=
      match mode with
      | 0 => (x j % 2 ^ nw, 0)
      | 1 => Claim.clamped nw (-2 ^ (nw - 1)) (2 ^ (nw - 1) - 1) (sg w (x j))
      | 2 => Claim.clamped nw 0 (2 ^ nw - 1) (sg w (x j))
      | _ => Claim.rounded bf16 h.ctl.frm.toNat false (fp32.decode (x j), f)
    let n := k.toNat / 8
    let shifted (j : Nat) : Int := (sg w (x j) + if n = 0 then 0 else 2 ^ (n - 1)) / 2 ^ n
    let unpkBad := v ≠ .row ∨ d = a ∨ sew ≤ code ∨ mode = 2 ∧ (code < 2 ∨ code = 3 ∧ sew ≠ 4) ∨ mode = 3 ∧ code ≠ 2 ∨ beyond
    let packBad := v ≠ .row ∨ d = a ∨ sew ≤ code ∨ mode = 3 ∧ ¬(sew = 4 ∧ code = 3) ∨ beyond
    let nrwBad := v ≠ .row ∨ d = a ∨ sew ≤ code
    Claim.Ready s v [d, a] →
      (unpkBad → Traps (.vunpk v d a k m) s 0x03 0 4) ∧ (packBad → Traps (.vpack v d a k m) s 0x03 0 4) ∧
      (nrwBad → Traps (.vnrw v d a k m) s 0x03 0 4) ∧
      (¬unpkBad → Claim.Results (.vunpk v d a k m) s (Claim.Active h m) (Claim.at h .row d) w wide) ∧
      (¬packBad → Claim.Completes (.vpack v d a k m) s ∧ (mode ≠ 3 ∨ h.ctl.frm ≠ 6 →
        Claim.Results (.vpack v d a k m) s (Claim.Active h m) (fun j => Claim.narrow h d nw (part * h.ctl.vl + j)) nw packed)) ∧
      (¬nrwBad → Claim.Results (.vnrw v d a k m) s (Claim.Active h m) (Claim.narrow h d nw) nw fun j =>
        Claim.clamped nw (-2 ^ (nw - 1)) (2 ^ (nw - 1) - 1) (shifted j))

/-- The running sums of R336 before an index: the accumulator, and the flags of the last addition. -/
def Sys2Proof.Claim.running (add : Nat → Nat → Nat × BitVec 6) (x : Nat → Nat) (act starts : Nat → Bool) :
    Nat → Option Nat × BitVec 6
  | 0 => (none, 0)
  | n + 1 =>
    let acc := if starts n then none else (Sys2Proof.Claim.running add x act starts n).1
    if act n then
      match acc with
      | none => (some (x n), 0)
      | some z => (some (add z (x n)).1, (add z (x n)).2)
    else (acc, 0)

/-- VSCAN, VSEGSCAN and VSEGSUM (R336): the running sums from left to right, anew at each bit of the segment mask; VSEGSUM gives
every active element the last sum of its segment. -/
def Sys2Proof.Claim.ScanForms : Prop :=
  ∀ (s : State) (v : View) (d a : GReg) (g : MReg) (m : MaskUse) (act : Nat → Bool),
    let h := s.my
    let w := 2 ^ (h.ctl.vtype.toNat % 8 + 1)
    let seg (j : Nat) : Bool := (h.mask g).getLsbD j
    let out (starts : Nat → Bool) (j : Nat) : Nat × BitVec 6 :=
      let r := Claim.running (Claim.sum2 h false) (Claim.elem h h.grid v a) act starts (j + 1)
      (r.1.getD 0, r.2)
    let gives (i : Instr) (val : Nat → Nat × BitVec 6) : Prop := Claim.Results i s (Claim.Active h m) (Claim.at h v d) w val
    (∀ j, j < h.ctl.vl → (act j = true ↔ Claim.Active h m j)) → Claim.Ready s v [d, a] →
      Claim.Completes (.vscan v d a m) s ∧ Claim.Completes (.vsegscan v d a g m) s ∧ Claim.Completes (.vsegsum v d a g m) s ∧
      (h.ctl.vtype.toNat % 8 < 3 ∨ h.ctl.frm ≠ 6 →
        gives (.vscan v d a m) (out fun _ => false) ∧ gives (.vsegscan v d a g m) (out seg) ∧
        ∀ last : Nat → Nat,
          (∀ j, Claim.Active h m j → Claim.Active h m (last j) ∧ j ≤ last j ∧ (∀ n, j < n → n ≤ last j → seg n = false) ∧
            ∀ n, last j < n → Claim.Active h m n → ∃ q, last j < q ∧ q ≤ n ∧ seg q = true) →
          gives (.vsegsum v d a g m) fun j => ((out seg (last j)).1, (out seg j).2))

/-- How many indices below one satisfy a test. -/
def Sys2Proof.Claim.count (act : Nat → Bool) : Nat → Nat
  | 0 => 0
  | n + 1 => Sys2Proof.Claim.count act n + if act n then 1 else 0

/-- VEXPAND and VCOMPRESS (R339): the c-th active index is matched with element c; without a mask, or with the source for its
destination, each is an illegal operand (R317). -/
def Sys2Proof.Claim.CompressionForms : Prop :=
  ∀ (s : State) (v : View) (d a : GReg) (m : MaskUse) (act : Nat → Bool) (val : Nat → Nat),
    let h := s.my
    let w := 2 ^ (h.ctl.vtype.toNat % 8 + 1)
    let x := Claim.elem h h.grid v a
    (∀ j, j < h.ctl.vl → (act j = true ↔ Claim.Active h m j)) → Claim.Ready s v [d, a] →
      (m = .off ∨ d = a → Traps (.vexpand v d a m) s 0x03 0 4 ∧ Traps (.vcompress v d a m) s 0x03 0 4) ∧
      (m ≠ .off → d ≠ a →
        Claim.Results (.vexpand v d a m) s (Claim.Active h m) (Claim.at h v d) w (fun j => (x (Claim.count act j), 0)) ∧
        ((∀ j, Claim.Active h m j → val (Claim.count act j) = x j) →
          Claim.Results (.vcompress v d a m) s (· < Claim.count act h.ctl.vl) (Claim.at h v d) w fun j => (val j, 0)))

/-- VSPARSE (R340): in each group of G elements the N of largest magnitude are kept, a NaN above every number and a tie going to
the lower index; the others become zero, and the keep bits go to row vd + 1; what is an illegal operand (R317). -/
def Sys2Proof.Claim.SparseForm : Prop :=
  ∀ (s : State) (v : View) (d a : GReg) (k : BitVec 7) (m : MaskUse),
    let h := s.my
    let w := 2 ^ (h.ctl.vtype.toNat % 8 + 1)
    let x := Claim.elem h h.grid .row a
    let many := if k = 0 then 2 else if k = 1 then 4 else 1
    let size := if k = 1 then 8 else 4
    let mag (j : Nat) : Nat :=
      if w < 16 then (BitVec.ofNat w (x j)).toInt.natAbs
      else if ((if w = 16 then bf16 else fp32).decode (x j)).isNan then 2 ^ (w - 1) else x j % 2 ^ (w - 1)
    let beats (i j : Nat) : Bool := decide (mag j < mag i ∨ mag j = mag i ∧ i < j)
    let kept (j : Nat) : Bool :=
      decide (((List.range size).filter fun n => beats (j / size * size + n) j).length < many)
    (m ≠ .off ∨ v ≠ .row ∨ h.ctl.vtype.toNat / 8 ≠ 0 ∨ 2 < k.toNat ∨ h.ctl.vl % size ≠ 0 ∨ d = 63 ∨ d = 127 ∨ a = d + 1 →
      Claim.Ready s v [d, a] → Traps (.vsparse v d a k m) s 0x03 0 4) ∧
    (Claim.Ready s .row [d, a, d + 1] → h.ctl.vtype.toNat / 8 = 0 → k.toNat ≤ 2 → d ≠ 63 → d ≠ 127 → a ≠ d + 1 →
      h.ctl.vl % size = 0 →
      Runs (.vsparse .row d a k .off) s fun t => RegsKept h t.my ∧ t.my.ctl.srseed = h.ctl.srseed ∧ Past s t 0 ∧
        (∀ j, j < h.ctl.vl → Claim.elem h t.my.grid .row d j = (if kept j then x j else 0) ∧
          (t.my.grid.rows.get (d.toNat + 1)).getLsbD j = kept j) ∧
        (0 < h.ctl.vl → t.my.grid.dirty.getLsbD d.toNat = true ∧ t.my.grid.dirty.getLsbD (d.toNat + 1) = true) ∧
        Claim.GridKept h.grid t.my.grid fun n b => n = d.toNat ∧ b < w * h.ctl.vl ∨ n = d.toNat + 1 ∧ b < h.ctl.vl)

/-- The other operations that write a destination group (R326 to R333, R336, R339, R340): the value of every element, the flags,
the frame, and the operands that trap. -/
def Obligations.VectorRemainingForms : Prop :=
  Claim.ConversionForm ∧ Claim.QuantisationForm ∧ Claim.ButterflyForm ∧ Claim.FunctionForm ∧ Claim.WidthForms ∧
  Claim.ScanForms ∧ Claim.CompressionForms ∧ Claim.SparseForm

/-- The mask operations (R325) and the compares (R324): the bits below VL, or of the active elements, have their values, and
every other bit of every mask register, every row and register is as it was; a destination m0 is an illegal operand. -/
def Obligations.MaskForms : Prop :=
  ∀ (s : State) (w : View) (d p q : MReg) (a b : GReg) (m : MaskUse) (c : BitVec 4),
    let h := s.my
    let width := 2 ^ (h.ctl.vtype.toNat % 8 + 1)
    let x := Claim.elem h h.grid w a
    let y := Claim.elem h h.grid w b
    let sg (n : Nat) : Int := (BitVec.ofNat width n).toInt
    let writes (i : Instr) (fl : BitVec 6 → Prop) (on : Nat → Prop) (bit : Nat → Prop) : Prop :=
      Runs i s fun t => RegsKept h t.my ∧ (∃ f, fl f ∧ Past s t f) ∧ t.my.ctl.srseed = h.ctl.srseed ∧
        t.my.grid = { h.grid with masks := t.my.grid.masks } ∧ (∀ k, k ≠ d → t.my.mask k = h.mask k) ∧
        ∀ j, j < 8192 → (on j → ((t.my.mask d).getLsbD j = true ↔ bit j)) ∧
          (¬on j → (t.my.mask d).getLsbD j = (h.mask d).getLsbD j)
    let below (j : Nat) : Prop := j < h.ctl.vl
    let sets (i : Instr) (bit : Nat → Prop) : Prop := writes i (· = 0) below bit
    (h.missingHalf = none → h.long = none →
      (d = 0 → Traps (.vmand d p q) s 0x03 0 4 ∧ Traps (.vmor d p q) s 0x03 0 4 ∧ Traps (.vmxor d p q) s 0x03 0 4 ∧
        Traps (.vmnot d p) s 0x03 0 4) ∧
      (d ≠ 0 →
        sets (.vmand d p q) (fun j => (h.mask p).getLsbD j = true ∧ (h.mask q).getLsbD j = true) ∧
        sets (.vmor d p q) (fun j => (h.mask p).getLsbD j = true ∨ (h.mask q).getLsbD j = true) ∧
        sets (.vmxor d p q) (fun j => (h.mask p).getLsbD j ≠ (h.mask q).getLsbD j) ∧
        sets (.vmnot d p) (fun j => (h.mask p).getLsbD j = false))) ∧
    (Claim.Ready s w [a] → d = 0 → Traps (.vmfrom w d a m) s 0x03 0 4) ∧
    (Claim.Ready s w [a, b] → d = 0 → Traps (.vcmp w c d a b m) s 0x03 0 4) ∧
    (Claim.Ready s w [a] → d ≠ 0 → writes (.vmfrom w d a m) (· = 0) (Claim.Active h m) (fun j => x j ≠ 0)) ∧
    (Claim.Ready s w [a, b] → d ≠ 0 →
      let cmp (n : BitVec 4) (f : Nat → Prop) : Prop := c = n → writes (.vcmp w c d a b m) (· = 0) (Claim.Active h m) f
      cmp 0 (fun j => x j = y j) ∧ cmp 1 (fun j => x j ≠ y j) ∧ cmp 2 (fun j => sg (x j) < sg (y j)) ∧
      cmp 3 (fun j => sg (y j) ≤ sg (x j)) ∧ cmp 4 (fun j => x j < y j) ∧ cmp 5 (fun j => y j ≤ x j) ∧
      (c = 6 ∨ c = 7 ∨ c = 15 → Traps (.vcmp w c d a b m) s 0x03 0 4) ∧
      (8 ≤ c.toNat → c ≠ 15 → h.ctl.vtype.toNat % 8 < 3 → Traps (.vcmp w c d a b m) s 0x03 0 4) ∧
      (8 ≤ c.toNat → c ≠ 15 → 3 ≤ h.ctl.vtype.toNat % 8 →
        let fp := if h.ctl.vtype.toNat % 8 = 3 then bf16 else fp32
        let u (j : Nat) := fp.decode (x j)
        let v (j : Nat) := fp.decode (y j)
        let bit (j : Nat) : Bool :=
          match c with
          | 8 => (u j).eq (v j)
          | 9 => !(u j).eq (v j)
          | 10 => (u j).lt (v j)
          | 11 => (u j).lt (v j) || (u j).eq (v j)
          | 12 => (v j).lt (u j)
          | 13 => (v j).lt (u j) || (u j).eq (v j)
          | _ => (u j).isNan || (v j).isNan
        let invalid (j : Nat) : Bool :=
          if c = 8 ∨ c = 9 ∨ c = 14 then (u j).isSig || (v j).isSig else (u j).isNan || (v j).isNan
        writes (.vcmp w c d a b m)
          (fun f => f = flagNV ∧ (∃ j, Claim.Active h m j ∧ invalid j = true) ∨
            f = 0 ∧ ∀ j, Claim.Active h m j → invalid j = false)
          (Claim.Active h m) (fun j => bit j = true)))

/-- The sum of a function of the elements below VL that are active. -/
def Sys2Proof.Claim.total (p : Nat → Bool) (f : Nat → Int) : Nat → Int
  | 0 => 0
  | n + 1 => Sys2Proof.Claim.total p f n + if p n then f n else 0

/-- The tree of R334: the node of a level and place, with the flags raised below it; a missing neighbour passes the other on. -/
def Sys2Proof.Claim.node (comb : Nat → Nat → Nat × BitVec 6) (leaf : Nat → Option Nat) : Nat → Nat → Option Nat × BitVec 6
  | 0, i => (leaf i, 0)
  | n + 1, i =>
    let x := Sys2Proof.Claim.node comb leaf n (2 * i)
    let y := Sys2Proof.Claim.node comb leaf n (2 * i + 1)
    match x.1, y.1 with
    | none, _ => (y.1, x.2 ||| y.2)
    | _, none => (x.1, x.2 ||| y.2)
    | some p, some q => (some (comb p q).1, x.2 ||| y.2 ||| (comb p q).2)

/-- Operations from the grid or a mask into a scalar register: VMPOPC and VMFIRST (R325), VEXT (R335) and the reductions (R334).
In an integer kind a sum is exact, the others are the extreme of the active elements, and with none active the identity. In a
float kind the tree of R334 combines them, a NaN result is canonical, and a NaN operand sets NV, quiet or alone as it may be: so
the model reads the rule's words (log 85). -/
def Obligations.VectorToScalarForms : Prop :=
  ∀ (s : State) (w : View) (d : SReg) (a : GReg) (x : SReg) (k : MReg) (m : MaskUse),
    let h := s.my
    let sew := h.ctl.vtype.toNat % 8
    let width := 2 ^ (sew + 1)
    let e := Claim.elem h h.grid w a
    let sg (n : Nat) : Int := (BitVec.ofNat width n).toInt
    let n := (h.rx x).toNat
    let read := if n < h.ctl.vl then e n else h.ctl.fill.toNat % 2 ^ width
    (h.missingHalf = none → h.long = none →
      Gives (.vmpopc d k) s d (BitVec.ofNat 64 (Claim.ones (h.mask k).toNat h.ctl.vl)) ∧
      ((∀ j, j < h.ctl.vl → (h.mask k).getLsbD j = false) → Gives (.vmfirst d k) s d (BitVec.allOnes 64)) ∧
      ∀ j, j < h.ctl.vl → (h.mask k).getLsbD j = true → (∀ i, i < j → (h.mask k).getLsbD i = false) →
        Gives (.vmfirst d k) s d (BitVec.ofNat 64 j)) ∧
    (Claim.Ready s w [a] →
      Gives (.vext w d a x .off) s d (if 3 ≤ sew then BitVec.ofNat 64 read else BitVec.ofInt 64 (sg read)) ∧
      (m ≠ .off → Traps (.vext w d a x m) s 0x03 0 4) ∧
      (sew < 3 →
        let on (f : Int) (p : Int → Int → Prop) (v : Nat → Int) (i : Instr) : Prop :=
          (∀ r : Int, (∃ j, Claim.Active h m j ∧ v j = r) → (∀ j, Claim.Active h m j → p (v j) r) →
            Gives i s d (BitVec.ofInt 64 r)) ∧
          ((∀ j, ¬Claim.Active h m j) → Gives i s d (BitVec.ofInt 64 f))
        (∀ act : Nat → Bool, (∀ j, j < h.ctl.vl → (act j = true ↔ Claim.Active h m j)) →
          Gives (.vredsum w d a m) s d (BitVec.ofInt 64 (Claim.total act (fun j => sg (e j)) h.ctl.vl))) ∧
        on (-2 ^ (width - 1)) (· ≤ ·) (fun j => sg (e j)) (.vredmax w d a m) ∧
        on (2 ^ (width - 1) - 1) (· ≥ ·) (fun j => sg (e j)) (.vredmin w d a m) ∧
        on 0 (· ≤ ·) (fun j => (sg (e j)).natAbs) (.vredamax w d a m)) ∧
      (3 ≤ sew → h.ctl.frm ≠ 6 → ∀ n, h.ctl.vl ≤ 2 ^ n → (∀ k, h.ctl.vl ≤ 2 ^ k → n ≤ k) → ∀ leaf : Nat → Option Nat,
        (∀ j, (Claim.Active h m j → leaf j = some (e j)) ∧ (¬Claim.Active h m j → leaf j = none)) →
        let p := if sew = 3 then bf16 else fp32
        let rm := h.ctl.frm.toNat
        let f : FState := { seed := 0 }
        let sum (x y : Nat) := Claim.rounded p rm false ((p.decode x).add rm (p.decode y) f)
        let extreme (greater : Bool) (x y : Nat) := Claim.rounded p rm false (numMin greater (p.decode x) (p.decode y) f)
        let amax (x y : Nat) : Nat × BitVec 6 :=
          if (p.decode x).isNan ∨ (p.decode y).isNan then (p.nanBits, 0) else (if (p.decode x).lt (p.decode y) then y else x, 0)
        let gives (i : Instr) (leaf : Nat → Option Nat) (comb : Nat → Nat → Nat × BitVec 6) (identity : Nat) : Prop :=
          let r := Claim.node comb leaf n 0
          let v := r.1.getD identity
          ∃ nan : BitVec 6, (nan = flagNV ∧ (∃ j, Claim.Active h m j ∧ (p.decode (e j)).isNan = true) ∨
            nan = 0 ∧ ∀ j, Claim.Active h m j → (p.decode (e j)).isNan = false) ∧
          Runs i s fun t => OnlyReg h t.my d (BitVec.ofNat 64 (if (p.decode v).isNan then p.nanBits else v)) ∧
            t.my.grid = h.grid ∧ t.my.ctl.srseed = h.ctl.srseed ∧ Past s t (r.2 ||| nan)
        let inf := p.emax * 2 ^ p.mbits
        gives (.vredsum w d a m) leaf sum 0 ∧ gives (.vredmax w d a m) leaf (extreme true) (inf + 2 ^ (width - 1)) ∧
        gives (.vredmin w d a m) leaf (extreme false) inf ∧
        gives (.vredamax w d a m) (fun j => (leaf j).map (· % 2 ^ (width - 1))) amax 0) ∧
      (3 ≤ sew → ∀ i, i ∈ ([.vredsum w d a m, .vredmax w d a m, .vredmin w d a m, .vredamax w d a m] : List Instr) →
        ∃ v fl, Runs i s fun t => OnlyReg h t.my d v ∧ t.my.grid = h.grid ∧ Past s t fl))

/-! ## Vector loads and stores (spec/10) -/

/-- The bit address of element `j` of a unit-stride, strided or indexed access of raw elements, w bits wide (R259, R80). -/
def Sys2Proof.Claim.unit (s : State) (a : SReg) (imm : Int) (w j : Nat) : Nat :=
  (8 * (((s.my.rx a).toNat + (BitVec.ofInt 64 imm).toNat) % 2 ^ 64) + j * w) % 2 ^ 67

/-- A vector access of elements at bit addresses: legal, its rows free, nothing of the fabric outstanding, and every range that
it meets raw (R257). The context has its registers on its core. -/
def Sys2Proof.Claim.Plain (s : State) (space : Nat) (v : GReg) (m : MaskUse) (addr : Nat → Nat) : Prop :=
  let w := 2 ^ (s.my.ctl.vtype.toNat % 8 + 1)
  Claim.Ready s .row [v] ∧ s.flights = [] ∧ s.me.active = true ∧ (s.my.handler = true → s.my.level ≠ .u) ∧
  ∀ c e, s.rangeAt space c = some e →
    c = addr 0 / 8 ∨ (∃ j, Claim.Active s.my m j ∧ (c = addr j / 8 ∨
      ∃ k, k < addr j % 8 + w ∧ c = (addr j / 8 + k / 8) % 2 ^ 64 / 64 * 64)) → e.fmt = 0 ∧ e.comp = none

/-- The elements that a masked vector operation visits, in increasing order (R139, R319). -/
def Sys2Proof.Claim.visited (h : Hart) (m : MaskUse) : List Nat := (h.capture m 1 0).actives h.grid 0

/-- VLD, VLDS and VLDX of raw elements (R257 to R259, R135): where every block translates and answers, each active element is the
bits at its address, and nothing else of the grid, no register, flag or byte of storage changes. -/
def Obligations.VectorLoadForms : Prop :=
  ∀ (s : State) (p : Space) (v x : GReg) (a b : SReg) (imm : BitVec 17) (m : MaskUse),
    let h := s.my
    let w := 2 ^ (h.ctl.vtype.toNat % 8 + 1)
    let loads (i : Instr) (addr : Nat → Nat) : Prop :=
      Claim.Plain s (spaceNum p) v m addr →
      let reqs := joinReqs ((Claim.visited h m).flatMap fun j => spanReqs (addr j / 8) ((addr j % 8 + w + 7) / 8))
      let y := s.translate (spaceNum p) .load reqs
      Claim.Clear s y → y.fails = [] → (∀ q ∈ y.pieces, ∃ blk, s.homeRead true q.loc = .ok blk) →
      Runs i s fun t => RegsKept h t.my ∧ Claim.Accessed s t 0 ∧ Claim.Stored s t ∧
        (∀ j, Claim.Active h m j →
          Claim.Bits s y.pieces (addr j) w (Claim.elem h t.my.grid .row v j)) ∧
        t.my.grid.masks = h.grid.masks ∧ (∀ n, Claim.Free t.my n ↔ Claim.Free h n) ∧
        ∀ n c, (∀ j, Claim.Active h m j → ¬(n = (Claim.at h .row v j).1 ∧ (Claim.at h .row v j).2 ≤ c ∧
            c < (Claim.at h .row v j).2 + w)) →
          (t.my.grid.rows.get n).getLsbD c = (h.grid.rows.get n).getLsbD c
    loads (.vld p v a imm m) (Claim.unit s a imm.toInt w)  ∧
    (1 < h.ctl.vtype.toNat % 8 →
      loads (.vlds p v a b m)
        (fun j => 8 * (((h.rx a).toNat + j * (h.rx b).toNat) % 2 ^ 64)) ∧
      ((∀ n, n < (h.ctl.vl + 63) / 64 → (x.toNat + n) / 64 = x.toNat / 64 ∧ Claim.Free h (x.toNat + n) ∧
          Claim.Sound h (x.toNat + n)) →
        loads (.vldx p v a x m)
          (fun j => 8 * (((h.rx a).toNat +
            ((BitVec.ofNat 32 ((h.grid.rows.get (x.toNat + j / 64)).toNat / 2 ^ (32 * (j % 64)))).signExtend 64).toNat) % 2 ^ 64))))

/-- VST, VSTS and VSTX of raw elements, VSTB and VSPILL (R257 to R261, R264): where every block translates and answers, the
storage under their elements has the elements' bits, a later element over an earlier one (R260), every other byte reads as
before, and no register, flag or grid row changes. -/
def Obligations.VectorStoreForms : Prop :=
  ∀ (s : State) (p : Space) (v x : GReg) (a b : SReg) (imm : BitVec 17) (k : MReg) (g : BitVec 2) (m : MaskUse),
    let h := s.my
    let w := 2 ^ (h.ctl.vtype.toNat % 8 + 1)
    let stores (i : Instr) (reqs : List Req) (more : List Piece → State → Prop) : Prop :=
      let y := s.translate (spaceNum p) .store reqs
      Claim.Clear s y → y.fails = [] → Claim.Answers s true y.pieces →
      Runs i s fun t => RegsKept h t.my ∧ t.my.grid = h.grid ∧ Claim.Accessed s t 0 ∧ Claim.Writes s t true y.pieces ∧
        more y.pieces t
    let elements (i : Instr) (addr : Nat → Nat) : Prop :=
      Claim.Plain s (spaceNum p) v m addr →
      stores i (joinReqs ((Claim.visited h m).flatMap fun j => elemReqs (addr j) w (Claim.elem h h.grid .row v j)))
        fun ps t => ∀ j, Claim.Active h m j →
          (∀ l, Claim.Active h m l → j < l → addr l + w ≤ addr j ∨ addr j + w ≤ addr l) →
          Claim.Bits t ps (addr j) w (Claim.elem h h.grid .row v j)
    elements (.vst p v a imm m) (Claim.unit s a imm.toInt w) ∧
    (1 < h.ctl.vtype.toNat % 8 →
      elements (.vsts p v a b m) (fun j => 8 * (((h.rx a).toNat + j * (h.rx b).toNat) % 2 ^ 64)) ∧
      ((∀ n, n < (h.ctl.vl + 63) / 64 → (x.toNat + n) / 64 = x.toNat / 64 ∧ Claim.Free h (x.toNat + n) ∧
          Claim.Sound h (x.toNat + n)) →
        elements (.vstx p v a x m)
          (fun j => 8 * (((h.rx a).toNat +
            ((BitVec.ofNat 32 ((h.grid.rows.get (x.toNat + j / 64)).toNat / 2 ^ (32 * (j % 64)))).signExtend 64).toNat) % 2 ^ 64)))) ∧
    (h.missingHalf = none → h.long = none →
      (Claim.Free h v.toNat → Claim.Sound h v.toNat →
        let byte (j : Nat) : Nat := (h.grid.rows.get v.toNat).toNat / 2 ^ (8 * j) % 256
        stores (.vstb p v a k)
          (joinReqs (((List.range 256).filter fun j => (h.mask k).getLsbD j).flatMap fun j =>
            storeReqs (((h.rx a).toNat + j) % 2 ^ 64) 1 (byte j)))
          fun ps t => ∀ j, j < 256 → (h.mask k).getLsbD j = true →
            Claim.Byte t true ps (((h.rx a).toNat + j) % 2 ^ 64) (byte j)) ∧
      (v.toNat % 2 ^ g.toNat ≠ 0 → s.my.wait = .none → Traps (.vspill p v a g) s 0x03 0 4) ∧
      (v.toNat % 2 ^ g.toNat = 0 → (∀ n, n < 2 ^ g.toNat → Claim.Free h (v.toNat + n) ∧ Claim.Sound h (v.toNat + n)) →
        let n := min h.ctl.vl (2 ^ g.toNat * (h.sup.vlcap.toNat / w))
        let frame := n + h.ctl.vtype.toNat % 8 * 2 ^ 32 + g.toNat * 2 ^ 35 + h.sup.vlcap.toNat * 2 ^ 40 +
          2 ^ 128 * ((List.range n).map fun j => Claim.elem h h.grid .row v j * 2 ^ (j * w)).sum
        let size := 16 + (n * w + 7) / 8
        stores (.vspill p v a g) (storeReqs (h.rx a).toNat size frame)
          fun ps t => ∀ j, j < size → Claim.Byte t true ps (((h.rx a).toNat + j) % 2 ^ 64) (frame / 256 ^ j % 256)))

/-- VSTVA of raw elements (R266, R118): each block performs at its home at the time in t. -/
def Obligations.VectorTimedStore : Prop :=
  ∀ (s : State) (v : GReg) (a t : SReg) (m : MaskUse),
    let h := s.my
    let w := 2 ^ (h.ctl.vtype.toNat % 8 + 1)
    let time := (h.rx t).toNat
    let addr := Claim.unit s a 0 w
    let x := s.translate 0 .store
      (joinReqs ((Claim.visited h m).flatMap fun j => elemReqs (addr j) w (Claim.elem h h.grid .row v j)))
    Claim.Plain s 0 v m addr →
    (h.wait = .none → (s.die (s.cur / 96)).atime.toNat + 2 ^ 30 < time → Traps (.vstva v a t m) s 0x03 0 4) ∧
    (Claim.Clear s x → x.fails = [] → time ≤ (s.die (s.cur / 96)).atime.toNat + 2 ^ 30 → h.pend < 4096 →
      (∀ p ∈ x.pieces, ∀ d, p.loc.die = some d → (s.die d).held.length + x.pieces.length ≤ 4096) →
      Claim.StoresAt (.vstva v a t m) s time x)

/-- VFILL and VLDC (R262, R263, R265), where every block translates and answers: VFILL puts the elements of a valid frame back
and changes no row outside its group; VLDC writes what the groups of the stream stand for, VL := their count, sb := the bytes
consumed, with bit 63 for a malformed group, and changes no row outside its group. -/
def Sys2Proof.Claim.FrameAndStream : Prop :=
  ∀ (s : State) (p : Space) (v : GReg) (a b : SReg) (g : BitVec 2) (bytes : Nat → Nat),
    let h := s.my
    let ea := (h.rx a).toNat
    let cap := h.sup.vlcap.toNat
    let reads (n : Nat) : Prop :=
      let x := s.translate (spaceNum p) .load (spanReqs ea n)
      Claim.Clear s x ∧ x.fails = [] ∧ ∀ k, k < n → Claim.Byte s true x.pieces ((ea + k) % 2 ^ 64) (bytes k)
    let near (n : Nat) : Prop := ∀ q ∈ (s.translate (spaceNum p) .load (spanReqs ea n)).pieces,
      s.nearBy s.cur q.loc = true ∧ ∀ f : Flight, f.owner = h.sup.owner.toNat → s.heldBack f q = false
    s.delay = false → s.flights = [] → h.missingHalf = none → h.long = none → s.me.active = true →
    (h.handler = true → h.level ≠ .u) → (∀ n, n < 2 ^ g.toNat → Claim.Free h (v.toNat + n)) →
    (v.toNat % 2 ^ g.toNat ≠ 0 → Traps (.vfill p v a g) s 0x03 0 4) ∧
    (∀ n sew, v.toNat % 2 ^ g.toNat = 0 → cap ∈ ([256, 512, 1024, 2048] : List Nat) → sew ≤ 4 →
      n ≤ 2 ^ g.toNat * (cap / 2 ^ (sew + 1)) →
      Claim.value bytes 16 = n + sew * 2 ^ 32 + g.toNat * 2 ^ 35 + cap * 2 ^ 40 →
      let w := 2 ^ (sew + 1)
      reads 16 → reads (16 + (n * w + 7) / 8) → near (16 + 2 ^ g.toNat * (cap / 8)) →
      Runs (.vfill p v a g) s fun t => RegsKept h t.my ∧ Claim.Accessed s t 0 ∧ Claim.Stored s t ∧
        t.my.grid.masks = h.grid.masks ∧
        (∀ k, k < n → (t.my.grid.rows.get (v.toNat + k / (cap / w))).toNat / 2 ^ (w * (k % (cap / w))) % 2 ^ w =
          Claim.value bytes (16 + (n * w + 7) / 8) / 2 ^ (128 + k * w) % 2 ^ w) ∧
        ∀ r c, r < v.toNat ∨ v.toNat + 2 ^ g.toNat ≤ r ∨ cap ≤ c →
          (t.my.grid.rows.get r).getLsbD c = (h.grid.rows.get r).getLsbD c) ∧
    (let bound := min (h.rx b).toNat 4096
     let room := 2 ^ (h.ctl.vtype.toNat / 8) * (cap / 32)
     let r := dbpDecode (fun o n => some (Claim.value (fun k => bytes (o + k)) n)) bound room 700 0 []
     Claim.Ready s .row [v] → h.ctl.vtype.toNat % 8 = 4 →
     (∀ c e, s.rangeAt (spaceNum p) c = some e → e.fmt = 0 ∨ e.fmt = 0x13) → reads bound →
     Runs (.vldc p v a b) s fun t =>
       let g := { h with ctl := { h.ctl with vl := r.vals.length } }
       Claim.Around s t ∧ Claim.Stored s t ∧ HartKept h t.my ∧
       t.my.pc = (g.advance h.pc none).1.pc ∧ t.my.loops = (g.advance h.pc none).1.loops ∧
       t.my.ctl = (g.advance h.pc none).1.ctl ∧
       OnlyReg h t.my b (BitVec.ofNat 64 (r.off + r.flags)) ∧
       t.my.grid.masks = h.grid.masks ∧
       (∀ k x, r.vals[k]? = some x →
         (t.my.grid.rows.get (v.toNat + k / (cap / 32))).toNat / 2 ^ (32 * (k % (cap / 32))) % 2 ^ 32 = x.toNat) ∧
       ∀ r, ¬Claim.inRows h .row v r → t.my.grid.rows.get r = h.grid.rows.get r)

/-- While a VLDC of the hart has still to decode, a bundle that uses its results stalls (R263), unless a cause that is found at
decode traps without waiting (R174): one that reads or writes VL, as a GETC of it or a vector operation whose operands are legal
does, one that names its sb, and one that ends a pass of a VLOOP. -/
def Sys2Proof.Claim.DecodeHolds : Prop :=
  ∀ s : State,
    (∀ i : Instr, i.isStep = false → s.mustDecode [(0, i)] = true → Stalls i s) ∧
    ∀ f row n cap ea bound reg, f ∈ s.flights → f.land = .decode row n cap ea bound reg →
      f.ofCtx s.cur s.my.sup.owner.toNat s.my.sup.saveptr.toNat = true →
      ∀ (d x : SReg) (v : View) (a b c : GReg) (m : MaskUse), Stalls (.getc d 0x000) s ∧
        (s.my.missingHalf = none → s.my.popa = none → s.my.pvec = none → (∀ r ∈ [a, b, c], Claim.Legal s.my v r) →
          Stalls (.vadd v a b c m) s) ∧
        (reg ≠ 0 → Stalls (.add reg d x) s ∧ Stalls (.add d reg x) s ∧ Stalls (.add d x reg) s) ∧
        (∀ e ∈ s.my.loops, e.vloop = true → e.last = s.my.pc → Stalls .nop s)

/-- VFILL and VLDC, and the wait for what a VLDC decodes (R262, R263, R265). -/
def Obligations.FrameAndStreamLoads : Prop := Claim.FrameAndStream ∧ Claim.DecodeHolds

/-! ## Streams, copies, ranges, time and tasks (spec/11) -/

/-- A bundle has committed that may have filled the range cache (R24): storage, the other cores, the dies and the package's units
are as they were, and the hart is the changed one with the end of the bundle applied. -/
def Sys2Proof.Claim.ChangesWith (i : Instr) (s : State) (f : Hart → Hart) : Prop :=
  Runs i s fun t => Claim.Around s t ∧ Claim.Stored s t ∧
    t.my = { ((f s.my).advance s.my.pc none).1 with wait := .none, ewait := .none, passed := none, interval := t.my.interval }

/-- A bundle has committed as one of NOPs does, but for parts of the machine that the instruction itself changes: `core` says what
the running core's record is beside its hart and blocked-state records. -/
def Sys2Proof.Claim.Ends (s t : State) (f : Hart → Hart) (core : Core → Core) : Prop :=
  t.mem = s.mem ∧ t.flights = s.flights ∧ t.link = s.link ∧ t.ptp = s.ptp ∧ t.master = s.master ∧ t.kept = s.kept ∧
  t.cur = s.cur ∧
  (∀ k, k ≠ s.cur → t.core k = s.core k) ∧ CoreKept (core s.me) t.me ∧
  t.my = { ((f s.my).advance s.my.pc none).1 with wait := .none, ewait := .none, passed := none, interval := t.my.interval }

/-- The words of a structure that an instruction reads (R268): every block of them translates, is in view of the core (R102) and
answers. -/
def Sys2Proof.Claim.Structure (s : State) (ea : Word) (n : Nat) (words : List Word) : Prop :=
  let x := s.translate 0 .load (spanReqs ea.toNat (8 * n))
  s.my.passed = none ∧ s.flights = [] ∧ x.moving = false ∧ x.held = none ∧ x.nonres = none ∧ x.fails = [] ∧
  (∀ p ∈ x.pieces, s.inView s.cur p.loc = true) ∧
  ∃ bytes : Nat → Nat, (∀ k, k < 8 * n → Claim.Byte s true x.pieces ((ea.toNat + k) % 2 ^ 64) (bytes k)) ∧
    words = (List.range n).map fun j => BitVec.ofNat 64 (Claim.value (fun k => bytes (8 * j + k)) 8)

/-- SBIND (R269): a bound queue, a record that is not 32-byte aligned, an invalid record and a reserved format trap; otherwise the
queue is bound afresh to the record as read, and FILL is captured (R99). A binding in a ring may name its partner, or be marked
as one that stays unpaired (R276). That the trap for a reserved format names the record's address is the model's choice (log
40). -/
def Obligations.StreamBinding : Prop :=
  ∀ (s : State) (a : SReg) (r : BitVec 1) (q : QReg) (rcd : List Word),
    let ea := s.my.rx a
    let fresh : Queue :=
      { bind := r.toNat + 1, rcd := rcd, fill := s.my.ctl.fill, pc := s.my.pc, slot := 0, cluster := clusterOf s.cur }
    ((s.my.queue q.toNat).bind ≠ 0 ∨ ea.toNat % 32 ≠ 0 → Traps (.sbind a r q) s 0x03 0 4) ∧
    ((s.my.queue q.toNat).bind = 0 → ea.toNat % 32 = 0 → Claim.Structure s ea 12 rcd →
      (recInvalid rcd = true → Traps (.sbind a r q) s 0x0B ea 4) ∧
      (recInvalid rcd = false → fmtReserved (recFmt rcd) = true → Traps (.sbind a r q) s 0x0E ea 4) ∧
      (recInvalid rcd = false → fmtReserved (recFmt rcd) = false →
        (Runs (.sbind a r q) s fun t => RegsKept s.my t.my ∧
          t.my.queue q.toNat = { fresh with partner := (t.my.queue q.toNat).partner, cluster := (t.my.queue q.toNat).cluster } ∧
          ((t.my.queue q.toNat).cluster = clusterOf s.cur ∨ (t.my.queue q.toNat).cluster = 32)) ∧
        (recRing rcd = false → Claim.ChangesWith (.sbind a r q) s (·.modQueue q.toNat fun _ => fresh))))

/-- SUNBIND, SSTAT, SSKIP and SFLUSH (R272 to R275, R142): a claimed queue is waited for; SUNBIND leaves the queue unbound and its
pushed entries to be written; SSTAT gives the state word; SSKIP and SFLUSH of an unbound queue trap with 0x15; SFLUSH waits for
what the queue, and the context before a switch-out, has still to write. The model's choices: what SUNBIND leaves goes on (log
32), SSKIP takes an unsettled format at BASE (log 40), and it waits for a claim (log 41). -/
def Obligations.StreamControl : Prop :=
  ∀ (s : State) (d a : SReg) (q : QReg),
    let b := s.my.queue q.toNat
    let n := (s.my.rx a).toNat
    (b.claim = true → Stalls (.sunbind q) s) ∧
    (b.claim = false → b.partner = none → Runs (.sunbind q) s fun t =>
      Claim.Ends s t (·.modQueue q.toNat fun _ => {}) (fun c => { c with left := s.me.left ++ s.my.leftOf b }) ∧
      t.dies = s.dies ∧ t.harbour = s.harbour ∧ t.ranges = s.ranges) ∧
    (b.entries.length ≤ 16 → b.bind ≤ 2 → ∃ v : Word, Gives (.sstat d q) s d v ∧ v.toNat % 4 = b.bind ∧
      v.getLsbD 2 = (b.bind != 0 && recRing b.rcd) ∧ v.getLsbD 3 = (s.partnerOf b).isSome ∧
      v.getLsbD 4 = (b.bind != 0 && walkDone b.rcd b.win) ∧ v.getLsbD 5 = b.claim ∧ v.getLsbD 6 = b.fault.isSome ∧
      v.toNat / 2 ^ 7 % 2 ^ 9 = b.entries.length ∧ v.toNat / 2 ^ 16 = b.count.toNat % 2 ^ 32) ∧
    (b.bind = 0 → Traps (.sskip a q) s 0x15 (BitVec.ofNat 64 q.toNat) 4 ∧ Traps (.sflush q) s 0x15 (BitVec.ofNat 64 q.toNat) 4) ∧
    (b.bind ≠ 0 → b.claim = true → Stalls (.sskip a q) s) ∧
    (b.bind ≠ 0 → b.claim = false → n = 0 → Changes (.sskip a q) s id 0) ∧
    (∀ f, b.bind ≠ 0 → b.claim = false → n ≠ 0 → s.queueFmt (s.streamWho s.cur) b = .ok f →
      Changes (.sskip a q) s (·.modQueue q.toNat (·.skip f n)) 0) ∧
    (b.bind = 2 → b.entries ≠ [] ∨ s.leavings (s.who s.cur) = true → Stalls (.sflush q) s) ∧
    (b.bind = 2 → b.entries = [] → s.leavings (s.who s.cur) = false → Changes (.sflush q) s id 0) ∧
    (b.bind = 1 → Changes (.sflush q) s (·.modQueue q.toNat (·.refetch)) 0)

/-- VPOP and VPUSH (R142, R270, R271, R341, R342): VPOP delivers the oldest entry to the active elements and removes it; VPUSH
puts a row's 256 bytes behind the entries of a store queue; a queue that is not bound that way traps with 0x15. -/
def Obligations.QueuePopAndPush : Prop :=
  ∀ (s : State) (w : View) (d a : GReg) (q : QReg) (m : MaskUse),
    let h := s.my
    let b := h.queue q.toNat
    let width := 2 ^ (h.ctl.vtype.toNat % 8 + 1)
    (Claim.Ready s w [d] → h.ctl.vtype.toNat / 8 = 0 →
      (b.bind ≠ 1 → Traps (.vpop w d q m) s 0x15 (BitVec.ofNat 64 q.toNat) 4) ∧
      (b.bind = 1 → b.claim = true → Stalls (.vpop w d q m) s) ∧
      ∀ e rest, b.bind = 1 → b.claim = false → b.entries = e :: rest →
        Runs (.vpop w d q m) s fun t => RegsKept h t.my ∧ OutsideKept s t ∧ CoreKept s.me t.me ∧ BundleEnds h t.my 0 ∧
          t.my.queue q.toNat = { b with entries := rest, count := b.count + 1 } ∧
          (∀ k, k ≠ q.toNat → t.my.queue k = h.queue k) ∧
          (∀ j, Claim.Active h m j → Claim.elem h t.my.grid w d j = e.data.toNat / 2 ^ (width * j) % 2 ^ width) ∧
          Claim.GridKept h.grid t.my.grid (fun n _ => Claim.inRows h w d n)) ∧
    (h.missingHalf = none → h.long = none → Claim.Free h a.toNat → Claim.Sound h a.toNat →
      (m ≠ .off → Traps (.vpush q a m) s 0x03 0 4) ∧
      (b.bind ≠ 2 → Traps (.vpush q a .off) s 0x15 (BitVec.ofNat 64 q.toNat) 4) ∧
      ∀ f x es, h.passed = none → b.bind = 2 → b.partner = none → b.entries.length < 16 → walkDone b.rcd b.win = false →
        s.examine (s.streamWho s.cur) b true (b.win, b.pos) (writeReqs (h.grid.rows.get a.toNat)) = .ready f x es →
        s.strictError (streamFlight (s.streamWho s.cur) b .write clsQW x) = none →
        Changes (.vpush q a .off) s (fun g => g.modQueue q.toNat fun r =>
          { r with fmt := some f, entries := r.entries ++ [⟨r.win, r.pos, h.grid.rows.get a.toNat, r.count.toNat⟩],
                   win := (nextPlace r.rcd f (r.win, r.pos)).1, pos := (nextPlace r.rcd f (r.win, r.pos)).2,
                   count := r.count + 1 }) 0)

/-- CPY (R277, R99, R76): a command block that is not 128-byte aligned traps; otherwise the copy waits in the lowest free slot with
what it captures, sd has the ticket, and SRSEED moves by one draw; with no slot free, sd has only bit 63. -/
def Obligations.CopyIssue : Prop :=
  ∀ (s : State) (d a : SReg) (cmd : List Word),
    let ea := s.my.rx a
    let c := s.me
    (ea.toNat % 128 ≠ 0 → Traps (.cpy d a) s 0x03 0 4) ∧
    (ea.toNat % 128 = 0 → Claim.Structure s ea 16 cmd →
      (c.freeCopy = none → Claim.ChangesWith (.cpy d a) s (·.wx d (BitVec.twoPow 64 63))) ∧
      ∀ i, i < 128 → (c.copies.get i).st = .ended → (∀ j, j < i → (c.copies.get j).st ≠ .ended) →
        Runs (.cpy d a) s fun t =>
          OnlyReg s.my t.my d (BitVec.ofNat 64 (i + s.cur * 2 ^ 7 + c.copySeq % 2 ^ 32 * 2 ^ 18)) ∧
          t.my.ctl.srseed = srNext s.my.ctl.srseed ∧ t.me.copySeq = c.copySeq + 1 ∧ Claim.Stored s t ∧
          (∀ j, j ≠ i → t.me.copies.get j = c.copies.get j) ∧
          let q := t.me.copies.get i
          q.st = .waiting ∧ q.cmd = cmd ∧ q.seq = c.copySeq ∧ q.owner = s.my.sup.owner.toNat ∧
          q.area = s.my.sup.saveptr.toNat ∧ q.lvl = s.my.level ∧ q.dirbase = s.my.sup.dirbase ∧
          q.fill = s.my.ctl.fill ∧ q.seed = s.my.ctl.srseed ∧ q.issued = (s.die (s.cur / 96)).atime ∧
          q.rnd.toNat = (let n := (cmd.getD 0 0).toNat / 2 ^ 7 % 8; if n = 0 then s.my.ctl.frm.toNat else n))

/-- CPYW, CPYQ and CPYX (R282 to R284): a stale ticket reads 0x0E and is not waited for; CPYQ reads 0 before the copy has ended and
its status after; CPYW blocks till then, with KIND 9; CPYX asks for a stop and waits, and then reads the final status. -/
def Obligations.CopyTickets : Prop :=
  ∀ (s : State) (d a : SReg),
    let found := s.ticketed s.my.sup.owner.toNat (s.my.rx a)
    (found = none → Changes (.cpyw a) s id 0 ∧ Gives (.cpyq d a) s d 0x0E ∧
      (s.my.ewait = .none → Gives (.cpyx d a) s d 0x0E)) ∧
    (∀ k i q, found = some (k, i, q) → q.st = .ended →
      let status : Word := BitVec.ofNat 64
        (q.code + q.sat.toNat * 2 ^ 8 + q.late.toNat * 2 ^ 9 + q.written % 2 ^ 32 * 2 ^ 16)
      Changes (.cpyw a) s id 0 ∧ Gives (.cpyq d a) s d status ∧ (s.my.ewait = .none → Gives (.cpyx d a) s d status)) ∧
    (∀ k i q, found = some (k, i, q) → q.st ≠ .ended →
      Claim.Blocks (.cpyw a) s 9 0 ∧ Gives (.cpyq d a) s d 0 ∧
      (s.my.ewait = .none → Runs (.cpyx d a) s fun t => t.mem = s.mem ∧ t.my = { s.my with ewait := .cpyx k i, passed := t.my.passed } ∧
        (t.core k).copies.get i = { q with stopping := true })) ∧
    ∀ v, s.my.ewait = .cpyxDone v → Gives (.cpyx d a) s d v

/-- RGPROBE, RGTOUCH and RGINV (R288 to R290, R34, R35): the translation word or the failure's cause with bit 63; a search begun
for the address; an invalidation begun that visits every holder recorded for the interval, and that the hart waits for. -/
def Obligations.RangeQueries : Prop :=
  ∀ (s : State) (d a b : SReg),
    let h := s.my
    let va := (h.rx a).toNat
    let w := s.who s.cur
    let lo := min va (2 ^ 57)
    let hi := min (va + (h.rx b).toNat) (2 ^ 57)
    (2 ^ 57 ≤ va → Claim.ChangesWith (.rgprobe d a) s (·.wx d (BitVec.ofNat 64 (0x01 * 2 ^ 56 + 2 ^ 63)))) ∧
    (∀ c data, va < 2 ^ 57 → s.lookup s.me.cache w.owner w.dirbase va = .error (c, data) →
      Claim.ChangesWith (.rgprobe d a) s (·.wx d (BitVec.ofNat 64 (c * 2 ^ 56 + 2 ^ 63)))) ∧
    (∀ e used, va < 2 ^ 57 → s.lookup s.me.cache w.owner w.dirbase va = .ok (e, used) → h.level ≠ .u →
      Claim.ChangesWith (.rgprobe d a) s (·.wx d (BitVec.ofNat 64
        (if e.desc.bit 0 then
          1 + (e.desc.bit 1).toNat * 2 + (e.desc.bit 2).toNat * 4 + (e.desc.bit 4).toNat * 8 +
            (e.desc.resident va).toNat * 16 + e.desc.fmt * 2 ^ 8 + e.desc.home * 2 ^ 16 + e.idx * 2 ^ 32
         else 0x04 * 2 ^ 56 + 2 ^ 63)))) ∧
    (Runs (.rgtouch a) s fun t => Claim.Ends s t id id ∧ t.dies = s.dies ∧ t.harbour = s.harbour ∧
      t.ranges = { s.ranges with searches := s.ranges.searches ++ [⟨s.cur, w.owner, w.dirbase, h.rx a⟩] }) ∧
    Runs (.rginv a b) s fun t => Claim.Ends s t (fun g => { g with inval := some s.uid }) id ∧ t.dies = s.dies ∧
      t.harbour = s.harbour ∧ ∃ v, t.ranges = { s.ranges with invals := s.ranges.invals ++ [v] } ∧
        v.id = s.uid ∧ v.owner = w.owner ∧ v.lo = lo ∧ v.hi = hi ∧ v.what = .hart s.cur h.sup.saveptr.toNat ∧
        ∀ i, (v.holders.getLsbD i = true ↔
          ∃ r ∈ s.ranges.records, r.owner = w.owner ∧ lo < hi ∧ r.lo < hi ∧ lo < r.hi ∧ r.holders.getLsbD i = true)

/-- An entry cut from others (R30 to R32): its bounds, place and home, the attributes of the first but for RES, and no byte
resident that was not so in each entry that held it. -/
def Sys2Proof.Claim.CutFrom (old : List Desc) (e d : Desc) (lo hi pa : Nat) : Prop :=
  d.base.toNat = lo ∧ d.lim.toNat = hi ∧ d.pa = pa ∧ d.home = e.home ∧ d.attr.toNat % 2 ^ 32 = e.attr.toNat % 2 ^ 32 ∧
  d.attr.toNat / 2 ^ 48 = e.attr.toNat / 2 ^ 48 ∧
  ∀ va, lo ≤ va → va < hi → d.resident va = true → ∀ o ∈ old, o.base.toNat ≤ va → va < o.lim.toNat → o.resident va = true

/-- The words of a directory as an edit leaves them: LOCK held by a core, some entries from an index on, and COUNT. -/
def Sys2Proof.Claim.edited (s : State) (dir i n : Nat) (ds : List Desc) : State :=
  ((s.physPutWord (dir + 8) (BitVec.ofNat 64 (s.cur + 1))).putEntries dir i ds).physPutWord dir (BitVec.ofNat 64 (n + 2 ^ 32))

/-- A directory edit, or a move, has begun, and its bundle waits for it with KIND 10 (R33, R35, R131, R163): registers and the pc
are as they were. -/
def Sys2Proof.Claim.Begins (s t : State) : Prop :=
  RegsKept s.my t.my ∧ t.my.pc = s.my.pc ∧ t.my.grid = s.my.grid ∧ t.my.ctl = s.my.ctl ∧ t.my.ewait = .edit s.uid ∧
  t.flights = s.flights ∧ t.cur = s.cur ∧
  ∀ e, s.me.running = some e → ∃ x ∈ t.me.queue, x.area = e.area ∧ x.blk.kind = 10

/-- An edit's invalidation has begun, of an interval of the hart's owner, with every holder that a record of it names (R33, R34). -/
def Sys2Proof.Claim.Invalidates (s t : State) (lo hi : Nat) : Prop :=
  ∃ v, t.ranges.invals = s.ranges.invals ++ [v] ∧ v.id = s.uid ∧ v.owner = s.my.sup.owner.toNat ∧ v.lo = lo ∧ v.hi = hi ∧
    v.what = .edit s.cur s.my.sup.saveptr.toNat s.my.sup.dirbase.toNat ∧
    ∀ i, (v.holders.getLsbD i = true ↔ ∃ r ∈ s.ranges.records, r.owner = v.owner ∧ lo < hi ∧ r.lo < hi ∧ lo < r.hi ∧
      r.holders.getLsbD i = true)

/-- RGSPLIT, RGMERGE and RGMOVE (R285 to R287, R29 to R33, R38, R41). Each refusal is its status in sd, in the order of its table,
and the bundle completes. Otherwise the edit's own effect takes place: LOCK is taken; RGSPLIT puts two entries in the place of
the one, RGMERGE one in the place of two, the entries above them moved, COUNT following, and the invalidation of the interval
begins; RGMOVE begins the move, of the entry as it stands to the place and home asked for; the bundle waits with KIND 10, and
when the invalidation is done, sd has the status and the bundle completes. RGMOVE at U is privileged. The order in which the
refusals are tested, LOCK's first and RGMOVE's 2, 9, 1, 8, is the model's choice (log 44). -/
def Obligations.RangeEdits : Prop :=
  ∀ (s : State) (d a b : SReg) (x : BitVec 4),
    let h := s.my
    let dir := h.sup.dirbase.toNat
    let va := (h.rx a).toNat
    let pa := (h.rx b).toNat
    let split := Instr.rgsplit d a
    let merge := Instr.rgmerge d a
    let move := Instr.rgmove d a b x
    (∀ st, h.ewait = .edited st → Gives split s d (BitVec.ofNat 64 st) ∧ Gives merge s d (BitVec.ofNat 64 st) ∧
      (h.level ≠ .u → Gives move s d (BitVec.ofNat 64 st))) ∧
    (h.level = .u → Traps move s 0x04 0 4) ∧
    (h.ewait = .none →
      (s.lockOf dir ≠ some 0 → Gives split s d 1 ∧ Gives merge s d 1) ∧
      (s.lockOf dir = some 0 → s.entryAt dir va = none → Gives split s d 2 ∧ Gives merge s d 2) ∧
      (h.level ≠ .u → s.entryAt dir va = none → Gives move s d 2) ∧
      ∀ n i e, s.dirCount dir = .ok n → s.entryAt dir va = some (i, e) →
        (s.lockOf dir = some 0 →
          (va % 64 ≠ 0 ∨ va = e.base.toNat → Gives split s d 3) ∧
          (va % 64 = 0 → va ≠ e.base.toNat → fmtScaled e.fmt = true ∨ e.bit 6 = true → Gives split s d 4) ∧
          (va % 64 = 0 → va ≠ e.base.toNat → fmtScaled e.fmt = false → e.bit 6 = false →
            (n = 4095 → Gives split s d 5) ∧
            (n ≠ 4095 → e.base.toNat < va → va < e.lim.toNat → Runs split s fun t => Claim.Begins s t ∧
              Claim.Invalidates s t e.base.toNat e.lim.toNat ∧
              ∃ p q, Claim.CutFrom [e] e p e.base.toNat va e.pa ∧
                Claim.CutFrom [e] e q va e.lim.toNat (e.pa + (va - e.base.toNat)) ∧
                t.mem = (Claim.edited s dir i (n + 1) (p :: q :: s.entriesFrom dir (i + 1) n)).mem)) ∧
          (s.entriesFrom dir (i + 1) n = [] → Gives merge s d 6) ∧
          ∀ f rest, s.entriesFrom dir (i + 1) n = f :: rest →
            (f.bit 7 = false ∨ e.lim ≠ f.base ∨ e.pa + e.size ≠ f.pa → Gives merge s d 6) ∧
            (f.bit 7 = true → e.lim = f.base → e.pa + e.size = f.pa →
              (mergeAttr e ≠ mergeAttr f → Gives merge s d 7) ∧
              (mergeAttr e = mergeAttr f →
                (fmtScaled e.fmt = true ∨ e.bit 6 = true ∨ f.bit 6 = true → Gives merge s d 4) ∧
                (fmtScaled e.fmt = false → e.bit 6 = false → f.bit 6 = false → e.base.toNat < e.lim.toNat →
                  Runs merge s fun t => Claim.Begins s t ∧ Claim.Invalidates s t e.base.toNat f.lim.toNat ∧
                    ∃ p, Claim.CutFrom [e, f] e p e.base.toNat f.lim.toNat e.pa ∧
                      t.mem = (Claim.edited s dir i (n - 1) (p :: rest)).mem)))) ∧
        (h.level ≠ .u →
          let bad := pa % 64 ≠ 0 ∨ e.bit 6 = true ∨ homeOk s.link.expanders pa e.size x.toNat e.owner = false
          (bad → Gives move s d 9) ∧
          (¬bad → s.lockOf dir ≠ some 0 → Gives move s d 1) ∧
          (¬bad → s.lockOf dir = some 0 → s.roomAt pa e.size = false → Gives move s d 8) ∧
          (¬bad → s.lockOf dir = some 0 → s.roomAt pa e.size = true →
            Runs move s fun t => Claim.Begins s t ∧
              t.mem = (s.physPutWord (dir + 8) (BitVec.ofNat 64 (0xFFFF0000 + e.home))).mem ∧
              ∃ m, t.ranges.moves = s.ranges.moves ++ [m] ∧ m.id = s.uid ∧ m.owner = h.sup.owner.toNat ∧ m.dirbase = dir ∧
                m.index = i ∧ m.desc = e ∧ m.src = e.pa ∧ m.dst = pa ∧ m.homeA = e.home ∧ m.homeB = x.toNat ∧
                m.st = .copying ∧ m.chunk = 0 ∧ m.requester = some (s.cur, h.sup.saveptr.toNat))))

/-- TIME, TWAIT and TSTAT (R291, R103): ATIME as the core's die has it; a wait of KIND 7 until it has reached a; and the time
status word. -/
def Obligations.TimeForms : Prop :=
  ∀ (s : State) (d a : SReg),
    let now := (s.die (s.cur / 96)).atime
    Gives (.time d) s d now ∧
    ((s.my.rx a).toNat ≤ now.toNat → Changes (.twait a) s id 0) ∧
    (now.toNat < (s.my.rx a).toNat → Claim.Blocks (.twait a) s 7 (s.my.rx a)) ∧
    (s.ptp.state < 4 → s.ptp.source < 4 → s.ptp.skew < 2 ^ 12 → ∃ v : Word, Gives (.tstat d) s d v ∧
      (v.setWidth 32).toInt = max (-(2 ^ 31 - 1)) (min (2 ^ 31 - 1) s.ptp.offset) ∧
      v.toNat / 2 ^ 32 % 4 = s.ptp.state ∧ v.toNat / 2 ^ 34 % 4 = s.ptp.source ∧ v.toNat / 2 ^ 36 % 2 ^ 12 = s.ptp.skew ∧
      v.toNat / 2 ^ 48 = min s.ptp.age 0xFFFF)

/-- GBAR (R292): a member of an indexed slice, and a time more than 2^30 ticks ahead, trap; the last member to arrive, with every
time reached, goes on at once, and sd has the opening time, the latest of the times and of the last arrival; an earlier one
blocks with KIND 4, its arrival recorded. A hart without a slice is a barrier of its own (the model's choice, log 17). -/
def Obligations.GangBarrier : Prop :=
  ∀ (s : State) (d a : SReg),
    let h := s.my
    let time := h.rx a
    let now := (s.die (s.cur / 96)).atime
    let idx := h.ident.gangidx.toNat
    let gbar := Instr.gbar d a
    (h.ident.indexed = true → Traps gbar s 0x03 0 4) ∧
    (h.ident.indexed = false →
      (s.slotOf h.ident.handle = none → h.ewait = .none →
        (now.toNat + 2 ^ 30 < time.toNat → Traps gbar s 0x03 0 4) ∧
        (s.releasing = false → time.toNat ≤ now.toNat → Gives gbar s d now)) ∧
      ∀ die i t, s.slotOf h.ident.handle = some (die, i, t) → (s.die die).slots.get i = t →
        (∀ e o, t.awaits idx = some e → (t.opens.find? (·.1 == e)).map (·.2) = some o → o.toNat ≤ now.toNat →
          Runs gbar s fun u => OnlyReg h u.my d o ∧ u.mem = s.mem ∧ ((u.die die).slots.get i).awaits idx = none) ∧
        (t.awaits idx = none →
          (now.toNat + 2 ^ 30 < time.toNat → Traps gbar s 0x03 0 4) ∧
          (time.toNat ≤ now.toNat + 2 ^ 30 → s.releasing = false →
            (t.width ≤ t.arrived.length + 1 → time.toNat ≤ now.toNat → (∀ p ∈ t.arrived, p.2.toNat ≤ now.toNat) →
              t.opens = [] →
              Runs gbar s fun u => OnlyReg h u.my d now ∧ u.mem = s.mem ∧ ((u.die die).slots.get i).arrived = []) ∧
            (t.arrived.length + 1 < t.width → t.opens = [] → t.gone = [] →
              Runs gbar s fun u => RegsKept h u.my ∧ u.my.pc = h.pc ∧ u.mem = s.mem ∧
                ((u.die die).slots.get i).arrived = t.arrived ++ [(idx, time)] ∧
                ((u.die die).slots.get i).awaits idx = some t.episode))))

/-- JPOST (R293, R148 to R150): a record that is not 64-byte aligned traps; a refusal is its status with bit 63; an accepted record
without successors takes the lowest free slot of its die, which is the model's choice (log 81), with the next sequence number,
and sd has its handle. -/
def Obligations.SlicePost : Prop :=
  ∀ (s : State) (d a : SReg) (r : List Word),
    let ea := s.my.rx a
    (ea.toNat % 64 ≠ 0 → Traps (.jpost d a) s 0x03 0 4) ∧
    (ea.toNat % 64 = 0 → s.harbour.takeover = false → Claim.Structure s ea 8 r →
      (∀ n, s.postStatus r = some n → Claim.ChangesWith (.jpost d a) s (·.wx d (BitVec.ofNat 64 (2 ^ 63 + n)))) ∧
      (s.postStatus r = none → recField r 5 32 32 = 0 →
        (s.ownEnt (recField r 7 0 12) = none → Claim.ChangesWith (.jpost d a) s (·.wx d (BitVec.ofNat 64 (2 ^ 63 + 10)))) ∧
        ∀ die i, s.ownEnt (recField r 7 0 12) ≠ none → s.postDie s.cur (recField r 7 16 16) = some die →
          i < 4096 → ((s.die die).slots.get i).live = false → (∀ j, j < i → ((s.die die).slots.get j).live = true) →
          Runs (.jpost d a) s fun t =>
            OnlyReg s.my t.my d (BitVec.ofNat 64 (i + die * 2 ^ 12 + (s.harbour.postSeq + 1) % 2 ^ 32 * 2 ^ 16)) ∧
            t.harbour.postSeq = s.harbour.postSeq + 1 ∧ Claim.Stored s t ∧
            let u := (t.die die).slots.get i
            u.live = true ∧ u.rcd = r ∧ u.seq = s.harbour.postSeq + 1 ∧ u.preds = recField r 5 0 32 ∧
            u.left = recField r 4 0 32 ∧ u.handedOut = 0 ∧ u.succs = [] ∧ u.finished = false))

/-- JYIELD, JDONE, JWAIT and JDEC (R294 to R296, R151, R152): the running entry is marked as yielding; the instance's entry leaves
its queue, unless in a handler, where JDONE traps; a wait of KIND 5 for a slice that is not over; a predecessor count down by
one, and for a stale handle or a count of 0 the stale-decrement count up by one. That JDONE of a hart without an entry, as
firmware has after reset, leaves its core idle is the model's choice (log 17); what the instance has under way, on other cores
too, goes on in nobody's name (log 96). -/
def Obligations.TaskForms : Prop :=
  ∀ (s : State) (a : SReg),
    let h := s.my
    let ended : Prop := match s.slotOf (h.rx a) with
      | none => True
      | some (_, _, t) => t.finished = true ∨ t.failed = true
    let stale (t : State) (die : Nat) : Prop :=
      (t.die die).stale = (s.die die).stale + 1 ∧ (t.die die).slots = (s.die die).slots
    (Runs .jyield s fun t => RegsKept h t.my ∧ t.mem = s.mem ∧
      t.me.queue.map (fun e => { e with blk := {} }) =
        s.me.queue.map fun e => { e with blk := {}, yielded := e.yielded || e.st == .running }) ∧
    (h.handler = true → Traps .jdone s 0x03 0 4) ∧
    (h.handler = false → s.releasing = false → Runs .jdone s fun t => t.mem = s.mem ∧ t.me.active = false ∧
      (∀ e, s.me.running = some e → ∀ x ∈ t.me.queue, x.area ≠ e.area) ∧
      ∀ k, k ≠ s.cur → ∃ l c, t.core k = { s.core k with left := l, copies := c }) ∧
    (ended → Changes (.jwait a) s id 0) ∧ (¬ended → Claim.Blocks (.jwait a) s 5 (h.rx a)) ∧
    (s.releasing = true → Stalls .jdone s ∨ h.handler = true) ∧ (s.releasing = true → Stalls (.jdec a) s) ∧
    (s.releasing = false →
      (s.slotOf (h.rx a) = none → Runs (.jdec a) s fun t => Claim.Ends s t id id ∧
        stale t ((h.rx a).toNat / 2 ^ 12 % 16)) ∧
      ∀ die i u, s.slotOf (h.rx a) = some (die, i, u) → (s.die die).slots.get i = u →
        (u.preds = 0 → Runs (.jdec a) s fun t => Claim.Ends s t id id ∧ stale t die) ∧
        (u.preds ≠ 0 → Runs (.jdec a) s fun t => Claim.Ends s t id id ∧
          ((t.die die).slots.get i).preds = u.preds - 1 ∧ (t.die die).stale = (s.die die).stale ∧
          ∀ j, j ≠ i → (t.die die).slots.get j = (s.die die).slots.get j))

/-- WAITA, CAPQ and CAPR (R297, R298, R58): WAITA of a misaligned address traps, commits at once where the word differs from b, and
where it is equal blocks with KIND 6 and watches the word, once the word is in view (R102); a capacity item of an unlisted number reads 0, and a die above 15 or
a core above 1,535 traps. -/
def Obligations.WatchAndCapacity : Prop :=
  ∀ (s : State) (d a b : SReg) (x : BitVec 8),
    let h := s.my
    let ea := (h.rx a).toNat
    let n := (h.rx a).toNat
    let t := s.translate 0 .load (spanReqs ea 8)
    (ea % 8 ≠ 0 → Traps (.waita a b) s 0x03 0 4) ∧
    (∀ p blk, ea % 8 = 0 → h.ewait = .none → t.moving = false → t.held = none → t.nonres = none → t.fails = [] →
      t.pieces = [p] → s.inView s.cur p.loc = true → s.homeRead false p.loc = .ok blk →
      let word : Word := BitVec.ofNat 64 (blk.toNat / 2 ^ (8 * (ea % 64)))
      (word ≠ h.rx b → Claim.ChangesWith (.waita a b) s id) ∧
      (word = h.rx b → Runs (.waita a b) s fun u => Claim.Stored s u ∧
        u.my = { h with ewait := .watch p.loc (ea % 64) (h.rx b) })) ∧
    (1 < x.toNat → 15 < n → Traps (.capq d a x) s 0x03 0 4) ∧
    (x.toNat ≤ 1 ∨ n ≤ 15 → Gives (.capq d a x) s d (BitVec.ofNat 64
      (match x.toNat with
       | 0 => s.me.capgrid
       | 1 => s.me.capscr
       | 2 => if (s.die n).inService then 32768 - 128 * (s.die n).cacheGone.length else 0
       | 3 => if (s.die n).inService then 49152 - 256 * (s.die n).hbmGone.length else 0
       | 4 => if (s.die n).inService then s.freeBytes (hbmBase n) (hbmBase (n + 1)) (s.hbmHoles n) / 2 ^ 20 else 0
       | 5 => 4194304 + s.link.expanders.sum
       | 6 => (s.tiers.map fun p => s.freeBytes p.1 p.2 []).sum / 2 ^ 20
       | 7 => if (s.die n).inService then ((List.range 96).filter fun i => (s.core (96 * n + i)).inService).length else 0
       | 8 => ((List.range 16).filter fun e => (s.die e).inService).length
       | _ => 0))) ∧
    (1536 ≤ n → Traps (.capr d a x) s 0x03 0 4) ∧
    (n < 1536 → Gives (.capr d a x) s d (BitVec.ofNat 64
      (match x.toNat with
       | 0 => (s.core n).capgrid
       | 1 => (s.core n).capscr
       | 2 => 64 - (s.core n).queue.length
       | 3 => (s.core n).inService.toNat
       | _ => 0)))

/-! ## The grid (spec/12) -/

/-- Nothing delays an operation on rows: no long vector operation under way that reads or writes one of them, no lost half, and
each row free (R133 to R135, R176, R314). -/
def Sys2Proof.Claim.RowsFree (s : State) (row : Nat → Prop) : Prop :=
  s.delay = false ∧ s.my.missingHalf = none ∧ (∀ l, s.my.long = some l → ∀ n ∈ l.touches, ¬row n) ∧
  ∀ n, row n → Claim.Free s.my n

/-- Whole rows written, each bit with its value, and dirty (R191); the other rows, the masks and the busy and arrival bits are as
they were. -/
def Sys2Proof.Claim.RowsWritten (g k : Grid) (row : Nat → Prop) (val : Nat → Nat → Bool) : Prop :=
  (∀ n, n < 128 → row n → k.dirty.getLsbD n = true ∧ ∀ b, b < 2048 → (k.rows.get n).getLsbD b = val n b) ∧
  (∀ n, ¬row n → k.dirty.getLsbD n = g.dirty.getLsbD n ∧ k.rows.get n = g.rows.get n) ∧
  (k.h1 = true ↔ g.h1 = true ∨ ∃ n, 64 ≤ n ∧ row n) ∧ k.masks = g.masks ∧ k.missing = g.missing ∧ k.busy = g.busy

/-- TSHAPE (R300): a zero field is an illegal operand; otherwise sd and TSHP have the grant. -/
def Sys2Proof.Claim.TileShape : Prop :=
  ∀ (s : State) (d a : SReg),
    let r := (s.my.rx a).toNat
    let m := r % 2 ^ 8
    let n := r / 2 ^ 8 % 2 ^ 8
    let k := r / 2 ^ 16 % 2 ^ 16
    let grant := min m 64 + 2 ^ 8 * min (min n 64) (s.my.sup.vlcap.toNat / 32) + 2 ^ 16 * min k 4096
    (m = 0 ∨ n = 0 ∨ k = 0 → Traps (.tshape d a) s 0x03 0 4) ∧
    (m ≠ 0 → n ≠ 0 → k ≠ 0 → Changes (.tshape d a) s (fun h =>
      (h.modCtl fun c => { c with tshp := BitVec.ofNat 32 grant }).wx d (BitVec.ofNat 64 grant)) 0)

/-- The pairs of formats that OPA accepts (R302). -/
def Sys2Proof.Claim.accepted (fa fb : Nat) : Prop :=
  (fa = 0x02 ∧ fb = 0x02) ∨ (fa = 0x03 ∧ fb = 0x03) ∨
  (fa ∈ ([0x04, 0x05, 0x11, 0x12] : List Nat) ∧ fb ∈ ([0x04, 0x05, 0x11, 0x12] : List Nat)) ∨
  (fa = 0x0A ∧ fb = 0x0A) ∨ (fa = 0x0E ∧ fb = 0x0A) ∨ (fa = 0x10 ∧ fb = 0x02) ∨ (fa = 0x02 ∧ fb = 0x10)

/-- A queue bound for reading whose next strip is of a reserved format (R301, R91). -/
def Sys2Proof.Claim.reserved (q : Queue) (ad : Word) : Prop :=
  q.bind = 1 ∧ q.claim = false ∧ q.fmt = none ∧ q.fault = some (0x0E, ad)

/-- OPA (R301, R302, R305, R306, R142, R174, R178): a handler that holds a partial operation traps; a queue of a reserved format
traps without waiting; an earlier OPA with steps to begin, and either queue claimed or without its format, stall; of what is
left a pair of formats outside the table, a queue not bound for reading and an exhausted scale stream trap, in that order;
otherwise both queues are claimed, the half is busy, and the OPA's steps are to run. Of one queue named twice, A's scales come
first. The model's choice is that a pair of formats outside the table, where the other queue may still settle no format that
makes a pair of the table too, traps with TRAPADDR 0 (log 40). -/
def Obligations.OuterProductIssue : Prop :=
  ∀ (s : State) (h : BitVec 1) (qa qb : QReg) (n o : BitVec 1),
    let my := s.my
    let i := Instr.opa h qa qb n o
    let a := my.queue qa.toNat
    let b := my.queue qb.toNat
    let ready (q : Queue) : Prop := q.bind = 1 ∧ q.claim = false
    let takes (p q : Queue) : Prop := ∀ ad, Claim.reserved p ad → (∀ bd, Claim.reserved q bd → ad.toNat ≤ bd.toNat) →
      my.passed = none → my.wait ≠ .ask → Runs i s fun t =>
        t.my.sup.trapcause.toNat = 0x0E + 2 ^ 8 * levelCode my.level ∧ t.my.sup.trapaddr = ad ∧ t.my.sup.trappc = my.pc ∧
        t.my.level = .s ∧ t.my.handler = true ∧ t.my.pc = my.sup.trapvec
    (my.handler = true → (my.popa ≠ none ∨ my.pvec ≠ none) → Traps i s 0x03 0 4) ∧
    (Claim.RowsFree s (fun r => 64 * h.toNat ≤ r ∧ r < 64 * h.toNat + 64) →
      (my.handler = true → my.popa = none ∧ my.pvec = none) →
      takes a b ∧ takes b a ∧ ((∀ ad, ¬Claim.reserved a ad ∧ ¬Claim.reserved b ad) →
      (∀ r ∈ my.opas, r.step < r.steps → Stalls i s) ∧
      ((∀ r ∈ my.opas, r.steps ≤ r.step) →
        let waits (q : Queue) : Prop :=
          q.bind = 1 ∧ (q.claim = true ∨ (q.fmt = none ∧ q.fault = none ∧ walkDone q.rcd q.win = false))
        let unbound (q : Queue) : Prop := q.bind ≠ 1 ∧ q.fault = none
        (waits a ∨ waits b → Stalls i s) ∧
        (unbound a → unbound b → Traps i s 0x15 (BitVec.ofNat 64 (min qa.toNat qb.toNat)) 4) ∧
        (∀ fb, unbound a → ready b → b.fmt = some fb →
          ((∃ f, Claim.accepted f fb) → Traps i s 0x15 (BitVec.ofNat 64 qa.toNat) 4) ∧
          ((∀ f, ¬Claim.accepted f fb) → Traps i s 0x0C 0 4)) ∧
        ∀ fa, ready a → a.fmt = some fa →
          (unbound b → ((∃ f, Claim.accepted fa f) → Traps i s 0x15 (BitVec.ofNat 64 qb.toNat) 4) ∧
            ((∀ f, ¬Claim.accepted fa f) → Traps i s 0x0C 0 4)) ∧
          ∀ fb, ready b → b.fmt = some fb →
            (¬Claim.accepted fa fb → Traps i s 0x0C 0 4) ∧
            (Claim.accepted fa fb →
              let m := my.ctl.tshp.toNat % 256
              let nn := my.ctl.tshp.toNat / 256 % 256
              let scales := s.scalesReady qa.toNat 0 m (if qa = qb then m + nn else m) = true ∧
                s.scalesReady qb.toNat (if qa = qb then m else 0) nn (if qa = qb then m + nn else nn) = true
              (¬scales → Traps i s 0x0D 0 4) ∧
              (scales → (∀ r, 64 * h.toNat ≤ r → r < 64 * h.toNat + m → Claim.Sound my r) → Changes i s (fun g =>
                let c := (g.modQueue qa.toNat fun q => { q with claim := true }).modQueue qb.toNat fun q =>
                  { q with claim := true }
                { c with
                  opas := g.opas ++ [⟨h.toNat, qa.toNat, qb.toNat, n == 1, o == 1, fa, fb, a.blen, b.blen, my.ctl.tshp, 0,
                    my.pc, 0, [], []⟩]
                  grid := { g.grid with busy := g.grid.busy ||| BitVec.ofNat 128 ((2 ^ 64 - 1) * 2 ^ (64 * h.toNat)) } }) 0)))))

/-- OPZ, GCLR, GMOV and GTRN (R308 to R310): the tile or the half becomes zero; a row is copied; a half is transposed, cell by
cell, where no row read holds an error (R67). The rows written are dirty, and nothing else changes. -/
def Obligations.GridRowForms : Prop :=
  ∀ (s : State) (h : BitVec 1) (d r : GReg),
    let g := s.my.grid
    let base := 64 * h.toNat
    let half (n : Nat) : Prop := base ≤ n ∧ n < base + 64
    let m := s.my.ctl.tshp.toNat % 256
    let w := 32 * (s.my.ctl.tshp.toNat / 256 % 256)
    let does (i : Instr) (row : Nat → Prop) (val : Nat → Nat → Bool) : Prop :=
      Runs i s fun t => RegsKept s.my t.my ∧ t.my.ctl.srseed = s.my.ctl.srseed ∧ Past s t 0 ∧
        Claim.RowsWritten g t.my.grid row val
    let tile (n : Nat) : Prop := base ≤ n ∧ n < base + m
    (Claim.RowsFree s tile → does (.opz h) tile fun n b => !decide (b < w) && (g.rows.get n).getLsbD b) ∧
    (Claim.RowsFree s half → does (.gclr h) half (fun _ _ => false) ∧
      ((∀ n, half n → Claim.Sound s.my n) → does (.gtrn h) half fun n b => (g.rows.get (base + b / 32)).getLsbD (32 * (n - base) + b % 32))) ∧
    (Claim.RowsFree s (fun n => n = d.toNat ∨ n = r.toNat) → Claim.Sound s.my r.toNat →
      does (.gmov d r) (· = d.toNat) fun _ b => (g.rows.get r.toNat).getLsbD b)

/-- GSTAT and GDIRTY (R311, R312, R191): the grid status word, field by field; the row-dirty bits of a half, with
the rows that committed bundles are still to write, as the tile rows of an OPA with steps left and the rows of a load on its way
to the hart's rows. Those of h1 read 0 while no row there has been or is to be written (the model's reading, log 58). Neither
waits for a row. -/
def Sys2Proof.Claim.GridStatusForms : Prop :=
  ∀ (s : State) (d : SReg) (h : BitVec 1),
    let g := s.my.grid
    let busy (k : Nat) : Bool := (List.range 64).any fun i => g.busy.getLsbD (64 * k + i)
    let opa (k : Nat) : Bool := s.my.opas.any (·.half == k)
    (∃ v : Word, Gives (.gstat d) s d v ∧
      v.getLsbD 0 = busy 0 ∧ v.getLsbD 1 = busy 1 ∧ v.getLsbD 2 = opa 0 ∧ v.getLsbD 3 = opa 1 ∧
      v.getLsbD 4 = s.my.long.isSome ∧ v.getLsbD 5 = g.h1 ∧ v.toNat / 2 ^ 6 % 4 = s.me.capgrid ∧
      v.toNat / 2 ^ 8 % 2 ^ 8 = 0 ∧ v.toNat / 2 ^ 32 = 0 ∧
      ((∀ r ∈ s.my.opas, r.steps ≤ r.step) → v.toNat / 2 ^ 16 % 2 ^ 16 = 0) ∧
      ∀ r, s.my.opas = [r] → v.toNat / 2 ^ 16 % 2 ^ 16 = min (r.steps - r.step) 0xFFFF) ∧
    let due := s.dueRows
    (s.my.missingHalf = none → ∃ v : Word, Gives (.gdirty d h) s d v ∧
      ∀ i, i < 64 → v.getLsbD i = ((g.dirty.getLsbD (64 * h.toNat + i) || due.getLsbD (64 * h.toNat + i)) &&
        (decide (h = 0) || g.h1 || decide (2 ^ 64 ≤ due.toNat)))) ∧
    (∀ o ∈ s.my.opas, o.step < o.steps → ∀ i, i < o.tshp.toNat % 2 ^ 8 → 64 * o.half + i < 128 →
      due.getLsbD (64 * o.half + i) = true) ∧
    (∀ f ∈ s.flights, f.ofCtx s.cur s.my.sup.owner.toNat s.my.sup.saveptr.toNat = true → f.space ≠ 5 →
      ∀ fill gs, f.land = .groups fill gs → ∀ a ∈ gs, a.elems ≠ [] → a.row < 128 → due.getLsbD a.row = true) ∧
    (s.my.opas = [] → s.my.long = none →
      (∀ f ∈ s.flights, f.ofCtx s.cur s.my.sup.owner.toNat s.my.sup.saveptr.toNat = false) → due = 0)

/-- TSHAPE, GSTAT and GDIRTY (R300, R311, R312). -/
def Obligations.TileAndStatusForms : Prop := Claim.TileShape ∧ Claim.GridStatusForms

/-- GSAVE and GLOAD (R313, R187, R191): rows beyond v127 and a hart without a save area are illegal operands; otherwise GSAVE puts
rows without errors in their slots of the save area and their dirty bits clear; GLOAD puts the slots in the rows, whose dirty bits clear.
Nothing else changes. -/
def Obligations.SaveAreaRows : Prop :=
  ∀ (s : State) (f : GReg) (c : BitVec 7),
    let h := s.my
    let n := c.toNat + 1
    let row (r : Nat) : Prop := f.toNat ≤ r ∧ r < f.toNat + n
    let blocks (r : Nat) : List Piece := s.slotPieces (s.who s.cur) r (h.grid.rows.get r)
    let all := (List.range n).flatMap fun j => blocks (f.toNat + j)
    (128 < f.toNat + n ∨ h.sup.saveptr = 0 → Traps (.gsave f c) s 0x03 0 4 ∧ Traps (.gload f c) s 0x03 0 4) ∧
    (f.toNat + n ≤ 128 → h.sup.saveptr ≠ 0 → h.sup.saveptr.toNat % 64 = 0 → Claim.RowsFree s row → s.flights = [] →
      h.sup.violmode = false → Claim.Answers s true all → s.me.active = true → (h.handler = true → h.level ≠ .u) →
      (∀ q ∈ all, s.nearBy s.cur q.loc = true ∧ ∀ g : Flight, g.owner = h.sup.owner.toNat → s.heldBack g q = false) →
      ((∀ r, row r → Claim.Sound h r) → Runs (.gsave f c) s fun t => RegsKept h t.my ∧ Claim.Accessed s t 0 ∧ Claim.Writes s t true all ∧
        t.my.grid = { h.grid with dirty := t.my.grid.dirty } ∧
        ∀ r, (row r → t.my.grid.dirty.getLsbD r = false) ∧
          (¬row r → t.my.grid.dirty.getLsbD r = h.grid.dirty.getLsbD r)) ∧
      Runs (.gload f c) s fun t => RegsKept h t.my ∧ Claim.Accessed s t 0 ∧ Claim.Stored s t ∧
        (∀ r, row r → t.my.grid.dirty.getLsbD r = false ∧ Claim.Free t.my r ∧
          ∀ i p b, (blocks r)[i]? = some p → s.homeRead true p.loc = .ok b →
            (t.my.grid.rows.get r).toNat / 2 ^ (512 * i) % 2 ^ 512 = b.toNat) ∧
        (∀ r, ¬row r → t.my.grid.rows.get r = h.grid.rows.get r ∧
          t.my.grid.dirty.getLsbD r = h.grid.dirty.getLsbD r) ∧
        (t.my.grid.h1 = true ↔ h.grid.h1 = true ∨ ∃ r, 64 ≤ r ∧ row r) ∧ t.my.grid.masks = h.grid.masks)

/-- An operation on rows of the missing half (R314, R59, R180): the context is saved into the core's staging slot, and the trap is
over-capacity, kind 1, with the lowest such row; memory and the other cores are as they were. Registers, control words, loops
and queues stand in the handler as they were (the model's choice, log 15), but that the entries on their way to a queue are in it
and those pushed to a store queue are the stream unit's (R147, R186). GSTAT never faults. -/
def Obligations.MissingHalfTraps : Prop :=
  ∀ (s : State) (m : Nat) (h : BitVec 1) (d r : GReg) (sd : SReg) (qa qb : QReg) (n o : BitVec 1) (c : BitVec 7),
    let my := s.my
    let beyond (i : Instr) (row : Nat) : Prop :=
      Runs i s fun t =>
        t.my.sup.trapcause.toNat = 0x10 + 2 ^ 8 * levelCode my.level + 2 ^ 10 ∧ t.my.sup.trappc = my.pc ∧
        t.my.sup.trapaddr = BitVec.ofNat 64 (2 ^ 60 + row) ∧ t.my.sup.trapslot = 4 ∧ t.my.level = .s ∧
        t.my.handler = true ∧ t.my.pc = my.sup.trapvec ∧ RegsKept my t.my ∧ t.my.ctl = my.ctl ∧ t.my.loops = my.loops ∧
        t.mem = s.mem ∧ t.dies = s.dies ∧ t.cur = s.cur ∧
        (∀ k, let q := my.queue k
          let u := t.my.queue k
          u.bind = q.bind ∧ u.rcd = q.rcd ∧ u.fill = q.fill ∧ u.fmt = q.fmt ∧ u.count = q.count ∧ u.win = q.win ∧
          u.pos = q.pos ∧ u.claim = q.claim ∧ u.entries = (if q.bind = 2 then [] else q.entries ++ q.inbound) ∧
          (q.bind = 2 → ∀ e ∈ q.entries, ∃ l ∈ t.me.left, l.word = e ∧ l.owner = my.sup.owner.toNat)) ∧
        (∃ g, t.me.staging = some g ∧ g.area = my.sup.saveptr.toNat ∧ g.owner = my.sup.owner.toNat) ∧
        ∀ k, k ≠ s.cur → t.core k = s.core k
    my.missingHalf = some m → m < 2 → s.me.staging = none → my.passed = none →
      (h.toNat = m → beyond (.gclr h) (64 * m) ∧ beyond (.gtrn h) (64 * m) ∧ beyond (.gdirty sd h) (64 * m) ∧
        (my.ctl.tshp.toNat % 256 ≠ 0 → beyond (.opz h) (64 * m)) ∧
        (my.holdsPartial = false → (∀ ad, ¬Claim.reserved (my.queue qa.toNat) ad ∧ ¬Claim.reserved (my.queue qb.toNat) ad) →
          beyond (.opa h qa qb n o) (64 * m))) ∧
      (d.toNat / 64 = m → r.toNat / 64 ≠ m → beyond (.gmov d r) d.toNat ∧ beyond (.gmov r d) d.toNat) ∧
      (d.toNat / 64 = m → r.toNat / 64 = m → beyond (.gmov d r) (min d.toNat r.toNat)) ∧
      (d.toNat + c.toNat < 128 → my.sup.saveptr ≠ 0 → 64 * m ≤ d.toNat + c.toNat → d.toNat < 64 * m + 64 →
        beyond (.gsave d c) (max d.toNat (64 * m)) ∧ beyond (.gload d c) (max d.toNat (64 * m)))

/-! ## System instructions and the return from a trap (spec/09, spec/07) -/

/-- SVC and BRK (R241, R178, R179): SVC's bundle commits and the trap 0x18 names the next bundle; BRK is a precise trap 0x19. -/
def Obligations.CallAndBreakpoint : Prop :=
  ∀ (s : State) (c : BitVec 16),
    let h := s.my
    let next := (h.advance h.pc none).1
    Traps (.brk c) s 0x19 0 4 ∧
    Runs (.svc c) s fun t =>
      t.my.sup.trapcause.toNat = 0x18 + 2 ^ 8 * levelCode h.level ∧ t.my.sup.trappc = next.pc ∧ t.my.sup.trapaddr = 0 ∧
      t.my.sup.trapslot = 4 ∧ t.my.level = .s ∧ t.my.handler = true ∧ t.my.pc = h.sup.trapvec ∧ RegsKept h t.my ∧
      t.my.ctl = next.ctl ∧ t.my.loops = next.loops ∧ t.my.grid = h.grid ∧ t.my.queues = h.queues ∧
      OutsideKept s t ∧ CoreKept s.me t.me

/-- ERET with SAVED = 0 (R182, R175): at U, and at S with PREV 2, it traps with 0x04; otherwise the level becomes PREV, the handler
state 0, the bundle at TRAPPC is next, a partial operation resumes, and registers, control words and memory are as they were. After
a switch-in whose fetches have failed (R188) they are made again, which the rule does not say: the model's choice (log 89). -/
def Obligations.ReturnFromTrap : Prop :=
  ∀ s : State,
    let h := s.my
    let prev := h.sup.trapcause.toNat / 2 ^ 8 % 4
    (h.level = .u ∨ (h.level = .s ∧ prev = 2) → Traps .eret s 0x04 0 4) ∧
    (h.level ≠ .u → (h.level = .s → prev ≠ 2) → h.sup.trapcause.getLsbD 10 = false →
      let back (t : State) : Prop :=
        t.my.level = (if prev = 0 then .u else if prev = 1 then .s else .f) ∧ t.my.handler = false ∧
        t.my.pc = h.sup.trappc ∧ RegsKept h t.my ∧ t.my.ctl = h.ctl ∧ t.my.sup = h.sup ∧ OutsideKept s t ∧ CoreKept s.me t.me
      let waits : Bool := h.recalls.any fun pc => (s.modMy (·.leave)).fetchHeld s.cur pc
      (h.reread = true → (waits = true → Stalls .eret s) ∧ (waits = false → Runs .eret s back)) ∧
      (h.reread = false → Runs .eret s fun t => back t ∧ t.my.loops = h.loops ∧
        (∀ o, h.popa = some o → t.my.opas = h.opas ++ [o]) ∧
        (∀ l, h.pvec = some l → t.my.long = some { l with src := h.readGrid, needs := [] }) ∧
        t.my.popa = none ∧ t.my.pvec = none ∧
        (h.popa = none → h.pvec = none → t.my.grid = h.grid ∧ t.my.opas = h.opas ∧ t.my.long = h.long)))

/-- ERET with SAVED = 1 (R182, R188, R193, R56): it waits for an area that is not ready and for a segment of the scratchpad that is
being moved or still to be reached; a failing check is a precise trap of the ERET's own bundle (which leaves SAVED as it is: the model's choice, log
23); otherwise, while no range moves and the dies' clocks agree, the context of the area runs, at PC and with the registers that its
body holds (at the level PREV: the model's choice, log 22; at the bundle that holds PC: log 79); a context without an entry of
its own takes over the core's (log 60); where its entry stands on another core, this core is left without a hart. -/
def Obligations.ReturnToSavedContext : Prop :=
  ∀ (s : State) (e : QEntry),
    let h := s.my
    let prev := h.sup.trapcause.toNat / 2 ^ 8 % 4
    let area := h.sup.saveptr.toNat
    let word (off n : Nat) : Nat := s.areaGet area e.owner off n
    h.level ≠ .u → (h.level = .s → prev ≠ 2) → h.sup.trapcause.getLsbD 10 = true →
    (e ∈ s.me.queue → s.entryOf area = some (s.cur, e) ∨ (s.entryOf area = none ∧ s.me.running = some e) →
      (s.areaBusy area h.sup.owner.toNat = true ∨ s.me.evac ≠ [] ∨ s.scratchOwed s.cur = true → Stalls .eret s) ∧
      (s.areaBusy area h.sup.owner.toNat = false → s.me.evac = [] → s.scratchOwed s.cur = false →
        (∀ c a, s.restoreBad s.cur area h.sup.owner.toNat h.sup.vlcap.toNat (e.minGrid == 2) = some (c, a) →
          h.passed = none → Runs .eret s fun t =>
            t.my.sup.trapcause.toNat = c + 2 ^ 8 * levelCode h.level + 2 ^ 10 ∧ t.my.sup.trappc = h.pc ∧
            t.my.sup.trapaddr = a ∧ t.my.sup.trapslot = 4 ∧ t.my.level = .s ∧ t.my.handler = true ∧
            t.my.pc = h.sup.trapvec ∧ RegsKept h t.my ∧ t.my.ctl = h.ctl ∧ OutsideKept s t ∧ CoreKept s.me t.me) ∧
        (s.restoreBad s.cur area h.sup.owner.toNat h.sup.vlcap.toNat (e.minGrid == 2) = none →
          s.ranges.moves = [] → s.ranges.placing = [] → (∀ k l, (s.core k).segMoving l = false) →
          (∀ d, (s.die d).atime = (s.die 0).atime) → Runs .eret s fun t =>
            t.me.active = true ∧ t.my.handler = false ∧ t.my.pc = BitVec.ofNat 64 (word 8 8 / 16 * 16) ∧
            t.my.level = (if prev = 0 then .u else if prev = 1 then .s else .f) ∧
            (∀ r, r ≠ 0 → t.my.rx r = BitVec.ofNat 64 (word (128 + 8 * r.toNat) 8)) ∧ t.my.ctl.vl = word 24 4 ∧
            t.my.sup.saveptr.toNat = area ∧ ∃ x ∈ t.me.queue, x.area = area ∧ x.st = .running))) ∧
    ∀ k, k ≠ s.cur → s.entryOf area = some (k, e) →
      Runs .eret s fun t => t.me.active = false ∧ t.mem = s.mem ∧ ∀ j, j ≠ s.cur → t.core j = s.core j

/-- WFI, RCFLUSH, ERRLOG, KEYSEL (R242 to R244, R246, R26): WFI ends its bundle and issues nothing till a wake; RCFLUSH empties
the core's range cache; ERRLOG reads a word of the error log, or its status, and frees as asked; KEYSEL is privileged to F and
installs the key that a block of memory holds. Nothing else changes. -/
def Obligations.CoreServiceForms : Prop :=
  ∀ (s : State) (d a b : SReg),
    let h := s.my
    let v := h.rx a
    let i := v.toNat % 16
    let e := s.me.errlog.get i
    let ends (instr : Instr) (f : Hart → Hart) (core : Core → Core) : Prop :=
      Runs instr s fun t => OutsideKept s t ∧ Claim.Ends s t f core
    ends .wfi id (fun c => { c with wfi := true, waited := 0 }) ∧ ends .rcflush id (fun c => { c with cache := [] }) ∧
    (256 ≤ v.toNat ∨ (v.getLsbD 7 = true ∧ v.toNat % 64 ≠ 0) → Traps (.errlog d a) s 0x03 0 4) ∧
    (v.toNat < 128 →
      ends (.errlog d a)
        (·.wx d (if e.info.getLsbD 63 then [e.addr, e.time, e.info, e.pc].getD (v.toNat / 16 % 4) 0 else 0))
        (fun c => if v.getLsbD 6 then
          { c with errlog := c.errlog.mod i fun e => { e with info := e.info &&& ~~~(BitVec.twoPow 64 63) } } else c)) ∧
    (v.toNat = 128 ∨ v.toNat = 192 → ∃ w : Word,
      (∀ j, j < 16 → w.getLsbD j = (s.me.errlog.get j).info.getLsbD 63) ∧ w.toNat / 2 ^ 16 = s.me.logOver.toNat ∧
      ends (.errlog d a) (·.wx d w) (fun c => if v.toNat = 192 then { c with logOver := 0 } else c)) ∧
    (h.level ≠ .f → Traps (.keysel a b) s 0x04 0 4) ∧
    (h.level = .f → v.toNat = 0 ∨ 4095 < v.toNat ∨ (h.rx b).toNat % 64 ≠ 0 → Traps (.keysel a b) s 0x03 0 4) ∧
    ∀ blk, h.level = .f → v.toNat ≠ 0 → v.toNat ≤ 4095 → (h.rx b).toNat % 64 = 0 →
      s.physRead (h.rx b).toNat 0 0 = .ok blk →
      Runs (.keysel a b) s fun t => RegsKept h t.my ∧ t.mem = s.mem ∧ t.dies = s.dies ∧ CoreKept s.me t.me ∧
        BundleEnds h t.my 0 ∧ t.link = { s.link with keys := t.link.keys } ∧
        t.link.keys.get v.toNat = blk.toNat + 1 ∧ ∀ o, o ≠ v.toNat → t.link.keys.get o = s.link.keys.get o

/-- HALT (R245, R170): at U it is privileged; otherwise its core is out of service and has no hart; the instance that ran without
REISSUE ends its slice; an entry that waits, and that a core of the die fits, stands in such a core's queue. -/
def Obligations.HaltForm : Prop :=
  ∀ s : State,
    (s.my.level = .u → Traps .halt s 0x04 0 4) ∧
    (s.my.level ≠ .u →
      (Runs .halt s fun t => t.me.inService = false ∧ t.me.active = false ∧ t.me.resident = none ∧
        ∀ k, (t.core k).inService = true ↔ k ≠ s.cur ∧ (s.core k).inService = true) ∧
      (∀ e d i u, s.me.running = some e → s.my.handler = false → s.slotOf e.handle = some (d, i, u) → (s.die d).slots.get i = u →
        u.failed = false → u.finished = false → u.reissue = false →
        Runs .halt s fun t => e.handle ∈ t.harbour.failed) ∧
      ∀ x j, s.me.queue = [x] → x.st ≠ .running → j ≠ s.cur → j / 96 = s.cur / 96 → s.fits x j = true →
        Runs .halt s fun t => t.me.queue = [] ∧
          ∃ k, k / 96 = s.cur / 96 ∧ ∃ y ∈ (t.core k).queue, y.area = x.area ∧ y.handle = x.handle)

/-! ## Encoding, the step, and the machine as a whole (spec/08, spec/07, spec/04) -/

/-- Words written out from the encoding tables of spec/08 to spec/13, one or more of each class, decode to the instruction that
they stand for; words that the tables leave without a meaning are refused. -/
def Obligations.DecodedWords : Prop :=
  decodeTableWord 32 0x00000000 = some .nop ∧
  decodeTableWord 32 0x00469400 = some (.add 3 9 8) ∧
  decodeTableWord 32 0x20600002 = some (.beq 6 0 2) ∧
  decodeTableWord 32 0x30500003 = some (.loop 5 3) ∧
  decodeTableWord 32 0xC0214000 = some (.tshape 4 5) ∧
  decodeTableWord 32 0xC1DC0000 = some (.opa 1 2 3 1 0) ∧
  decodeTableWord 32 0xC38C0C00 = some (.gmov 70 3) ∧
  decodeTableWord 32 0x46066010 = some (.ldd .dv 3 6 16) ∧
  decodeTableWord 32 0x4D08924C = some (.amo 4 9 1 .cas .acquire .package) ∧
  decodeTableWord 32 0x6000A000 = some (.sbind 5 0 0) ∧
  decodeTableWord 32 0x61808000 = some (.sskip 4 0) ∧
  decodeTableWord 32 0x61240000 = some (.sstat 9 0) ∧
  decodeTableWord 32 0x83204185 = some (.vfma .row 64 65 66 .msel) ∧
  decodeTableWord 32 0x97428538 = some (.vadds .col 5 5 7 .off) ∧
  decodeTableWord 32 0xAF418100 = some (.vpop .col 3 1 .off) ∧
  decodeTableWord 32 0xB5020200 = some (.vmpopc 4 2) ∧
  decodeTableWord 32 0xC701FC00 = some (.gload 0 127) ∧
  decodeTableWord 32 0xE0800000 = some .eret ∧
  decodeTableWord 32 0xCA000000 = none ∧
  decodeTableWord 32 0xF0000000 = none ∧
  decodeBundle 0x080A5ED4C10A000083204185F4FF0000 =
    .ok ⟨true, [(1, .vfma .row 64 65 66 (.hdr 2)), (2, .opa 0 0 1 0 1), (3, .addi 5 5 0xFFED4)]⟩

/-- DECODE AND ENCODE AGREE (R197 to R200, R214): a bundle that holds one well-formed operation, in slot 0, or in slot 1 under a
header where its immediate or its mask needs one, decodes to that operation in that slot, with every operand at every value. -/
def Obligations.EncodeThenDecode : Prop :=
  ∀ i : Instr, i.wf = true → i.isStep = false →
    decodeBundle (encode i) =
      .ok ⟨needsHeader i, if i = .nop then [] else [(if needsHeader i then 1 else 0, i)]⟩

/-- A STEP RUNS THE DECODED INSTRUCTION (R129, R197, R178): where nothing else is due and the bytes at the pc are a bundle with one
operation in slot 0, the step is exec of that operation, and then time passes; where its hart has not moved on, an action of
another agent comes before time passes, which is the model's choice among the agents (logs 5 and 16). A bundle that waits for an operation it has sent keeps the words it was fetched with
(R173). -/
def Obligations.StepRunsTheOperation : Prop :=
  ∀ (s t : State) (b : Nat) (used : List RcEnt) (i : Instr),
    s.down = false → s.agenda = [] → s.settle = s → s.me.active = true → s.boundary s.cur = none → s.me.wfi = false →
    s.my.inval = none → s.my.passed = none → s.fetch (s.who s.cur) s.my.pc.toNat = .bundle b used →
    { s with raised := 0 }.useEntries s.cur used = { s with raised := 0 } →
    decodeBundle b = .ok ⟨false, [(0, i)]⟩ → i.wf = true → i.isStep = false → brokenSlot s.my false [] [(0, i)] = none →
    exec i s = .next t →
    let u := t.keepBundle s.cur b used
    (t.my.passed = none → u = t) ∧
    (s.moved u = true → step s = .next u.pass) ∧ (s.moved u = false → step s = .next u.autoStep.pass)

/-- The rules of a bundle (R130, R172 to R174, R201, R370): an illegal encoding and an illegal bundle trap, in the slot that breaks
the rule, without any effect; every operation reads its sources before any writes its result; and a bundle of which an operation
finds a trap at decode has no other effect. -/
def Obligations.BundleRules : Prop :=
  ∀ (s : State) (b : Nat) (used : List RcEnt),
    let h := s.my
    let trapped (t : State) (cause : Nat) (slot : Nat) : Prop :=
      t.my.sup.trapcause.toNat = cause + 2 ^ 8 * levelCode h.level ∧ t.my.sup.trappc = h.pc ∧ t.my.sup.trapaddr = 0 ∧
      t.my.sup.trapslot.toNat = slot + 4 ∧ t.my.level = .s ∧ t.my.handler = true ∧ t.my.pc = h.sup.trapvec ∧
      RegsKept h t.my ∧ t.my.ctl = h.ctl ∧ t.my.grid = h.grid ∧ OutsideKept s t ∧ CoreKept s.me t.me
    (∀ e, decodeBundle b = .error e → e.slot < 4 → trapped (s.issueBundle b used) 0x01 e.slot) ∧
    (∀ d k, decodeBundle b = .ok d → brokenSlot h d.header [] d.ops = some k → k < 4 →
      trapped (s.issueBundle b used) 0x02 k) ∧
    (∀ (ra rb rc rd : SReg) (y z : SReg), rc ≠ rd → rc ≠ 0 → rd ≠ 0 →
      decodeBundle b = .ok ⟨false, [(0, .add rc ra rb), (1, .sub rd y z)]⟩ → used = [] →
      s.awaitsDecode [.add rc ra rb, .sub rd y z] = false →
      let t := s.issueBundle b used
      t.my.rx rc = h.rx ra + h.rx rb ∧ t.my.rx rd = h.rx y - h.rx z ∧ t.my.pc = (h.advance h.pc none).1.pc ∧
      (∀ r, r ≠ rc → r ≠ rd → t.my.rx r = h.rx r) ∧ OutsideKept s t) ∧
    ∀ (ra rb rc rd : SReg), rc ≠ rd → decodeBundle b = .ok ⟨false, [(0, .add rc ra rb), (1, .fadd rd ra rb 7)]⟩ →
      s.my.passed = none → s.my.wait ≠ .ask → s.awaitsDecode [.add rc ra rb, .fadd rd ra rb 7] = false →
      trapped (s.issueBundle b used) 0x03 1

/-- THE SKEW OF ATIME IS KEPT BY EVERY STEP (R100, R102), while the master count is below the end of its range: no die is behind
the master count, none is more than 8 ticks ahead of it, so any two differ by at most 8; and the cores of a die read one value. -/
def Obligations.TimeSkew : Prop :=
  ∀ s t : State, step s = .next t → t.master + 8 < 2 ^ 64 →
    (∀ d e, d < 16 → e < 16 → t.master ≤ (t.die d).atime.toNat ∧ (t.die d).atime.toNat ≤ (t.die e).atime.toNat + 8) ∧
    ∀ j k, j / 96 = k / 96 → t.atime j = t.atime k

/-- The state after reset: the control words of the tables of spec/09 and spec/05, the capacity of a part without faults (R51,
R55), an empty error log, no access on its way, memory in its canonical form; and ATIME in step. The values that the model names
(log 3, and the boot context of log 1) are no part of this. -/
def Obligations.ResetState : Prop :=
  let s := State.reset
  s.mem.wf ∧ s.flights = [] ∧ s.ranges.moves = [] ∧ s.ranges.invals = [] ∧
  (∀ d, (s.die d).inService = true ∧ s.master ≤ (s.die d).atime.toNat ∧ (s.die d).atime.toNat ≤ s.master + 8 ∧
    (s.die d).stale = 0 ∧ (s.die d).held = []) ∧
  ∀ k, let c := s.core k
    let h := c.hart
    c.inService = true ∧ c.capgrid = 2 ∧ c.capscr = 512 ∧ c.logOver = 0 ∧ c.queue = [] ∧
    (∀ i, (c.errlog.get i).info.getLsbD 63 = false) ∧ (∀ i, (c.copies.get i).st = .ended) ∧
    h.ctl.vl = 0 ∧ h.ctl.vtype = 4 ∧ h.ctl.fill = 0 ∧ h.ctl.frm = 1 ∧ h.ctl.fflags = 0 ∧ h.ctl.qfmt = 0 ∧
    h.ctl.srseed = 0 ∧ h.ctl.strip = 0 ∧ h.ctl.tshp = 0x00014040 ∧ h.ctl.msel = 1 ∧ h.sup.vlcap = 2048 ∧ h.sup.owner = 0 ∧
    h.sup.dirbase = 0 ∧ h.sup.trapvec = 0 ∧ h.sup.trapcause = 0 ∧ h.sup.trappc = 0 ∧ h.sup.trapaddr = 0 ∧
    h.sup.trapslot = 0 ∧ h.sup.saveptr = 0 ∧ h.sup.violmode = false ∧ h.loops = [] ∧ (∀ q, (h.queue q).bind = 0)

/-- STORAGE (R5, R61, R67): a block stored to reads back, in the same name, as its old contents with the bytes of the mask
replaced; every other block reads as before, in any name; memory keeps its canonical form. -/
def Obligations.StorageReads : Prop :=
  ∀ (s t : State) (pa owner tweak : Nat) (val mask : BitVec 512),
    s.physWrite pa owner tweak val mask = .ok t →
    (s.mem.wf → t.mem.wf) ∧ t.my.x = s.my.x ∧ t.dies = s.dies ∧
    (∀ b, s.physRead pa owner tweak = .ok b → t.physRead pa owner tweak = .ok ((b &&& ~~~mask) ||| (val &&& mask))) ∧
    ∀ q o w, (Claim.place s (.mem q 0 none)).isSome = true → (Claim.place s (.mem pa 0 none)).isSome = true →
      Claim.place s (.mem q 0 none) ≠ Claim.place s (.mem pa 0 none) → t.physRead q o w = s.physRead q o w

/-! ## The steps of the other agents (spec/95 and the rules it gathers): each in a state that gives it occasion -/

/-- A step of another agent gives a state, whole. -/
def Sys2Proof.Claim.Does (i : Instr) (s t : State) : Prop := exec i s = .next t

/-- A core changed, and nothing else. -/
def Sys2Proof.Claim.DoesCore (i : Instr) (s : State) (k : Nat) (f : Core → Core) : Prop :=
  exec i s = .next { s with cores := s.cores.put k (f (s.core k)) }

/-- An access whose blocks may perform where they are: it has arrived, its chunks have not moved, its segments are still, its
ranges are not waiting for a place, and what it must follow has performed (R39, R56, R63, R102, R108). -/
def Sys2Proof.Claim.Able (s : State) (k : Nat) (f : Flight) : Prop :=
  s.flights[k]? = some f ∧ f.awaits = false ∧ f.time = none ∧ f.fails = [] ∧ f.late = [] ∧ s.arrived f = true ∧
  s.mayPerform (s.flights.take k) f = true ∧ ∀ p ∈ f.pieces, s.heldBack f p = false ∧ s.lostPiece f p = p

/-- A step performs some blocks of a store, and the others stay (R109, R248): storage takes the values, and the access is done
with its last block. -/
def Sys2Proof.Claim.StoreStep (i : Instr) (s : State) (k : Nat) (f : Flight) (now rest : List Piece) : Prop :=
  f.act = .write → f.land = .drop → f.pieces ≠ [] → (∀ q ∈ f.pieces, s.locPeer q.loc = false) →
  f.owed = false → Claim.Answers s f.plain f.pieces →
  Happens i s fun t => t.dies = s.dies ∧ Claim.Writes s t f.plain now ∧
    (rest = [] → t.flights = dropAt s.flights k) ∧
    (rest ≠ [] → t.flights = modAt s.flights k fun _ =>
      { f with pieces := rest, heard := s.answerAt f now, done := f.done ++ now.map (·.blk) })

/-- A step performs the one block of a load that its bundle waits for: its bits are there, and its answer is on its way back
(R102, R107). -/
def Sys2Proof.Claim.LoadStep (i : Instr) (s : State) (k : Nat) (f : Flight) (p : Piece) : Prop :=
  ∀ gs b, f.act = .read → f.owed = false → f.land = .ask gs → f.pieces = [p] → s.homeRead f.plain p.loc = .ok b →
  Claim.Does i s { s with flights := modAt s.flights k fun _ =>
    { f with pieces := [], got := (f.read p b).got, done := f.done ++ [p.blk], awaits := false, heard := s.answerAt f [p] } }

/-- The fabric and the homes (R45 to R47, R102, R105, R107, R126, R127, R40, R248): bundle fetch; an access, or one block of it,
performing at its home, in a scratchpad line by line, at the host and behind a peer link; replies; and moved responses, which an
access meets once it has arrived, and which travel 8 ticks between dies. -/
def Sys2Proof.Claim.HomeSteps : Prop :=
  ∀ (s : State) (k core : Nat) (f : Flight) (p : Piece),
    (∀ b used, s.me.active = true → s.boundary s.cur = none → s.me.wfi = false → s.my.inval = none → s.my.passed = none →
      s.fetch (s.who s.cur) s.my.pc.toNat = .bundle b used → Claim.Does .bundleFetch s (s.issueBundle b used)) ∧
    (Claim.Able s k f → f.space ≠ 1 → f.space ≠ 2 →
      (s.pick = none → Claim.StoreStep (.accessAtHome k) s k f f.pieces []) ∧
      (∀ j, s.pick = some j → f.pieces[j]? = some p →
        Claim.StoreStep (.accessAtHome k) s k f [p] (dropAt f.pieces j)) ∧
      (s.locHost p.loc = false → Claim.LoadStep (.accessAtHome k) s k f p) ∧
      (f.act = .read → f.pieces = [p] → s.locHost p.loc = true →
        Claim.Does (.accessAtHome k) s { s with flights := modAt s.flights k fun _ => { f with awaits := true } })) ∧
    (Claim.Able s k f → f.space = 1 ∨ (f.space = 2 ∧ f.accepted = true) → s.portBefore k f = false →
      Claim.StoreStep (.scratchAccessComplete k) s k f f.firstLine.1 f.firstLine.2 ∧
      Claim.LoadStep (.scratchAccessComplete k) s k f p) ∧
    (s.flights[k]? = some f → f.awaits = true → f.fails = [] →
      (s.heldBack f p = false → Claim.LoadStep (.hostCompletion k) s k f p) ∧
      (f.pieces = [] → f.land = .drop → Claim.Does (.peerAck k) s { s with flights := dropAt s.flights k })) ∧
    (s.flights[k]? = some f → f.space = 2 → f.accepted = false → f.pieces = [p] →
      (∀ g ∈ s.flights.take k, g.space = 2 → g.core = f.core → g.accepted = true) →
      (s.ownerBad f p = false →
        Claim.Does (.clusterScratchArrival k) s { s with
          uid := s.uid + 1, flights := modAt s.flights k fun _ => { f with accepted := true, port := s.uid } }) ∧
      (s.ownerBad f p = true → ∀ gs, f.land = .ask gs → Claim.Does (.clusterScratchArrival k) s { s with
        uid := s.uid + 1, flights := modAt s.flights k fun _ =>
          { f with accepted := true, port := s.uid, pieces := [], fails := f.fails ++ [⟨p.lo, 0x06, false, p.strict⟩] } })) ∧
    (core < 1536 → s.flights = [f] → f.ready = true → s.returned f = true → (s.hart core).wait = .ask →
      f.ofCtx core (s.hart core).sup.owner.toNat (s.hart core).sup.saveptr.toNat = true →
      Happens (.accessReply core) s fun t => t.flights = [] ∧ t.hart core = { s.hart core with wait := .answer f }) ∧
    ∀ pa h c m, s.flights[k]? = some f → f.pieces = [p] → p.loc = .mem pa h c →
      s.ranges.moves.find? (·.passed pa) = some m →
      let back := (s.die m.homeA).atime.toNat + (if m.homeA = f.core / 96 then 0 else 8)
      (s.arrived f = true → Claim.Does (.movedResponseResend k) s { s with flights := modAt s.flights k fun f =>
        { f with pieces := [{ p with loc := .mem (m.dst + (pa - m.src)) m.homeB c }]
                 again := max f.again back, sent := max f.sent back } }) ∧
      (s.arrived f = false → Claim.Does (.movedResponseResend k) s s)

/-- What loads bring to the grid (R135, R263, R308): an arrival group and a decoded stream land once their answers are there and
their rows are free; the clearing, moving and transposing operations end. -/
def Sys2Proof.Claim.LandingSteps : Prop :=
  ∀ (s : State) (core : Nat) (f : Flight),
    let there : Prop := s.flights = [f] ∧ f.pieces = [] ∧ f.awaits = false ∧ f.fails = [] ∧ s.returned f = true ∧
      s.present f.core f.area f.lvl = true
    (∀ fill g, there → f.land = .groups fill [g] → s.pick = none → (s.hart f.core).grid.busy.getLsbD g.row = false →
      Happens (.arrivalGroupLanded 0) s fun t => t.flights = [] ∧ t.mem = s.mem ∧
        (t.hart f.core).grid.missing.getD g.row 0xFF =
          (s.hart f.core).grid.missing.getD g.row 0xFF ||| BitVec.ofNat 8 (2 ^ g.grp) ∧
        (t.hart f.core).grid.rows.get g.row =
          deliverAll ((s.hart f.core).grid.rows.get g.row) f.got fill g.elems) ∧
    (∀ row n cap ea bound reg, core < 1536 → there → f.core = core → f.land = .decode row n cap ea bound reg →
      (∀ r, row ≤ r → r < row + n → (s.hart core).grid.busy.getLsbD r = false) →
      let d := dbpOf f.got n cap ea bound
      Happens (.vldcDecodeEnd core) s fun t => t.flights = [] ∧ t.mem = s.mem ∧
        (t.hart core).ctl.vl = d.vals.length ∧ OnlyReg (s.hart core) (t.hart core) reg (BitVec.ofNat 64 (d.off + d.flags)) ∧
        (∀ r, row ≤ r → r < row + n → (t.hart core).grid.missing.getD r 0xFF = 0xFF) ∧
        ∀ r, r < row ∨ row + n ≤ r → (t.hart core).grid.rows.get r = (s.hart core).grid.rows.get r) ∧
    (core < 1536 → Happens (.clearMoveTransposeComplete core) s fun t =>
      (t.hart core).grid.busy = (s.hart core).grid.busy &&& ~~~(s.hart core).clearing ∧ (t.hart core).clearing = 0 ∧
      (t.hart core).grid.rows = (s.hart core).grid.rows ∧ ∀ j, j ≠ core → t.core j = s.core j)

/-- Timed stores (R118, R120, R122, R181): one that arrives before its time is held at its home, performs there once the time has
come, and one that came late is reported. -/
def Sys2Proof.Claim.TimedSteps : Prop :=
  ∀ (s : State) (f : Flight) (p : Piece),
    (∀ time d, s.flights = [f] → s.ranges.moves = [] → s.ranges.placing = [] → f.time = some time → f.act = .write →
      f.land = .drop → f.accepted = false → f.wasFuture = true → f.late = [] → f.fails = [] → f.pieces = [p] →
      p.loc.die = some d → (∀ c o, p.loc = .scr c o → (s.core c).segMoving (o / 4096) = false) →
      (s.die d).held.length < 4096 → s.homeReached p.loc time = false → s.arrived f = true →
      s.present f.core f.area f.lvl = true →
      ∀ i, i = Instr.timedAccessArrival 0 ∨ i = Instr.timedAccessAccept 0 →
      Happens i s fun t => t.flights = [] ∧ t.mem = s.mem ∧ (t.hart f.core).pend = (s.hart f.core).pend - 1 ∧
        ∃ g, (t.die d).held = (s.die d).held ++ [g] ∧ g.time = some time ∧ g.pieces = [p]) ∧
    (∀ time d, d < 16 → s.flights = [] → (s.die d).held = [f] → f.time = some time → s.homeReached p.loc time = true →
      f.plain = false → s.locPeer p.loc = false → f.act = .write → f.pieces = [p] → s.heldBack f p = false → Claim.Answers s false [p] →
      Happens (.timedAccessDue d) s fun t => (t.die d).held = [] ∧ t.flights = [] ∧ Claim.Writes s t false [p]) ∧
    ∀ n, s.flights = [f] → f.lateNotice = some n → f.accepted = true → f.land = .drop →
      s.present f.core f.area f.lvl = true → (s.hart f.core).notices.length < 8 →
      Happens (.missedDeadlineReport 0) s fun t => t.flights = [] ∧ t.mem = s.mem ∧
        (t.hart f.core).notices = (s.hart f.core).notices ++ [n] ∧ (t.hart f.core).pend = (s.hart f.core).pend - 1

/-- The steps that accesses take after their issue (R40, R45 to R47, R105, R107, R118, R120, R122, R126, R127, R135, R181, R248,
R263, R308). -/
def Obligations.AccessSteps : Prop := Claim.HomeSteps ∧ Claim.LandingSteps ∧ Claim.TimedSteps

/-- The long operations, the streams and the copies (R134, R176, R269, R270, R276, R303 to R306, R278, R281, R284, R297): an OPA's
steps and their end, a vector operation's end; an entry fetched, arriving and written, of a scratchpad line by line (R45); a copy's
start and end; the ends of waits. A copy moves its elements in one action, at its end (log 43), and one that is stopped ends after
as many writes as `pick` says (log 77): both are the model's choices. -/
def Obligations.OperationSteps : Prop :=
  ∀ (s : State) (core : Nat) (q : Nat),
    let c := s.core core
    let h := c.hart
    let b := h.queue q
    core < 1536 →
    (∀ (o : OpaRun) float r ea ra eb rb, h.opas = [o] → o.step < o.steps → opaKind o.fa o.fb = some (float, r) →
      fmtScaled o.fa = false → fmtScaled o.fb = false → o.qa ≠ o.qb → (∀ l, h.long = some l → ∀ n ∈ l.touches, n / 64 ≠ o.half) →
      (h.queue o.qa).entries = ea :: ra → (h.queue o.qb).entries = eb :: rb →
      Happens (.opaStep core) s fun t =>
        (t.hart core).opas = [{ o with step := o.step + 1, heldA := [], heldB := [] }] ∧ t.mem = s.mem ∧ t.flights = s.flights ∧
        ((t.hart core).queue o.qa).entries = ra ∧ ((t.hart core).queue o.qb).entries = rb ∧
        (∀ n, n < 64 * o.half ∨ 64 * o.half + tshpM o.tshp ≤ n → (t.hart core).grid.rows.get n = h.grid.rows.get n) ∧
        ∀ j, j ≠ core → t.core j = s.core j) ∧
    (∀ o, h.opas = [o] → o.steps ≤ o.step → o.half < 2 →
      Happens (.opaComplete core o.half) s fun t => (t.hart core).opas = [] ∧
        (∀ n, n < 128 → (t.hart core).grid.busy.getLsbD n = (h.grid.busy.getLsbD n && !decide (n / 64 = o.half))) ∧
        (t.hart core).grid.rows = h.grid.rows) ∧
    (∀ l p, h.long = some l → l.instr.bind planOf = some p →
      let next := l.start + max 1 l.cap.vlmax
      (l.needs ≠ [] → Claim.Does (.longOperationComplete core) s s) ∧
      (l.needs = [] → l.cap.vl ≤ next →
        Happens (.longOperationComplete core) s fun t => (t.hart core).long = none ∧ t.mem = s.mem ∧
          (t.hart core).grid.rows =
            (p.run l.cap l.src ((p.visits l.cap l.src l.start).filter (· < next)) h.grid { seed := l.cap.seed }).1.rows ∧
          ∀ n ∈ l.rows, (t.hart core).grid.busy.getLsbD n = false)) ∧
    (b.bind = 1 → b.fault = none → walkDone b.rcd b.win = false → b.entries.length + b.inbound.length < 16 →
      b.partner = none → (h.handler = true → h.saved = false) → c.active = true → c.left = [] → b.part = none →
      s.pick = none ∨ (recSpace b.rcd ≠ 1 ∧ recSpace b.rcd ≠ 2) →
      let w := s.streamWho core
      let settle (f : Nat) : Queue :=
        let g := tensorGeom b.rcd (s.rangeFor w (recSpace b.rcd) (recBase b.rcd))
        { b with fmt := some f, blen := g.1, bdim := g.2 }
      ∀ f x es, s.examine w b false (b.win, b.pos) (fun f es =>
          (es.filterMap id).flatMap (·.reqs f) ++ (s.nextScales w (settle f) f).flatMap (·.reqs f)) = .ready f x es →
        s.inStep core x.pieces = true → s.behindFence w clsQR x.pieces = false →
        s.strictError (streamFlight w b .read clsQR x) = none → s.portTaken (streamFlight w b .read clsQR x) = false →
        Happens (.streamPrefetch core q) s fun t =>
          let r := (t.hart core).queue q
          t.mem = s.mem ∧ r.fmt = some f ∧ r.rcd = b.rcd ∧ (r.win, r.pos) = nextPlace b.rcd f (b.win, b.pos) ∧
          r.scales.length = b.scales.length + (s.nextScales w (settle f) f).length ∧
          ∃ e, e.win = b.win ∧ e.pos = b.pos ∧
            (s.delay = false → r.entries = b.entries ++ [e] ∧ r.inbound = b.inbound) ∧
            (s.delay = true → r.inbound = b.inbound ++ [e] ∧ r.entries = b.entries)) ∧
    (∀ e rest, b.inbound = e :: rest → Happens (.streamEntryArrival core q) s fun t =>
      (t.hart core).queue q = { b with entries := b.entries ++ [e], inbound := rest } ∧ t.mem = s.mem ∧
      ∀ j, j ≠ q → (t.hart core).queue j = h.queue j) ∧
    (∀ e rest u, c.left = [] → b.bind = 2 → b.entries = e :: rest → s.writeWord (s.streamWho core) b e = some u →
      (u.hart core).queue q = b →
      Happens (.streamEntryWrite core q) s fun t =>
        (t.hart core).queue q = { b with entries := rest, part := none } ∧ t.mem = u.mem) ∧
    (∀ e rest g u, c.left = [] → b.bind = 2 → b.entries = e :: rest → s.writeLines (s.streamWho core) b e = some (g, u) →
      g.pieces ≠ [] → (u.hart core).queue q = b →
      Happens (.streamEntryWrite core q) s fun t => (t.hart core).queue q = { b with part := some g } ∧ t.mem = u.mem) ∧
    (∀ d slot y src dst f g u, d = core / 96 → s.copiesOf d .running = [] →
      firstCopy ((s.copiesOf d .waiting).filter fun x =>
        !x.2.2.stopping && decide (x.2.2.notBefore ≤ (s.die d).atime.toNat)) = some (core, slot, y) →
      s.openCopy core { y with lighter := 0 } = .ok src dst f g u →
      Happens (.copyStart d) s fun t => (t.core core).copies.get slot =
        { y with lighter := 0, st := .running, src := src, dst := dst, sfmt := f, dfmt := g } ∧ t.mem = u.mem) ∧
    (∀ slot, (c.copies.get slot).st = .waiting → (c.copies.get slot).stopping = true →
      s.finishCopy core slot (c.copies.get slot) 0x0A false 0 ≠ none →
      Happens (.copyEnd core slot) s fun t => ((t.core core).copies.get slot).st = .ended ∧
        ((t.core core).copies.get slot).code = 0x0A) ∧
    (∀ slot u, let y := c.copies.get slot
      let r := s.moveCopy core y (if y.stopping then some (s.pick.getD 0) else none)
      let code := r.stop.getD (if y.stopping then 0x0A else if r.failed then 0x02 else 0x01)
      y.st = .running → y.code = 0 → r.wait = false →
      ((r.s.formatErrors core r.f.fmtErrs).sendCopied core y r.whole).finishCopy core slot y code r.sat r.n = some u →
      Happens (.copyEnd core slot) s fun t => t.mem = u.mem ∧ ((t.core core).copies.get slot).st = .ended ∧
        ((t.core core).copies.get slot).code = code ∧ ((t.core core).copies.get slot).written = r.n) ∧
    (∀ k i, h.ewait = .cpyx k i → ((s.core k).copies.get i).st = .ended → Happens (.cpyxAck core) s fun t =>
      t.hart core = { h with ewait := .cpyxDone ((s.core k).copies.get i).status } ∧ t.mem = s.mem) ∧
    (∀ l o w, h.ewait = .watch l o w → s.reports core l o w = true → Claim.Does (.waitaReport core) s (s.scanWatches.turn core)) ∧
    ((s.blockKind core = 7 → Claim.Does (.twaitExpiry core) s (s.turn core)) ∧
      (s.blockKind core = 4 → Claim.Does (.gbarOpeningTime core) s (s.turn core)) ∧
      (s.blockKind core ≠ 0 → Claim.Does (.blockEnd core) s (s.turn core))) ∧
    (h.notices ≠ [] ∨ c.preempt = true ∨ c.evict = true ∨ 4096 ≤ c.waited →
      Claim.DoesCore (.wfiWake core) s core fun c => { c with wfi := false })

/-- The range agents (R34, R35, R37 to R41, R62 to R64, R290): invalidations visit holders and complete; fills are recorded; searches
end; a dredger starts a move, takes LOCK, opens chunks, brings them back and ends; references of known blocks; evacuated ranges.
That the segments of an evacuated range are placed together, as its directory holds the range by then, and that nothing happens where
there is no room and the dispatcher has been told, is the model's choice (logs 53 and 84). -/
def Obligations.RangeSteps : Prop :=
  ∀ (s : State) (k : Nat) (v : Inval) (m : Move) (x : Xfer),
    let ranges (f : Ranges → Ranges) : State := { s with ranges := f s.ranges }
    (∀ agent, s.ranges.invals[k]? = some v → agent < 16 → v.holders.getLsbD agent = true →
      Happens (.holderDrop k agent) s fun t => t.mem = s.mem ∧
        t.ranges = { s.ranges with invals := modAt s.ranges.invals k fun v =>
          { v with holders := v.holders &&& ~~~(BitVec.twoPow 17 agent) } } ∧
        ∀ j e, j / 96 = agent → (e ∈ (t.core j).cache ↔
          e ∈ (s.core j).cache ∧ ¬(e.owner = v.owner ∧ v.lo < v.hi ∧ e.desc.base.toNat < v.hi ∧ v.lo < e.desc.lim.toNat))) ∧
    (∀ core a, s.ranges.invals[k]? = some v → s.invalDone v = true → v.what = .hart core a →
      Happens (.rginvComplete k) s fun t => t.mem = s.mem ∧ t.ranges.invals = dropAt s.ranges.invals k ∧
        (∀ j, (s.hart j).inval = some v.id → (t.hart j).inval = none) ∧
        ∀ r ∈ t.ranges.records, r.owner = v.owner → ¬(v.lo < v.hi ∧ r.lo < v.hi ∧ v.lo < r.hi)) ∧
    (∀ core a dirbase, s.ranges.invals[k]? = some v → s.invalDone v = true → v.what = .edit core a dirbase →
      let u : State := ranges fun r => { r with
        invals := dropAt r.invals k
        records := r.records.filter fun t => !(t.owner == v.owner && cross v.lo v.hi t.lo t.hi) }
      Happens (.rginvComplete k) s fun t => t.ranges = u.ranges ∧ t.mem = (u.unlock dirbase).mem ∧
        ∀ j, (s.hart j).ewait = .edit v.id → (t.hart j).ewait = .edited 0) ∧
    (∀ f, s.ranges.fills[k]? = some f → s.ranges.waiting.contains (f.owner % 16) = false →
      Claim.Does (.fillRecord k) s ((ranges fun r => { r with fills := dropAt r.fills k }).recordFill f)) ∧
    (s.ranges.waiting.contains (k % 16) = true → s.flights = [] → (∀ p ∈ s.dies, p.2.held = []) → s.ranges.searches = [] →
      Happens (.sliceDropComplete k) s fun t => t.mem = s.mem ∧ t.ranges.waiting.contains (k % 16) = false ∧
        ∀ j, ∀ e ∈ (t.core j).cache, e.owner % 16 ≠ k % 16) ∧
    (∀ y d i c p, s.ranges.searches[k]? = some y → y.va.toNat < 2 ^ 57 → s.ranges.invals = [] →
      (ranges fun r => { r with searches := dropAt r.searches k }).search y.dirbase y.va.toNat = .ent d i c p →
      Claim.Does (.retrieverSearchEnd k) s
        ((ranges fun r => { r with searches := dropAt r.searches k }).useEntries y.core
          (foundEntries s.link.expanders y.owner i d c p).2)) ∧
    (∀ owner va pa home o i d, s.ownEnt owner = some o → s.entryAt o.dirbase.toNat va = some (i, d) → pa % 64 = 0 →
      homeOk s.link.expanders pa d.size home d.owner = true → s.roomAt pa d.size = true → s.ranges.moves = [] →
      s.lockOf o.dirbase.toNat ≠ some 0 →
      Happens (.dredgerMove owner va pa home) s fun t => t.mem = s.mem ∧
        ∃ n, t.ranges.moves = [n] ∧ n.st = .lock ∧ n.src = d.pa ∧ n.dst = pa ∧ n.homeB = home ∧ n.desc = d) ∧
    (∀ t i d, s.ranges.moves[k]? = some m → m.st = .lock → s.tryLock m.dirbase (lockDredger m.homeA) = some t →
      s.entryAt m.dirbase m.desc.base.toNat = some (i, d) → d.phys = m.desc.phys → d.lim = m.desc.lim →
      Claim.Does (.dredgerLockRetry k) s { t with ranges := { t.ranges with
        moves := modAt t.ranges.moves k fun m => { m with st := .copying, index := i, desc := d } } }) ∧
    (∀ off len, s.ranges.moves = [m] → s.ranges.xfers = [] → m.st = .copying → m.back = false →
      m.desc.chunks[m.chunk]? = some (off, len) → m.chunk + 1 < m.desc.chunks.length → s.dedups m off len = false →
      Happens (.chunkOpen 0) s fun t => t.mem = (s.moveBytes (m.src + off) (m.dst + off) len).mem ∧
        t.ranges.moves = [{ m with chunk := m.chunk + 1, shut := false }]) ∧
    (∀ n off len, s.ranges.moves = [m] → m.st = .copying → m.back = true → m.chunk = n + 1 →
      m.desc.chunks[n]? = some (off, len) →
      let u : State := ranges fun r => { r with moves := [{ m with chunk := n }] }
      Happens (.chunkOpen 0) s fun t => t.mem = (u.moveBytes (m.dst + off) (m.src + off) len).mem ∧
        t.ranges.moves = [{ m with chunk := n }] ∧
        (m.src + len ≤ m.dst ∨ m.dst + len ≤ m.src → ∀ f ∈ t.flights, ∀ p ∈ f.pieces, ∀ pa h c, p.loc = .mem pa h c →
          ¬(m.dst + off ≤ pa ∧ pa < m.dst + off + len))) ∧
    (s.ranges.moves[k]? = some m → m.st = .finish → (m.back = true → ∀ d, (s.die d).hbmGone = []) →
      Happens (.moveFinish k) s fun t => t.ranges.moves = dropAt s.ranges.moves k ∧ t.mem = (s.unlock m.dirbase).mem ∧
        (m.back = false → t.ranges.placing = s.ranges.placing) ∧
        (m.requester ≠ none → ∀ j, (s.hart j).ewait = .edit m.id →
          (t.hart j).ewait = .edited (if m.back then 8 else 0))) ∧
    (s.ranges.xfers = [x] → x.done = false → s.ranges.moves = [m] → m.dst ≤ x.pa → x.pa < m.dst + m.desc.size →
      let full := s.moveBytes (m.src + (x.pa - m.dst)) x.pa 4096
      (Happens (.manifestReference 0) s fun t => t.ranges.xfers = [{ x with done := true }] ∧
        (t.die x.src).sentRef.get x.dst = (s.die x.src).sentRef.get x.dst + 1 ∧
        (t.die x.src).sentFull = (s.die x.src).sentFull ∧
        (Config.blockHash x.owner (bytesOf (cellsRead full.mem.cells x.pa 4096) 4096) = x.hash → ∀ n, n < 4096 → cellsRead t.mem.cells (x.pa + n) 1 = x.content / 256 ^ n % 256)) ∧
      Happens (.manifestRefusal 0) s fun t => t.ranges.xfers = [{ x with done := true }] ∧
        (t.die x.src).sentNo.get x.dst = (s.die x.src).sentNo.get x.dst + 1 ∧
        (t.die x.src).sentFull.get x.dst = (s.die x.src).sentFull.get x.dst + 1 ∧
        t.mem = full.mem) ∧
    (∀ p i d, s.ranges.placing[k]? = some p → s.placingNow p = some (i, d) → s.newPlace s.roomiest d.size = none → p.told = true →
      Claim.Does (.segmentPlacement k) s s) ∧
    (∀ p i d pa home t, s.ranges.placing = [p] → s.ranges.moves = [] → s.placingNow p = some (i, d) → p.desc.lim ≤ d.lim →
      s.newPlace s.roomiest d.size = some (pa, home) → s.tryLock p.dirbase (lockDredger home) = some t →
      Happens (.segmentPlacement 0) s fun u => u.ranges.placing = [] ∧
        ∃ n, u.ranges.moves = [n] ∧ n.dst = pa ∧ n.homeB = home ∧ n.st = .inval ∧ n.desc = d) ∧
    ∀ d, d < 16 → Happens (.placementGraceExpiry d) s fun t => t.mem = s.mem ∧ t.cores = s.cores ∧
      (∀ p, p ∈ t.ranges.placing ↔ p ∈ s.ranges.placing ∧ ¬(p.die = d ∧ p.grace ≤ s.master)) ∧
      ∀ l, l ∈ t.ranges.lost ↔ l ∈ s.ranges.lost ∨ ∃ p ∈ s.ranges.placing, p.die = d ∧ p.grace ≤ s.master ∧
        l = (p.owner, p.desc.base.toNat, p.desc.lim.toNat)

/-- The distributors, the watchdog, the sheepdog and the harbourmaster (R144, R146, R151, R154 to R160, R163, R166, R168, R169, R175,
R181 to R188, R192, R195, R369): placing, switching, staging, saving; shares; late slices; notices and resumable traps taken. -/
def Obligations.SchedulingSteps : Prop :=
  ∀ (s : State) (core die slot area : Nat),
    let c := s.core core
    let h := c.hart
    let u := (s.die die).slots.get slot
    core < 1536 → die < 16 →
    (∀ o a k e, e = newEntry u (u.handle die slot) u.nextIdx a o → u.waits = true → u.gang = false → s.harbour.takeover = false → s.firstToPlace die slot = true →
      s.ownEnt u.owner = some o → s.freeArea u.owner o = some a →
      s.bestCore u e allCores = some k →
      Happens (.placement die slot) s fun t => (t.core k).queue = (s.core k).queue ++ [e] ∧
        a ∈ t.harbour.pools.get u.owner ∧ ((t.die die).slots.get slot).running = u.running + 1 ∧
        ((s.core k).resident = none → t.mem = s.mem) ∧
        (s.coreFree k = true → (∀ r, (s.core k).resident = some r → r.area ≠ a) → (t.core k).resident = some { area := a, owner := u.owner, alloc := u.alloc })) ∧
    (∀ o ks, u.waits = true → u.gang = true → s.harbour.takeover = false → s.firstToPlace die slot = true →
      s.ownEnt u.owner = some o → gangCores (s.eligibleCores u) u.width = some ks →
      u.width ≤ (s.freeAreas u.owner o).length → ks.length = u.width → (∀ k, (s.core k).resident = none) →
      Happens (.gangPlacement die slot) s fun t => t.mem = s.mem ∧ ((t.die die).slots.get slot).running = u.width ∧
        ((t.die die).slots.get slot).handedOut = u.width ∧ ∀ k ∈ ks, (s.core k).queue.length < (t.core k).queue.length) ∧
    (∀ i, (i = Instr.switchOut core ∧ c.preempt = true) ∨
        (i = Instr.blockSwitchOut core ∧ 4096 < c.waited ∧ ∃ e, c.running = some e ∧ e.blk.kind ≠ 0) →
      c.active = true → h.handler = false → h.due = [] → c.staging = none →
      Happens i s fun t => (t.core core).active = false ∧ (t.core core).preempt = false ∧ t.mem = s.mem ∧
        (∃ g, (t.core core).staging = some g ∧ g.area = h.sup.saveptr.toNat ∧ g.owner = h.sup.owner.toNat) ∧
        (t.core core).running = none ∧ ∀ j, j ≠ core → t.core j = s.core j) ∧
    (∀ e, s.coreFree core = true → c.next = some e → e.st = .fresh → c.resident = none →
      Happens (.switchIn core) s fun t => (t.core core).active = true ∧ (t.hart core).pc = e.entry ∧ t.mem = s.mem ∧
        (t.hart core).level = .u ∧ (∀ r, (t.hart core).rx r = 0) ∧ (t.hart core).ident.arg = e.arg ∧
        (t.hart core).ident.handle = e.handle ∧ (t.hart core).ident.gangidx = BitVec.ofNat 32 e.idx ∧
        (t.hart core).sup.saveptr = BitVec.ofNat 64 e.area ∧ (t.hart core).sup.owner = BitVec.ofNat 12 e.owner ∧
        (t.hart core).ctl.vtype = 4 ∧ (t.hart core).ctl.frm = 1 ∧ (t.hart core).loops = []) ∧
    (∀ e, c.next = some e → e.st = .out → e.staged = false → s.areaBusy e.area e.owner = false →
      Happens (.contextStaged core) s fun t => t.mem = s.mem ∧
        ∀ x, x ∈ (t.core core).queue ↔ ∃ y ∈ c.queue, x = if y.area = e.area then { y with staged := true } else y) ∧
    (∀ g u v, c.staging = some g → g.held = false → s.drainChunks g.area g.owner g.chunks = (u, none) →
      u.gsavePending g.area g.owner = false → u.absentAt g.area = false →
      u.areaPut g.area g.owner 0 8 (1 + 57472 * 2 ^ 32 + (u.areaGet g.area g.owner 2 2 / 2 * 2) * 2 ^ 16) = .ok v →
      Happens (.saveDrain core) s fun t => (t.core core).staging = none ∧ t.mem = v.mem) ∧
    (∀ g, c.staging = some g → g.area < 2 ^ 64 → Claim.DoesCore (.saveRestart core g.area) s core
      fun c => { c with staging := some { g with held := false } }) ∧
    (∀ n a, s.absent[n]? = some a → a.hart.answered = true → s.entryOf a.area = none →
      Claim.Does (.absentBundleResolved n) s { s with absent := dropAt s.absent n }) ∧
    (∀ n a j e, s.absent[n]? = some a → a.hart.answered = true → s.entryOf a.area = some (j, e) → s.stored a.area = true →
      let old := s.absentHart a.hart a.area
      let v : State := State.bundleTurn { s.modCore j (fun c => c.standIn a.area old) with cur := j } j
      let g := v.hart j
      let owner := g.sup.owner.toNat
      g.wait = .none → g.ewait = .none → v.ranges.moves = [] → a.area % 64 = 0 →
      (∀ b, b < 8 → (∃ d, v.region (a.area + 64 * b) = .hbm d) ∧
        ∃ w, v.physRead (a.area + 64 * b) (areaOwner owner b) b = .ok w) →
      Happens (.absentBundleResolved n) s fun t => t.absent = dropAt s.absent n ∧
        ((g.handler = true → old.handler = true) → t.areaGet a.area owner 8 8 = g.pc.toNat ∧
          (∀ r : SReg, r ≠ 0 → t.areaGet a.area owner (128 + 8 * r.toNat) 8 = (g.rx r).toNat) ∧
          t.areaGet a.area owner 384 8 = g.ctl.fflags.toNat) ∧
        (g.handler = true → old.handler = false → t.areaGet a.area owner 488 8 = g.sup.trapaddr.toNat ∧
          t.areaGet a.area owner 496 8 = g.sup.trapcause.toNat % 256 + g.sup.trapslot.toNat % 4 * 256 + 2 ^ 63)) ∧
    (∀ e, c.queue = [e] → e.area = area → e.st = .waiting → e.blk.kind = 7 → e.blk.obj.toNat ≤ s.atime core →
      s.ranges.invals = [] → s.areaBusy area e.owner = false →
      Happens (.blockedCauseClear core area) s fun t => (t.core core).queue =
        [{ e with st := .out, waited := 0, blk := { e.blk with kind := 0, obj := 0 } }] ∧ t.mem = s.mem) ∧
    (c.share.window ≠ s.atime core / 40000000 →
      Claim.DoesCore (.shareWindowStart core) s core fun c =>
        { c with share := { c.share with window := s.atime core / 40000000, elapsed := 0, bg := 0 } }) ∧
    (∀ e, c.owed = some e → c.turn = none → 5760 ≤ c.share.fg →
      Happens (.shareTurn core) s fun t => (t.core core).turn = some (e.handle, e.idx) ∧
        (t.core core).share.fg = c.share.fg - 5760 ∧ (t.core core).share.ran = 0) ∧
    (∀ e, c.running = some e → c.turn = some (e.handle, e.idx) → 384 ≤ c.share.ran →
      Happens (.shareTurnEnd core) s fun t => (t.core core).turn = none ∧ t.hart core = h) ∧
    (u.live = true → u.finished = false → u.failed = false → u.late = false → u.cls = 1 →
      (u.rcd.getD 2 0).toNat ≤ (s.die die).atime.toNat →
      Happens (.sliceDeadlinePassed die slot) s fun t => ((t.die die).slots.get slot).late = true ∧
        (t.die die).misses = (s.die die).misses + 1) ∧
    (∀ n rest, c.active = true → h.notices = n :: rest → h.handler = false → h.dueTrap = none → s.noticeWaits core = false →
      Happens (.noticeTaken core) s fun t => (t.hart core).notices = rest ∧ (t.hart core).pc = h.sup.trapvec ∧
        (t.hart core).sup.trapcause.toNat = n.cause % 2 ^ 8 + 2 ^ 8 * levelCode h.level ∧
        (t.hart core).sup.trapaddr = n.addr ∧ (t.hart core).sup.trappc = h.pc ∧ (t.hart core).sup.trapslot = 0 ∧
        (t.hart core).handler = true ∧ (t.hart core).level = .s ∧ t.mem = s.mem) ∧
    (∀ d, c.active = true → h.due = [d] → d.resumable = true → d.slot = some 0 → h.inval = none →
      s.underWay core = false → savingCause d.cause = false →
      Happens (.resumableTrap core) s fun t => (t.hart core).due = [] ∧ (t.hart core).pc = h.sup.trapvec ∧
        (t.hart core).sup.trapcause.toNat = d.cause % 2 ^ 8 + 2 ^ 8 * levelCode h.level ∧
        (t.hart core).sup.trapslot = 12 ∧ (t.hart core).sup.trapaddr = d.addr ∧ t.mem = s.mem) ∧
    (s.harbour.sampled ≠ s.master / 4000000 → s.circlesNow = [] → Claim.Does .sheepdogSample s
      { s with harbour := { s.harbour with sample := [], sampled := s.master / 4000000, told := [] } }) ∧
    (∀ m rest e, s.harbour.sampled ≠ s.master / 4000000 → s.circlesNow = [m :: rest] →
      s.harbour.sample.contains (m :: rest) = true → s.harbour.told.contains (m :: rest) = false → e ∈ c.queue →
      e.handle = m.1 → e.idx = m.2.1 →
      (∀ p ∈ s.cores, ∀ x ∈ p.2.queue, x.handle = m.1 → x.idx = m.2.1 → p.1 = core ∧ x = e) →
      let d : DueTrap := { cause := 0x13, addr := BitVec.ofNat 64 ((rest.length + 1) % 65536) }
      Happens .sheepdogSample s fun t => t.mem = s.mem ∧ t.harbour = { s.harbour with
          sample := [m :: rest], told := [m :: rest], sampled := s.master / 4000000
          report := (m :: rest).map fun x => (x.1, x.2.1) } ∧
        (e.st = .running → h.handler = false → (t.hart core).due = h.due ++ [d]) ∧
        (e.st = .waiting → ∃ x ∈ (t.core core).queue, x.area = e.area ∧ x.st = .out ∧ x.due = e.due ++ [d])) ∧
    (s.harbour.beat ≠ s.master / 4000 → Happens .heartbeat s fun t => t.harbour = { s.harbour with beat := s.master / 4000 } ∧
      t.mem = s.mem ∧ t.cores = s.cores ∧ ∀ d, d < 16 → (s.die d).inService = true →
        (t.die d).heartbeats = (s.die d).heartbeats + 1) ∧
    Claim.Does .deputyTakeoverComplete s { s with harbour := { s.harbour with takeover := false } } ∧
    (∀ j e, area < 2 ^ 64 → s.entryOf area = some (j, e) → e.st ≠ .running → j ≠ core → c.inService = true →
      (s.die (core / 96)).inService = true → dieAllowed e.dies (core / 96) = true → c.queue.length < 64 →
      Happens (.relaunch core area) s fun t => (t.core core).relStatus = 0 ∧ t.mem = s.mem ∧
        (∀ x ∈ (t.core j).queue, x.area ≠ area) ∧ ∃ x ∈ (t.core core).queue, x.area = e.area ∧ x.relaunched = true) ∧
    (∀ j e, area < 2 ^ 64 → s.entryOf area = some (j, e) → e.st ≠ .running → s.slotOf e.handle = none →
      Happens (.endInstance core area) s fun t => (t.core core).endStatus = 0 ∧ ∀ x ∈ (t.core j).queue, x.area ≠ e.area) ∧
    (∀ j e d i v, area < 2 ^ 64 → s.entryOf area = some (j, e) →
      e.st ≠ .running ∨ ((s.hart j).handler = true ∧ (s.hart j).saved = true) →
      s.slotOf e.handle = some (d, i, v) → v.failed = false → v.finished = false →
      Happens (.endInstance core area) s fun t => (t.core core).endStatus = 0 ∧ e.handle ∈ t.harbour.failed ∧
        (∀ k, ∀ x ∈ (t.core k).queue, x.handle ≠ e.handle) ∧ e.area ∉ t.harbour.pools.get e.owner ∧
        ∀ d i, ((t.die d).slots.get i).preds = ((s.die d).slots.get i).preds) ∧
    (c.active = true → h.handler = true → Claim.DoesCore (.eviction core) s core fun c => { c with evict := true }) ∧
    (c.active = true → h.handler = false → h.due = [] → c.staging = none → Happens (.eviction core) s fun t =>
      (t.hart core).sup.trapcause.toNat = 0x14 + 2 ^ 8 * levelCode h.level + 2 ^ 10 ∧ (t.hart core).pc = h.sup.trapvec ∧
      (t.hart core).level = .s ∧ (t.core core).evict = false ∧ t.mem = s.mem ∧
      ∃ g, (t.core core).staging = some g ∧ g.area = h.sup.saveptr.toNat)

/-- Retirement, evacuation, faults that are due, fences, and power (R51 to R55, R59, R63, R162, R169, R365). -/
def Obligations.UnitSteps : Prop :=
  ∀ (s : State) (core die n : Nat),
    let c := s.core core
    let h := c.hart
    let saves (i : Instr) (cause : Nat) : Prop :=
      ∀ a, c.active = true → h.due = [{ cause := cause, addr := a }] → c.staging = none →
        Happens i s fun t => (t.hart core).sup.trapcause.toNat = cause + 2 ^ 8 * levelCode h.level + 2 ^ 10 ∧
          (t.hart core).sup.trapaddr = a ∧ (t.hart core).sup.trappc = h.pc ∧ (t.hart core).sup.trapslot = 0 ∧
          (t.hart core).pc = h.sup.trapvec ∧ (t.hart core).level = .s ∧ (t.hart core).handler = true ∧
          (t.hart core).due = [] ∧ t.mem = s.mem ∧
          ∃ g, (t.core core).staging = some g ∧ g.area = h.sup.saveptr.toNat
    core < 1536 → die < 16 →
    (n < 2 → c.gridGone.getLsbD n = false → c.active = false →
      Claim.DoesCore (.gridHalfRetirement core n) s core fun c =>
        { c with gridGone := c.gridGone ||| BitVec.twoPow 2 n }) ∧
    (n < 16 → c.retired.getLsbD n = false → c.resident = none →
      Happens (.scratchBankRetirement core n) s fun t => (t.core core).retired = c.retired ||| BitVec.twoPow 16 n ∧
        (t.core core).scr = c.scr ∧ t.mem = s.mem ∧
        ∀ l, (t.core core).nseg ≤ l → l < 128 → (t.core core).segValid l = false) ∧
    (n < 256 → (s.die die).cacheGone.contains n = false →
      Claim.Does (.dieCacheBankRetirement die n) s
        { s with dies := s.dies.mod die fun v => { v with cacheGone := v.cacheGone ++ [n] } }) ∧
    (n < 192 → (s.die die).hbmGone.contains n = false → s.ranges.moves = [] →
      (∀ r ∈ s.allRanges, r.2.2.2.residentIn (die * 0xC00000000 + n * 0x10000000)
        (die * 0xC00000000 + n * 0x10000000 + 0x10000000) = false) →
      Happens (.hbmRegionRetirement die n) s fun t => (t.die die).hbmGone = (s.die die).hbmGone ++ [n] ∧ t.mem = s.mem ∧
        t.cores = s.cores) ∧
    (∀ e rest, c.evac = e :: rest →
      (e.started = false → Claim.DoesCore (.evacuatorSegmentMove core) s core fun c =>
        { c with evac := { e with started := true, lines := 0 } :: rest
                 bank := c.bank.put e.seg (BitVec.ofNat 9 (c.pseg e.seg + 384)) }) ∧
      (e.started = true → e.lines < 16 → c.scrMarks = [] → Happens (.evacuatorLineReadReturn core) s fun t =>
        (t.core core).evac = { e with lines := e.lines + 1 } :: rest ∧ t.mem = s.mem ∧
        (t.core core).scr = cellsWrite c.scr (e.dst * 4096 + 256 * e.lines) 256
          (cellsRead c.scr (c.pseg e.seg * 4096 + 256 * e.lines) 256)) ∧
      (e.started = true → 16 ≤ e.lines → Happens (.evacuatorSegmentDone core) s fun t =>
        (t.core core).evac = rest ∧ (t.core core).bank = c.bank.put e.seg (BitVec.ofNat 9 (e.dst + 128)) ∧
        t.hart core = h ∧ t.mem = s.mem)) ∧
    saves (.overCapacityFault core) 0x10 ∧ saves (.budgetExhausted core) 0x11 ∧
    (∀ i, i = Instr.dieFence die ∨ i = Instr.heartbeatTimeout die → (s.die die).inService = true →
      Happens i s fun t => (t.die die).inService = false ∧ t.master = s.master ∧ (∀ d, d ≠ die → (t.die d).inService =
        (s.die d).inService) ∧ ∀ p ∈ t.cores, p.1 / 96 = die → p.2.active = false ∧ p.2.inService = false ∧ p.2.queue = []) ∧
    Claim.Does (.powerExcess die) s { s with dies := s.dies.mod die fun v => { v with mhz := max 600 (v.mhz - 100) } } ∧
    Claim.Does (.thermalThrottle die) s
      { s with dies := s.dies.mod die fun v => { v with mhz := max 600 (v.mhz - 100), hot := true } } ∧
    Claim.Does (.throttleRelease die) s
      { s with dies := s.dies.mod die fun v => { v with mhz := min 1800 (v.mhz + 100), hot := false } } ∧
    (∀ i, (i = Instr.overpowerAtFloorTimeout die ∧ (s.die die).mhz = 600) ∨ i = Instr.moduleTrip die →
      Happens i s fun t => t.down = true ∧ t.link.tripped = true ∧ t.mem = s.mem ∧ t.flights = [] ∧
        (∀ k, (t.core k).active = false) ∧ ∀ d, (t.die d).mhz = 1800) ∧
    (Happens .fundamentalReset s fun t => t.mem = s.mem ∧ t.flights = [] ∧ t.link.tripped = false ∧ t.master = 0 ∧
      ∀ k, (t.core k).queue = [] ∧ (t.hart k).ctl.vtype = 4 ∧ (t.hart k).sup.vlcap = 2048 ∧ (t.core k).inService = true)

/-- What reaches the package from outside (R101, R103, R125, R357 to R361, R363, R364, R366): time messages, host and peer accesses,
windows, circuits, register writes, reports and keys. Offsets and delays are the messages' own (the model takes them as given,
log 14). The model chooses besides, and no rule states it: what a disabled PTP source leaves (log 83), where the mailbox's words lie
(log 18), the form of a reply (log 62), and the offsets at which a host reads BAR0 (log 93). -/
def Obligations.OutsideSteps : Prop :=
  ∀ (s : State) (n off : Nat) (o : Int) (v : Word) (data : List Byte),
    let link (f : Link → Link) : State := { s with link := f s.link }
    let ptp (f : Ptp → Ptp) : State := { s with ptp := f s.ptp }
    let e := s.link.entry n
    (n = 1 ∨ n = 2 → Claim.Does (.ptpSourceEnable n) s
      (ptp fun p => { p with state := 1, source := n, stepped := false, inLimit := 0, twoStep := false })) ∧
    Claim.Does .ptpSourceDisable s
      (ptp fun p => { p with state := 0, source := 0, stepped := false, inLimit := 0, twoStep := false }) ∧
    (s.ptp.state = 1 → s.ptp.stepped = true →
      let near := if -400 ≤ o ∧ o ≤ 400 then s.ptp.inLimit + 1 else 0
      let now (p : Ptp) : Ptp := { p with offset := o, inLimit := near, state := if 16 ≤ near then 2 else 1, twoStep := false }
      Claim.Does (.ptpSync false o) s (ptp fun p => { now p with age := 0 }) ∧
      Claim.Does (.ptpSync true o) s (ptp fun p => { p with age := 0, twoStep := true }) ∧
      (s.ptp.twoStep = true → Claim.Does (.ptpFollowUp o) s (ptp now)) ∧
      Claim.Does (.ptpDelayResp o) s (ptp fun p => { p with delay := o })) ∧
    (s.ptp.state = 1 → s.ptp.stepped = false → o < -4000000 → s.flights = [] → (∀ d, (s.die d).held = []) →
      Happens (.ptpSync false o) s fun t => t.ptp.stepped = true ∧ t.ptp.offset = 0 ∧ t.master = s.master + o.natAbs ∧
        t.mem = s.mem ∧ ∀ d, d < 16 → (t.die d).atime = (s.die d).atime + BitVec.ofNat 64 o.natAbs) ∧
    (s.ptp.state = 2 → Claim.Does .syncTimeout s (ptp fun p => { p with age := max 8 p.age, inLimit := 0, state := 3 })) ∧
    (s.down = false → data ≠ [] → ∀ va owner, s.windowAt off data.length = some (va, owner) →
      (s.delay = true → Claim.Does (.hostWrite off data false) s
        (link fun l => { l with held := l.held ++ [⟨BitVec.ofNat 64 va, owner, data⟩] })) ∧
      (s.delay = false → s.link.held = [] → ∀ f x t, s.hostAccess owner (va % 2 ^ 64) .write
          (storeReqs (va % 2 ^ 64) data.length (ofBytes data)) = .done f x t → f.fails = [] →
        Happens (.hostWrite off data false) s fun u => u.mem = t.mem ∧ u.link.held = [])) ∧
    (s.down = false → data ≠ [] → s.windowAt off data.length = none →
      Happens (.hostWrite off data false) s fun t => t.mem = s.mem ∧ t.cores = s.cores ∧ t.link = s.link) ∧
    (s.down = false → off < 2 ^ 40 → s.windowAt off n = none →
      Claim.Does (.hostRead off n) s (link fun l => { l with reply := some (List.replicate n 0xFF) })) ∧
    (s.down = false → off + n ≤ 2 ^ 30 →
      Claim.Does (.hostRead (2 ^ 40 + off) n) s (link fun l => { l with reply := some (s.regBytes off n) })) ∧
    (s.down = false → off < 2 ^ 40 → s.link.held = [] → ∀ va owner f t w, s.windowAt off n = some (va, owner) →
      s.hostAccess owner va .read (spanReqs va n) = .done f false t → f.fails = [] → gather f.got va n = some w →
      Happens (.hostRead off n) s fun u => u.link.reply = some (bytesOf w n) ∧ u.mem = s.mem) ∧
    (∀ part pa, s.down = false → (s.peerEntry part pa (if data.isEmpty then n else data.length) = none →
        Happens (.peerInboundAccess part pa n data) s fun t => t.mem = s.mem ∧ t.cores = s.cores ∧ t.link.reply = none) ∧
      ∀ blk, data = [] → pa % 64 = 0 → n = 64 → s.peerEntry part pa 64 = some 0 → s.physRead pa 0 0 = .ok blk →
        (∀ x, s.region pa ≠ .mmio x) → s.incoming pa = false →
        Happens (.peerInboundAccess part pa n data) s fun t => t.mem = s.mem ∧ t.link.reply = some (bytesOf blk.toNat 64)) ∧
    Claim.Does .functionLevelReset s (link fun l => { l with windows := [], msix := [] }) ∧
    (s.link.tripped = false → s.link.recovery = false → off < 0x200 → off % 8 = 0 → off / 8 % 4 = 2 → v.toNat < 4096 →
      Claim.Does (.hostWindowWrite .s off v) s (link fun l => { l with windows := l.windows.put (off / 8) v })) ∧
    (24 ≤ n → n < 88 → connState v = 1 → connState e = 0 → connSrc v ≠ connDst v → 1 ≤ connWaves v → connWaves v ≤ 64 →
      v.toNat / 2 ^ 18 = 0 → v.toNat / 2 ^ 15 % 2 = 0 → s.link.paired (connSrc v) (connDst v) = false →
      (s.die (connSrc v)).inService = true → (s.die (connDst v)).inService = true →
      Claim.Does (.circuitRequest n v) s (link fun l => { l with conn := l.conn.put n v })) ∧
    (24 ≤ n → n < 88 → connState e = 2 → Happens (.circuitTeardown n) s fun t => connState (t.link.entry n) = 3 ∧
      t.link.routes = s.link.routes ++ s.newRoutes (connSrc e) (connDst e) ∧ t.mem = s.mem ∧
      ∀ j, j ≠ n → t.link.entry j = s.link.entry j) ∧
    (∀ w, n < 24 → connState e = 2 → 2 ≤ w → w < connWaves e → connWaves e ≤ 64 → Happens (.meshResize n w) s fun t =>
      connWaves (t.link.entry n) = w ∧ t.link.resizing.getD n 0 = max (connWaves e) (s.link.resizing.getD n 0) ∧ ∀ j, j ≠ n → t.link.entry j = s.link.entry j) ∧
    (24 ≤ n → n < 88 → connState e = 1 → connWaves e ≤ s.link.freeWaves (connSrc e) →
      connWaves e ≤ s.link.freeWaves (connDst e) → Happens (.circuitActivation n) s fun t =>
        connState (t.link.entry n) = 2 ∧ t.mem = s.mem ∧
        t.link.routes = s.link.routes ++ s.newRoutes (connSrc e) (connDst e)) ∧
    (24 ≤ n → n < 88 → connState e = 3 → s.link.routes = [] →
      Claim.Does (.circuitDrainComplete n) s (link fun l => { l with conn := l.conn.put n 0 })) ∧
    (∀ a b r, s.link.routes.find? (fun r => r.1 == a && r.2.1 == b) = some r →
      let late (f : Flight) : Prop := f.bound a b = true ∧ f.sent < r.2.2 ∧ f.accepted = false ∧ s.arrived f = false
      ((∀ f ∈ s.flights, ¬late f) → Happens (.routeChangeAck a b) s fun t => t.mem = s.mem ∧ t.cores = s.cores ∧
        (∀ x, x ∈ t.link.routes ↔ x ∈ s.link.routes ∧ ¬(x.1 = a ∧ x.2.1 = b)) ∧
        t.flights = s.flights.map fun f =>
          if f.bound a b then { f with sent := max f.sent (s.die a).atime.toNat } else f) ∧
      ((∃ f ∈ s.flights, late f) → Claim.Does (.routeChangeAck a b) s s)) ∧
    (∀ nonce, (s.link.tripped = false → Claim.Does (.attestationRequest nonce) s
        (link fun l => { l with report := s.signedReport nonce })) ∧
      (s.down = false → Claim.Does (.spdmRequest nonce) s (link fun l => { l with reply := some (s.signedReport nonce) }))) ∧
    (∀ w, n ≠ 0 → n ≤ 4095 →
      Claim.Does (.ownerKeyInstall n (some w)) s (link fun l => { l with keys := l.keys.put n (Config.unwrapKey w) }) ∧
      Claim.Does (.ownerKeyInstall n none) s (link fun l => { l with keys := l.keys.put n (Config.freshKey s.count) }) ∧
      Claim.Does (.ownerKeyRelease n) s (link fun l => { l with keys := l.keys.put n (Config.freshKey s.count) })) ∧
    (s.link.tripped = false → s.link.recovery = false →
      Claim.Does (.registerWrite (some .u) off v) s s ∧
      Claim.Does (.registerWrite (some .f) 0x20005000 v) s (link fun l => { l with owntab := v }) ∧
      Claim.Does (.registerWrite none 0x20005000 v) s s ∧
      Claim.Does (.registerWrite none 0x20004008 v) s (link fun l => { l with mailbox := l.mailbox.put 1 v, report := [] }))
end

