-- ==== Sys2Proof/Laws/Table.lean ====
section
/-! SUPPORT. Laws of the sparse tables and of the positional list updates. -/

namespace Sys2Proof.Machine

theorem Tbl.getD_put_same {α : Type} (t : Tbl α) (k : Nat) (v d : α) : Tbl.getD (Tbl.put t k v) k d = v := by
  induction t with
  | nil => simp [Tbl.put, Tbl.getD]
  | cons p rest ih =>
    obtain ⟨j, w⟩ := p
    by_cases h : j = k
    · simp [Tbl.put, Tbl.getD, h]
    · by_cases g : k < j
      · simp [Tbl.put, Tbl.getD, h, g]
      · simp [Tbl.put, Tbl.getD, h, g, ih]

theorem Tbl.getD_put_ne {α : Type} (t : Tbl α) {k j : Nat} (v d : α) (h : j ≠ k) :
    Tbl.getD (Tbl.put t k v) j d = Tbl.getD t j d := by
  induction t with
  | nil => simp [Tbl.put, Tbl.getD, Ne.symm h]
  | cons p rest ih =>
    obtain ⟨i, w⟩ := p
    by_cases e : i = k
    · subst e; simp [Tbl.put, Tbl.getD, Ne.symm h]
    · by_cases g : k < i
      · simp [Tbl.put, Tbl.getD, e, g, Ne.symm h]
      · simp [Tbl.put, Tbl.getD, e, g, ih]

theorem Tbl.put_put {α : Type} (t : Tbl α) (k : Nat) (v w : α) : Tbl.put (Tbl.put t k v) k w = Tbl.put t k w := by
  induction t with
  | nil => simp [Tbl.put]
  | cons p rest ih =>
    obtain ⟨j, x⟩ := p
    by_cases h : j = k
    · simp [Tbl.put, h]
    · by_cases g : k < j
      · simp [Tbl.put, h, g]
      · simp [Tbl.put, h, g, ih]

@[simp] theorem Tbl.get_put_same {α : Type} [Inhabited α] (t : Tbl α) (k : Nat) (v : α) :
    Tbl.get (Tbl.put t k v) k = v := Tbl.getD_put_same t k v default

theorem Tbl.get_put_ne {α : Type} [Inhabited α] (t : Tbl α) {k j : Nat} (v : α) (h : j ≠ k) :
    Tbl.get (Tbl.put t k v) j = Tbl.get t j := Tbl.getD_put_ne t v default h

@[simp] theorem Tbl.get_mod_same {α : Type} [Inhabited α] (t : Tbl α) (k : Nat) (f : α → α) :
    Tbl.get (Tbl.mod t k f) k = f (Tbl.get t k) := Tbl.get_put_same t k _

theorem Tbl.get_mod_ne {α : Type} [Inhabited α] (t : Tbl α) {k j : Nat} (f : α → α) (h : j ≠ k) :
    Tbl.get (Tbl.mod t k f) j = Tbl.get t j := Tbl.get_put_ne t _ h

/-- A key whose value is unchanged by an update elsewhere, or is the updated one. -/
theorem Tbl.get_mod {α : Type} [Inhabited α] (t : Tbl α) (k j : Nat) (f : α → α) :
    Tbl.get (Tbl.mod t k f) j = if j = k then f (Tbl.get t k) else Tbl.get t j := by
  split
  · next h => subst h; simp
  · next h => exact Tbl.get_mod_ne t f h

theorem modAt_length {α : Type} (l : List α) (n : Nat) (f : α → α) : (modAt l n f).length = l.length := by
  induction l generalizing n with
  | nil => rfl
  | cons x xs ih => cases n <;> simp [modAt, ih]

theorem modAt_getElem? {α : Type} (l : List α) (n : Nat) (f : α → α) (i : Nat) :
    (modAt l n f)[i]? = if i = n then l[i]?.map f else l[i]? := by
  induction l generalizing n i with
  | nil => simp [modAt]
  | cons x xs ih => cases n <;> cases i <;> simp [modAt, ih]

end Sys2Proof.Machine
end

