-- ==== Sys2Proof/Laws/State.lean ====
section
/-! SUPPORT. Laws of the named updates of State, cores and harts: one per field and update. -/

namespace Sys2Proof.Machine

@[simp] theorem State.setCore_dies (s : State) (k : Nat) (c : Core) : (s.setCore k c).dies = s.dies := rfl
@[simp] theorem State.setCore_mem (s : State) (k : Nat) (c : Core) : (s.setCore k c).mem = s.mem := rfl
@[simp] theorem State.setCore_flights (s : State) (k : Nat) (c : Core) : (s.setCore k c).flights = s.flights := rfl
@[simp] theorem State.setCore_absent (s : State) (k : Nat) (c : Core) : (s.setCore k c).absent = s.absent := rfl
@[simp] theorem State.setCore_ranges (s : State) (k : Nat) (c : Core) : (s.setCore k c).ranges = s.ranges := rfl
@[simp] theorem State.setCore_harbour (s : State) (k : Nat) (c : Core) : (s.setCore k c).harbour = s.harbour := rfl
@[simp] theorem State.setCore_link (s : State) (k : Nat) (c : Core) : (s.setCore k c).link = s.link := rfl
@[simp] theorem State.setCore_ptp (s : State) (k : Nat) (c : Core) : (s.setCore k c).ptp = s.ptp := rfl
@[simp] theorem State.setCore_master (s : State) (k : Nat) (c : Core) : (s.setCore k c).master = s.master := rfl
@[simp] theorem State.setCore_uid (s : State) (k : Nat) (c : Core) : (s.setCore k c).uid = s.uid := rfl
@[simp] theorem State.setCore_kept (s : State) (k : Nat) (c : Core) : (s.setCore k c).kept = s.kept := rfl
@[simp] theorem State.setCore_cur (s : State) (k : Nat) (c : Core) : (s.setCore k c).cur = s.cur := rfl
@[simp] theorem State.setCore_agenda (s : State) (k : Nat) (c : Core) : (s.setCore k c).agenda = s.agenda := rfl
@[simp] theorem State.setCore_delay (s : State) (k : Nat) (c : Core) : (s.setCore k c).delay = s.delay := rfl
@[simp] theorem State.setCore_pick (s : State) (k : Nat) (c : Core) : (s.setCore k c).pick = s.pick := rfl
@[simp] theorem State.setCore_count (s : State) (k : Nat) (c : Core) : (s.setCore k c).count = s.count := rfl
@[simp] theorem State.setCore_raised (s : State) (k : Nat) (c : Core) : (s.setCore k c).raised = s.raised := rfl

@[simp] theorem State.modCore_dies (s : State) (k : Nat) (f : Core → Core) : (s.modCore k f).dies = s.dies := rfl
@[simp] theorem State.modCore_mem (s : State) (k : Nat) (f : Core → Core) : (s.modCore k f).mem = s.mem := rfl
@[simp] theorem State.modCore_flights (s : State) (k : Nat) (f : Core → Core) : (s.modCore k f).flights = s.flights := rfl
@[simp] theorem State.modCore_absent (s : State) (k : Nat) (f : Core → Core) : (s.modCore k f).absent = s.absent := rfl
@[simp] theorem State.modCore_ranges (s : State) (k : Nat) (f : Core → Core) : (s.modCore k f).ranges = s.ranges := rfl
@[simp] theorem State.modCore_harbour (s : State) (k : Nat) (f : Core → Core) : (s.modCore k f).harbour = s.harbour := rfl
@[simp] theorem State.modCore_link (s : State) (k : Nat) (f : Core → Core) : (s.modCore k f).link = s.link := rfl
@[simp] theorem State.modCore_ptp (s : State) (k : Nat) (f : Core → Core) : (s.modCore k f).ptp = s.ptp := rfl
@[simp] theorem State.modCore_master (s : State) (k : Nat) (f : Core → Core) : (s.modCore k f).master = s.master := rfl
@[simp] theorem State.modCore_uid (s : State) (k : Nat) (f : Core → Core) : (s.modCore k f).uid = s.uid := rfl
@[simp] theorem State.modCore_kept (s : State) (k : Nat) (f : Core → Core) : (s.modCore k f).kept = s.kept := rfl
@[simp] theorem State.modCore_cur (s : State) (k : Nat) (f : Core → Core) : (s.modCore k f).cur = s.cur := rfl
@[simp] theorem State.modCore_agenda (s : State) (k : Nat) (f : Core → Core) : (s.modCore k f).agenda = s.agenda := rfl
@[simp] theorem State.modCore_delay (s : State) (k : Nat) (f : Core → Core) : (s.modCore k f).delay = s.delay := rfl
@[simp] theorem State.modCore_pick (s : State) (k : Nat) (f : Core → Core) : (s.modCore k f).pick = s.pick := rfl
@[simp] theorem State.modCore_count (s : State) (k : Nat) (f : Core → Core) : (s.modCore k f).count = s.count := rfl
@[simp] theorem State.modCore_raised (s : State) (k : Nat) (f : Core → Core) : (s.modCore k f).raised = s.raised := rfl

@[simp] theorem State.modHart_dies (s : State) (k : Nat) (f : Hart → Hart) : (s.modHart k f).dies = s.dies := rfl
@[simp] theorem State.modHart_mem (s : State) (k : Nat) (f : Hart → Hart) : (s.modHart k f).mem = s.mem := rfl
@[simp] theorem State.modHart_flights (s : State) (k : Nat) (f : Hart → Hart) : (s.modHart k f).flights = s.flights := rfl
@[simp] theorem State.modHart_absent (s : State) (k : Nat) (f : Hart → Hart) : (s.modHart k f).absent = s.absent := rfl
@[simp] theorem State.modHart_ranges (s : State) (k : Nat) (f : Hart → Hart) : (s.modHart k f).ranges = s.ranges := rfl
@[simp] theorem State.modHart_harbour (s : State) (k : Nat) (f : Hart → Hart) : (s.modHart k f).harbour = s.harbour := rfl
@[simp] theorem State.modHart_link (s : State) (k : Nat) (f : Hart → Hart) : (s.modHart k f).link = s.link := rfl
@[simp] theorem State.modHart_ptp (s : State) (k : Nat) (f : Hart → Hart) : (s.modHart k f).ptp = s.ptp := rfl
@[simp] theorem State.modHart_master (s : State) (k : Nat) (f : Hart → Hart) : (s.modHart k f).master = s.master := rfl
@[simp] theorem State.modHart_uid (s : State) (k : Nat) (f : Hart → Hart) : (s.modHart k f).uid = s.uid := rfl
@[simp] theorem State.modHart_kept (s : State) (k : Nat) (f : Hart → Hart) : (s.modHart k f).kept = s.kept := rfl
@[simp] theorem State.modHart_cur (s : State) (k : Nat) (f : Hart → Hart) : (s.modHart k f).cur = s.cur := rfl
@[simp] theorem State.modHart_agenda (s : State) (k : Nat) (f : Hart → Hart) : (s.modHart k f).agenda = s.agenda := rfl
@[simp] theorem State.modHart_delay (s : State) (k : Nat) (f : Hart → Hart) : (s.modHart k f).delay = s.delay := rfl
@[simp] theorem State.modHart_pick (s : State) (k : Nat) (f : Hart → Hart) : (s.modHart k f).pick = s.pick := rfl
@[simp] theorem State.modHart_count (s : State) (k : Nat) (f : Hart → Hart) : (s.modHart k f).count = s.count := rfl
@[simp] theorem State.modHart_raised (s : State) (k : Nat) (f : Hart → Hart) : (s.modHart k f).raised = s.raised := rfl

@[simp] theorem State.modMy_dies (s : State) (f : Hart → Hart) : (s.modMy f).dies = s.dies := rfl
@[simp] theorem State.modMy_mem (s : State) (f : Hart → Hart) : (s.modMy f).mem = s.mem := rfl
@[simp] theorem State.modMy_flights (s : State) (f : Hart → Hart) : (s.modMy f).flights = s.flights := rfl
@[simp] theorem State.modMy_absent (s : State) (f : Hart → Hart) : (s.modMy f).absent = s.absent := rfl
@[simp] theorem State.modMy_ranges (s : State) (f : Hart → Hart) : (s.modMy f).ranges = s.ranges := rfl
@[simp] theorem State.modMy_harbour (s : State) (f : Hart → Hart) : (s.modMy f).harbour = s.harbour := rfl
@[simp] theorem State.modMy_link (s : State) (f : Hart → Hart) : (s.modMy f).link = s.link := rfl
@[simp] theorem State.modMy_ptp (s : State) (f : Hart → Hart) : (s.modMy f).ptp = s.ptp := rfl
@[simp] theorem State.modMy_master (s : State) (f : Hart → Hart) : (s.modMy f).master = s.master := rfl
@[simp] theorem State.modMy_uid (s : State) (f : Hart → Hart) : (s.modMy f).uid = s.uid := rfl
@[simp] theorem State.modMy_kept (s : State) (f : Hart → Hart) : (s.modMy f).kept = s.kept := rfl
@[simp] theorem State.modMy_cur (s : State) (f : Hart → Hart) : (s.modMy f).cur = s.cur := rfl
@[simp] theorem State.modMy_agenda (s : State) (f : Hart → Hart) : (s.modMy f).agenda = s.agenda := rfl
@[simp] theorem State.modMy_delay (s : State) (f : Hart → Hart) : (s.modMy f).delay = s.delay := rfl
@[simp] theorem State.modMy_pick (s : State) (f : Hart → Hart) : (s.modMy f).pick = s.pick := rfl
@[simp] theorem State.modMy_count (s : State) (f : Hart → Hart) : (s.modMy f).count = s.count := rfl
@[simp] theorem State.modMy_raised (s : State) (f : Hart → Hart) : (s.modMy f).raised = s.raised := rfl

@[simp] theorem State.modDie_cores (s : State) (d : Nat) (f : Die → Die) : (s.modDie d f).cores = s.cores := rfl
@[simp] theorem State.modDie_mem (s : State) (d : Nat) (f : Die → Die) : (s.modDie d f).mem = s.mem := rfl
@[simp] theorem State.modDie_flights (s : State) (d : Nat) (f : Die → Die) : (s.modDie d f).flights = s.flights := rfl
@[simp] theorem State.modDie_absent (s : State) (d : Nat) (f : Die → Die) : (s.modDie d f).absent = s.absent := rfl
@[simp] theorem State.modDie_ranges (s : State) (d : Nat) (f : Die → Die) : (s.modDie d f).ranges = s.ranges := rfl
@[simp] theorem State.modDie_harbour (s : State) (d : Nat) (f : Die → Die) : (s.modDie d f).harbour = s.harbour := rfl
@[simp] theorem State.modDie_link (s : State) (d : Nat) (f : Die → Die) : (s.modDie d f).link = s.link := rfl
@[simp] theorem State.modDie_ptp (s : State) (d : Nat) (f : Die → Die) : (s.modDie d f).ptp = s.ptp := rfl
@[simp] theorem State.modDie_master (s : State) (d : Nat) (f : Die → Die) : (s.modDie d f).master = s.master := rfl
@[simp] theorem State.modDie_uid (s : State) (d : Nat) (f : Die → Die) : (s.modDie d f).uid = s.uid := rfl
@[simp] theorem State.modDie_kept (s : State) (d : Nat) (f : Die → Die) : (s.modDie d f).kept = s.kept := rfl
@[simp] theorem State.modDie_cur (s : State) (d : Nat) (f : Die → Die) : (s.modDie d f).cur = s.cur := rfl
@[simp] theorem State.modDie_agenda (s : State) (d : Nat) (f : Die → Die) : (s.modDie d f).agenda = s.agenda := rfl
@[simp] theorem State.modDie_delay (s : State) (d : Nat) (f : Die → Die) : (s.modDie d f).delay = s.delay := rfl
@[simp] theorem State.modDie_pick (s : State) (d : Nat) (f : Die → Die) : (s.modDie d f).pick = s.pick := rfl
@[simp] theorem State.modDie_count (s : State) (d : Nat) (f : Die → Die) : (s.modDie d f).count = s.count := rfl
@[simp] theorem State.modDie_raised (s : State) (d : Nat) (f : Die → Die) : (s.modDie d f).raised = s.raised := rfl

@[simp] theorem State.modSlot_cores (s : State) (d i : Nat) (f : Slot → Slot) : (s.modSlot d i f).cores = s.cores := rfl
@[simp] theorem State.modSlot_mem (s : State) (d i : Nat) (f : Slot → Slot) : (s.modSlot d i f).mem = s.mem := rfl
@[simp] theorem State.modSlot_flights (s : State) (d i : Nat) (f : Slot → Slot) : (s.modSlot d i f).flights = s.flights := rfl
@[simp] theorem State.modSlot_absent (s : State) (d i : Nat) (f : Slot → Slot) : (s.modSlot d i f).absent = s.absent := rfl
@[simp] theorem State.modSlot_ranges (s : State) (d i : Nat) (f : Slot → Slot) : (s.modSlot d i f).ranges = s.ranges := rfl
@[simp] theorem State.modSlot_harbour (s : State) (d i : Nat) (f : Slot → Slot) : (s.modSlot d i f).harbour = s.harbour := rfl
@[simp] theorem State.modSlot_link (s : State) (d i : Nat) (f : Slot → Slot) : (s.modSlot d i f).link = s.link := rfl
@[simp] theorem State.modSlot_ptp (s : State) (d i : Nat) (f : Slot → Slot) : (s.modSlot d i f).ptp = s.ptp := rfl
@[simp] theorem State.modSlot_master (s : State) (d i : Nat) (f : Slot → Slot) : (s.modSlot d i f).master = s.master := rfl
@[simp] theorem State.modSlot_uid (s : State) (d i : Nat) (f : Slot → Slot) : (s.modSlot d i f).uid = s.uid := rfl
@[simp] theorem State.modSlot_kept (s : State) (d i : Nat) (f : Slot → Slot) : (s.modSlot d i f).kept = s.kept := rfl
@[simp] theorem State.modSlot_cur (s : State) (d i : Nat) (f : Slot → Slot) : (s.modSlot d i f).cur = s.cur := rfl
@[simp] theorem State.modSlot_agenda (s : State) (d i : Nat) (f : Slot → Slot) : (s.modSlot d i f).agenda = s.agenda := rfl
@[simp] theorem State.modSlot_delay (s : State) (d i : Nat) (f : Slot → Slot) : (s.modSlot d i f).delay = s.delay := rfl
@[simp] theorem State.modSlot_pick (s : State) (d i : Nat) (f : Slot → Slot) : (s.modSlot d i f).pick = s.pick := rfl
@[simp] theorem State.modSlot_count (s : State) (d i : Nat) (f : Slot → Slot) : (s.modSlot d i f).count = s.count := rfl
@[simp] theorem State.modSlot_raised (s : State) (d i : Nat) (f : Slot → Slot) : (s.modSlot d i f).raised = s.raised := rfl

@[simp] theorem State.modRanges_cores (s : State) (f : Ranges → Ranges) : (s.modRanges f).cores = s.cores := rfl
@[simp] theorem State.modRanges_dies (s : State) (f : Ranges → Ranges) : (s.modRanges f).dies = s.dies := rfl
@[simp] theorem State.modRanges_mem (s : State) (f : Ranges → Ranges) : (s.modRanges f).mem = s.mem := rfl
@[simp] theorem State.modRanges_flights (s : State) (f : Ranges → Ranges) : (s.modRanges f).flights = s.flights := rfl
@[simp] theorem State.modRanges_absent (s : State) (f : Ranges → Ranges) : (s.modRanges f).absent = s.absent := rfl
@[simp] theorem State.modRanges_harbour (s : State) (f : Ranges → Ranges) : (s.modRanges f).harbour = s.harbour := rfl
@[simp] theorem State.modRanges_link (s : State) (f : Ranges → Ranges) : (s.modRanges f).link = s.link := rfl
@[simp] theorem State.modRanges_ptp (s : State) (f : Ranges → Ranges) : (s.modRanges f).ptp = s.ptp := rfl
@[simp] theorem State.modRanges_master (s : State) (f : Ranges → Ranges) : (s.modRanges f).master = s.master := rfl
@[simp] theorem State.modRanges_uid (s : State) (f : Ranges → Ranges) : (s.modRanges f).uid = s.uid := rfl
@[simp] theorem State.modRanges_kept (s : State) (f : Ranges → Ranges) : (s.modRanges f).kept = s.kept := rfl
@[simp] theorem State.modRanges_cur (s : State) (f : Ranges → Ranges) : (s.modRanges f).cur = s.cur := rfl
@[simp] theorem State.modRanges_agenda (s : State) (f : Ranges → Ranges) : (s.modRanges f).agenda = s.agenda := rfl
@[simp] theorem State.modRanges_delay (s : State) (f : Ranges → Ranges) : (s.modRanges f).delay = s.delay := rfl
@[simp] theorem State.modRanges_pick (s : State) (f : Ranges → Ranges) : (s.modRanges f).pick = s.pick := rfl
@[simp] theorem State.modRanges_count (s : State) (f : Ranges → Ranges) : (s.modRanges f).count = s.count := rfl
@[simp] theorem State.modRanges_raised (s : State) (f : Ranges → Ranges) : (s.modRanges f).raised = s.raised := rfl

@[simp] theorem State.modHarbour_cores (s : State) (f : Harbour → Harbour) : (s.modHarbour f).cores = s.cores := rfl
@[simp] theorem State.modHarbour_dies (s : State) (f : Harbour → Harbour) : (s.modHarbour f).dies = s.dies := rfl
@[simp] theorem State.modHarbour_mem (s : State) (f : Harbour → Harbour) : (s.modHarbour f).mem = s.mem := rfl
@[simp] theorem State.modHarbour_flights (s : State) (f : Harbour → Harbour) : (s.modHarbour f).flights = s.flights := rfl
@[simp] theorem State.modHarbour_absent (s : State) (f : Harbour → Harbour) : (s.modHarbour f).absent = s.absent := rfl
@[simp] theorem State.modHarbour_ranges (s : State) (f : Harbour → Harbour) : (s.modHarbour f).ranges = s.ranges := rfl
@[simp] theorem State.modHarbour_link (s : State) (f : Harbour → Harbour) : (s.modHarbour f).link = s.link := rfl
@[simp] theorem State.modHarbour_ptp (s : State) (f : Harbour → Harbour) : (s.modHarbour f).ptp = s.ptp := rfl
@[simp] theorem State.modHarbour_master (s : State) (f : Harbour → Harbour) : (s.modHarbour f).master = s.master := rfl
@[simp] theorem State.modHarbour_uid (s : State) (f : Harbour → Harbour) : (s.modHarbour f).uid = s.uid := rfl
@[simp] theorem State.modHarbour_kept (s : State) (f : Harbour → Harbour) : (s.modHarbour f).kept = s.kept := rfl
@[simp] theorem State.modHarbour_cur (s : State) (f : Harbour → Harbour) : (s.modHarbour f).cur = s.cur := rfl
@[simp] theorem State.modHarbour_agenda (s : State) (f : Harbour → Harbour) : (s.modHarbour f).agenda = s.agenda := rfl
@[simp] theorem State.modHarbour_delay (s : State) (f : Harbour → Harbour) : (s.modHarbour f).delay = s.delay := rfl
@[simp] theorem State.modHarbour_pick (s : State) (f : Harbour → Harbour) : (s.modHarbour f).pick = s.pick := rfl
@[simp] theorem State.modHarbour_count (s : State) (f : Harbour → Harbour) : (s.modHarbour f).count = s.count := rfl
@[simp] theorem State.modHarbour_raised (s : State) (f : Harbour → Harbour) : (s.modHarbour f).raised = s.raised := rfl

@[simp] theorem State.modLink_cores (s : State) (f : Link → Link) : (s.modLink f).cores = s.cores := rfl
@[simp] theorem State.modLink_dies (s : State) (f : Link → Link) : (s.modLink f).dies = s.dies := rfl
@[simp] theorem State.modLink_mem (s : State) (f : Link → Link) : (s.modLink f).mem = s.mem := rfl
@[simp] theorem State.modLink_flights (s : State) (f : Link → Link) : (s.modLink f).flights = s.flights := rfl
@[simp] theorem State.modLink_absent (s : State) (f : Link → Link) : (s.modLink f).absent = s.absent := rfl
@[simp] theorem State.modLink_ranges (s : State) (f : Link → Link) : (s.modLink f).ranges = s.ranges := rfl
@[simp] theorem State.modLink_harbour (s : State) (f : Link → Link) : (s.modLink f).harbour = s.harbour := rfl
@[simp] theorem State.modLink_ptp (s : State) (f : Link → Link) : (s.modLink f).ptp = s.ptp := rfl
@[simp] theorem State.modLink_master (s : State) (f : Link → Link) : (s.modLink f).master = s.master := rfl
@[simp] theorem State.modLink_uid (s : State) (f : Link → Link) : (s.modLink f).uid = s.uid := rfl
@[simp] theorem State.modLink_kept (s : State) (f : Link → Link) : (s.modLink f).kept = s.kept := rfl
@[simp] theorem State.modLink_cur (s : State) (f : Link → Link) : (s.modLink f).cur = s.cur := rfl
@[simp] theorem State.modLink_agenda (s : State) (f : Link → Link) : (s.modLink f).agenda = s.agenda := rfl
@[simp] theorem State.modLink_delay (s : State) (f : Link → Link) : (s.modLink f).delay = s.delay := rfl
@[simp] theorem State.modLink_pick (s : State) (f : Link → Link) : (s.modLink f).pick = s.pick := rfl
@[simp] theorem State.modLink_count (s : State) (f : Link → Link) : (s.modLink f).count = s.count := rfl
@[simp] theorem State.modLink_raised (s : State) (f : Link → Link) : (s.modLink f).raised = s.raised := rfl

@[simp] theorem State.raise_cores (s : State) (f : BitVec 6) : (s.raise f).cores = s.cores := rfl
@[simp] theorem State.raise_dies (s : State) (f : BitVec 6) : (s.raise f).dies = s.dies := rfl
@[simp] theorem State.raise_mem (s : State) (f : BitVec 6) : (s.raise f).mem = s.mem := rfl
@[simp] theorem State.raise_flights (s : State) (f : BitVec 6) : (s.raise f).flights = s.flights := rfl
@[simp] theorem State.raise_absent (s : State) (f : BitVec 6) : (s.raise f).absent = s.absent := rfl
@[simp] theorem State.raise_ranges (s : State) (f : BitVec 6) : (s.raise f).ranges = s.ranges := rfl
@[simp] theorem State.raise_harbour (s : State) (f : BitVec 6) : (s.raise f).harbour = s.harbour := rfl
@[simp] theorem State.raise_link (s : State) (f : BitVec 6) : (s.raise f).link = s.link := rfl
@[simp] theorem State.raise_ptp (s : State) (f : BitVec 6) : (s.raise f).ptp = s.ptp := rfl
@[simp] theorem State.raise_master (s : State) (f : BitVec 6) : (s.raise f).master = s.master := rfl
@[simp] theorem State.raise_uid (s : State) (f : BitVec 6) : (s.raise f).uid = s.uid := rfl
@[simp] theorem State.raise_kept (s : State) (f : BitVec 6) : (s.raise f).kept = s.kept := rfl
@[simp] theorem State.raise_cur (s : State) (f : BitVec 6) : (s.raise f).cur = s.cur := rfl
@[simp] theorem State.raise_agenda (s : State) (f : BitVec 6) : (s.raise f).agenda = s.agenda := rfl
@[simp] theorem State.raise_delay (s : State) (f : BitVec 6) : (s.raise f).delay = s.delay := rfl
@[simp] theorem State.raise_pick (s : State) (f : BitVec 6) : (s.raise f).pick = s.pick := rfl
@[simp] theorem State.raise_count (s : State) (f : BitVec 6) : (s.raise f).count = s.count := rfl

@[simp] theorem Hart.modCtl_pc (h : Hart) (f : Ctl → Ctl) : (h.modCtl f).pc = h.pc := rfl
@[simp] theorem Hart.modCtl_level (h : Hart) (f : Ctl → Ctl) : (h.modCtl f).level = h.level := rfl
@[simp] theorem Hart.modCtl_handler (h : Hart) (f : Ctl → Ctl) : (h.modCtl f).handler = h.handler := rfl
@[simp] theorem Hart.modCtl_x (h : Hart) (f : Ctl → Ctl) : (h.modCtl f).x = h.x := rfl
@[simp] theorem Hart.modCtl_sup (h : Hart) (f : Ctl → Ctl) : (h.modCtl f).sup = h.sup := rfl
@[simp] theorem Hart.modCtl_ident (h : Hart) (f : Ctl → Ctl) : (h.modCtl f).ident = h.ident := rfl
@[simp] theorem Hart.modCtl_loops (h : Hart) (f : Ctl → Ctl) : (h.modCtl f).loops = h.loops := rfl
@[simp] theorem Hart.modCtl_grid (h : Hart) (f : Ctl → Ctl) : (h.modCtl f).grid = h.grid := rfl
@[simp] theorem Hart.modCtl_queues (h : Hart) (f : Ctl → Ctl) : (h.modCtl f).queues = h.queues := rfl
@[simp] theorem Hart.modCtl_notices (h : Hart) (f : Ctl → Ctl) : (h.modCtl f).notices = h.notices := rfl
@[simp] theorem Hart.modCtl_pend (h : Hart) (f : Ctl → Ctl) : (h.modCtl f).pend = h.pend := rfl
@[simp] theorem Hart.modCtl_opas (h : Hart) (f : Ctl → Ctl) : (h.modCtl f).opas = h.opas := rfl
@[simp] theorem Hart.modCtl_long (h : Hart) (f : Ctl → Ctl) : (h.modCtl f).long = h.long := rfl
@[simp] theorem Hart.modCtl_popa (h : Hart) (f : Ctl → Ctl) : (h.modCtl f).popa = h.popa := rfl
@[simp] theorem Hart.modCtl_pvec (h : Hart) (f : Ctl → Ctl) : (h.modCtl f).pvec = h.pvec := rfl
@[simp] theorem Hart.modCtl_clearing (h : Hart) (f : Ctl → Ctl) : (h.modCtl f).clearing = h.clearing := rfl
@[simp] theorem Hart.modCtl_missingHalf (h : Hart) (f : Ctl → Ctl) : (h.modCtl f).missingHalf = h.missingHalf := rfl
@[simp] theorem Hart.modCtl_swapped (h : Hart) (f : Ctl → Ctl) : (h.modCtl f).swapped = h.swapped := rfl
@[simp] theorem Hart.modCtl_interval (h : Hart) (f : Ctl → Ctl) : (h.modCtl f).interval = h.interval := rfl
@[simp] theorem Hart.modCtl_wait (h : Hart) (f : Ctl → Ctl) : (h.modCtl f).wait = h.wait := rfl
@[simp] theorem Hart.modCtl_ewait (h : Hart) (f : Ctl → Ctl) : (h.modCtl f).ewait = h.ewait := rfl
@[simp] theorem Hart.modCtl_passed (h : Hart) (f : Ctl → Ctl) : (h.modCtl f).passed = h.passed := rfl
@[simp] theorem Hart.modCtl_due (h : Hart) (f : Ctl → Ctl) : (h.modCtl f).due = h.due := rfl
@[simp] theorem Hart.modCtl_inval (h : Hart) (f : Ctl → Ctl) : (h.modCtl f).inval = h.inval := rfl
@[simp] theorem Hart.modCtl_reread (h : Hart) (f : Ctl → Ctl) : (h.modCtl f).reread = h.reread := rfl

@[simp] theorem Hart.modGrid_pc (h : Hart) (f : Grid → Grid) : (h.modGrid f).pc = h.pc := rfl
@[simp] theorem Hart.modGrid_level (h : Hart) (f : Grid → Grid) : (h.modGrid f).level = h.level := rfl
@[simp] theorem Hart.modGrid_handler (h : Hart) (f : Grid → Grid) : (h.modGrid f).handler = h.handler := rfl
@[simp] theorem Hart.modGrid_x (h : Hart) (f : Grid → Grid) : (h.modGrid f).x = h.x := rfl
@[simp] theorem Hart.modGrid_ctl (h : Hart) (f : Grid → Grid) : (h.modGrid f).ctl = h.ctl := rfl
@[simp] theorem Hart.modGrid_sup (h : Hart) (f : Grid → Grid) : (h.modGrid f).sup = h.sup := rfl
@[simp] theorem Hart.modGrid_ident (h : Hart) (f : Grid → Grid) : (h.modGrid f).ident = h.ident := rfl
@[simp] theorem Hart.modGrid_loops (h : Hart) (f : Grid → Grid) : (h.modGrid f).loops = h.loops := rfl
@[simp] theorem Hart.modGrid_queues (h : Hart) (f : Grid → Grid) : (h.modGrid f).queues = h.queues := rfl
@[simp] theorem Hart.modGrid_notices (h : Hart) (f : Grid → Grid) : (h.modGrid f).notices = h.notices := rfl
@[simp] theorem Hart.modGrid_pend (h : Hart) (f : Grid → Grid) : (h.modGrid f).pend = h.pend := rfl
@[simp] theorem Hart.modGrid_opas (h : Hart) (f : Grid → Grid) : (h.modGrid f).opas = h.opas := rfl
@[simp] theorem Hart.modGrid_long (h : Hart) (f : Grid → Grid) : (h.modGrid f).long = h.long := rfl
@[simp] theorem Hart.modGrid_popa (h : Hart) (f : Grid → Grid) : (h.modGrid f).popa = h.popa := rfl
@[simp] theorem Hart.modGrid_pvec (h : Hart) (f : Grid → Grid) : (h.modGrid f).pvec = h.pvec := rfl
@[simp] theorem Hart.modGrid_clearing (h : Hart) (f : Grid → Grid) : (h.modGrid f).clearing = h.clearing := rfl
@[simp] theorem Hart.modGrid_missingHalf (h : Hart) (f : Grid → Grid) : (h.modGrid f).missingHalf = h.missingHalf := rfl
@[simp] theorem Hart.modGrid_swapped (h : Hart) (f : Grid → Grid) : (h.modGrid f).swapped = h.swapped := rfl
@[simp] theorem Hart.modGrid_interval (h : Hart) (f : Grid → Grid) : (h.modGrid f).interval = h.interval := rfl
@[simp] theorem Hart.modGrid_wait (h : Hart) (f : Grid → Grid) : (h.modGrid f).wait = h.wait := rfl
@[simp] theorem Hart.modGrid_ewait (h : Hart) (f : Grid → Grid) : (h.modGrid f).ewait = h.ewait := rfl
@[simp] theorem Hart.modGrid_passed (h : Hart) (f : Grid → Grid) : (h.modGrid f).passed = h.passed := rfl
@[simp] theorem Hart.modGrid_due (h : Hart) (f : Grid → Grid) : (h.modGrid f).due = h.due := rfl
@[simp] theorem Hart.modGrid_inval (h : Hart) (f : Grid → Grid) : (h.modGrid f).inval = h.inval := rfl
@[simp] theorem Hart.modGrid_reread (h : Hart) (f : Grid → Grid) : (h.modGrid f).reread = h.reread := rfl

@[simp] theorem Hart.modSup_pc (h : Hart) (f : Sup → Sup) : (h.modSup f).pc = h.pc := rfl
@[simp] theorem Hart.modSup_level (h : Hart) (f : Sup → Sup) : (h.modSup f).level = h.level := rfl
@[simp] theorem Hart.modSup_handler (h : Hart) (f : Sup → Sup) : (h.modSup f).handler = h.handler := rfl
@[simp] theorem Hart.modSup_x (h : Hart) (f : Sup → Sup) : (h.modSup f).x = h.x := rfl
@[simp] theorem Hart.modSup_ctl (h : Hart) (f : Sup → Sup) : (h.modSup f).ctl = h.ctl := rfl
@[simp] theorem Hart.modSup_ident (h : Hart) (f : Sup → Sup) : (h.modSup f).ident = h.ident := rfl
@[simp] theorem Hart.modSup_loops (h : Hart) (f : Sup → Sup) : (h.modSup f).loops = h.loops := rfl
@[simp] theorem Hart.modSup_grid (h : Hart) (f : Sup → Sup) : (h.modSup f).grid = h.grid := rfl
@[simp] theorem Hart.modSup_queues (h : Hart) (f : Sup → Sup) : (h.modSup f).queues = h.queues := rfl
@[simp] theorem Hart.modSup_notices (h : Hart) (f : Sup → Sup) : (h.modSup f).notices = h.notices := rfl
@[simp] theorem Hart.modSup_pend (h : Hart) (f : Sup → Sup) : (h.modSup f).pend = h.pend := rfl
@[simp] theorem Hart.modSup_opas (h : Hart) (f : Sup → Sup) : (h.modSup f).opas = h.opas := rfl
@[simp] theorem Hart.modSup_long (h : Hart) (f : Sup → Sup) : (h.modSup f).long = h.long := rfl
@[simp] theorem Hart.modSup_popa (h : Hart) (f : Sup → Sup) : (h.modSup f).popa = h.popa := rfl
@[simp] theorem Hart.modSup_pvec (h : Hart) (f : Sup → Sup) : (h.modSup f).pvec = h.pvec := rfl
@[simp] theorem Hart.modSup_clearing (h : Hart) (f : Sup → Sup) : (h.modSup f).clearing = h.clearing := rfl
@[simp] theorem Hart.modSup_missingHalf (h : Hart) (f : Sup → Sup) : (h.modSup f).missingHalf = h.missingHalf := rfl
@[simp] theorem Hart.modSup_swapped (h : Hart) (f : Sup → Sup) : (h.modSup f).swapped = h.swapped := rfl
@[simp] theorem Hart.modSup_interval (h : Hart) (f : Sup → Sup) : (h.modSup f).interval = h.interval := rfl
@[simp] theorem Hart.modSup_wait (h : Hart) (f : Sup → Sup) : (h.modSup f).wait = h.wait := rfl
@[simp] theorem Hart.modSup_ewait (h : Hart) (f : Sup → Sup) : (h.modSup f).ewait = h.ewait := rfl
@[simp] theorem Hart.modSup_passed (h : Hart) (f : Sup → Sup) : (h.modSup f).passed = h.passed := rfl
@[simp] theorem Hart.modSup_due (h : Hart) (f : Sup → Sup) : (h.modSup f).due = h.due := rfl
@[simp] theorem Hart.modSup_inval (h : Hart) (f : Sup → Sup) : (h.modSup f).inval = h.inval := rfl
@[simp] theorem Hart.modSup_reread (h : Hart) (f : Sup → Sup) : (h.modSup f).reread = h.reread := rfl

@[simp] theorem Hart.modQueue_pc (h : Hart) (q : Nat) (f : Queue → Queue) : (h.modQueue q f).pc = h.pc := rfl
@[simp] theorem Hart.modQueue_level (h : Hart) (q : Nat) (f : Queue → Queue) : (h.modQueue q f).level = h.level := rfl
@[simp] theorem Hart.modQueue_handler (h : Hart) (q : Nat) (f : Queue → Queue) : (h.modQueue q f).handler = h.handler := rfl
@[simp] theorem Hart.modQueue_x (h : Hart) (q : Nat) (f : Queue → Queue) : (h.modQueue q f).x = h.x := rfl
@[simp] theorem Hart.modQueue_ctl (h : Hart) (q : Nat) (f : Queue → Queue) : (h.modQueue q f).ctl = h.ctl := rfl
@[simp] theorem Hart.modQueue_sup (h : Hart) (q : Nat) (f : Queue → Queue) : (h.modQueue q f).sup = h.sup := rfl
@[simp] theorem Hart.modQueue_ident (h : Hart) (q : Nat) (f : Queue → Queue) : (h.modQueue q f).ident = h.ident := rfl
@[simp] theorem Hart.modQueue_loops (h : Hart) (q : Nat) (f : Queue → Queue) : (h.modQueue q f).loops = h.loops := rfl
@[simp] theorem Hart.modQueue_grid (h : Hart) (q : Nat) (f : Queue → Queue) : (h.modQueue q f).grid = h.grid := rfl
@[simp] theorem Hart.modQueue_notices (h : Hart) (q : Nat) (f : Queue → Queue) : (h.modQueue q f).notices = h.notices := rfl
@[simp] theorem Hart.modQueue_pend (h : Hart) (q : Nat) (f : Queue → Queue) : (h.modQueue q f).pend = h.pend := rfl
@[simp] theorem Hart.modQueue_opas (h : Hart) (q : Nat) (f : Queue → Queue) : (h.modQueue q f).opas = h.opas := rfl
@[simp] theorem Hart.modQueue_long (h : Hart) (q : Nat) (f : Queue → Queue) : (h.modQueue q f).long = h.long := rfl
@[simp] theorem Hart.modQueue_popa (h : Hart) (q : Nat) (f : Queue → Queue) : (h.modQueue q f).popa = h.popa := rfl
@[simp] theorem Hart.modQueue_pvec (h : Hart) (q : Nat) (f : Queue → Queue) : (h.modQueue q f).pvec = h.pvec := rfl
@[simp] theorem Hart.modQueue_clearing (h : Hart) (q : Nat) (f : Queue → Queue) : (h.modQueue q f).clearing = h.clearing := rfl
@[simp] theorem Hart.modQueue_missingHalf (h : Hart) (q : Nat) (f : Queue → Queue) : (h.modQueue q f).missingHalf = h.missingHalf := rfl
@[simp] theorem Hart.modQueue_swapped (h : Hart) (q : Nat) (f : Queue → Queue) : (h.modQueue q f).swapped = h.swapped := rfl
@[simp] theorem Hart.modQueue_interval (h : Hart) (q : Nat) (f : Queue → Queue) : (h.modQueue q f).interval = h.interval := rfl
@[simp] theorem Hart.modQueue_wait (h : Hart) (q : Nat) (f : Queue → Queue) : (h.modQueue q f).wait = h.wait := rfl
@[simp] theorem Hart.modQueue_ewait (h : Hart) (q : Nat) (f : Queue → Queue) : (h.modQueue q f).ewait = h.ewait := rfl
@[simp] theorem Hart.modQueue_passed (h : Hart) (q : Nat) (f : Queue → Queue) : (h.modQueue q f).passed = h.passed := rfl
@[simp] theorem Hart.modQueue_due (h : Hart) (q : Nat) (f : Queue → Queue) : (h.modQueue q f).due = h.due := rfl
@[simp] theorem Hart.modQueue_inval (h : Hart) (q : Nat) (f : Queue → Queue) : (h.modQueue q f).inval = h.inval := rfl
@[simp] theorem Hart.modQueue_reread (h : Hart) (q : Nat) (f : Queue → Queue) : (h.modQueue q f).reread = h.reread := rfl

@[simp] theorem Core.unblock_active (c : Core) : (c.unblock).active = c.active := rfl
@[simp] theorem Core.unblock_hart (c : Core) : (c.unblock).hart = c.hart := rfl
@[simp] theorem Core.unblock_wfi (c : Core) : (c.unblock).wfi = c.wfi := rfl
@[simp] theorem Core.unblock_inService (c : Core) : (c.unblock).inService = c.inService := rfl
@[simp] theorem Core.unblock_cache (c : Core) : (c.unblock).cache = c.cache := rfl
@[simp] theorem Core.unblock_bank (c : Core) : (c.unblock).bank = c.bank := rfl
@[simp] theorem Core.unblock_retired (c : Core) : (c.unblock).retired = c.retired := rfl
@[simp] theorem Core.unblock_evacuating (c : Core) : (c.unblock).evacuating = c.evacuating := rfl
@[simp] theorem Core.unblock_gridGone (c : Core) : (c.unblock).gridGone = c.gridGone := rfl
@[simp] theorem Core.unblock_alloc (c : Core) : (c.unblock).alloc = c.alloc := rfl
@[simp] theorem Core.unblock_scr (c : Core) : (c.unblock).scr = c.scr := rfl
@[simp] theorem Core.unblock_scrMarks (c : Core) : (c.unblock).scrMarks = c.scrMarks := rfl
@[simp] theorem Core.unblock_resident (c : Core) : (c.unblock).resident = c.resident := rfl
@[simp] theorem Core.unblock_evac (c : Core) : (c.unblock).evac = c.evac := rfl
@[simp] theorem Core.unblock_errlog (c : Core) : (c.unblock).errlog = c.errlog := rfl
@[simp] theorem Core.unblock_logOver (c : Core) : (c.unblock).logOver = c.logOver := rfl
@[simp] theorem Core.unblock_noticeDrops (c : Core) : (c.unblock).noticeDrops = c.noticeDrops := rfl
@[simp] theorem Core.unblock_fmtErrs (c : Core) : (c.unblock).fmtErrs = c.fmtErrs := rfl
@[simp] theorem Core.unblock_turn (c : Core) : (c.unblock).turn = c.turn := rfl
@[simp] theorem Core.unblock_staging (c : Core) : (c.unblock).staging = c.staging := rfl
@[simp] theorem Core.unblock_left (c : Core) : (c.unblock).left = c.left := rfl
@[simp] theorem Core.unblock_copies (c : Core) : (c.unblock).copies = c.copies := rfl
@[simp] theorem Core.unblock_copySeq (c : Core) : (c.unblock).copySeq = c.copySeq := rfl
@[simp] theorem Core.unblock_relStatus (c : Core) : (c.unblock).relStatus = c.relStatus := rfl
@[simp] theorem Core.unblock_endStatus (c : Core) : (c.unblock).endStatus = c.endStatus := rfl
@[simp] theorem Core.unblock_evict (c : Core) : (c.unblock).evict = c.evict := rfl
@[simp] theorem Core.unblock_preempt (c : Core) : (c.unblock).preempt = c.preempt := rfl
@[simp] theorem Core.unblock_waited (c : Core) : (c.unblock).waited = c.waited := rfl
@[simp] theorem Core.unblock_share (c : Core) : (c.unblock).share = c.share := rfl

@[simp] theorem Core.block_active (c : Core) (kind : Nat) (obj : Word) : (c.block kind obj).active = c.active := rfl
@[simp] theorem Core.block_hart (c : Core) (kind : Nat) (obj : Word) : (c.block kind obj).hart = c.hart := rfl
@[simp] theorem Core.block_wfi (c : Core) (kind : Nat) (obj : Word) : (c.block kind obj).wfi = c.wfi := rfl
@[simp] theorem Core.block_inService (c : Core) (kind : Nat) (obj : Word) : (c.block kind obj).inService = c.inService := rfl
@[simp] theorem Core.block_cache (c : Core) (kind : Nat) (obj : Word) : (c.block kind obj).cache = c.cache := rfl
@[simp] theorem Core.block_bank (c : Core) (kind : Nat) (obj : Word) : (c.block kind obj).bank = c.bank := rfl
@[simp] theorem Core.block_retired (c : Core) (kind : Nat) (obj : Word) : (c.block kind obj).retired = c.retired := rfl
@[simp] theorem Core.block_evacuating (c : Core) (kind : Nat) (obj : Word) : (c.block kind obj).evacuating = c.evacuating := rfl
@[simp] theorem Core.block_gridGone (c : Core) (kind : Nat) (obj : Word) : (c.block kind obj).gridGone = c.gridGone := rfl
@[simp] theorem Core.block_alloc (c : Core) (kind : Nat) (obj : Word) : (c.block kind obj).alloc = c.alloc := rfl
@[simp] theorem Core.block_scr (c : Core) (kind : Nat) (obj : Word) : (c.block kind obj).scr = c.scr := rfl
@[simp] theorem Core.block_scrMarks (c : Core) (kind : Nat) (obj : Word) : (c.block kind obj).scrMarks = c.scrMarks := rfl
@[simp] theorem Core.block_resident (c : Core) (kind : Nat) (obj : Word) : (c.block kind obj).resident = c.resident := rfl
@[simp] theorem Core.block_evac (c : Core) (kind : Nat) (obj : Word) : (c.block kind obj).evac = c.evac := rfl
@[simp] theorem Core.block_errlog (c : Core) (kind : Nat) (obj : Word) : (c.block kind obj).errlog = c.errlog := rfl
@[simp] theorem Core.block_logOver (c : Core) (kind : Nat) (obj : Word) : (c.block kind obj).logOver = c.logOver := rfl
@[simp] theorem Core.block_noticeDrops (c : Core) (kind : Nat) (obj : Word) : (c.block kind obj).noticeDrops = c.noticeDrops := rfl
@[simp] theorem Core.block_fmtErrs (c : Core) (kind : Nat) (obj : Word) : (c.block kind obj).fmtErrs = c.fmtErrs := rfl
@[simp] theorem Core.block_turn (c : Core) (kind : Nat) (obj : Word) : (c.block kind obj).turn = c.turn := rfl
@[simp] theorem Core.block_staging (c : Core) (kind : Nat) (obj : Word) : (c.block kind obj).staging = c.staging := rfl
@[simp] theorem Core.block_left (c : Core) (kind : Nat) (obj : Word) : (c.block kind obj).left = c.left := rfl
@[simp] theorem Core.block_copies (c : Core) (kind : Nat) (obj : Word) : (c.block kind obj).copies = c.copies := rfl
@[simp] theorem Core.block_copySeq (c : Core) (kind : Nat) (obj : Word) : (c.block kind obj).copySeq = c.copySeq := rfl
@[simp] theorem Core.block_relStatus (c : Core) (kind : Nat) (obj : Word) : (c.block kind obj).relStatus = c.relStatus := rfl
@[simp] theorem Core.block_endStatus (c : Core) (kind : Nat) (obj : Word) : (c.block kind obj).endStatus = c.endStatus := rfl
@[simp] theorem Core.block_evict (c : Core) (kind : Nat) (obj : Word) : (c.block kind obj).evict = c.evict := rfl
@[simp] theorem Core.block_preempt (c : Core) (kind : Nat) (obj : Word) : (c.block kind obj).preempt = c.preempt := rfl
@[simp] theorem Core.block_waited (c : Core) (kind : Nat) (obj : Word) : (c.block kind obj).waited = c.waited := rfl
@[simp] theorem Core.block_share (c : Core) (kind : Nat) (obj : Word) : (c.block kind obj).share = c.share := rfl

@[simp] theorem Ctl.orFlags_vl (c : Ctl) (f : BitVec 6) : (c.orFlags f).vl = c.vl := rfl
@[simp] theorem Ctl.orFlags_vtype (c : Ctl) (f : BitVec 6) : (c.orFlags f).vtype = c.vtype := rfl
@[simp] theorem Ctl.orFlags_fill (c : Ctl) (f : BitVec 6) : (c.orFlags f).fill = c.fill := rfl
@[simp] theorem Ctl.orFlags_frm (c : Ctl) (f : BitVec 6) : (c.orFlags f).frm = c.frm := rfl
@[simp] theorem Ctl.orFlags_qfmt (c : Ctl) (f : BitVec 6) : (c.orFlags f).qfmt = c.qfmt := rfl
@[simp] theorem Ctl.orFlags_srseed (c : Ctl) (f : BitVec 6) : (c.orFlags f).srseed = c.srseed := rfl
@[simp] theorem Ctl.orFlags_strip (c : Ctl) (f : BitVec 6) : (c.orFlags f).strip = c.strip := rfl
@[simp] theorem Ctl.orFlags_tshp (c : Ctl) (f : BitVec 6) : (c.orFlags f).tshp = c.tshp := rfl
@[simp] theorem Ctl.orFlags_msel (c : Ctl) (f : BitVec 6) : (c.orFlags f).msel = c.msel := rfl
@[simp] theorem Ctl.orFlags_errcnt (c : Ctl) (f : BitVec 6) : (c.orFlags f).errcnt = c.errcnt := rfl
@[simp] theorem Ctl.orFlags_violcnt (c : Ctl) (f : BitVec 6) : (c.orFlags f).violcnt = c.violcnt := rfl

@[simp] theorem Hart.wx_pc (h : Hart) (r : SReg) (v : Word) : (h.wx r v).pc = h.pc := by
  unfold Hart.wx; split <;> rfl
@[simp] theorem Hart.wx_level (h : Hart) (r : SReg) (v : Word) : (h.wx r v).level = h.level := by
  unfold Hart.wx; split <;> rfl
@[simp] theorem Hart.wx_handler (h : Hart) (r : SReg) (v : Word) : (h.wx r v).handler = h.handler := by
  unfold Hart.wx; split <;> rfl
@[simp] theorem Hart.wx_ctl (h : Hart) (r : SReg) (v : Word) : (h.wx r v).ctl = h.ctl := by
  unfold Hart.wx; split <;> rfl
@[simp] theorem Hart.wx_sup (h : Hart) (r : SReg) (v : Word) : (h.wx r v).sup = h.sup := by
  unfold Hart.wx; split <;> rfl
@[simp] theorem Hart.wx_ident (h : Hart) (r : SReg) (v : Word) : (h.wx r v).ident = h.ident := by
  unfold Hart.wx; split <;> rfl
@[simp] theorem Hart.wx_loops (h : Hart) (r : SReg) (v : Word) : (h.wx r v).loops = h.loops := by
  unfold Hart.wx; split <;> rfl
@[simp] theorem Hart.wx_grid (h : Hart) (r : SReg) (v : Word) : (h.wx r v).grid = h.grid := by
  unfold Hart.wx; split <;> rfl
@[simp] theorem Hart.wx_queues (h : Hart) (r : SReg) (v : Word) : (h.wx r v).queues = h.queues := by
  unfold Hart.wx; split <;> rfl
@[simp] theorem Hart.wx_notices (h : Hart) (r : SReg) (v : Word) : (h.wx r v).notices = h.notices := by
  unfold Hart.wx; split <;> rfl
@[simp] theorem Hart.wx_pend (h : Hart) (r : SReg) (v : Word) : (h.wx r v).pend = h.pend := by
  unfold Hart.wx; split <;> rfl
@[simp] theorem Hart.wx_opas (h : Hart) (r : SReg) (v : Word) : (h.wx r v).opas = h.opas := by
  unfold Hart.wx; split <;> rfl
@[simp] theorem Hart.wx_long (h : Hart) (r : SReg) (v : Word) : (h.wx r v).long = h.long := by
  unfold Hart.wx; split <;> rfl
@[simp] theorem Hart.wx_popa (h : Hart) (r : SReg) (v : Word) : (h.wx r v).popa = h.popa := by
  unfold Hart.wx; split <;> rfl
@[simp] theorem Hart.wx_pvec (h : Hart) (r : SReg) (v : Word) : (h.wx r v).pvec = h.pvec := by
  unfold Hart.wx; split <;> rfl
@[simp] theorem Hart.wx_clearing (h : Hart) (r : SReg) (v : Word) : (h.wx r v).clearing = h.clearing := by
  unfold Hart.wx; split <;> rfl
@[simp] theorem Hart.wx_missingHalf (h : Hart) (r : SReg) (v : Word) : (h.wx r v).missingHalf = h.missingHalf := by
  unfold Hart.wx; split <;> rfl
@[simp] theorem Hart.wx_swapped (h : Hart) (r : SReg) (v : Word) : (h.wx r v).swapped = h.swapped := by
  unfold Hart.wx; split <;> rfl
@[simp] theorem Hart.wx_interval (h : Hart) (r : SReg) (v : Word) : (h.wx r v).interval = h.interval := by
  unfold Hart.wx; split <;> rfl
@[simp] theorem Hart.wx_wait (h : Hart) (r : SReg) (v : Word) : (h.wx r v).wait = h.wait := by
  unfold Hart.wx; split <;> rfl
@[simp] theorem Hart.wx_ewait (h : Hart) (r : SReg) (v : Word) : (h.wx r v).ewait = h.ewait := by
  unfold Hart.wx; split <;> rfl
@[simp] theorem Hart.wx_passed (h : Hart) (r : SReg) (v : Word) : (h.wx r v).passed = h.passed := by
  unfold Hart.wx; split <;> rfl
@[simp] theorem Hart.wx_due (h : Hart) (r : SReg) (v : Word) : (h.wx r v).due = h.due := by
  unfold Hart.wx; split <;> rfl
@[simp] theorem Hart.wx_inval (h : Hart) (r : SReg) (v : Word) : (h.wx r v).inval = h.inval := by
  unfold Hart.wx; split <;> rfl
@[simp] theorem Hart.wx_reread (h : Hart) (r : SReg) (v : Word) : (h.wx r v).reread = h.reread := by
  unfold Hart.wx; split <;> rfl

@[simp] theorem Hart.modCtl_ctl (h : Hart) (f : Ctl → Ctl) : (h.modCtl f).ctl = f h.ctl := rfl
@[simp] theorem Hart.modGrid_grid (h : Hart) (f : Grid → Grid) : (h.modGrid f).grid = f h.grid := rfl
@[simp] theorem Hart.modSup_sup (h : Hart) (f : Sup → Sup) : (h.modSup f).sup = f h.sup := rfl
@[simp] theorem Ctl.orFlags_fflags (c : Ctl) (f : BitVec 6) : (c.orFlags f).fflags = c.fflags ||| f := rfl
@[simp] theorem State.modRanges_ranges (s : State) (f : Ranges → Ranges) : (s.modRanges f).ranges = f s.ranges := rfl
@[simp] theorem State.modHarbour_harbour (s : State) (f : Harbour → Harbour) : (s.modHarbour f).harbour = f s.harbour := rfl
@[simp] theorem State.modLink_link (s : State) (f : Link → Link) : (s.modLink f).link = f s.link := rfl
@[simp] theorem State.raise_raised (s : State) (f : BitVec 6) : (s.raise f).raised = s.raised ||| f := rfl

@[simp] theorem State.core_setCore_same (s : State) (k : Nat) (c : Core) : (s.setCore k c).core k = c :=
  Tbl.get_put_same s.cores k c

theorem State.core_setCore_ne (s : State) {k j : Nat} (c : Core) (h : j ≠ k) : (s.setCore k c).core j = s.core j :=
  Tbl.get_put_ne s.cores c h

@[simp] theorem State.core_modCore_same (s : State) (k : Nat) (f : Core → Core) : (s.modCore k f).core k = f (s.core k) :=
  s.core_setCore_same k _

theorem State.core_modCore_ne (s : State) {k j : Nat} (f : Core → Core) (h : j ≠ k) : (s.modCore k f).core j = s.core j :=
  s.core_setCore_ne _ h

@[simp] theorem State.hart_modHart_same (s : State) (k : Nat) (f : Hart → Hart) : (s.modHart k f).hart k = f (s.hart k) := by
  simp [State.hart, State.modHart]

@[simp] theorem State.hart_modCore_same (s : State) (k : Nat) (f : Core → Core) :
    (s.modCore k f).hart k = (f (s.core k)).hart := by
  simp [State.hart]

@[simp] theorem State.core_modHart_same (s : State) (k : Nat) (f : Hart → Hart) :
    (s.modHart k f).core k = { s.core k with hart := f (s.hart k) } := by
  simp [State.modHart, State.hart]

theorem State.core_modHart_ne (s : State) {k j : Nat} (f : Hart → Hart) (h : j ≠ k) : (s.modHart k f).core j = s.core j :=
  s.core_modCore_ne _ h

@[simp] theorem State.my_modMy (s : State) (f : Hart → Hart) : (s.modMy f).my = f s.my := by
  show (s.modHart s.cur f).hart s.cur = f s.my
  simp [State.my, State.me, State.hart]

@[simp] theorem State.die_modDie_same (s : State) (d : Nat) (f : Die → Die) : (s.modDie d f).die d = f (s.die d) :=
  Tbl.get_mod_same s.dies d f

theorem State.die_modDie_ne (s : State) {d e : Nat} (f : Die → Die) (h : e ≠ d) : (s.modDie d f).die e = s.die e :=
  Tbl.get_mod_ne s.dies f h

@[simp] theorem State.core_modDie (s : State) (d k : Nat) (f : Die → Die) : (s.modDie d f).core k = s.core k := rfl
@[simp] theorem State.core_modRanges (s : State) (k : Nat) (f : Ranges → Ranges) : (s.modRanges f).core k = s.core k := rfl
@[simp] theorem State.core_modHarbour (s : State) (k : Nat) (f : Harbour → Harbour) : (s.modHarbour f).core k = s.core k := rfl
@[simp] theorem State.core_modLink (s : State) (k : Nat) (f : Link → Link) : (s.modLink f).core k = s.core k := rfl
@[simp] theorem State.core_raise (s : State) (k : Nat) (f : BitVec 6) : (s.raise f).core k = s.core k := rfl
@[simp] theorem State.die_modCore (s : State) (d k : Nat) (f : Core → Core) : (s.modCore k f).die d = s.die d := rfl
@[simp] theorem State.die_modHart (s : State) (d k : Nat) (f : Hart → Hart) : (s.modHart k f).die d = s.die d := rfl

/-- s0 reads zero (R221). -/
@[simp] theorem Hart.rx_zero (h : Hart) : h.rx 0#5 = 0#64 := rfl

/-- A register written reads the value, unless it is s0 (R221). -/
theorem Hart.rx_wx_same (h : Hart) (d : SReg) (v : Word) : (h.wx d v).rx d = if d = 0 then 0 else v := by
  split
  · next e => subst e; rfl
  · next e =>
    rw [Hart.rx, if_neg e, Hart.wx, if_neg e]
    exact Tbl.get_put_same _ _ _

/-- Every other register reads as before (R221). -/
theorem Hart.rx_wx_ne (h : Hart) {d r : SReg} (v : Word) (n : r ≠ d) : (h.wx d v).rx r = h.rx r := by
  have e : r.toNat ≠ d.toNat := fun e => n (BitVec.eq_of_toNat_eq e)
  unfold Hart.rx Hart.wx
  split
  · rfl
  · split
    · rfl
    · exact Tbl.get_put_ne _ _ e

/-- Registers depend on the register file alone. -/
theorem Hart.rx_congr {h g : Hart} (e : g.x = h.x) (r : SReg) : g.rx r = h.rx r := by
  unfold Hart.rx; rw [e]

@[simp] theorem Grid.mend_rows (g : Grid) (r lo w : Nat) : (g.mend r lo w).rows = g.rows := rfl
@[simp] theorem Grid.mend_dirty (g : Grid) (r lo w : Nat) : (g.mend r lo w).dirty = g.dirty := rfl
@[simp] theorem Grid.mend_h1 (g : Grid) (r lo w : Nat) : (g.mend r lo w).h1 = g.h1 := rfl
@[simp] theorem Grid.mend_busy (g : Grid) (r lo w : Nat) : (g.mend r lo w).busy = g.busy := rfl
@[simp] theorem Grid.mend_missing (g : Grid) (r lo w : Nat) : (g.mend r lo w).missing = g.missing := rfl
@[simp] theorem Grid.mend_masks (g : Grid) (r lo w : Nat) : (g.mend r lo w).masks = g.masks := rfl
@[simp] theorem Grid.setRow_bad (g : Grid) (r : Nat) (v : BitVec 2048) : (g.setRow r v).bad = g.bad := rfl
@[simp] theorem Grid.setRow_busy (g : Grid) (r : Nat) (v : BitVec 2048) : (g.setRow r v).busy = g.busy := rfl
@[simp] theorem Grid.setRow_missing (g : Grid) (r : Nat) (v : BitVec 2048) : (g.setRow r v).missing = g.missing := rfl
@[simp] theorem Grid.setRow_masks (g : Grid) (r : Nat) (v : BitVec 2048) : (g.setRow r v).masks = g.masks := rfl
@[simp] theorem Grid.putRow_busy (g : Grid) (r : Nat) (v : BitVec 2048) : (g.putRow r v).busy = g.busy := rfl
@[simp] theorem Grid.putRow_missing (g : Grid) (r : Nat) (v : BitVec 2048) : (g.putRow r v).missing = g.missing := rfl
@[simp] theorem Grid.putRow_masks (g : Grid) (r : Nat) (v : BitVec 2048) : (g.putRow r v).masks = g.masks := rfl
@[simp] theorem Grid.filled_bad (g : Grid) (x : BitVec 32) : (g.filled x).bad = g.bad := rfl
@[simp] theorem Grid.filled_dirty (g : Grid) (x : BitVec 32) : (g.filled x).dirty = g.dirty := rfl
@[simp] theorem Grid.filled_busy (g : Grid) (x : BitVec 32) : (g.filled x).busy = g.busy := rfl
@[simp] theorem Grid.filled_missing (g : Grid) (x : BitVec 32) : (g.filled x).missing = g.missing := rfl
@[simp] theorem Grid.filled_masks (g : Grid) (x : BitVec 32) : (g.filled x).masks = g.masks := rfl
@[simp] theorem Grid.filled_h1 (g : Grid) (x : BitVec 32) : (g.filled x).h1 = g.h1 := rfl

end Sys2Proof.Machine
end

