-- ==== Sys2Proof/Laws/Bundle.lean ====
section
/-! SUPPORT. What a bundle of one operation does: it commits, traps, stalls or waits; and what the end of a bundle
changes and leaves alone. -/

namespace Sys2Proof.Machine

theorem State.setCore_setCore (s : State) (k : Nat) (c d : Core) : (s.setCore k c).setCore k d = s.setCore k d := by
  simp [State.setCore, Tbl.put_put]

/-- What becomes of a bundle of one operation is what the operation answers (R131, R172, R174). -/
theorem verdict_one (i : Nat) (r : Res) : verdict [(i, r)] =
    match r with
    | .trap c a sv f kp => .raise ⟨i, c, a, sv, f, kp⟩
    | .stall => .stall
    | .wait n b f => if n ≤ 2 then .wait b f (n != 0) else .commit
    | .commit _ => .commit := by
  cases r with
  | trap c a sv f kp =>
    have r : causeRank c < 9 ∨ causeRank c = 9 := by unfold causeRank; split <;> simp
    rcases r with r | r <;> simp [verdict, firstTrap, anyStall, firstWait, r]
  | stall => rfl
  | wait n b f =>
    match n with
    | 0 => rfl
    | 1 => rfl
    | 2 => rfl
    | n + 3 => simp [verdict, firstTrap, anyStall, firstWait]
  | commit c => rfl

/-- Among no rows none has an error. -/
@[simp] theorem Hart.badRow_nil (h : Hart) : h.badRow [] = none := by simp [Hart.badRow]

/-- A grid without an error has no row with one. -/
theorem Hart.badRow_clean {h : Hart} (e : h.grid.bad = []) (rows : List Nat) : h.badRow rows = none := by simp [Hart.badRow, e]

/-- Rows none of whose cells has an error (R67). -/
theorem Hart.badRow_none {h : Hart} {rows : List Nat} (e : ∀ c ∈ h.grid.bad, c.1 ∉ rows) : h.badRow rows = none := by
  have f : (h.grid.bad.filter fun c => rows.contains c.1) = [] := by
    rw [List.filter_eq_nil_iff]
    intro c hc
    simpa using e c hc
  unfold Hart.badRow
  rw [f]
  rfl

/-- An operation that reads no cell with an error answers as it stands (R67). -/
theorem onRows_eq {s : State} {i : Instr} {op : Op} {oc : OpCtx} (hr : s.my.badRow (rowSrc s i) = none) :
    onRows i op oc s = op oc s := by
  simp [onRows, hr]

/-- A bundle of one operation that no VLDC holds up is run by its answer (R129, R263). -/
theorem State.runOne_eq {s : State} {i : Instr} {op : Op} (hd : s.awaitsDecode [i] = false) :
    s.runOne i op = .next (s.runOps [{ slot := 0, op := onRows i op }]) := by
  simp [State.runOne, State.mustDecode, hd]

/-- A bundle that a VLDC holds up stalls (R263). -/
theorem State.runOne_held {s : State} {i : Instr} {op : Op} (hd : s.mustDecode [(0, i)] = true) :
    s.runOne i op = .next (s.modCore s.cur (·.unblock)) := by
  simp [State.runOne, hd]

/-- A bundle of one operation that commits (R172). -/
theorem State.runOne_commit {s : State} {i : Instr} {op : Op} {c : Commit} (hd : s.awaitsDecode [i] = false)
    (hr : s.my.badRow (rowSrc s i) = none) (h : op ⟨s.my.pc, 0⟩ s = .commit c) :
    s.runOne i op = .next (s.commitAll [c]) := by
  rw [State.runOne_eq hd]
  simp [State.runOps, State.answers, verdict_one, onRows_eq hr, h, orderedCommits, commitsOf]

/-- A bundle of one operation that traps, whatever the rank of its cause (R174): it has sent nothing before. -/
theorem State.runOne_trap {s : State} {i : Instr} {op : Op} {cause : Nat} {a : Word} {sv : Bool} {f : State → State} {kp : Bool}
    (hd : s.awaitsDecode [i] = false) (hp : s.my.passed = none) (hw : s.my.wait ≠ .ask)
    (hr : s.my.badRow (rowSrc s i) = none) (h : op ⟨s.my.pc, 0⟩ s = .trap cause a sv f kp) :
    s.runOne i op = .next (((f s).trap s.cur
      { cause := cause, addr := a, slot := slotOfTrap cause 0, pc := s.my.pc, save := sv, kept := kp }).modCore s.cur
        Core.unblock) := by
  rw [State.runOne_eq hd]
  simp [State.runOps, State.answers, verdict_one, onRows_eq hr, h, State.raiseTrap, hp, hw]

/-- A bundle of one operation that waits (R131, R163); one of a later stage has passed its checks (R173). -/
theorem State.runOne_wait {s : State} {i : Instr} {op : Op} {n : Nat} {b : Option (Nat × Word)} {f : State → State}
    (hd : s.awaitsDecode [i] = false) (hr : s.my.badRow (rowSrc s i) = none) (h : op ⟨s.my.pc, 0⟩ s = .wait n b f) (hn : n ≤ 2) :
    s.runOne i op = .next ((if n != 0 then s.passChecks [] else s).waitOn b f) := by
  rw [State.runOne_eq hd]
  simp [State.runOps, State.answers, verdict_one, onRows_eq hr, h, hn, commitsOf]

/-- A bundle of one operation that stalls (R131). -/
theorem State.runOne_stall {s : State} {i : Instr} {op : Op} (hr : s.my.badRow (rowSrc s i) = none)
    (h : op ⟨s.my.pc, 0⟩ s = .stall) : s.runOne i op = .next (s.modCore s.cur (·.unblock)) := by
  cases hd : s.mustDecode [(0, i)] with
  | true => exact State.runOne_held hd
  | false => simp [State.runOne, hd, State.runOps, State.answers, verdict_one, onRows_eq hr, h]

/-- The loop end changes VL and STRIP of the control words, and nothing else of them. -/
theorem loopEnd_ctl (v : Nat) (pc : Word) (n : Nat) (ls : List LoopEnt) (c : Ctl) :
    (loopEnd v pc n ls c).2.1 = { c with vl := (loopEnd v pc n ls c).2.1.vl, strip := (loopEnd v pc n ls c).2.1.strip } := by
  induction n generalizing ls c with
  | zero => rfl
  | succ n ih =>
    unfold loopEnd
    split
    · rfl
    · dsimp only
      split
      · rfl
      · split
        · split
          · rfl
          · rw [ih]
        · split
          · rfl
          · exact ih _ _

/-- Flags ORed into FFLAGS do not change what the loop end does. -/
theorem loopEnd_orFlags (v : Nat) (pc : Word) (n : Nat) (ls : List LoopEnt) (c : Ctl) (f : BitVec 6) :
    loopEnd v pc n ls (c.orFlags f) =
      ((loopEnd v pc n ls c).1, (loopEnd v pc n ls c).2.1.orFlags f, (loopEnd v pc n ls c).2.2.1,
       (loopEnd v pc n ls c).2.2.2) := by
  induction n generalizing ls c with
  | zero => rfl
  | succ n ih =>
    unfold loopEnd
    cases h : ls.reverse with
    | nil => rfl
    | cons e below =>
      dsimp only [Ctl.orFlags_strip, Ctl.orFlags_vl]
      by_cases h1 : e.last ≠ pc
      · simp only [if_pos h1]
      · simp only [if_neg h1]
        by_cases h2 : e.vloop
        · simp only [if_pos h2]
          by_cases h3 : c.strip - BitVec.ofNat 64 (min c.vl c.strip.toNat) ≠ 0
          · simp only [if_pos h3]; rfl
          · simp only [if_neg h3]
            exact ih below.reverse { c with strip := c.strip - BitVec.ofNat 64 (min c.vl c.strip.toNat) }
        · simp only [if_neg h2]
          by_cases h3 : e.count - 1 ≠ 0
          · simp only [if_pos h3]
          · simp only [if_neg h3]; exact ih _ _

/-- The end of a bundle, whole: the hart at its next bundle, waiting for nothing, its block ended. -/
theorem State.finishBundle_eq (s : State) (k : Nat) (pc : Word) (next : Option Word) (cut : Bool) :
    ∃ n u, s.finishBundle k pc next cut =
      { s.setCore k { (s.core k).unblock with
          hart := { (((s.hart k).modCtl (·.orFlags s.raised)).advance pc next).1 with
            wait := .none, ewait := .none, passed := none, interval := n } } with uid := u, raised := 0 } := by
  unfold State.finishBundle State.foldFlags
  have e : ({ s.modHart k fun h => h.modCtl fun c => c.orFlags s.raised with raised := 0 } : State).hart k =
      (s.hart k).modCtl (·.orFlags s.raised) := State.hart_modHart_same s k fun h => h.modCtl fun c => c.orFlags s.raised
  simp only [e]
  cases h : ((s.hart k).modCtl (·.orFlags s.raised)).advance pc next with
  | mk g pass =>
    dsimp only
    split
    · refine ⟨s.uid, s.uid + 1, ?_⟩
      simp [State.newInterval, State.modHart, State.modCore, State.setCore, State.core, Tbl.put_put, Core.unblock,
        Core.modEntry]
    · refine ⟨g.interval, s.uid, ?_⟩
      simp [State.modHart, State.modCore, State.setCore, State.core, Tbl.put_put, Core.unblock, Core.modEntry]

/-- What a bundle of one committing operation does, in its parts. -/
theorem State.commitAll_one (s : State) (c : Commit) :
    s.commitAll [c] = c.after ((c.run { s with raised := 0 }).finishBundle s.cur s.my.pc c.next c.cut) := by
  cases h : c.next <;> simp [State.commitAll, State.my, State.me, State.hart, h]

/-- An effect on the hart in hand that leaves alone everything but registers, grid and SRSEED. -/
def KeepsRest (f : Hart → Hart) : Prop :=
  ∀ h, f h = { h with x := (f h).x, grid := (f h).grid, ctl := { h.ctl with srseed := (f h).ctl.srseed } }

theorem keepsRest_wx (d : SReg) (v : Word) : KeepsRest (·.wx d v) := by
  intro h; dsimp only; unfold Hart.wx; split <;> rfl

theorem unblock_queue (c : Core) :
    c.unblock.queue.map (fun e => { e with blk := ({} : Blk) }) = c.queue.map fun e => { e with blk := ({} : Blk) } := by
  simp only [Core.unblock, Core.modEntry, List.map_map]
  apply List.map_congr_left
  intro e _
  dsimp only [Function.comp]
  split <;> rfl

theorem coreKept_unblock (c : Core) (h : Hart) : CoreKept c { c.unblock with hart := h } :=
  ⟨rfl, unblock_queue c⟩

theorem advance_kept (h : Hart) (f : BitVec 6) (pc : Word) :
    let a := (h.advance pc none).1
    ((h.modCtl (·.orFlags f)).advance pc none).1 =
      { h with pc := a.pc, loops := a.loops,
               ctl := { h.ctl with vl := a.ctl.vl, strip := a.ctl.strip, fflags := h.ctl.fflags ||| f } } := by
  have c := loopEnd_ctl h.vlLimit pc (h.loops.length + 1) h.loops h.ctl
  have k := loopEnd_orFlags h.vlLimit pc (h.loops.length + 1) h.loops h.ctl f
  generalize hz : loopEnd h.vlLimit pc (h.loops.length + 1) h.loops h.ctl = z at c k
  obtain ⟨ls, d, p, b⟩ := z
  have e1 : h.advance pc none = ({ h with pc := p, loops := ls, ctl := d }, b) := by
    simp only [Hart.advance, hz]
  have e2 : (h.modCtl (·.orFlags f)).advance pc none =
      ({ h with pc := p, loops := ls, ctl := d.orFlags f }, b) := by
    change (match loopEnd h.vlLimit pc (h.loops.length + 1) h.loops (h.ctl.orFlags f) with
      | (ls, c, t, pass) => ({ (h.modCtl (·.orFlags f)) with pc := t, loops := ls, ctl := c }, pass)) = _
    rw [k]; rfl
  rw [e1, e2]
  dsimp only at c ⊢
  rw [c]
  rfl

theorem advance_rest (h g : Hart) (pc : Word) (hl : g.loops = h.loops)
    (hc : g.ctl = { h.ctl with srseed := g.ctl.srseed }) (hs : g.sup = h.sup) :
    let a := (h.advance pc none).1
    let b := (g.advance pc none).1
    b.pc = a.pc ∧ b.loops = a.loops ∧ b.ctl.vl = a.ctl.vl ∧ b.ctl.strip = a.ctl.strip := by
  have key : ∀ n ls (c d : Ctl), d = { c with srseed := d.srseed } → ∀ v,
      (loopEnd v pc n ls d).1 = (loopEnd v pc n ls c).1 ∧
      (loopEnd v pc n ls d).2.1.vl = (loopEnd v pc n ls c).2.1.vl ∧
      (loopEnd v pc n ls d).2.1.strip = (loopEnd v pc n ls c).2.1.strip ∧
      (loopEnd v pc n ls d).2.2 = (loopEnd v pc n ls c).2.2 := by
    intro n
    induction n with
    | zero => intro ls c d e v; rw [e]; exact ⟨rfl, rfl, rfl, rfl⟩
    | succ n ih =>
      intro ls c d e v
      unfold loopEnd
      cases hr : ls.reverse with
      | nil => rw [e]; exact ⟨rfl, rfl, rfl, rfl⟩
      | cons x below =>
        have es : d.strip = c.strip := by rw [e]
        have ev : d.vl = c.vl := by rw [e]
        dsimp only
        rw [es, ev]
        by_cases h1 : x.last ≠ pc
        · simp only [if_pos h1, es, ev, and_self]
        · simp only [if_neg h1]
          by_cases h2 : x.vloop
          · simp only [if_pos h2]
            by_cases h3 : c.strip - BitVec.ofNat 64 (min c.vl c.strip.toNat) ≠ 0
            · simp only [if_pos h3, and_self]
            · simp only [if_neg h3]
              apply ih
              rw [e]
          · simp only [if_neg h2]
            by_cases h3 : x.count - 1 ≠ 0
            · simp only [if_pos h3, es, ev, and_self]
            · simp only [if_neg h3]; exact ih _ _ _ e _
  have ev : g.vlLimit = h.vlLimit := by unfold Hart.vlLimit; rw [hc, hs]
  have k := key (h.loops.length + 1) h.loops h.ctl g.ctl hc h.vlLimit
  simp only [Hart.advance, ev, hl]
  exact ⟨congrArg Prod.fst k.2.2.2, k.1, k.2.1, k.2.2.1⟩

/-- An operation whose effect is on registers, grid and SRSEED of its hart completes (R172, R233, R240). -/
theorem runs_modMy {i : Instr} {s : State} {op : Op} {f : Hart → Hart} {fl : BitVec 6}
    (he : exec i s = s.runOne i op) (hr : s.my.badRow (rowSrc s i) = none)
    (ho : op ⟨s.my.pc, 0⟩ s = .commit { run := fun t => (t.modMy f).raise fl }) (hk : KeepsRest f) :
    Runs i s fun t => Past s t fl ∧ t.my.x = (f s.my).x ∧ t.my.grid = (f s.my).grid ∧
      t.my.ctl.srseed = (f s.my).ctl.srseed := by
  intro hd
  refine ⟨_, he.trans (State.runOne_commit hd hr ho), ?_⟩
  rw [State.commitAll_one]
  dsimp only [id]
  obtain ⟨n, u, e⟩ := State.finishBundle_eq ((({ s with raised := 0 } : State).modMy f).raise fl) s.cur s.my.pc none false
  rw [e]
  have hc : ((({ s with raised := 0 } : State).modMy f).raise fl).core s.cur = { s.me with hart := f s.my } :=
    State.core_modHart_same ({ s with raised := 0 } : State) s.cur f
  have hh : ((({ s with raised := 0 } : State).modMy f).raise fl).hart s.cur = f s.my := by
    unfold State.hart; rw [hc]
  have hr : ((({ s with raised := 0 } : State).modMy f).raise fl).raised = fl := by
    simp
  rw [hh, hr, hc, advance_kept]
  have hf := hk s.my
  have adv := advance_rest s.my (f s.my) s.my.pc (by rw [hf]) (by rw [hf]) (by rw [hf])
  dsimp only at adv ⊢
  obtain ⟨a1, a2, a3, a4⟩ := adv
  have my : ∀ (C : Core), ({ ((({ s with raised := 0 } : State).modMy f).raise fl).setCore s.cur C with
      uid := u, raised := 0 } : State).me = C := fun C => State.core_setCore_same _ s.cur C
  have my' : ∀ (C : Core), ({ ((({ s with raised := 0 } : State).modMy f).raise fl).setCore s.cur C with
      uid := u, raised := 0 } : State).my = C.hart := fun C => congrArg Core.hart (my C)
  refine ⟨⟨⟨rfl, rfl, rfl, rfl, rfl, rfl, rfl, rfl, rfl, rfl, rfl, rfl, rfl, rfl, ?_⟩, ?_, ?_, ?_⟩, ?_, ?_, ?_⟩
  · intro k hkk
    show (State.setCore _ s.cur _).core k = _
    rw [State.core_setCore_ne _ _ hkk]
    exact State.core_modHart_ne _ f hkk
  · rw [my]; exact coreKept_unblock s.me _
  · unfold HartKept; rw [my']
    dsimp only
    generalize f s.my = g at hf
    rw [hf]
  · unfold BundleEnds; rw [my']
    dsimp only
    refine ⟨a1, a2, ?_⟩
    rw [a3, a4]
    generalize f s.my = g at hf
    rw [hf]
  · rw [my']
  · rw [my']
  · rw [my']

/-- An operation that writes one register (R221 to R225). -/
theorem gives_of_writes {i : Instr} {s : State} {op : Op} {d : SReg} {v : Word}
    (he : exec i s = s.runOne i op) (hr : s.my.badRow (rowSrc s i) = none) (ho : op ⟨s.my.pc, 0⟩ s = writes d v) :
    Gives i s d v := by
  intro hd
  have e : ∀ t : State, t.raise 0 = t := fun t => by simp [State.raise]
  have ho' : op ⟨s.my.pc, 0⟩ s = .commit { run := fun t => (t.modMy (·.wx d v)).raise 0 } := by
    rw [ho]; unfold writes; simp only [e]
  obtain ⟨t, ht, hp, hx, hg, hs⟩ := runs_modMy he hr ho' (keepsRest_wx d v) hd
  refine ⟨t, ht, ⟨?_, ?_⟩, ?_, ?_, hp⟩
  · rw [Hart.rx_congr hx, Hart.rx_wx_same]
  · intro r hr; rw [Hart.rx_congr hx, Hart.rx_wx_ne _ _ hr]
  · rw [hg]; simp
  · rw [hs]; simp

/-- A trap that does not save changes the hart alone (R178). -/
theorem State.trap_plain (s : State) (k : Nat) {t : Trap} (h : t.save = false) : s.trap k t = s.modHart k (·.enter t t.kept) := by
  simp [State.trap, h]

/-- A precise trap that does not save the context (R174, R178, R179). -/
theorem traps_of_trap {i : Instr} {s : State} {op : Op} {cause : Nat} {a : Word}
    (he : exec i s = s.runOne i op) (hr : s.my.badRow (rowSrc s i) = none) (ho : op ⟨s.my.pc, 0⟩ s = .trap cause a false)
    (hc : cause < 256) (hn : cause ≠ 0x13) : Traps i s cause a 4 := by
  intro hp hw hd
  refine ⟨_, he.trans (State.runOne_trap hd hp hw hr ho), ?_⟩
  have e : slotOfTrap cause 0 = some 0 := by simp [slotOfTrap, hn]
  rw [e]
  dsimp only [id]
  rw [State.trap_plain s s.cur rfl]
  have me : ((s.modHart s.cur (·.enter ⟨cause, a, some 0, false, s.my.pc, false, false⟩ false)).modCore s.cur
      Core.unblock).me = Core.unblock { s.me with
        hart := s.my.enter ⟨cause, a, some 0, false, s.my.pc, false, false⟩ false } := by
    show State.core (State.modCore (State.modHart s s.cur _) s.cur _) s.cur = _
    rw [State.core_modCore_same, State.core_modHart_same]; rfl
  have my : ((s.modHart s.cur (·.enter ⟨cause, a, some 0, false, s.my.pc, false, false⟩ false)).modCore s.cur
      Core.unblock).my = s.my.enter ⟨cause, a, some 0, false, s.my.pc, false, false⟩ false :=
    congrArg Core.hart me
  have hl : levelCode s.my.level ≤ 2 := by cases s.my.level <;> simp [levelCode]
  have others : ∀ k, k ≠ s.cur → ((s.modHart s.cur (·.enter ⟨cause, a, some 0, false, s.my.pc, false, false⟩ false)).modCore
      s.cur Core.unblock).core k = s.core k := fun k hk =>
    (State.core_modCore_ne _ _ hk).trans (State.core_modHart_ne _ _ hk)
  have code : (s.my.enter ⟨cause, a, some 0, false, s.my.pc, false, false⟩ false).sup.trapcause.toNat =
      cause + 256 * levelCode s.my.level := by
    simp only [Hart.enter, BitVec.toNat_ofNat, Bool.toNat_false]; omega
  simp only [my, me]
  and_intros
  all_goals first | exact code | exact others | exact (coreKept_unblock s.me _).2 | exact fun _ => rfl | rfl

/-- A committing operation that changes its hart, raises flags and may end the strip interval (R172, R233, R240). -/
theorem changes_of_modMy {i : Instr} {s : State} {op : Op} {f : Hart → Hart} {fl : BitVec 6} {cut : Bool}
    (he : exec i s = s.runOne i op) (hr : s.my.badRow (rowSrc s i) = none)
    (ho : op ⟨s.my.pc, 0⟩ s = .commit { run := fun t => (t.modMy f).raise fl, cut := cut }) : Changes i s f fl := by
  intro hd
  refine ⟨_, he.trans (State.runOne_commit hd hr ho), ?_⟩
  rw [State.commitAll_one]
  dsimp only [id]
  obtain ⟨n, u, e⟩ := State.finishBundle_eq ((({ s with raised := 0 } : State).modMy f).raise fl) s.cur s.my.pc none cut
  rw [e]
  have hc : ((({ s with raised := 0 } : State).modMy f).raise fl).core s.cur = { s.me with hart := f s.my } :=
    State.core_modHart_same ({ s with raised := 0 } : State) s.cur f
  have hh : ((({ s with raised := 0 } : State).modMy f).raise fl).hart s.cur = f s.my := by
    unfold State.hart; rw [hc]
  have hr : ((({ s with raised := 0 } : State).modMy f).raise fl).raised = fl := by
    simp
  rw [hh, hr, hc]
  have my : ∀ (C : Core), ({ ((({ s with raised := 0 } : State).modMy f).raise fl).setCore s.cur C with
      uid := u, raised := 0 } : State).me = C := fun C => State.core_setCore_same _ s.cur C
  have my' : ∀ (C : Core), ({ ((({ s with raised := 0 } : State).modMy f).raise fl).setCore s.cur C with
      uid := u, raised := 0 } : State).my = C.hart := fun C => congrArg Core.hart (my C)
  refine ⟨⟨rfl, rfl, rfl, rfl, rfl, rfl, rfl, rfl, rfl, rfl, rfl, rfl, rfl, rfl, ?_⟩, ?_, ?_⟩
  · intro k hkk
    show (State.setCore _ s.cur _).core k = _
    rw [State.core_setCore_ne _ _ hkk]
    exact State.core_modHart_ne _ f hkk
  · rw [my]; exact coreKept_unblock s.me _
  · simp only [my']

/-- An operation that raises nothing changes its hart (R172). -/
theorem changes_of_commits {i : Instr} {s : State} {op : Op} {f : Hart → Hart} {cut : Bool}
    (he : exec i s = s.runOne i op) (hr : s.my.badRow (rowSrc s i) = none)
    (ho : op ⟨s.my.pc, 0⟩ s = .commit { run := fun t => t.modMy f, cut := cut }) : Changes i s f 0 := by
  have e : ∀ t : State, t.raise 0 = t := fun t => by simp [State.raise]
  exact changes_of_modMy he hr (by simp only [e]; exact ho)

/-- No flags ORed in change nothing. -/
theorem Hart.modCtl_orFlags_zero (h : Hart) : h.modCtl (·.orFlags 0) = h := by
  have e : ∀ c : Ctl, c.orFlags 0 = c := by
    intro c
    have z : c.fflags ||| 0 = c.fflags := by simp
    unfold Ctl.orFlags
    rw [z]
  show { h with ctl := h.ctl.orFlags 0 } = h
  rw [e]

/-- A committing operation that transfers control (R230 to R232). -/
theorem goesTo_of_commit {i : Instr} {s : State} {op : Op} {f : Hart → Hart} {target : Word} {cut : Bool}
    (he : exec i s = s.runOne i op) (hr : s.my.badRow (rowSrc s i) = none)
    (ho : op ⟨s.my.pc, 0⟩ s = .commit { run := fun t => t.modMy f, next := some target, cut := cut }) :
    GoesTo i s f target := by
  intro hd
  refine ⟨_, he.trans (State.runOne_commit hd hr ho), ?_⟩
  rw [State.commitAll_one]
  dsimp only [id]
  obtain ⟨n, u, e⟩ := State.finishBundle_eq (({ s with raised := 0 } : State).modMy f) s.cur s.my.pc (some target) cut
  rw [e]
  have hc : (({ s with raised := 0 } : State).modMy f).core s.cur = { s.me with hart := f s.my } :=
    State.core_modHart_same ({ s with raised := 0 } : State) s.cur f
  have hh : (({ s with raised := 0 } : State).modMy f).hart s.cur = f s.my := by
    unfold State.hart; rw [hc]
  have hr : (({ s with raised := 0 } : State).modMy f).raised = 0 := rfl
  rw [hh, hr, hc]
  have z : (f s.my).modCtl (·.orFlags 0) = f s.my := Hart.modCtl_orFlags_zero _
  rw [z]
  have my : ∀ (C : Core), ({ (({ s with raised := 0 } : State).modMy f).setCore s.cur C with
      uid := u, raised := 0 } : State).me = C := fun C => State.core_setCore_same _ s.cur C
  have my' : ∀ (C : Core), ({ (({ s with raised := 0 } : State).modMy f).setCore s.cur C with
      uid := u, raised := 0 } : State).my = C.hart := fun C => congrArg Core.hart (my C)
  refine ⟨⟨rfl, rfl, rfl, rfl, rfl, rfl, rfl, rfl, rfl, rfl, rfl, rfl, rfl, rfl, ?_⟩, ?_, ?_⟩
  · intro k hkk
    show (State.setCore _ s.cur _).core k = _
    rw [State.core_setCore_ne _ _ hkk]
    exact State.core_modHart_ne _ f hkk
  · rw [my]; exact coreKept_unblock s.me _
  · simp only [my']; rfl

/-- A bundle that stalls changes nothing of its hart (R131). -/
theorem stalls_of_stall {i : Instr} {s : State} {op : Op} (he : exec i s = s.runOne i op)
    (hr : s.my.badRow (rowSrc s i) = none) (ho : op ⟨s.my.pc, 0⟩ s = .stall) : Stalls i s := by
  refine ⟨_, he.trans (State.runOne_stall hr ho), ⟨rfl, rfl, rfl, rfl, rfl, rfl, rfl, rfl, rfl, rfl, rfl, rfl, rfl, rfl, ?_⟩, ?_, ?_⟩
  · intro k hk; exact State.core_modCore_ne _ _ hk
  · have e : (s.modCore s.cur (·.unblock)).me = s.me.unblock := State.core_modCore_same _ _ _
    rw [e]; exact coreKept_unblock s.me s.my
  · have e : (s.modCore s.cur (·.unblock)).me = s.me.unblock := State.core_modCore_same _ _ _
    exact (congrArg Core.hart e).trans rfl

end Sys2Proof.Machine
end

