-- ==== Sys2Proof/Laws/Memory.lean ====
section
/-! SUPPORT. Memory: every operation keeps the canonical form, a read after a write gives what was written, and a write
leaves every other interval alone. -/

namespace Sys2Proof.Machine

theorem cellsBelow_eq (k : Nat) (c : List Host.Cell) : cellsBelow k c = c.filter fun x => decide (x.1 < k) := by
  induction c with
  | nil => rfl
  | cons x xs ih => obtain ⟨a, b⟩ := x; by_cases h : a < k <;> simp [cellsBelow, ih, h]

theorem cellsFrom_eq (k : Nat) (c : List Host.Cell) : cellsFrom k c = c.filter fun x => decide (k ≤ x.1) := by
  induction c with
  | nil => rfl
  | cons x xs ih =>
    obtain ⟨a, b⟩ := x
    by_cases h : a < k
    · simp [cellsFrom, ih, h, Nat.not_le.mpr h]
    · simp [cellsFrom, ih, h, Nat.not_lt.mp h]

/-- The canonical form: addresses strictly rise and no entry is zero. -/
theorem cellsWf_iff (c : List Host.Cell) :
    cellsWf c = true ↔ c.Pairwise (fun x y => x.1 < y.1) ∧ ∀ x ∈ c, x.2 ≠ 0 := by
  induction c with
  | nil => simp [cellsWf]
  | cons x xs ih =>
    obtain ⟨a, b⟩ := x
    cases xs with
    | nil => simp [cellsWf]
    | cons y ys =>
      obtain ⟨a', b'⟩ := y
      simp only [cellsWf, Bool.and_eq_true, bne_iff_ne, decide_eq_true_eq, ih, List.pairwise_cons, List.mem_cons,
        forall_eq_or_imp]
      constructor
      · rintro ⟨⟨hb, ha⟩, ⟨hp, hq⟩, hb', hz⟩
        exact ⟨⟨⟨ha, fun z hz' => Nat.lt_trans ha (hp z hz')⟩, hp, hq⟩, hb, hb', hz⟩
      · rintro ⟨⟨⟨ha, -⟩, hp, hq⟩, hb, hb', hz⟩
        exact ⟨⟨hb, ha⟩, ⟨hp, hq⟩, hb', hz⟩

theorem cellsOf_mem {a v n : Nat} {x : Host.Cell} (h : x ∈ cellsOf a v n) : a ≤ x.1 ∧ x.1 < a + n ∧ x.2 ≠ 0 := by
  induction n generalizing a v with
  | zero => simp [cellsOf] at h
  | succ n ih =>
    unfold cellsOf at h
    split at h
    · have k := ih h
      exact ⟨by omega, by omega, k.2.2⟩
    · rcases List.mem_cons.mp h with rfl | h
      · refine ⟨Nat.le_refl _, by simp, fun hz => ?_⟩
        have k : (BitVec.ofNat 8 v).toNat = 0 := congrArg BitVec.toNat hz
        simp at k; omega
      · have k := ih h
        exact ⟨by omega, by omega, k.2.2⟩

theorem cellsOf_sorted (a v n : Nat) : (cellsOf a v n).Pairwise fun x y => x.1 < y.1 := by
  induction n generalizing a v with
  | zero => simp [cellsOf]
  | succ n ih =>
    unfold cellsOf
    split
    · exact ih _ _
    · refine List.pairwise_cons.mpr ⟨fun x hx => ?_, ih _ _⟩
      have := cellsOf_mem hx
      show a < x.1
      omega

/-- A write keeps the canonical form. -/
theorem cellsWf_write {c : List Host.Cell} (h : cellsWf c = true) (a n v : Nat) : cellsWf (cellsWrite c a n v) = true := by
  rw [cellsWf_iff] at h ⊢
  obtain ⟨hp, hz⟩ := h
  unfold cellsWrite
  rw [cellsBelow_eq, cellsFrom_eq]
  refine ⟨List.pairwise_append.mpr ⟨hp.filter _, List.pairwise_append.mpr ⟨cellsOf_sorted _ _ _, hp.filter _, ?_⟩, ?_⟩, ?_⟩
  · intro x hx y hy
    have := cellsOf_mem hx
    have := (List.mem_filter.mp hy).2
    simp at this; omega
  · intro x hx y hy
    have h1 := (List.mem_filter.mp hx).2
    simp at h1
    rcases List.mem_append.mp hy with hy | hy
    · have := cellsOf_mem hy; omega
    · have := (List.mem_filter.mp hy).2
      simp at this; omega
  · intro x hx
    rcases List.mem_append.mp hx with hx | hx
    · exact hz x (List.mem_filter.mp hx).1
    · rcases List.mem_append.mp hx with hx | hx
      · exact (cellsOf_mem hx).2.2
      · exact hz x (List.mem_filter.mp hx).1

theorem cellsValue_append (base : Nat) (c d : List Host.Cell) :
    cellsValue base (c ++ d) = cellsValue base c + cellsValue base d := by
  induction c with
  | nil => simp [cellsValue]
  | cons x xs ih => obtain ⟨a, b⟩ := x; simp [cellsValue, ih]; omega

theorem cellsRead_eq (c : List Host.Cell) (a n : Nat) :
    cellsRead c a n = cellsValue a (c.filter fun x => decide (a ≤ x.1) && decide (x.1 < a + n)) := by
  unfold cellsRead
  rw [cellsFrom_eq, cellsBelow_eq, List.filter_filter]
  congr 1
  apply List.filter_congr
  intro x _
  exact Bool.and_comm _ _

theorem cellsRead_append (c d : List Host.Cell) (a n : Nat) :
    cellsRead (c ++ d) a n = cellsRead c a n + cellsRead d a n := by
  simp only [cellsRead_eq, List.filter_append, cellsValue_append]

theorem cellsRead_none {c : List Host.Cell} {a n : Nat} (h : ∀ x ∈ c, x.1 < a ∨ a + n ≤ x.1) : cellsRead c a n = 0 := by
  rw [cellsRead_eq, List.filter_eq_nil_iff.mpr]
  · rfl
  · intro x hx
    have := h x hx
    simp; omega

theorem cellsValue_of (base a v n : Nat) (hb : base ≤ a) :
    cellsValue base (cellsOf a v n) = v % 2 ^ (8 * n) * 2 ^ (8 * (a - base)) := by
  induction n generalizing a v with
  | zero => simp [cellsOf, cellsValue, Nat.mod_one]
  | succ n ih =>
    have e : v % 2 ^ (8 * (n + 1)) = v % 256 + 256 * (v / 256 % 2 ^ (8 * n)) := by
      rw [show 8 * (n + 1) = 8 + 8 * n by omega, Nat.pow_add, Nat.mod_mul]
    have p : 2 ^ (8 * (a + 1 - base)) = 256 * 2 ^ (8 * (a - base)) := by
      rw [show 8 * (a + 1 - base) = 8 + 8 * (a - base) by omega, Nat.pow_add]
    have k := ih (a + 1) (v / 256) (by omega)
    unfold cellsOf
    split
    · rename_i hz
      rw [k, e, hz, p]; ring
    · simp only [cellsValue, k, e, p, BitVec.toNat_ofNat]; ring

/-- A read of the interval just written. -/
theorem cellsRead_write_same (c : List Host.Cell) (a n v : Nat) :
    cellsRead (cellsWrite c a n v) a n = v % 2 ^ (8 * n) := by
  unfold cellsWrite
  rw [cellsRead_append, cellsRead_append, cellsRead_none (c := cellsBelow a c), cellsRead_none (c := cellsFrom (a + n) c)]
  · rw [cellsRead_eq, List.filter_eq_self.mpr, cellsValue_of _ _ _ _ (Nat.le_refl _)]
    · simp
    · intro x hx
      have := cellsOf_mem hx
      simp; omega
  · intro x hx
    rw [cellsFrom_eq] at hx
    have := (List.mem_filter.mp hx).2
    simp at this; omega
  · intro x hx
    rw [cellsBelow_eq] at hx
    have := (List.mem_filter.mp hx).2
    simp at this; omega

/-- A read of an interval that shares no byte with the one written. -/
theorem cellsRead_write_ne (c : List Host.Cell) {a n v b k : Nat} (h : b + k ≤ a ∨ a + n ≤ b) :
    cellsRead (cellsWrite c a n v) b k = cellsRead c b k := by
  unfold cellsWrite
  rw [cellsRead_append, cellsRead_append, cellsRead_none (c := cellsOf a v n)]
  · simp only [cellsRead_eq, cellsBelow_eq, cellsFrom_eq, List.filter_filter]
    rcases h with h | h
    · have e : c.filter (fun x => (decide (b ≤ x.1) && decide (x.1 < b + k)) && decide (a + n ≤ x.1)) = [] := by
        rw [List.filter_eq_nil_iff]; intro x _; simp; omega
      rw [e]
      simp only [cellsValue, Nat.add_zero]
      congr 1
      apply List.filter_congr
      intro x _
      by_cases h1 : x.1 < b + k
      · have : x.1 < a := by omega
        simp [h1, this]
      · simp [h1]
    · have e : c.filter (fun x => (decide (b ≤ x.1) && decide (x.1 < b + k)) && decide (x.1 < a)) = [] := by
        rw [List.filter_eq_nil_iff]; intro x _; simp; omega
      rw [e]
      simp only [cellsValue, Nat.zero_add]
      congr 1
      apply List.filter_congr
      intro x _
      by_cases h1 : b ≤ x.1
      · have : a + n ≤ x.1 := by omega
        simp [h1, this]
      · simp [h1]
  · intro x hx
    have := cellsOf_mem hx
    omega

/-- A block stored under credentials keeps the form. -/
theorem Mem.wf_setBlock {m : Mem} (h : m.wf) (pa : Nat) (cred : Option (Nat × Nat)) (val mask : BitVec 512) :
    (m.setBlock pa cred val mask).wf := cellsWf_write h _ _ _

/-- A store of a block keeps the form. -/
theorem Mem.wf_write {m n : Mem} {pa : Nat} {cred : Option (Nat × Nat)} {val mask : BitVec 512} (h : m.wf)
    (e : m.write pa cred val mask = .ok n) : n.wf := by
  unfold Mem.write at e
  split at e
  · split at e
    · cases e; exact Mem.wf_setBlock h _ _ _ _
    · cases e
  · cases e; exact Mem.wf_setBlock h _ _ _ _

/-- A block moved as it is keeps the form. -/
theorem Mem.wf_moveBlock {m : Mem} (h : m.wf) (src dst : Nat) : (m.moveBlock src dst).wf := cellsWf_write h _ _ _

/-- A store to a scratchpad keeps its form. -/
theorem Core.wf_scrWrite {c d : Core} {off : Nat} {val mask : BitVec 512} (h : cellsWf c.scr = true)
    (e : c.scrWrite off val mask = .ok d) : cellsWf d.scr = true := by
  unfold Core.scrWrite at e
  split at e
  · cases e
  · dsimp only at e
    split at e
    · split at e
      · cases e; exact cellsWf_write h _ _ _
      · cases e
    · cases e; exact cellsWf_write h _ _ _

/-- The memory at reset lists nothing, so it has the form. -/
theorem State.reset_mem_wf : State.reset.mem.wf := rfl

/-- Bits of a block kept outside a mask and replaced inside it. -/
def patch (old val mask : BitVec 512) : BitVec 512 := (old &&& ~~~mask) ||| (val &&& mask)

/-- What a block reads as, after a store under the same credentials. -/
theorem Mem.view_setBlock (m : Mem) (pa : Nat) (cred : Option (Nat × Nat)) (val mask : BitVec 512) :
    (m.setBlock pa cred val mask).view pa cred = patch (m.view pa cred) val mask := by
  have t : ((m.setBlock pa cred val mask).tags.find? (fun p => p.1 == pa / 64)).map (·.2) = cred := by
    cases cred with
    | none =>
      simp only [Mem.setBlock, Tbl.del, List.find?_filter, Option.map_eq_none_iff, List.find?_eq_none]
      intro x _; simp
    | some c =>
      simp only [Mem.setBlock]
      have : ∀ (l : Tbl (Nat × Nat)), (l.put (pa / 64) c).find? (fun p => p.1 == pa / 64) = some (pa / 64, c) := by
        intro l
        induction l with
        | nil => simp [Tbl.put]
        | cons x xs ih =>
          unfold Tbl.put
          split
          · simp
          · split
            · simp
            · rename_i h _; simp [h, ih]
      rw [this]; rfl
  unfold Mem.view
  rw [t, if_pos rfl]
  show BitVec.ofNat 512 (cellsRead (cellsWrite m.cells pa 64 _) pa 64) = _
  rw [cellsRead_write_same]
  apply BitVec.eq_of_toNat_eq
  simp only [BitVec.toNat_ofNat]
  rw [Nat.mod_mod, Nat.mod_eq_of_lt (BitVec.isLt _)]
  rfl

end Sys2Proof.Machine
end

