-- ==== Sys2Proof/Laws/PerInstr.lean ====
section
/-! SUPPORT. What holds of every instruction as syntax: its word has 32 bits and its extension byte 8 (R198, R199). -/

namespace Sys2Proof.Laws.EncodeFits

/-- The word of an operation fits a slot and its extension byte the header's field (R198, R199); a step of another agent has
neither. -/
def Statement (i : Instr) : Prop :=
  encodeWord i < 2 ^ 32 ∧ encodeExt i < 2 ^ 8 ∧ (i.isStep = true → encodeWord i = 0 ∧ encodeExt i = 0)

/-- The three parts, from the word and the byte as numbers. -/
theorem fits {i : Instr} {w x : Nat} (hw : encodeWord i = w) (hx : encodeExt i = x) (h : w < 2 ^ 32) (g : x < 2 ^ 8)
    (hs : i.isStep = false) : Statement i :=
  ⟨hw ▸ h, hx ▸ g, fun h => absurd (hs ▸ h) (by decide)⟩

/-- A step of another agent. -/
theorem noWord {i : Instr} (hw : encodeWord i = 0) (hx : encodeExt i = 0) : Statement i :=
  ⟨hw ▸ by decide, hx ▸ by decide, fun _ => ⟨hw, hx⟩⟩

theorem viewCode_lt (v : View) : viewCode v < 3 := by cases v <;> decide

theorem spaceCode_lt (p : Space) : spaceCode p < 3 := by cases p <;> decide

theorem amoCode_lt (op : AmoOp) : amoCode op < 11 := by cases op <;> decide

theorem ordCode_lt (o : AmoOrd) : ordCode o < 4 := by cases o <;> decide

theorem scopeCode_lt (s : Scope) : scopeCode s < 6 := by cases s <;> decide

theorem maskBit_lt (m : MaskUse) : maskBit m < 2 := by cases m <;> simp [maskBit]

theorem nop : Statement .nop := ⟨by decide, by decide, fun _ => by contradiction⟩

theorem add (d : SReg) (a : SReg) (b : SReg) : Statement (.add d a b) := by
  have := d.isLt; have := a.isLt; have := b.isLt
  refine fits (w := 0x00400000 + b.toNat * 2 ^ 7 + a.toNat * 2 ^ 12 + d.toNat * 2 ^ 17) (x := 0) rfl rfl ?_ ?_ rfl <;> omega

theorem sub (d : SReg) (a : SReg) (b : SReg) : Statement (.sub d a b) := by
  have := d.isLt; have := a.isLt; have := b.isLt
  refine fits (w := 0x00800000 + b.toNat * 2 ^ 7 + a.toNat * 2 ^ 12 + d.toNat * 2 ^ 17) (x := 0) rfl rfl ?_ ?_ rfl <;> omega

theorem and (d : SReg) (a : SReg) (b : SReg) : Statement (.and d a b) := by
  have := d.isLt; have := a.isLt; have := b.isLt
  refine fits (w := 0x00C00000 + b.toNat * 2 ^ 7 + a.toNat * 2 ^ 12 + d.toNat * 2 ^ 17) (x := 0) rfl rfl ?_ ?_ rfl <;> omega

theorem or (d : SReg) (a : SReg) (b : SReg) : Statement (.or d a b) := by
  have := d.isLt; have := a.isLt; have := b.isLt
  refine fits (w := 0x01000000 + b.toNat * 2 ^ 7 + a.toNat * 2 ^ 12 + d.toNat * 2 ^ 17) (x := 0) rfl rfl ?_ ?_ rfl <;> omega

theorem xor (d : SReg) (a : SReg) (b : SReg) : Statement (.xor d a b) := by
  have := d.isLt; have := a.isLt; have := b.isLt
  refine fits (w := 0x01400000 + b.toNat * 2 ^ 7 + a.toNat * 2 ^ 12 + d.toNat * 2 ^ 17) (x := 0) rfl rfl ?_ ?_ rfl <;> omega

theorem sll (d : SReg) (a : SReg) (b : SReg) : Statement (.sll d a b) := by
  have := d.isLt; have := a.isLt; have := b.isLt
  refine fits (w := 0x01800000 + b.toNat * 2 ^ 7 + a.toNat * 2 ^ 12 + d.toNat * 2 ^ 17) (x := 0) rfl rfl ?_ ?_ rfl <;> omega

theorem srl (d : SReg) (a : SReg) (b : SReg) : Statement (.srl d a b) := by
  have := d.isLt; have := a.isLt; have := b.isLt
  refine fits (w := 0x01C00000 + b.toNat * 2 ^ 7 + a.toNat * 2 ^ 12 + d.toNat * 2 ^ 17) (x := 0) rfl rfl ?_ ?_ rfl <;> omega

theorem sra (d : SReg) (a : SReg) (b : SReg) : Statement (.sra d a b) := by
  have := d.isLt; have := a.isLt; have := b.isLt
  refine fits (w := 0x02000000 + b.toNat * 2 ^ 7 + a.toNat * 2 ^ 12 + d.toNat * 2 ^ 17) (x := 0) rfl rfl ?_ ?_ rfl <;> omega

theorem slt (d : SReg) (a : SReg) (b : SReg) : Statement (.slt d a b) := by
  have := d.isLt; have := a.isLt; have := b.isLt
  refine fits (w := 0x02400000 + b.toNat * 2 ^ 7 + a.toNat * 2 ^ 12 + d.toNat * 2 ^ 17) (x := 0) rfl rfl ?_ ?_ rfl <;> omega

theorem sltu (d : SReg) (a : SReg) (b : SReg) : Statement (.sltu d a b) := by
  have := d.isLt; have := a.isLt; have := b.isLt
  refine fits (w := 0x02800000 + b.toNat * 2 ^ 7 + a.toNat * 2 ^ 12 + d.toNat * 2 ^ 17) (x := 0) rfl rfl ?_ ?_ rfl <;> omega

theorem min (d : SReg) (a : SReg) (b : SReg) : Statement (.min d a b) := by
  have := d.isLt; have := a.isLt; have := b.isLt
  refine fits (w := 0x02C00000 + b.toNat * 2 ^ 7 + a.toNat * 2 ^ 12 + d.toNat * 2 ^ 17) (x := 0) rfl rfl ?_ ?_ rfl <;> omega

theorem max (d : SReg) (a : SReg) (b : SReg) : Statement (.max d a b) := by
  have := d.isLt; have := a.isLt; have := b.isLt
  refine fits (w := 0x03000000 + b.toNat * 2 ^ 7 + a.toNat * 2 ^ 12 + d.toNat * 2 ^ 17) (x := 0) rfl rfl ?_ ?_ rfl <;> omega

theorem minu (d : SReg) (a : SReg) (b : SReg) : Statement (.minu d a b) := by
  have := d.isLt; have := a.isLt; have := b.isLt
  refine fits (w := 0x03400000 + b.toNat * 2 ^ 7 + a.toNat * 2 ^ 12 + d.toNat * 2 ^ 17) (x := 0) rfl rfl ?_ ?_ rfl <;> omega

theorem maxu (d : SReg) (a : SReg) (b : SReg) : Statement (.maxu d a b) := by
  have := d.isLt; have := a.isLt; have := b.isLt
  refine fits (w := 0x03800000 + b.toNat * 2 ^ 7 + a.toNat * 2 ^ 12 + d.toNat * 2 ^ 17) (x := 0) rfl rfl ?_ ?_ rfl <;> omega

theorem csel (d : SReg) (a : SReg) (b : SReg) (c : SReg) : Statement (.csel d a b c) := by
  have := d.isLt; have := a.isLt; have := b.isLt; have := c.isLt
  refine fits (w := 0x03C00000 + c.toNat * 2 ^ 2 + b.toNat * 2 ^ 7 + a.toNat * 2 ^ 12 + d.toNat * 2 ^ 17) (x := 0) rfl rfl ?_ ?_ rfl <;> omega

theorem mul (d : SReg) (a : SReg) (b : SReg) : Statement (.mul d a b) := by
  have := d.isLt; have := a.isLt; have := b.isLt
  refine fits (w := 0x04000000 + b.toNat * 2 ^ 7 + a.toNat * 2 ^ 12 + d.toNat * 2 ^ 17) (x := 0) rfl rfl ?_ ?_ rfl <;> omega

theorem mulh (d : SReg) (a : SReg) (b : SReg) : Statement (.mulh d a b) := by
  have := d.isLt; have := a.isLt; have := b.isLt
  refine fits (w := 0x04400000 + b.toNat * 2 ^ 7 + a.toNat * 2 ^ 12 + d.toNat * 2 ^ 17) (x := 0) rfl rfl ?_ ?_ rfl <;> omega

theorem mulhu (d : SReg) (a : SReg) (b : SReg) : Statement (.mulhu d a b) := by
  have := d.isLt; have := a.isLt; have := b.isLt
  refine fits (w := 0x04800000 + b.toNat * 2 ^ 7 + a.toNat * 2 ^ 12 + d.toNat * 2 ^ 17) (x := 0) rfl rfl ?_ ?_ rfl <;> omega

theorem div (d : SReg) (a : SReg) (b : SReg) : Statement (.div d a b) := by
  have := d.isLt; have := a.isLt; have := b.isLt
  refine fits (w := 0x04C00000 + b.toNat * 2 ^ 7 + a.toNat * 2 ^ 12 + d.toNat * 2 ^ 17) (x := 0) rfl rfl ?_ ?_ rfl <;> omega

theorem divu (d : SReg) (a : SReg) (b : SReg) : Statement (.divu d a b) := by
  have := d.isLt; have := a.isLt; have := b.isLt
  refine fits (w := 0x05000000 + b.toNat * 2 ^ 7 + a.toNat * 2 ^ 12 + d.toNat * 2 ^ 17) (x := 0) rfl rfl ?_ ?_ rfl <;> omega

theorem rem (d : SReg) (a : SReg) (b : SReg) : Statement (.rem d a b) := by
  have := d.isLt; have := a.isLt; have := b.isLt
  refine fits (w := 0x05400000 + b.toNat * 2 ^ 7 + a.toNat * 2 ^ 12 + d.toNat * 2 ^ 17) (x := 0) rfl rfl ?_ ?_ rfl <;> omega

theorem remu (d : SReg) (a : SReg) (b : SReg) : Statement (.remu d a b) := by
  have := d.isLt; have := a.isLt; have := b.isLt
  refine fits (w := 0x05800000 + b.toNat * 2 ^ 7 + a.toNat * 2 ^ 12 + d.toNat * 2 ^ 17) (x := 0) rfl rfl ?_ ?_ rfl <;> omega

theorem add32 (d : SReg) (a : SReg) (b : SReg) : Statement (.add32 d a b) := by
  have := d.isLt; have := a.isLt; have := b.isLt
  refine fits (w := 0x05C00000 + b.toNat * 2 ^ 7 + a.toNat * 2 ^ 12 + d.toNat * 2 ^ 17) (x := 0) rfl rfl ?_ ?_ rfl <;> omega

theorem clz (d : SReg) (a : SReg) : Statement (.clz d a) := by
  have := d.isLt; have := a.isLt
  refine fits (w := 0x06000000 + a.toNat * 2 ^ 12 + d.toNat * 2 ^ 17) (x := 0) rfl rfl ?_ ?_ rfl <;> omega

theorem ctz (d : SReg) (a : SReg) : Statement (.ctz d a) := by
  have := d.isLt; have := a.isLt
  refine fits (w := 0x06400000 + a.toNat * 2 ^ 12 + d.toNat * 2 ^ 17) (x := 0) rfl rfl ?_ ?_ rfl <;> omega

theorem popc (d : SReg) (a : SReg) : Statement (.popc d a) := by
  have := d.isLt; have := a.isLt
  refine fits (w := 0x06800000 + a.toNat * 2 ^ 12 + d.toNat * 2 ^ 17) (x := 0) rfl rfl ?_ ?_ rfl <;> omega

theorem fshl (d : SReg) (a : SReg) (b : SReg) (n : BitVec 6) : Statement (.fshl d a b n) := by
  have := d.isLt; have := a.isLt; have := b.isLt; have := n.isLt
  refine fits (w := 0x06C00000 + n.toNat * 2 ^ 0 + b.toNat * 2 ^ 7 + a.toNat * 2 ^ 12 + d.toNat * 2 ^ 17) (x := 0) rfl rfl ?_ ?_ rfl <;> omega

theorem fshr (d : SReg) (a : SReg) (b : SReg) (n : BitVec 6) : Statement (.fshr d a b n) := by
  have := d.isLt; have := a.isLt; have := b.isLt; have := n.isLt
  refine fits (w := 0x07000000 + n.toNat * 2 ^ 0 + b.toNat * 2 ^ 7 + a.toNat * 2 ^ 12 + d.toNat * 2 ^ 17) (x := 0) rfl rfl ?_ ?_ rfl <;> omega

theorem bext (d : SReg) (a : SReg) (b : SReg) : Statement (.bext d a b) := by
  have := d.isLt; have := a.isLt; have := b.isLt
  refine fits (w := 0x07400000 + b.toNat * 2 ^ 7 + a.toNat * 2 ^ 12 + d.toNat * 2 ^ 17) (x := 0) rfl rfl ?_ ?_ rfl <;> omega

theorem bins (d : SReg) (a : SReg) (b : SReg) : Statement (.bins d a b) := by
  have := d.isLt; have := a.isLt; have := b.isLt
  refine fits (w := 0x07800000 + b.toNat * 2 ^ 7 + a.toNat * 2 ^ 12 + d.toNat * 2 ^ 17) (x := 0) rfl rfl ?_ ?_ rfl <;> omega

theorem sext (d : SReg) (a : SReg) (n : BitVec 6) : Statement (.sext d a n) := by
  have := d.isLt; have := a.isLt; have := n.isLt
  refine fits (w := 0x07C00000 + n.toNat * 2 ^ 0 + a.toNat * 2 ^ 12 + d.toNat * 2 ^ 17) (x := 0) rfl rfl ?_ ?_ rfl <;> omega

theorem addi (d : SReg) (a : SReg) (imm : BitVec 20) : Statement (.addi d a imm) := by
  have := d.isLt; have := a.isLt; have := imm.isLt
  refine fits (w := 0x08000000 + imm.toNat % 2^12 * 2 ^ 0 + a.toNat * 2 ^ 12 + d.toNat * 2 ^ 17) (x := imm.toNat / 2^12) rfl rfl ?_ ?_ rfl <;> omega

theorem andi (d : SReg) (a : SReg) (imm : BitVec 20) : Statement (.andi d a imm) := by
  have := d.isLt; have := a.isLt; have := imm.isLt
  refine fits (w := 0x08400000 + imm.toNat % 2^12 * 2 ^ 0 + a.toNat * 2 ^ 12 + d.toNat * 2 ^ 17) (x := imm.toNat / 2^12) rfl rfl ?_ ?_ rfl <;> omega

theorem ori (d : SReg) (a : SReg) (imm : BitVec 20) : Statement (.ori d a imm) := by
  have := d.isLt; have := a.isLt; have := imm.isLt
  refine fits (w := 0x08800000 + imm.toNat % 2^12 * 2 ^ 0 + a.toNat * 2 ^ 12 + d.toNat * 2 ^ 17) (x := imm.toNat / 2^12) rfl rfl ?_ ?_ rfl <;> omega

theorem xori (d : SReg) (a : SReg) (imm : BitVec 20) : Statement (.xori d a imm) := by
  have := d.isLt; have := a.isLt; have := imm.isLt
  refine fits (w := 0x08C00000 + imm.toNat % 2^12 * 2 ^ 0 + a.toNat * 2 ^ 12 + d.toNat * 2 ^ 17) (x := imm.toNat / 2^12) rfl rfl ?_ ?_ rfl <;> omega

theorem slli (d : SReg) (a : SReg) (n : BitVec 6) : Statement (.slli d a n) := by
  have := d.isLt; have := a.isLt; have := n.isLt
  refine fits (w := 0x09000000 + n.toNat * 2 ^ 0 + a.toNat * 2 ^ 12 + d.toNat * 2 ^ 17) (x := 0) rfl rfl ?_ ?_ rfl <;> omega

theorem srli (d : SReg) (a : SReg) (n : BitVec 6) : Statement (.srli d a n) := by
  have := d.isLt; have := a.isLt; have := n.isLt
  refine fits (w := 0x09400000 + n.toNat * 2 ^ 0 + a.toNat * 2 ^ 12 + d.toNat * 2 ^ 17) (x := 0) rfl rfl ?_ ?_ rfl <;> omega

theorem srai (d : SReg) (a : SReg) (n : BitVec 6) : Statement (.srai d a n) := by
  have := d.isLt; have := a.isLt; have := n.isLt
  refine fits (w := 0x09800000 + n.toNat * 2 ^ 0 + a.toNat * 2 ^ 12 + d.toNat * 2 ^ 17) (x := 0) rfl rfl ?_ ?_ rfl <;> omega

theorem slti (d : SReg) (a : SReg) (imm : BitVec 20) : Statement (.slti d a imm) := by
  have := d.isLt; have := a.isLt; have := imm.isLt
  refine fits (w := 0x09C00000 + imm.toNat % 2^12 * 2 ^ 0 + a.toNat * 2 ^ 12 + d.toNat * 2 ^ 17) (x := imm.toNat / 2^12) rfl rfl ?_ ?_ rfl <;> omega

theorem sltiu (d : SReg) (a : SReg) (imm : BitVec 20) : Statement (.sltiu d a imm) := by
  have := d.isLt; have := a.isLt; have := imm.isLt
  refine fits (w := 0x0A000000 + imm.toNat % 2^12 * 2 ^ 0 + a.toNat * 2 ^ 12 + d.toNat * 2 ^ 17) (x := imm.toNat / 2^12) rfl rfl ?_ ?_ rfl <;> omega

theorem lui (d : SReg) (imm : BitVec 20) : Statement (.lui d imm) := by
  have := d.isLt; have := imm.isLt
  refine fits (w := 0x0A400000 + imm.toNat % 2^12 * 2 ^ 0 + d.toNat * 2 ^ 17) (x := imm.toNat / 2^12) rfl rfl ?_ ?_ rfl <;> omega

theorem addpc (d : SReg) (imm : BitVec 20) : Statement (.addpc d imm) := by
  have := d.isLt; have := imm.isLt
  refine fits (w := 0x0A800000 + imm.toNat % 2^12 * 2 ^ 0 + d.toNat * 2 ^ 17) (x := imm.toNat / 2^12) rfl rfl ?_ ?_ rfl <;> omega

theorem fadd (d : SReg) (a : SReg) (b : SReg) (rm : BitVec 3) : Statement (.fadd d a b rm) := by
  have := d.isLt; have := a.isLt; have := b.isLt; have := rm.isLt
  refine fits (w := 0x10000000 + rm.toNat * 2 ^ 0 + b.toNat * 2 ^ 7 + a.toNat * 2 ^ 12 + d.toNat * 2 ^ 17) (x := 0) rfl rfl ?_ ?_ rfl <;> omega

theorem fsub (d : SReg) (a : SReg) (b : SReg) (rm : BitVec 3) : Statement (.fsub d a b rm) := by
  have := d.isLt; have := a.isLt; have := b.isLt; have := rm.isLt
  refine fits (w := 0x10400000 + rm.toNat * 2 ^ 0 + b.toNat * 2 ^ 7 + a.toNat * 2 ^ 12 + d.toNat * 2 ^ 17) (x := 0) rfl rfl ?_ ?_ rfl <;> omega

theorem fmul (d : SReg) (a : SReg) (b : SReg) (rm : BitVec 3) : Statement (.fmul d a b rm) := by
  have := d.isLt; have := a.isLt; have := b.isLt; have := rm.isLt
  refine fits (w := 0x10800000 + rm.toNat * 2 ^ 0 + b.toNat * 2 ^ 7 + a.toNat * 2 ^ 12 + d.toNat * 2 ^ 17) (x := 0) rfl rfl ?_ ?_ rfl <;> omega

theorem fdiv (d : SReg) (a : SReg) (b : SReg) (rm : BitVec 3) : Statement (.fdiv d a b rm) := by
  have := d.isLt; have := a.isLt; have := b.isLt; have := rm.isLt
  refine fits (w := 0x10C00000 + rm.toNat * 2 ^ 0 + b.toNat * 2 ^ 7 + a.toNat * 2 ^ 12 + d.toNat * 2 ^ 17) (x := 0) rfl rfl ?_ ?_ rfl <;> omega

theorem fsqrt (d : SReg) (a : SReg) (rm : BitVec 3) : Statement (.fsqrt d a rm) := by
  have := d.isLt; have := a.isLt; have := rm.isLt
  refine fits (w := 0x11000000 + rm.toNat * 2 ^ 0 + a.toNat * 2 ^ 12 + d.toNat * 2 ^ 17) (x := 0) rfl rfl ?_ ?_ rfl <;> omega

theorem fmin (d : SReg) (a : SReg) (b : SReg) : Statement (.fmin d a b) := by
  have := d.isLt; have := a.isLt; have := b.isLt
  refine fits (w := 0x11400000 + b.toNat * 2 ^ 7 + a.toNat * 2 ^ 12 + d.toNat * 2 ^ 17) (x := 0) rfl rfl ?_ ?_ rfl <;> omega

theorem fmax (d : SReg) (a : SReg) (b : SReg) : Statement (.fmax d a b) := by
  have := d.isLt; have := a.isLt; have := b.isLt
  refine fits (w := 0x11800000 + b.toNat * 2 ^ 7 + a.toNat * 2 ^ 12 + d.toNat * 2 ^ 17) (x := 0) rfl rfl ?_ ?_ rfl <;> omega

theorem fma (d : SReg) (a : SReg) (b : SReg) (rm : BitVec 3) : Statement (.fma d a b rm) := by
  have := d.isLt; have := a.isLt; have := b.isLt; have := rm.isLt
  refine fits (w := 0x11C00000 + rm.toNat * 2 ^ 0 + b.toNat * 2 ^ 7 + a.toNat * 2 ^ 12 + d.toNat * 2 ^ 17) (x := 0) rfl rfl ?_ ?_ rfl <;> omega

theorem fcvtif (d : SReg) (a : SReg) (rm : BitVec 3) : Statement (.fcvtif d a rm) := by
  have := d.isLt; have := a.isLt; have := rm.isLt
  refine fits (w := 0x12000000 + rm.toNat * 2 ^ 0 + a.toNat * 2 ^ 12 + d.toNat * 2 ^ 17) (x := 0) rfl rfl ?_ ?_ rfl <;> omega

theorem fcvtfi (d : SReg) (a : SReg) (rm : BitVec 3) : Statement (.fcvtfi d a rm) := by
  have := d.isLt; have := a.isLt; have := rm.isLt
  refine fits (w := 0x12400000 + rm.toNat * 2 ^ 0 + a.toNat * 2 ^ 12 + d.toNat * 2 ^ 17) (x := 0) rfl rfl ?_ ?_ rfl <;> omega

theorem feq (d : SReg) (a : SReg) (b : SReg) : Statement (.feq d a b) := by
  have := d.isLt; have := a.isLt; have := b.isLt
  refine fits (w := 0x12800000 + b.toNat * 2 ^ 7 + a.toNat * 2 ^ 12 + d.toNat * 2 ^ 17) (x := 0) rfl rfl ?_ ?_ rfl <;> omega

theorem flt (d : SReg) (a : SReg) (b : SReg) : Statement (.flt d a b) := by
  have := d.isLt; have := a.isLt; have := b.isLt
  refine fits (w := 0x12C00000 + b.toNat * 2 ^ 7 + a.toNat * 2 ^ 12 + d.toNat * 2 ^ 17) (x := 0) rfl rfl ?_ ?_ rfl <;> omega

theorem fle (d : SReg) (a : SReg) (b : SReg) : Statement (.fle d a b) := by
  have := d.isLt; have := a.isLt; have := b.isLt
  refine fits (w := 0x13000000 + b.toNat * 2 ^ 7 + a.toNat * 2 ^ 12 + d.toNat * 2 ^ 17) (x := 0) rfl rfl ?_ ?_ rfl <;> omega

theorem fclass (d : SReg) (a : SReg) : Statement (.fclass d a) := by
  have := d.isLt; have := a.isLt
  refine fits (w := 0x13400000 + a.toNat * 2 ^ 12 + d.toNat * 2 ^ 17) (x := 0) rfl rfl ?_ ?_ rfl <;> omega

theorem fcvtbf (d : SReg) (a : SReg) (rm : BitVec 3) : Statement (.fcvtbf d a rm) := by
  have := d.isLt; have := a.isLt; have := rm.isLt
  refine fits (w := 0x13800000 + rm.toNat * 2 ^ 0 + a.toNat * 2 ^ 12 + d.toNat * 2 ^ 17) (x := 0) rfl rfl ?_ ?_ rfl <;> omega

theorem fcvtfb (d : SReg) (a : SReg) : Statement (.fcvtfb d a) := by
  have := d.isLt; have := a.isLt
  refine fits (w := 0x13C00000 + a.toNat * 2 ^ 12 + d.toNat * 2 ^ 17) (x := 0) rfl rfl ?_ ?_ rfl <;> omega

theorem beq (a : SReg) (b : SReg) (o : BitVec 23) : Statement (.beq a b o) := by
  have := a.isLt; have := b.isLt; have := o.isLt
  refine fits (w := 0x20000000 + o.toNat % 2^15 * 2 ^ 0 + b.toNat * 2 ^ 15 + a.toNat * 2 ^ 20) (x := o.toNat / 2^15) rfl rfl ?_ ?_ rfl <;> omega

theorem bne (a : SReg) (b : SReg) (o : BitVec 23) : Statement (.bne a b o) := by
  have := a.isLt; have := b.isLt; have := o.isLt
  refine fits (w := 0x22000000 + o.toNat % 2^15 * 2 ^ 0 + b.toNat * 2 ^ 15 + a.toNat * 2 ^ 20) (x := o.toNat / 2^15) rfl rfl ?_ ?_ rfl <;> omega

theorem blt (a : SReg) (b : SReg) (o : BitVec 23) : Statement (.blt a b o) := by
  have := a.isLt; have := b.isLt; have := o.isLt
  refine fits (w := 0x24000000 + o.toNat % 2^15 * 2 ^ 0 + b.toNat * 2 ^ 15 + a.toNat * 2 ^ 20) (x := o.toNat / 2^15) rfl rfl ?_ ?_ rfl <;> omega

theorem bge (a : SReg) (b : SReg) (o : BitVec 23) : Statement (.bge a b o) := by
  have := a.isLt; have := b.isLt; have := o.isLt
  refine fits (w := 0x26000000 + o.toNat % 2^15 * 2 ^ 0 + b.toNat * 2 ^ 15 + a.toNat * 2 ^ 20) (x := o.toNat / 2^15) rfl rfl ?_ ?_ rfl <;> omega

theorem bltu (a : SReg) (b : SReg) (o : BitVec 23) : Statement (.bltu a b o) := by
  have := a.isLt; have := b.isLt; have := o.isLt
  refine fits (w := 0x28000000 + o.toNat % 2^15 * 2 ^ 0 + b.toNat * 2 ^ 15 + a.toNat * 2 ^ 20) (x := o.toNat / 2^15) rfl rfl ?_ ?_ rfl <;> omega

theorem bgeu (a : SReg) (b : SReg) (o : BitVec 23) : Statement (.bgeu a b o) := by
  have := a.isLt; have := b.isLt; have := o.isLt
  refine fits (w := 0x2A000000 + o.toNat % 2^15 * 2 ^ 0 + b.toNat * 2 ^ 15 + a.toNat * 2 ^ 20) (x := o.toNat / 2^15) rfl rfl ?_ ?_ rfl <;> omega

theorem jal (d : SReg) (o : BitVec 28) : Statement (.jal d o) := by
  have := d.isLt; have := o.isLt
  refine fits (w := 0x2C000000 + o.toNat % 2^20 * 2 ^ 0 + d.toNat * 2 ^ 20) (x := o.toNat / 2^20) rfl rfl ?_ ?_ rfl <;> omega

theorem jalr (d : SReg) (a : SReg) (imm : BitVec 23) : Statement (.jalr d a imm) := by
  have := d.isLt; have := a.isLt; have := imm.isLt
  refine fits (w := 0x2E000000 + imm.toNat % 2^15 * 2 ^ 0 + a.toNat * 2 ^ 15 + d.toNat * 2 ^ 20) (x := imm.toNat / 2^15) rfl rfl ?_ ?_ rfl <;> omega

theorem loop (a : SReg) (o : BitVec 23) : Statement (.loop a o) := by
  have := a.isLt; have := o.isLt
  refine fits (w := 0x30000000 + o.toNat % 2^15 * 2 ^ 0 + a.toNat * 2 ^ 20) (x := o.toNat / 2^15) rfl rfl ?_ ?_ rfl <;> omega

theorem vloop (a : SReg) (o : BitVec 23) : Statement (.vloop a o) := by
  have := a.isLt; have := o.isLt
  refine fits (w := 0x32000000 + o.toNat % 2^15 * 2 ^ 0 + a.toNat * 2 ^ 20) (x := o.toNat / 2^15) rfl rfl ?_ ?_ rfl <;> omega

theorem setvl (d : SReg) (a : SReg) (e : BitVec 3) (g : BitVec 2) : Statement (.setvl d a e g) := by
  have := d.isLt; have := a.isLt; have := e.isLt; have := g.isLt
  refine fits (w := 0x34000000 + g.toNat * 2 ^ 10 + e.toNat * 2 ^ 12 + a.toNat * 2 ^ 15 + d.toNat * 2 ^ 20) (x := 0) rfl rfl ?_ ?_ rfl <;> omega

theorem getc (d : SReg) (c : BitVec 12) : Statement (.getc d c) := by
  have := d.isLt; have := c.isLt
  refine fits (w := 0x36000000 + c.toNat * 2 ^ 0 + d.toNat * 2 ^ 20) (x := 0) rfl rfl ?_ ?_ rfl <;> omega

theorem setc (a : SReg) (c : BitVec 12) : Statement (.setc a c) := by
  have := a.isLt; have := c.isLt
  refine fits (w := 0x38000000 + c.toNat * 2 ^ 0 + a.toNat * 2 ^ 15) (x := 0) rfl rfl ?_ ?_ rfl <;> omega

theorem setci (imm : BitVec 21) (c : BitVec 12) : Statement (.setci imm c) := by
  have := imm.isLt; have := c.isLt
  refine fits (w := 0x3A000000 + c.toNat * 2 ^ 0 + imm.toNat % 2^13 * 2 ^ 12) (x := imm.toNat / 2^13) rfl rfl ?_ ?_ rfl <;> omega

theorem ldb (p : Space) (d : SReg) (a : SReg) (imm : BitVec 20) : Statement (.ldb p d a imm) := by
  have := spaceCode_lt p; have := d.isLt; have := a.isLt; have := imm.isLt
  refine fits (w := 0x40000000 + imm.toNat % 2^12 * 2 ^ 0 + a.toNat * 2 ^ 12 + d.toNat * 2 ^ 17 + spaceCode p * 2 ^ 22) (x := imm.toNat / 2^12) rfl rfl ?_ ?_ rfl <;> omega

theorem ldbu (p : Space) (d : SReg) (a : SReg) (imm : BitVec 20) : Statement (.ldbu p d a imm) := by
  have := spaceCode_lt p; have := d.isLt; have := a.isLt; have := imm.isLt
  refine fits (w := 0x41000000 + imm.toNat % 2^12 * 2 ^ 0 + a.toNat * 2 ^ 12 + d.toNat * 2 ^ 17 + spaceCode p * 2 ^ 22) (x := imm.toNat / 2^12) rfl rfl ?_ ?_ rfl <;> omega

theorem ldh (p : Space) (d : SReg) (a : SReg) (imm : BitVec 20) : Statement (.ldh p d a imm) := by
  have := spaceCode_lt p; have := d.isLt; have := a.isLt; have := imm.isLt
  refine fits (w := 0x42000000 + imm.toNat % 2^12 * 2 ^ 0 + a.toNat * 2 ^ 12 + d.toNat * 2 ^ 17 + spaceCode p * 2 ^ 22) (x := imm.toNat / 2^12) rfl rfl ?_ ?_ rfl <;> omega

theorem ldhu (p : Space) (d : SReg) (a : SReg) (imm : BitVec 20) : Statement (.ldhu p d a imm) := by
  have := spaceCode_lt p; have := d.isLt; have := a.isLt; have := imm.isLt
  refine fits (w := 0x43000000 + imm.toNat % 2^12 * 2 ^ 0 + a.toNat * 2 ^ 12 + d.toNat * 2 ^ 17 + spaceCode p * 2 ^ 22) (x := imm.toNat / 2^12) rfl rfl ?_ ?_ rfl <;> omega

theorem ldw (p : Space) (d : SReg) (a : SReg) (imm : BitVec 20) : Statement (.ldw p d a imm) := by
  have := spaceCode_lt p; have := d.isLt; have := a.isLt; have := imm.isLt
  refine fits (w := 0x44000000 + imm.toNat % 2^12 * 2 ^ 0 + a.toNat * 2 ^ 12 + d.toNat * 2 ^ 17 + spaceCode p * 2 ^ 22) (x := imm.toNat / 2^12) rfl rfl ?_ ?_ rfl <;> omega

theorem ldwu (p : Space) (d : SReg) (a : SReg) (imm : BitVec 20) : Statement (.ldwu p d a imm) := by
  have := spaceCode_lt p; have := d.isLt; have := a.isLt; have := imm.isLt
  refine fits (w := 0x45000000 + imm.toNat % 2^12 * 2 ^ 0 + a.toNat * 2 ^ 12 + d.toNat * 2 ^ 17 + spaceCode p * 2 ^ 22) (x := imm.toNat / 2^12) rfl rfl ?_ ?_ rfl <;> omega

theorem ldd (p : Space) (d : SReg) (a : SReg) (imm : BitVec 20) : Statement (.ldd p d a imm) := by
  have := spaceCode_lt p; have := d.isLt; have := a.isLt; have := imm.isLt
  refine fits (w := 0x46000000 + imm.toNat % 2^12 * 2 ^ 0 + a.toNat * 2 ^ 12 + d.toNat * 2 ^ 17 + spaceCode p * 2 ^ 22) (x := imm.toNat / 2^12) rfl rfl ?_ ?_ rfl <;> omega

theorem stb (p : Space) (b : SReg) (a : SReg) (imm : BitVec 20) : Statement (.stb p b a imm) := by
  have := spaceCode_lt p; have := b.isLt; have := a.isLt; have := imm.isLt
  refine fits (w := 0x47000000 + imm.toNat % 2^12 * 2 ^ 0 + a.toNat * 2 ^ 12 + b.toNat * 2 ^ 17 + spaceCode p * 2 ^ 22) (x := imm.toNat / 2^12) rfl rfl ?_ ?_ rfl <;> omega

theorem sth (p : Space) (b : SReg) (a : SReg) (imm : BitVec 20) : Statement (.sth p b a imm) := by
  have := spaceCode_lt p; have := b.isLt; have := a.isLt; have := imm.isLt
  refine fits (w := 0x48000000 + imm.toNat % 2^12 * 2 ^ 0 + a.toNat * 2 ^ 12 + b.toNat * 2 ^ 17 + spaceCode p * 2 ^ 22) (x := imm.toNat / 2^12) rfl rfl ?_ ?_ rfl <;> omega

theorem stw (p : Space) (b : SReg) (a : SReg) (imm : BitVec 20) : Statement (.stw p b a imm) := by
  have := spaceCode_lt p; have := b.isLt; have := a.isLt; have := imm.isLt
  refine fits (w := 0x49000000 + imm.toNat % 2^12 * 2 ^ 0 + a.toNat * 2 ^ 12 + b.toNat * 2 ^ 17 + spaceCode p * 2 ^ 22) (x := imm.toNat / 2^12) rfl rfl ?_ ?_ rfl <;> omega

theorem std (p : Space) (b : SReg) (a : SReg) (imm : BitVec 20) : Statement (.std p b a imm) := by
  have := spaceCode_lt p; have := b.isLt; have := a.isLt; have := imm.isLt
  refine fits (w := 0x4A000000 + imm.toNat % 2^12 * 2 ^ 0 + a.toNat * 2 ^ 12 + b.toNat * 2 ^ 17 + spaceCode p * 2 ^ 22) (x := imm.toNat / 2^12) rfl rfl ?_ ?_ rfl <;> omega

theorem ldnb (d : SReg) (a : SReg) (t : SReg) (z : BitVec 2) : Statement (.ldnb d a t z) := by
  have := d.isLt; have := a.isLt; have := t.isLt; have := z.isLt
  refine fits (w := 0x4B000000 + z.toNat * 2 ^ 5 + t.toNat * 2 ^ 7 + a.toNat * 2 ^ 12 + d.toNat * 2 ^ 17) (x := 0) rfl rfl ?_ ?_ rfl <;> omega

theorem stva (b : SReg) (a : SReg) (t : SReg) (z : BitVec 2) : Statement (.stva b a t z) := by
  have := b.isLt; have := a.isLt; have := t.isLt; have := z.isLt
  refine fits (w := 0x4C000000 + z.toNat * 2 ^ 5 + t.toNat * 2 ^ 7 + a.toNat * 2 ^ 12 + b.toNat * 2 ^ 17) (x := 0) rfl rfl ?_ ?_ rfl <;> omega

theorem amo (d : SReg) (a : SReg) (w : BitVec 1) (op : AmoOp) (ord : AmoOrd) (sc : Scope) : Statement (.amo d a w op ord sc) := by
  have := d.isLt; have := a.isLt; have := w.isLt; have := amoCode_lt op; have := ordCode_lt ord; have := scopeCode_lt sc
  refine fits (w := 0x4D000000 + scopeCode sc * 2 ^ 0 + ordCode ord * 2 ^ 3 + amoCode op * 2 ^ 5 + w.toNat * 2 ^ 9 + a.toNat * 2 ^ 12 + d.toNat * 2 ^ 17) (x := 0) rfl rfl ?_ ?_ rfl <;> omega

theorem amos (d : SReg) (a : SReg) (w : BitVec 1) (op : AmoOp) (ord : AmoOrd) (sc : Scope) : Statement (.amos d a w op ord sc) := by
  have := d.isLt; have := a.isLt; have := w.isLt; have := amoCode_lt op; have := ordCode_lt ord; have := scopeCode_lt sc
  refine fits (w := 0x4E800000 + scopeCode sc * 2 ^ 0 + ordCode ord * 2 ^ 3 + amoCode op * 2 ^ 5 + w.toNat * 2 ^ 9 + a.toNat * 2 ^ 12 + d.toNat * 2 ^ 17) (x := 0) rfl rfl ?_ ?_ rfl <;> omega

theorem fence (p : BitVec 8) (q : BitVec 8) (sc : Scope) : Statement (.fence p q sc) := by
  have := p.isLt; have := q.isLt; have := scopeCode_lt sc
  refine fits (w := 0x4F000000 + scopeCode sc * 2 ^ 5 + q.toNat * 2 ^ 8 + p.toNat * 2 ^ 16) (x := 0) rfl rfl ?_ ?_ rfl <;> omega

theorem vld (p : Space) (v : GReg) (a : SReg) (imm : BitVec 17) (m : MaskUse) : Statement (.vld p v a imm m) := by
  have := spaceCode_lt p; have := v.isLt; have := a.isLt; have := imm.isLt; have := maskBit_lt m
  refine fits (w := 0x50000000 + maskBit m * 2 ^ 0 + imm.toNat % 2^9 * 2 ^ 1 + a.toNat * 2 ^ 10 + v.toNat * 2 ^ 15 + spaceCode p * 2 ^ 22) (x := imm.toNat / 2^9) rfl rfl ?_ ?_ rfl <;> omega

theorem vlds (p : Space) (v : GReg) (a : SReg) (b : SReg) (m : MaskUse) : Statement (.vlds p v a b m) := by
  have := spaceCode_lt p; have := v.isLt; have := a.isLt; have := b.isLt; have := maskBit_lt m
  refine fits (w := 0x51000000 + maskBit m * 2 ^ 0 + b.toNat * 2 ^ 5 + a.toNat * 2 ^ 10 + v.toNat * 2 ^ 15 + spaceCode p * 2 ^ 22) (x := 0) rfl rfl ?_ ?_ rfl <;> omega

theorem vldx (p : Space) (v : GReg) (a : SReg) (x : GReg) (m : MaskUse) : Statement (.vldx p v a x m) := by
  have := spaceCode_lt p; have := v.isLt; have := a.isLt; have := x.isLt; have := maskBit_lt m
  refine fits (w := 0x52000000 + maskBit m * 2 ^ 0 + x.toNat * 2 ^ 1 + a.toNat * 2 ^ 10 + v.toNat * 2 ^ 15 + spaceCode p * 2 ^ 22) (x := 0) rfl rfl ?_ ?_ rfl <;> omega

theorem vst (p : Space) (v : GReg) (a : SReg) (imm : BitVec 17) (m : MaskUse) : Statement (.vst p v a imm m) := by
  have := spaceCode_lt p; have := v.isLt; have := a.isLt; have := imm.isLt; have := maskBit_lt m
  refine fits (w := 0x53000000 + maskBit m * 2 ^ 0 + imm.toNat % 2^9 * 2 ^ 1 + a.toNat * 2 ^ 10 + v.toNat * 2 ^ 15 + spaceCode p * 2 ^ 22) (x := imm.toNat / 2^9) rfl rfl ?_ ?_ rfl <;> omega

theorem vsts (p : Space) (v : GReg) (a : SReg) (b : SReg) (m : MaskUse) : Statement (.vsts p v a b m) := by
  have := spaceCode_lt p; have := v.isLt; have := a.isLt; have := b.isLt; have := maskBit_lt m
  refine fits (w := 0x54000000 + maskBit m * 2 ^ 0 + b.toNat * 2 ^ 5 + a.toNat * 2 ^ 10 + v.toNat * 2 ^ 15 + spaceCode p * 2 ^ 22) (x := 0) rfl rfl ?_ ?_ rfl <;> omega

theorem vstx (p : Space) (v : GReg) (a : SReg) (x : GReg) (m : MaskUse) : Statement (.vstx p v a x m) := by
  have := spaceCode_lt p; have := v.isLt; have := a.isLt; have := x.isLt; have := maskBit_lt m
  refine fits (w := 0x55000000 + maskBit m * 2 ^ 0 + x.toNat * 2 ^ 1 + a.toNat * 2 ^ 10 + v.toNat * 2 ^ 15 + spaceCode p * 2 ^ 22) (x := 0) rfl rfl ?_ ?_ rfl <;> omega

theorem vstb (p : Space) (v : GReg) (a : SReg) (k : MReg) : Statement (.vstb p v a k) := by
  have := spaceCode_lt p; have := v.isLt; have := a.isLt; have := k.isLt
  refine fits (w := 0x56000000 + k.toNat * 2 ^ 7 + a.toNat * 2 ^ 10 + v.toNat * 2 ^ 15 + spaceCode p * 2 ^ 22) (x := 0) rfl rfl ?_ ?_ rfl <;> omega

theorem vldc (p : Space) (v : GReg) (a : SReg) (b : SReg) : Statement (.vldc p v a b) := by
  have := spaceCode_lt p; have := v.isLt; have := a.isLt; have := b.isLt
  refine fits (w := 0x57000000 + b.toNat * 2 ^ 5 + a.toNat * 2 ^ 10 + v.toNat * 2 ^ 15 + spaceCode p * 2 ^ 22) (x := 0) rfl rfl ?_ ?_ rfl <;> omega

theorem vspill (p : Space) (v : GReg) (a : SReg) (g : BitVec 2) : Statement (.vspill p v a g) := by
  have := spaceCode_lt p; have := v.isLt; have := a.isLt; have := g.isLt
  refine fits (w := 0x58000000 + g.toNat * 2 ^ 8 + a.toNat * 2 ^ 10 + v.toNat * 2 ^ 15 + spaceCode p * 2 ^ 22) (x := 0) rfl rfl ?_ ?_ rfl <;> omega

theorem vfill (p : Space) (v : GReg) (a : SReg) (g : BitVec 2) : Statement (.vfill p v a g) := by
  have := spaceCode_lt p; have := v.isLt; have := a.isLt; have := g.isLt
  refine fits (w := 0x59000000 + g.toNat * 2 ^ 8 + a.toNat * 2 ^ 10 + v.toNat * 2 ^ 15 + spaceCode p * 2 ^ 22) (x := 0) rfl rfl ?_ ?_ rfl <;> omega

theorem vstva (v : GReg) (a : SReg) (t : SReg) (m : MaskUse) : Statement (.vstva v a t m) := by
  have := v.isLt; have := a.isLt; have := t.isLt; have := maskBit_lt m
  refine fits (w := 0x5A000000 + maskBit m * 2 ^ 0 + t.toNat * 2 ^ 5 + a.toNat * 2 ^ 10 + v.toNat * 2 ^ 15) (x := 0) rfl rfl ?_ ?_ rfl <;> omega

theorem sbind (a : SReg) (r : BitVec 1) (q : QReg) : Statement (.sbind a r q) := by
  have := a.isLt; have := r.isLt; have := q.isLt
  refine fits (w := 0x60000000 + q.toNat * 2 ^ 0 + r.toNat * 2 ^ 2 + a.toNat * 2 ^ 13) (x := 0) rfl rfl ?_ ?_ rfl <;> omega

theorem sunbind (q : QReg) : Statement (.sunbind q) := by
  have := q.isLt
  refine fits (w := 0x60800000 + q.toNat * 2 ^ 0) (x := 0) rfl rfl ?_ ?_ rfl <;> omega

theorem sstat (d : SReg) (q : QReg) : Statement (.sstat d q) := by
  have := d.isLt; have := q.isLt
  refine fits (w := 0x61000000 + q.toNat * 2 ^ 0 + d.toNat * 2 ^ 18) (x := 0) rfl rfl ?_ ?_ rfl <;> omega

theorem sskip (a : SReg) (q : QReg) : Statement (.sskip a q) := by
  have := a.isLt; have := q.isLt
  refine fits (w := 0x61800000 + q.toNat * 2 ^ 0 + a.toNat * 2 ^ 13) (x := 0) rfl rfl ?_ ?_ rfl <;> omega

theorem sflush (q : QReg) : Statement (.sflush q) := by
  have := q.isLt
  refine fits (w := 0x62000000 + q.toNat * 2 ^ 0) (x := 0) rfl rfl ?_ ?_ rfl <;> omega

theorem cpy (d : SReg) (a : SReg) : Statement (.cpy d a) := by
  have := d.isLt; have := a.isLt
  refine fits (w := 0x64000000 + a.toNat * 2 ^ 13 + d.toNat * 2 ^ 18) (x := 0) rfl rfl ?_ ?_ rfl <;> omega

theorem cpyw (a : SReg) : Statement (.cpyw a) := by
  have := a.isLt
  refine fits (w := 0x64800000 + a.toNat * 2 ^ 13) (x := 0) rfl rfl ?_ ?_ rfl <;> omega

theorem cpyq (d : SReg) (a : SReg) : Statement (.cpyq d a) := by
  have := d.isLt; have := a.isLt
  refine fits (w := 0x65000000 + a.toNat * 2 ^ 13 + d.toNat * 2 ^ 18) (x := 0) rfl rfl ?_ ?_ rfl <;> omega

theorem cpyx (d : SReg) (a : SReg) : Statement (.cpyx d a) := by
  have := d.isLt; have := a.isLt
  refine fits (w := 0x65800000 + a.toNat * 2 ^ 13 + d.toNat * 2 ^ 18) (x := 0) rfl rfl ?_ ?_ rfl <;> omega

theorem rgprobe (d : SReg) (a : SReg) : Statement (.rgprobe d a) := by
  have := d.isLt; have := a.isLt
  refine fits (w := 0x68000000 + a.toNat * 2 ^ 13 + d.toNat * 2 ^ 18) (x := 0) rfl rfl ?_ ?_ rfl <;> omega

theorem rgsplit (d : SReg) (a : SReg) : Statement (.rgsplit d a) := by
  have := d.isLt; have := a.isLt
  refine fits (w := 0x68800000 + a.toNat * 2 ^ 13 + d.toNat * 2 ^ 18) (x := 0) rfl rfl ?_ ?_ rfl <;> omega

theorem rgmerge (d : SReg) (a : SReg) : Statement (.rgmerge d a) := by
  have := d.isLt; have := a.isLt
  refine fits (w := 0x69000000 + a.toNat * 2 ^ 13 + d.toNat * 2 ^ 18) (x := 0) rfl rfl ?_ ?_ rfl <;> omega

theorem rginv (a : SReg) (b : SReg) : Statement (.rginv a b) := by
  have := a.isLt; have := b.isLt
  refine fits (w := 0x69800000 + b.toNat * 2 ^ 8 + a.toNat * 2 ^ 13) (x := 0) rfl rfl ?_ ?_ rfl <;> omega

theorem rgtouch (a : SReg) : Statement (.rgtouch a) := by
  have := a.isLt
  refine fits (w := 0x6A000000 + a.toNat * 2 ^ 13) (x := 0) rfl rfl ?_ ?_ rfl <;> omega

theorem rgmove (d : SReg) (a : SReg) (b : SReg) (h : BitVec 4) : Statement (.rgmove d a b h) := by
  have := d.isLt; have := a.isLt; have := b.isLt; have := h.isLt
  refine fits (w := 0x6A800000 + h.toNat * 2 ^ 0 + b.toNat * 2 ^ 8 + a.toNat * 2 ^ 13 + d.toNat * 2 ^ 18) (x := 0) rfl rfl ?_ ?_ rfl <;> omega

theorem time (d : SReg) : Statement (.time d) := by
  have := d.isLt
  refine fits (w := 0x6C000000 + d.toNat * 2 ^ 18) (x := 0) rfl rfl ?_ ?_ rfl <;> omega

theorem twait (a : SReg) : Statement (.twait a) := by
  have := a.isLt
  refine fits (w := 0x6C800000 + a.toNat * 2 ^ 13) (x := 0) rfl rfl ?_ ?_ rfl <;> omega

theorem tstat (d : SReg) : Statement (.tstat d) := by
  have := d.isLt
  refine fits (w := 0x6D000000 + d.toNat * 2 ^ 18) (x := 0) rfl rfl ?_ ?_ rfl <;> omega

theorem gbar (d : SReg) (a : SReg) : Statement (.gbar d a) := by
  have := d.isLt; have := a.isLt
  refine fits (w := 0x70000000 + a.toNat * 2 ^ 13 + d.toNat * 2 ^ 18) (x := 0) rfl rfl ?_ ?_ rfl <;> omega

theorem jpost (d : SReg) (a : SReg) : Statement (.jpost d a) := by
  have := d.isLt; have := a.isLt
  refine fits (w := 0x70800000 + a.toNat * 2 ^ 13 + d.toNat * 2 ^ 18) (x := 0) rfl rfl ?_ ?_ rfl <;> omega

theorem jyield : Statement .jyield := ⟨by decide, by decide, fun _ => by contradiction⟩

theorem jdone : Statement .jdone := ⟨by decide, by decide, fun _ => by contradiction⟩

theorem jwait (a : SReg) : Statement (.jwait a) := by
  have := a.isLt
  refine fits (w := 0x72000000 + a.toNat * 2 ^ 13) (x := 0) rfl rfl ?_ ?_ rfl <;> omega

theorem jdec (a : SReg) : Statement (.jdec a) := by
  have := a.isLt
  refine fits (w := 0x72800000 + a.toNat * 2 ^ 13) (x := 0) rfl rfl ?_ ?_ rfl <;> omega

theorem waita (a : SReg) (b : SReg) : Statement (.waita a b) := by
  have := a.isLt; have := b.isLt
  refine fits (w := 0x73000000 + b.toNat * 2 ^ 8 + a.toNat * 2 ^ 13) (x := 0) rfl rfl ?_ ?_ rfl <;> omega

theorem capq (d : SReg) (a : SReg) (x : BitVec 8) : Statement (.capq d a x) := by
  have := d.isLt; have := a.isLt; have := x.isLt
  refine fits (w := 0x76000000 + x.toNat * 2 ^ 0 + a.toNat * 2 ^ 13 + d.toNat * 2 ^ 18) (x := 0) rfl rfl ?_ ?_ rfl <;> omega

theorem capr (d : SReg) (a : SReg) (x : BitVec 8) : Statement (.capr d a x) := by
  have := d.isLt; have := a.isLt; have := x.isLt
  refine fits (w := 0x76800000 + x.toNat * 2 ^ 0 + a.toNat * 2 ^ 13 + d.toNat * 2 ^ 18) (x := 0) rfl rfl ?_ ?_ rfl <;> omega

theorem tshape (d : SReg) (a : SReg) : Statement (.tshape d a) := by
  have := d.isLt; have := a.isLt
  refine fits (w := 0xC0000000 + a.toNat * 2 ^ 14 + d.toNat * 2 ^ 19) (x := 0) rfl rfl ?_ ?_ rfl <;> omega

theorem opa (h : BitVec 1) (qa : QReg) (qb : QReg) (n : BitVec 1) (o : BitVec 1) : Statement (.opa h qa qb n o) := by
  have := h.isLt; have := qa.isLt; have := qb.isLt; have := n.isLt; have := o.isLt
  refine fits (w := 0xC1000000 + o.toNat * 2 ^ 17 + n.toNat * 2 ^ 18 + qb.toNat * 2 ^ 19 + qa.toNat * 2 ^ 21 + h.toNat * 2 ^ 23) (x := 0) rfl rfl ?_ ?_ rfl <;> omega

theorem opz (h : BitVec 1) : Statement (.opz h) := by
  have := h.isLt
  refine fits (w := 0xC2000000 + h.toNat * 2 ^ 23) (x := 0) rfl rfl ?_ ?_ rfl <;> omega

theorem gmov (d : GReg) (r : GReg) : Statement (.gmov d r) := by
  have := d.isLt; have := r.isLt
  refine fits (w := 0xC3000000 + r.toNat * 2 ^ 10 + d.toNat * 2 ^ 17) (x := 0) rfl rfl ?_ ?_ rfl <;> omega

theorem gtrn (h : BitVec 1) : Statement (.gtrn h) := by
  have := h.isLt
  refine fits (w := 0xC4000000 + h.toNat * 2 ^ 23) (x := 0) rfl rfl ?_ ?_ rfl <;> omega

theorem gstat (d : SReg) : Statement (.gstat d) := by
  have := d.isLt
  refine fits (w := 0xC5000000 + d.toNat * 2 ^ 19) (x := 0) rfl rfl ?_ ?_ rfl <;> omega

theorem gsave (f : GReg) (c : BitVec 7) : Statement (.gsave f c) := by
  have := f.isLt; have := c.isLt
  refine fits (w := 0xC6000000 + c.toNat * 2 ^ 10 + f.toNat * 2 ^ 17) (x := 0) rfl rfl ?_ ?_ rfl <;> omega

theorem gload (f : GReg) (c : BitVec 7) : Statement (.gload f c) := by
  have := f.isLt; have := c.isLt
  refine fits (w := 0xC7000000 + c.toNat * 2 ^ 10 + f.toNat * 2 ^ 17) (x := 0) rfl rfl ?_ ?_ rfl <;> omega

theorem gdirty (d : SReg) (h : BitVec 1) : Statement (.gdirty d h) := by
  have := d.isLt; have := h.isLt
  refine fits (w := 0xC8000000 + h.toNat * 2 ^ 18 + d.toNat * 2 ^ 19) (x := 0) rfl rfl ?_ ?_ rfl <;> omega

theorem gclr (h : BitVec 1) : Statement (.gclr h) := by
  have := h.isLt
  refine fits (w := 0xC9000000 + h.toNat * 2 ^ 23) (x := 0) rfl rfl ?_ ?_ rfl <;> omega

theorem vadd (w : View) (d : GReg) (a : GReg) (b : GReg) (m : MaskUse) : Statement (.vadd w d a b m) := by
  have := viewCode_lt w; have := d.isLt; have := a.isLt; have := b.isLt; have := maskBit_lt m
  refine fits (w := 0x80000000 + maskBit m * 2 ^ 0 + b.toNat * 2 ^ 1 + a.toNat * 2 ^ 8 + d.toNat * 2 ^ 15 + viewCode w * 2 ^ 22) (x := 0) rfl rfl ?_ ?_ rfl <;> omega

theorem vsub (w : View) (d : GReg) (a : GReg) (b : GReg) (m : MaskUse) : Statement (.vsub w d a b m) := by
  have := viewCode_lt w; have := d.isLt; have := a.isLt; have := b.isLt; have := maskBit_lt m
  refine fits (w := 0x81000000 + maskBit m * 2 ^ 0 + b.toNat * 2 ^ 1 + a.toNat * 2 ^ 8 + d.toNat * 2 ^ 15 + viewCode w * 2 ^ 22) (x := 0) rfl rfl ?_ ?_ rfl <;> omega

theorem vmul (w : View) (d : GReg) (a : GReg) (b : GReg) (m : MaskUse) : Statement (.vmul w d a b m) := by
  have := viewCode_lt w; have := d.isLt; have := a.isLt; have := b.isLt; have := maskBit_lt m
  refine fits (w := 0x82000000 + maskBit m * 2 ^ 0 + b.toNat * 2 ^ 1 + a.toNat * 2 ^ 8 + d.toNat * 2 ^ 15 + viewCode w * 2 ^ 22) (x := 0) rfl rfl ?_ ?_ rfl <;> omega

theorem vfma (w : View) (d : GReg) (a : GReg) (b : GReg) (m : MaskUse) : Statement (.vfma w d a b m) := by
  have := viewCode_lt w; have := d.isLt; have := a.isLt; have := b.isLt; have := maskBit_lt m
  refine fits (w := 0x83000000 + maskBit m * 2 ^ 0 + b.toNat * 2 ^ 1 + a.toNat * 2 ^ 8 + d.toNat * 2 ^ 15 + viewCode w * 2 ^ 22) (x := 0) rfl rfl ?_ ?_ rfl <;> omega

theorem vfms (w : View) (d : GReg) (a : GReg) (b : GReg) (m : MaskUse) : Statement (.vfms w d a b m) := by
  have := viewCode_lt w; have := d.isLt; have := a.isLt; have := b.isLt; have := maskBit_lt m
  refine fits (w := 0x84000000 + maskBit m * 2 ^ 0 + b.toNat * 2 ^ 1 + a.toNat * 2 ^ 8 + d.toNat * 2 ^ 15 + viewCode w * 2 ^ 22) (x := 0) rfl rfl ?_ ?_ rfl <;> omega

theorem vmin (w : View) (d : GReg) (a : GReg) (b : GReg) (m : MaskUse) : Statement (.vmin w d a b m) := by
  have := viewCode_lt w; have := d.isLt; have := a.isLt; have := b.isLt; have := maskBit_lt m
  refine fits (w := 0x85000000 + maskBit m * 2 ^ 0 + b.toNat * 2 ^ 1 + a.toNat * 2 ^ 8 + d.toNat * 2 ^ 15 + viewCode w * 2 ^ 22) (x := 0) rfl rfl ?_ ?_ rfl <;> omega

theorem vmax (w : View) (d : GReg) (a : GReg) (b : GReg) (m : MaskUse) : Statement (.vmax w d a b m) := by
  have := viewCode_lt w; have := d.isLt; have := a.isLt; have := b.isLt; have := maskBit_lt m
  refine fits (w := 0x86000000 + maskBit m * 2 ^ 0 + b.toNat * 2 ^ 1 + a.toNat * 2 ^ 8 + d.toNat * 2 ^ 15 + viewCode w * 2 ^ 22) (x := 0) rfl rfl ?_ ?_ rfl <;> omega

theorem vabs (w : View) (d : GReg) (a : GReg) (m : MaskUse) : Statement (.vabs w d a m) := by
  have := viewCode_lt w; have := d.isLt; have := a.isLt; have := maskBit_lt m
  refine fits (w := 0x87000000 + maskBit m * 2 ^ 0 + a.toNat * 2 ^ 8 + d.toNat * 2 ^ 15 + viewCode w * 2 ^ 22) (x := 0) rfl rfl ?_ ?_ rfl <;> omega

theorem vneg (w : View) (d : GReg) (a : GReg) (m : MaskUse) : Statement (.vneg w d a m) := by
  have := viewCode_lt w; have := d.isLt; have := a.isLt; have := maskBit_lt m
  refine fits (w := 0x88000000 + maskBit m * 2 ^ 0 + a.toNat * 2 ^ 8 + d.toNat * 2 ^ 15 + viewCode w * 2 ^ 22) (x := 0) rfl rfl ?_ ?_ rfl <;> omega

theorem vdiv (w : View) (d : GReg) (a : GReg) (b : GReg) (m : MaskUse) : Statement (.vdiv w d a b m) := by
  have := viewCode_lt w; have := d.isLt; have := a.isLt; have := b.isLt; have := maskBit_lt m
  refine fits (w := 0x89000000 + maskBit m * 2 ^ 0 + b.toNat * 2 ^ 1 + a.toNat * 2 ^ 8 + d.toNat * 2 ^ 15 + viewCode w * 2 ^ 22) (x := 0) rfl rfl ?_ ?_ rfl <;> omega

theorem vand (w : View) (d : GReg) (a : GReg) (b : GReg) (m : MaskUse) : Statement (.vand w d a b m) := by
  have := viewCode_lt w; have := d.isLt; have := a.isLt; have := b.isLt; have := maskBit_lt m
  refine fits (w := 0x8A000000 + maskBit m * 2 ^ 0 + b.toNat * 2 ^ 1 + a.toNat * 2 ^ 8 + d.toNat * 2 ^ 15 + viewCode w * 2 ^ 22) (x := 0) rfl rfl ?_ ?_ rfl <;> omega

theorem vor (w : View) (d : GReg) (a : GReg) (b : GReg) (m : MaskUse) : Statement (.vor w d a b m) := by
  have := viewCode_lt w; have := d.isLt; have := a.isLt; have := b.isLt; have := maskBit_lt m
  refine fits (w := 0x8B000000 + maskBit m * 2 ^ 0 + b.toNat * 2 ^ 1 + a.toNat * 2 ^ 8 + d.toNat * 2 ^ 15 + viewCode w * 2 ^ 22) (x := 0) rfl rfl ?_ ?_ rfl <;> omega

theorem vxor (w : View) (d : GReg) (a : GReg) (b : GReg) (m : MaskUse) : Statement (.vxor w d a b m) := by
  have := viewCode_lt w; have := d.isLt; have := a.isLt; have := b.isLt; have := maskBit_lt m
  refine fits (w := 0x8C000000 + maskBit m * 2 ^ 0 + b.toNat * 2 ^ 1 + a.toNat * 2 ^ 8 + d.toNat * 2 ^ 15 + viewCode w * 2 ^ 22) (x := 0) rfl rfl ?_ ?_ rfl <;> omega

theorem vnot (w : View) (d : GReg) (a : GReg) (m : MaskUse) : Statement (.vnot w d a m) := by
  have := viewCode_lt w; have := d.isLt; have := a.isLt; have := maskBit_lt m
  refine fits (w := 0x8D000000 + maskBit m * 2 ^ 0 + a.toNat * 2 ^ 8 + d.toNat * 2 ^ 15 + viewCode w * 2 ^ 22) (x := 0) rfl rfl ?_ ?_ rfl <;> omega

theorem vsll (w : View) (d : GReg) (a : GReg) (b : GReg) (m : MaskUse) : Statement (.vsll w d a b m) := by
  have := viewCode_lt w; have := d.isLt; have := a.isLt; have := b.isLt; have := maskBit_lt m
  refine fits (w := 0x8E000000 + maskBit m * 2 ^ 0 + b.toNat * 2 ^ 1 + a.toNat * 2 ^ 8 + d.toNat * 2 ^ 15 + viewCode w * 2 ^ 22) (x := 0) rfl rfl ?_ ?_ rfl <;> omega

theorem vsrl (w : View) (d : GReg) (a : GReg) (b : GReg) (m : MaskUse) : Statement (.vsrl w d a b m) := by
  have := viewCode_lt w; have := d.isLt; have := a.isLt; have := b.isLt; have := maskBit_lt m
  refine fits (w := 0x8F000000 + maskBit m * 2 ^ 0 + b.toNat * 2 ^ 1 + a.toNat * 2 ^ 8 + d.toNat * 2 ^ 15 + viewCode w * 2 ^ 22) (x := 0) rfl rfl ?_ ?_ rfl <;> omega

theorem vsra (w : View) (d : GReg) (a : GReg) (b : GReg) (m : MaskUse) : Statement (.vsra w d a b m) := by
  have := viewCode_lt w; have := d.isLt; have := a.isLt; have := b.isLt; have := maskBit_lt m
  refine fits (w := 0x90000000 + maskBit m * 2 ^ 0 + b.toNat * 2 ^ 1 + a.toNat * 2 ^ 8 + d.toNat * 2 ^ 15 + viewCode w * 2 ^ 22) (x := 0) rfl rfl ?_ ?_ rfl <;> omega

theorem vfshl (w : View) (d : GReg) (a : GReg) (b : GReg) (m : MaskUse) : Statement (.vfshl w d a b m) := by
  have := viewCode_lt w; have := d.isLt; have := a.isLt; have := b.isLt; have := maskBit_lt m
  refine fits (w := 0x91000000 + maskBit m * 2 ^ 0 + b.toNat * 2 ^ 1 + a.toNat * 2 ^ 8 + d.toNat * 2 ^ 15 + viewCode w * 2 ^ 22) (x := 0) rfl rfl ?_ ?_ rfl <;> omega

theorem vfshr (w : View) (d : GReg) (a : GReg) (b : GReg) (m : MaskUse) : Statement (.vfshr w d a b m) := by
  have := viewCode_lt w; have := d.isLt; have := a.isLt; have := b.isLt; have := maskBit_lt m
  refine fits (w := 0x92000000 + maskBit m * 2 ^ 0 + b.toNat * 2 ^ 1 + a.toNat * 2 ^ 8 + d.toNat * 2 ^ 15 + viewCode w * 2 ^ 22) (x := 0) rfl rfl ?_ ?_ rfl <;> omega

theorem vcmp (w : View) (c : BitVec 4) (k : MReg) (a : GReg) (b : GReg) (m : MaskUse) : Statement (.vcmp w c k a b m) := by
  have := viewCode_lt w; have := c.isLt; have := k.isLt; have := a.isLt; have := b.isLt; have := maskBit_lt m
  refine fits (w := 0x93000000 + maskBit m * 2 ^ 0 + b.toNat * 2 ^ 1 + a.toNat * 2 ^ 8 + k.toNat * 2 ^ 15 + c.toNat * 2 ^ 18 + viewCode w * 2 ^ 22) (x := 0) rfl rfl ?_ ?_ rfl <;> omega

theorem vsel (w : View) (d : GReg) (a : GReg) (b : GReg) (m : MaskUse) : Statement (.vsel w d a b m) := by
  have := viewCode_lt w; have := d.isLt; have := a.isLt; have := b.isLt; have := maskBit_lt m
  refine fits (w := 0x94000000 + maskBit m * 2 ^ 0 + b.toNat * 2 ^ 1 + a.toNat * 2 ^ 8 + d.toNat * 2 ^ 15 + viewCode w * 2 ^ 22) (x := 0) rfl rfl ?_ ?_ rfl <;> omega

theorem vmv (w : View) (d : GReg) (a : GReg) (m : MaskUse) : Statement (.vmv w d a m) := by
  have := viewCode_lt w; have := d.isLt; have := a.isLt; have := maskBit_lt m
  refine fits (w := 0x95000000 + maskBit m * 2 ^ 0 + a.toNat * 2 ^ 8 + d.toNat * 2 ^ 15 + viewCode w * 2 ^ 22) (x := 0) rfl rfl ?_ ?_ rfl <;> omega

theorem vbcast (w : View) (d : GReg) (x : SReg) (m : MaskUse) : Statement (.vbcast w d x m) := by
  have := viewCode_lt w; have := d.isLt; have := x.isLt; have := maskBit_lt m
  refine fits (w := 0x96000000 + maskBit m * 2 ^ 0 + x.toNat * 2 ^ 3 + d.toNat * 2 ^ 15 + viewCode w * 2 ^ 22) (x := 0) rfl rfl ?_ ?_ rfl <;> omega

theorem vadds (w : View) (d : GReg) (a : GReg) (x : SReg) (m : MaskUse) : Statement (.vadds w d a x m) := by
  have := viewCode_lt w; have := d.isLt; have := a.isLt; have := x.isLt; have := maskBit_lt m
  refine fits (w := 0x97000000 + maskBit m * 2 ^ 0 + x.toNat * 2 ^ 3 + a.toNat * 2 ^ 8 + d.toNat * 2 ^ 15 + viewCode w * 2 ^ 22) (x := 0) rfl rfl ?_ ?_ rfl <;> omega

theorem vmuls (w : View) (d : GReg) (a : GReg) (x : SReg) (m : MaskUse) : Statement (.vmuls w d a x m) := by
  have := viewCode_lt w; have := d.isLt; have := a.isLt; have := x.isLt; have := maskBit_lt m
  refine fits (w := 0x98000000 + maskBit m * 2 ^ 0 + x.toNat * 2 ^ 3 + a.toNat * 2 ^ 8 + d.toNat * 2 ^ 15 + viewCode w * 2 ^ 22) (x := 0) rfl rfl ?_ ?_ rfl <;> omega

theorem vfmas (w : View) (d : GReg) (a : GReg) (x : SReg) (m : MaskUse) : Statement (.vfmas w d a x m) := by
  have := viewCode_lt w; have := d.isLt; have := a.isLt; have := x.isLt; have := maskBit_lt m
  refine fits (w := 0x99000000 + maskBit m * 2 ^ 0 + x.toNat * 2 ^ 3 + a.toNat * 2 ^ 8 + d.toNat * 2 ^ 15 + viewCode w * 2 ^ 22) (x := 0) rfl rfl ?_ ?_ rfl <;> omega

theorem vid (w : View) (d : GReg) (m : MaskUse) : Statement (.vid w d m) := by
  have := viewCode_lt w; have := d.isLt; have := maskBit_lt m
  refine fits (w := 0x9A000000 + maskBit m * 2 ^ 0 + d.toNat * 2 ^ 15 + viewCode w * 2 ^ 22) (x := 0) rfl rfl ?_ ?_ rfl <;> omega

theorem vcvt (w : View) (d : GReg) (a : GReg) (k : BitVec 7) (m : MaskUse) : Statement (.vcvt w d a k m) := by
  have := viewCode_lt w; have := d.isLt; have := a.isLt; have := k.isLt; have := maskBit_lt m
  refine fits (w := 0x9B000000 + maskBit m * 2 ^ 0 + k.toNat * 2 ^ 1 + a.toNat * 2 ^ 8 + d.toNat * 2 ^ 15 + viewCode w * 2 ^ 22) (x := 0) rfl rfl ?_ ?_ rfl <;> omega

theorem vqnt (w : View) (d : GReg) (a : GReg) (x : SReg) (m : MaskUse) : Statement (.vqnt w d a x m) := by
  have := viewCode_lt w; have := d.isLt; have := a.isLt; have := x.isLt; have := maskBit_lt m
  refine fits (w := 0x9C000000 + maskBit m * 2 ^ 0 + x.toNat * 2 ^ 3 + a.toNat * 2 ^ 8 + d.toNat * 2 ^ 15 + viewCode w * 2 ^ 22) (x := 0) rfl rfl ?_ ?_ rfl <;> omega

theorem vhad (w : View) (d : GReg) (a : GReg) (k : BitVec 7) (m : MaskUse) : Statement (.vhad w d a k m) := by
  have := viewCode_lt w; have := d.isLt; have := a.isLt; have := k.isLt; have := maskBit_lt m
  refine fits (w := 0x9D000000 + maskBit m * 2 ^ 0 + k.toNat * 2 ^ 1 + a.toNat * 2 ^ 8 + d.toNat * 2 ^ 15 + viewCode w * 2 ^ 22) (x := 0) rfl rfl ?_ ?_ rfl <;> omega

theorem vsfu (w : View) (d : GReg) (a : GReg) (k : BitVec 7) (m : MaskUse) : Statement (.vsfu w d a k m) := by
  have := viewCode_lt w; have := d.isLt; have := a.isLt; have := k.isLt; have := maskBit_lt m
  refine fits (w := 0x9E000000 + maskBit m * 2 ^ 0 + k.toNat * 2 ^ 1 + a.toNat * 2 ^ 8 + d.toNat * 2 ^ 15 + viewCode w * 2 ^ 22) (x := 0) rfl rfl ?_ ?_ rfl <;> omega

theorem vredsum (w : View) (d : SReg) (a : GReg) (m : MaskUse) : Statement (.vredsum w d a m) := by
  have := viewCode_lt w; have := d.isLt; have := a.isLt; have := maskBit_lt m
  refine fits (w := 0x9F000000 + maskBit m * 2 ^ 0 + a.toNat * 2 ^ 8 + d.toNat * 2 ^ 15 + viewCode w * 2 ^ 22) (x := 0) rfl rfl ?_ ?_ rfl <;> omega

theorem vredmax (w : View) (d : SReg) (a : GReg) (m : MaskUse) : Statement (.vredmax w d a m) := by
  have := viewCode_lt w; have := d.isLt; have := a.isLt; have := maskBit_lt m
  refine fits (w := 0xA0000000 + maskBit m * 2 ^ 0 + a.toNat * 2 ^ 8 + d.toNat * 2 ^ 15 + viewCode w * 2 ^ 22) (x := 0) rfl rfl ?_ ?_ rfl <;> omega

theorem vredmin (w : View) (d : SReg) (a : GReg) (m : MaskUse) : Statement (.vredmin w d a m) := by
  have := viewCode_lt w; have := d.isLt; have := a.isLt; have := maskBit_lt m
  refine fits (w := 0xA1000000 + maskBit m * 2 ^ 0 + a.toNat * 2 ^ 8 + d.toNat * 2 ^ 15 + viewCode w * 2 ^ 22) (x := 0) rfl rfl ?_ ?_ rfl <;> omega

theorem vredamax (w : View) (d : SReg) (a : GReg) (m : MaskUse) : Statement (.vredamax w d a m) := by
  have := viewCode_lt w; have := d.isLt; have := a.isLt; have := maskBit_lt m
  refine fits (w := 0xA2000000 + maskBit m * 2 ^ 0 + a.toNat * 2 ^ 8 + d.toNat * 2 ^ 15 + viewCode w * 2 ^ 22) (x := 0) rfl rfl ?_ ?_ rfl <;> omega

theorem vsegsum (w : View) (d : GReg) (a : GReg) (k : MReg) (m : MaskUse) : Statement (.vsegsum w d a k m) := by
  have := viewCode_lt w; have := d.isLt; have := a.isLt; have := k.isLt; have := maskBit_lt m
  refine fits (w := 0xA3000000 + maskBit m * 2 ^ 0 + k.toNat * 2 ^ 1 + a.toNat * 2 ^ 8 + d.toNat * 2 ^ 15 + viewCode w * 2 ^ 22) (x := 0) rfl rfl ?_ ?_ rfl <;> omega

theorem vsegscan (w : View) (d : GReg) (a : GReg) (k : MReg) (m : MaskUse) : Statement (.vsegscan w d a k m) := by
  have := viewCode_lt w; have := d.isLt; have := a.isLt; have := k.isLt; have := maskBit_lt m
  refine fits (w := 0xA4000000 + maskBit m * 2 ^ 0 + k.toNat * 2 ^ 1 + a.toNat * 2 ^ 8 + d.toNat * 2 ^ 15 + viewCode w * 2 ^ 22) (x := 0) rfl rfl ?_ ?_ rfl <;> omega

theorem vscan (w : View) (d : GReg) (a : GReg) (m : MaskUse) : Statement (.vscan w d a m) := by
  have := viewCode_lt w; have := d.isLt; have := a.isLt; have := maskBit_lt m
  refine fits (w := 0xA5000000 + maskBit m * 2 ^ 0 + a.toNat * 2 ^ 8 + d.toNat * 2 ^ 15 + viewCode w * 2 ^ 22) (x := 0) rfl rfl ?_ ?_ rfl <;> omega

theorem vslideup (w : View) (d : GReg) (a : GReg) (x : SReg) (m : MaskUse) : Statement (.vslideup w d a x m) := by
  have := viewCode_lt w; have := d.isLt; have := a.isLt; have := x.isLt; have := maskBit_lt m
  refine fits (w := 0xA6000000 + maskBit m * 2 ^ 0 + x.toNat * 2 ^ 3 + a.toNat * 2 ^ 8 + d.toNat * 2 ^ 15 + viewCode w * 2 ^ 22) (x := 0) rfl rfl ?_ ?_ rfl <;> omega

theorem vslidedn (w : View) (d : GReg) (a : GReg) (x : SReg) (m : MaskUse) : Statement (.vslidedn w d a x m) := by
  have := viewCode_lt w; have := d.isLt; have := a.isLt; have := x.isLt; have := maskBit_lt m
  refine fits (w := 0xA7000000 + maskBit m * 2 ^ 0 + x.toNat * 2 ^ 3 + a.toNat * 2 ^ 8 + d.toNat * 2 ^ 15 + viewCode w * 2 ^ 22) (x := 0) rfl rfl ?_ ?_ rfl <;> omega

theorem vperm (w : View) (d : GReg) (a : GReg) (b : GReg) (m : MaskUse) : Statement (.vperm w d a b m) := by
  have := viewCode_lt w; have := d.isLt; have := a.isLt; have := b.isLt; have := maskBit_lt m
  refine fits (w := 0xA8000000 + maskBit m * 2 ^ 0 + b.toNat * 2 ^ 1 + a.toNat * 2 ^ 8 + d.toNat * 2 ^ 15 + viewCode w * 2 ^ 22) (x := 0) rfl rfl ?_ ?_ rfl <;> omega

theorem vunpk (w : View) (d : GReg) (a : GReg) (k : BitVec 7) (m : MaskUse) : Statement (.vunpk w d a k m) := by
  have := viewCode_lt w; have := d.isLt; have := a.isLt; have := k.isLt; have := maskBit_lt m
  refine fits (w := 0xA9000000 + maskBit m * 2 ^ 0 + k.toNat * 2 ^ 1 + a.toNat * 2 ^ 8 + d.toNat * 2 ^ 15 + viewCode w * 2 ^ 22) (x := 0) rfl rfl ?_ ?_ rfl <;> omega

theorem vpack (w : View) (d : GReg) (a : GReg) (k : BitVec 7) (m : MaskUse) : Statement (.vpack w d a k m) := by
  have := viewCode_lt w; have := d.isLt; have := a.isLt; have := k.isLt; have := maskBit_lt m
  refine fits (w := 0xAA000000 + maskBit m * 2 ^ 0 + k.toNat * 2 ^ 1 + a.toNat * 2 ^ 8 + d.toNat * 2 ^ 15 + viewCode w * 2 ^ 22) (x := 0) rfl rfl ?_ ?_ rfl <;> omega

theorem vlut (w : View) (d : GReg) (a : GReg) (b : GReg) (m : MaskUse) : Statement (.vlut w d a b m) := by
  have := viewCode_lt w; have := d.isLt; have := a.isLt; have := b.isLt; have := maskBit_lt m
  refine fits (w := 0xAB000000 + maskBit m * 2 ^ 0 + b.toNat * 2 ^ 1 + a.toNat * 2 ^ 8 + d.toNat * 2 ^ 15 + viewCode w * 2 ^ 22) (x := 0) rfl rfl ?_ ?_ rfl <;> omega

theorem vexpand (w : View) (d : GReg) (a : GReg) (m : MaskUse) : Statement (.vexpand w d a m) := by
  have := viewCode_lt w; have := d.isLt; have := a.isLt; have := maskBit_lt m
  refine fits (w := 0xAC000000 + maskBit m * 2 ^ 0 + a.toNat * 2 ^ 8 + d.toNat * 2 ^ 15 + viewCode w * 2 ^ 22) (x := 0) rfl rfl ?_ ?_ rfl <;> omega

theorem vcompress (w : View) (d : GReg) (a : GReg) (m : MaskUse) : Statement (.vcompress w d a m) := by
  have := viewCode_lt w; have := d.isLt; have := a.isLt; have := maskBit_lt m
  refine fits (w := 0xAD000000 + maskBit m * 2 ^ 0 + a.toNat * 2 ^ 8 + d.toNat * 2 ^ 15 + viewCode w * 2 ^ 22) (x := 0) rfl rfl ?_ ?_ rfl <;> omega

theorem vsparse (w : View) (d : GReg) (a : GReg) (k : BitVec 7) (m : MaskUse) : Statement (.vsparse w d a k m) := by
  have := viewCode_lt w; have := d.isLt; have := a.isLt; have := k.isLt; have := maskBit_lt m
  refine fits (w := 0xAE000000 + maskBit m * 2 ^ 0 + k.toNat * 2 ^ 1 + a.toNat * 2 ^ 8 + d.toNat * 2 ^ 15 + viewCode w * 2 ^ 22) (x := 0) rfl rfl ?_ ?_ rfl <;> omega

theorem vpop (w : View) (d : GReg) (q : QReg) (m : MaskUse) : Statement (.vpop w d q m) := by
  have := viewCode_lt w; have := d.isLt; have := q.isLt; have := maskBit_lt m
  refine fits (w := 0xAF000000 + maskBit m * 2 ^ 0 + q.toNat * 2 ^ 8 + d.toNat * 2 ^ 15 + viewCode w * 2 ^ 22) (x := 0) rfl rfl ?_ ?_ rfl <;> omega

theorem vpush (q : QReg) (a : GReg) (m : MaskUse) : Statement (.vpush q a m) := by
  have := q.isLt; have := a.isLt; have := maskBit_lt m
  refine fits (w := 0xB0000000 + maskBit m * 2 ^ 0 + a.toNat * 2 ^ 8 + q.toNat * 2 ^ 15) (x := 0) rfl rfl ?_ ?_ rfl <;> omega

theorem vmand (d : MReg) (a : MReg) (b : MReg) : Statement (.vmand d a b) := by
  have := d.isLt; have := a.isLt; have := b.isLt
  refine fits (w := 0xB1000000 + b.toNat * 2 ^ 1 + a.toNat * 2 ^ 8 + d.toNat * 2 ^ 15) (x := 0) rfl rfl ?_ ?_ rfl <;> omega

theorem vmor (d : MReg) (a : MReg) (b : MReg) : Statement (.vmor d a b) := by
  have := d.isLt; have := a.isLt; have := b.isLt
  refine fits (w := 0xB2000000 + b.toNat * 2 ^ 1 + a.toNat * 2 ^ 8 + d.toNat * 2 ^ 15) (x := 0) rfl rfl ?_ ?_ rfl <;> omega

theorem vmxor (d : MReg) (a : MReg) (b : MReg) : Statement (.vmxor d a b) := by
  have := d.isLt; have := a.isLt; have := b.isLt
  refine fits (w := 0xB3000000 + b.toNat * 2 ^ 1 + a.toNat * 2 ^ 8 + d.toNat * 2 ^ 15) (x := 0) rfl rfl ?_ ?_ rfl <;> omega

theorem vmnot (d : MReg) (a : MReg) : Statement (.vmnot d a) := by
  have := d.isLt; have := a.isLt
  refine fits (w := 0xB4000000 + a.toNat * 2 ^ 8 + d.toNat * 2 ^ 15) (x := 0) rfl rfl ?_ ?_ rfl <;> omega

theorem vmpopc (d : SReg) (a : MReg) : Statement (.vmpopc d a) := by
  have := d.isLt; have := a.isLt
  refine fits (w := 0xB5000000 + a.toNat * 2 ^ 8 + d.toNat * 2 ^ 15) (x := 0) rfl rfl ?_ ?_ rfl <;> omega

theorem vmfirst (d : SReg) (a : MReg) : Statement (.vmfirst d a) := by
  have := d.isLt; have := a.isLt
  refine fits (w := 0xB6000000 + a.toNat * 2 ^ 8 + d.toNat * 2 ^ 15) (x := 0) rfl rfl ?_ ?_ rfl <;> omega

theorem vmfrom (w : View) (k : MReg) (a : GReg) (m : MaskUse) : Statement (.vmfrom w k a m) := by
  have := viewCode_lt w; have := k.isLt; have := a.isLt; have := maskBit_lt m
  refine fits (w := 0xB7000000 + maskBit m * 2 ^ 0 + a.toNat * 2 ^ 8 + k.toNat * 2 ^ 15 + viewCode w * 2 ^ 22) (x := 0) rfl rfl ?_ ?_ rfl <;> omega

theorem vmto (w : View) (d : GReg) (k : MReg) (m : MaskUse) : Statement (.vmto w d k m) := by
  have := viewCode_lt w; have := d.isLt; have := k.isLt; have := maskBit_lt m
  refine fits (w := 0xB8000000 + maskBit m * 2 ^ 0 + k.toNat * 2 ^ 8 + d.toNat * 2 ^ 15 + viewCode w * 2 ^ 22) (x := 0) rfl rfl ?_ ?_ rfl <;> omega

theorem vext (w : View) (d : SReg) (a : GReg) (x : SReg) (m : MaskUse) : Statement (.vext w d a x m) := by
  have := viewCode_lt w; have := d.isLt; have := a.isLt; have := x.isLt; have := maskBit_lt m
  refine fits (w := 0xB9000000 + maskBit m * 2 ^ 0 + x.toNat * 2 ^ 3 + a.toNat * 2 ^ 8 + d.toNat * 2 ^ 15 + viewCode w * 2 ^ 22) (x := 0) rfl rfl ?_ ?_ rfl <;> omega

theorem vnrw (w : View) (d : GReg) (a : GReg) (k : BitVec 7) (m : MaskUse) : Statement (.vnrw w d a k m) := by
  have := viewCode_lt w; have := d.isLt; have := a.isLt; have := k.isLt; have := maskBit_lt m
  refine fits (w := 0xBA000000 + maskBit m * 2 ^ 0 + k.toNat * 2 ^ 1 + a.toNat * 2 ^ 8 + d.toNat * 2 ^ 15 + viewCode w * 2 ^ 22) (x := 0) rfl rfl ?_ ?_ rfl <;> omega

theorem vpopc (w : View) (d : GReg) (a : GReg) (m : MaskUse) : Statement (.vpopc w d a m) := by
  have := viewCode_lt w; have := d.isLt; have := a.isLt; have := maskBit_lt m
  refine fits (w := 0xBB000000 + maskBit m * 2 ^ 0 + a.toNat * 2 ^ 8 + d.toNat * 2 ^ 15 + viewCode w * 2 ^ 22) (x := 0) rfl rfl ?_ ?_ rfl <;> omega

theorem vshrr (w : View) (d : GReg) (a : GReg) (b : GReg) (m : MaskUse) : Statement (.vshrr w d a b m) := by
  have := viewCode_lt w; have := d.isLt; have := a.isLt; have := b.isLt; have := maskBit_lt m
  refine fits (w := 0xBC000000 + maskBit m * 2 ^ 0 + b.toNat * 2 ^ 1 + a.toNat * 2 ^ 8 + d.toNat * 2 ^ 15 + viewCode w * 2 ^ 22) (x := 0) rfl rfl ?_ ?_ rfl <;> omega

theorem vmulh (w : View) (d : GReg) (a : GReg) (b : GReg) (m : MaskUse) : Statement (.vmulh w d a b m) := by
  have := viewCode_lt w; have := d.isLt; have := a.isLt; have := b.isLt; have := maskBit_lt m
  refine fits (w := 0xBD000000 + maskBit m * 2 ^ 0 + b.toNat * 2 ^ 1 + a.toNat * 2 ^ 8 + d.toNat * 2 ^ 15 + viewCode w * 2 ^ 22) (x := 0) rfl rfl ?_ ?_ rfl <;> omega

theorem vclz (w : View) (d : GReg) (a : GReg) (m : MaskUse) : Statement (.vclz w d a m) := by
  have := viewCode_lt w; have := d.isLt; have := a.isLt; have := maskBit_lt m
  refine fits (w := 0xBE000000 + maskBit m * 2 ^ 0 + a.toNat * 2 ^ 8 + d.toNat * 2 ^ 15 + viewCode w * 2 ^ 22) (x := 0) rfl rfl ?_ ?_ rfl <;> omega

theorem svc (c : BitVec 16) : Statement (.svc c) := by
  have := c.isLt
  refine fits (w := 0xE0000000 + c.toNat * 2 ^ 0) (x := 0) rfl rfl ?_ ?_ rfl <;> omega

theorem brk (c : BitVec 16) : Statement (.brk c) := by
  have := c.isLt
  refine fits (w := 0xE0400000 + c.toNat * 2 ^ 0) (x := 0) rfl rfl ?_ ?_ rfl <;> omega

theorem eret : Statement .eret := ⟨by decide, by decide, fun _ => by contradiction⟩

theorem wfi : Statement .wfi := ⟨by decide, by decide, fun _ => by contradiction⟩

theorem rcflush : Statement .rcflush := ⟨by decide, by decide, fun _ => by contradiction⟩

theorem keysel (a : SReg) (b : SReg) : Statement (.keysel a b) := by
  have := a.isLt; have := b.isLt
  refine fits (w := 0xE1400000 + b.toNat * 2 ^ 7 + a.toNat * 2 ^ 12) (x := 0) rfl rfl ?_ ?_ rfl <;> omega

theorem halt : Statement .halt := ⟨by decide, by decide, fun _ => by contradiction⟩

theorem errlog (d : SReg) (a : SReg) : Statement (.errlog d a) := by
  have := d.isLt; have := a.isLt
  refine fits (w := 0xE1C00000 + a.toNat * 2 ^ 12 + d.toNat * 2 ^ 17) (x := 0) rfl rfl ?_ ?_ rfl <;> omega

theorem bundleFetch : Statement .bundleFetch := noWord rfl rfl

theorem retrieverSearchEnd (k : Nat) : Statement (.retrieverSearchEnd k) := noWord rfl rfl

theorem accessAtHome (k : Nat) : Statement (.accessAtHome k) := noWord rfl rfl

theorem accessReply (core : Nat) : Statement (.accessReply core) := noWord rfl rfl

theorem movedResponseResend (k : Nat) : Statement (.movedResponseResend k) := noWord rfl rfl

theorem dredgerLockRetry (k : Nat) : Statement (.dredgerLockRetry k) := noWord rfl rfl

theorem holderDrop (k : Nat) (agent : Nat) : Statement (.holderDrop k agent) := noWord rfl rfl

theorem rginvComplete (k : Nat) : Statement (.rginvComplete k) := noWord rfl rfl

theorem fillRecord (k : Nat) : Statement (.fillRecord k) := noWord rfl rfl

theorem sliceDropComplete (k : Nat) : Statement (.sliceDropComplete k) := noWord rfl rfl

theorem dredgerMove (owner : Nat) (va : Nat) (pbase : Nat) (home : Nat) : Statement (.dredgerMove owner va pbase home) := noWord rfl rfl

theorem chunkOpen (k : Nat) : Statement (.chunkOpen k) := noWord rfl rfl

theorem moveFinish (k : Nat) : Statement (.moveFinish k) := noWord rfl rfl

theorem scratchAccessComplete (k : Nat) : Statement (.scratchAccessComplete k) := noWord rfl rfl

theorem clusterScratchArrival (k : Nat) : Statement (.clusterScratchArrival k) := noWord rfl rfl

theorem gridHalfRetirement (core : Nat) (half : Nat) : Statement (.gridHalfRetirement core half) := noWord rfl rfl

theorem scratchBankRetirement (core : Nat) (bank : Nat) : Statement (.scratchBankRetirement core bank) := noWord rfl rfl

theorem dieCacheBankRetirement (die : Nat) (bank : Nat) : Statement (.dieCacheBankRetirement die bank) := noWord rfl rfl

theorem hbmRegionRetirement (die : Nat) (region : Nat) : Statement (.hbmRegionRetirement die region) := noWord rfl rfl

theorem evacuatorSegmentMove (core : Nat) : Statement (.evacuatorSegmentMove core) := noWord rfl rfl

theorem evacuatorLineReadReturn (core : Nat) : Statement (.evacuatorLineReadReturn core) := noWord rfl rfl

theorem evacuatorSegmentDone (core : Nat) : Statement (.evacuatorSegmentDone core) := noWord rfl rfl

theorem overCapacityFault (core : Nat) : Statement (.overCapacityFault core) := noWord rfl rfl

theorem manifestReference (k : Nat) : Statement (.manifestReference k) := noWord rfl rfl

theorem manifestRefusal (k : Nat) : Statement (.manifestRefusal k) := noWord rfl rfl

theorem dieFence (die : Nat) : Statement (.dieFence die) := noWord rfl rfl

theorem segmentPlacement (k : Nat) : Statement (.segmentPlacement k) := noWord rfl rfl

theorem placementGraceExpiry (die : Nat) : Statement (.placementGraceExpiry die) := noWord rfl rfl

theorem ptpSourceEnable (source : Nat) : Statement (.ptpSourceEnable source) := noWord rfl rfl

theorem ptpSourceDisable : Statement .ptpSourceDisable := noWord rfl rfl

theorem ptpSync (twoStep : Bool) (offset : Int) : Statement (.ptpSync twoStep offset) := noWord rfl rfl

theorem ptpFollowUp (offset : Int) : Statement (.ptpFollowUp offset) := noWord rfl rfl

theorem ptpDelayResp (delay : Int) : Statement (.ptpDelayResp delay) := noWord rfl rfl

theorem syncTimeout : Statement .syncTimeout := noWord rfl rfl

theorem timedAccessArrival (k : Nat) : Statement (.timedAccessArrival k) := noWord rfl rfl

theorem timedAccessDue (die : Nat) : Statement (.timedAccessDue die) := noWord rfl rfl

theorem timedAccessAccept (k : Nat) : Statement (.timedAccessAccept k) := noWord rfl rfl

theorem missedDeadlineReport (k : Nat) : Statement (.missedDeadlineReport k) := noWord rfl rfl

theorem noticeTaken (core : Nat) : Statement (.noticeTaken core) := noWord rfl rfl

theorem resumableTrap (core : Nat) : Statement (.resumableTrap core) := noWord rfl rfl

theorem hostWrite (offset : Nat) (data : List Byte) (relaxed : Bool) : Statement (.hostWrite offset data relaxed) := noWord rfl rfl

theorem hostRead (offset : Nat) (n : Nat) : Statement (.hostRead offset n) := noWord rfl rfl

theorem hostCompletion (k : Nat) : Statement (.hostCompletion k) := noWord rfl rfl

theorem peerInboundAccess (part : Nat) (pa : Nat) (n : Nat) (data : List Byte) : Statement (.peerInboundAccess part pa n data) := noWord rfl rfl

theorem peerAck (k : Nat) : Statement (.peerAck k) := noWord rfl rfl

theorem gbarOpeningTime (core : Nat) : Statement (.gbarOpeningTime core) := noWord rfl rfl

theorem opaStep (core : Nat) : Statement (.opaStep core) := noWord rfl rfl

theorem opaComplete (core : Nat) (half : Nat) : Statement (.opaComplete core half) := noWord rfl rfl

theorem longOperationComplete (core : Nat) : Statement (.longOperationComplete core) := noWord rfl rfl

theorem arrivalGroupLanded (k : Nat) : Statement (.arrivalGroupLanded k) := noWord rfl rfl

theorem vldcDecodeEnd (core : Nat) : Statement (.vldcDecodeEnd core) := noWord rfl rfl

theorem blockEnd (core : Nat) : Statement (.blockEnd core) := noWord rfl rfl

theorem blockSwitchOut (core : Nat) : Statement (.blockSwitchOut core) := noWord rfl rfl

theorem blockedCauseClear (core : Nat) (area : Nat) : Statement (.blockedCauseClear core area) := noWord rfl rfl

theorem placement (die : Nat) (slot : Nat) : Statement (.placement die slot) := noWord rfl rfl

theorem gangPlacement (die : Nat) (slot : Nat) : Statement (.gangPlacement die slot) := noWord rfl rfl

theorem switchOut (core : Nat) : Statement (.switchOut core) := noWord rfl rfl

theorem switchIn (core : Nat) : Statement (.switchIn core) := noWord rfl rfl

theorem saveDrain (core : Nat) : Statement (.saveDrain core) := noWord rfl rfl

theorem absentBundleResolved (k : Nat) : Statement (.absentBundleResolved k) := noWord rfl rfl

theorem shareWindowStart (core : Nat) : Statement (.shareWindowStart core) := noWord rfl rfl

theorem shareTurn (core : Nat) : Statement (.shareTurn core) := noWord rfl rfl

theorem shareTurnEnd (core : Nat) : Statement (.shareTurnEnd core) := noWord rfl rfl

theorem sliceDeadlinePassed (die : Nat) (slot : Nat) : Statement (.sliceDeadlinePassed die slot) := noWord rfl rfl

theorem budgetExhausted (core : Nat) : Statement (.budgetExhausted core) := noWord rfl rfl

theorem sheepdogSample : Statement .sheepdogSample := noWord rfl rfl

theorem heartbeat : Statement .heartbeat := noWord rfl rfl

theorem heartbeatTimeout (die : Nat) : Statement (.heartbeatTimeout die) := noWord rfl rfl

theorem eviction (core : Nat) : Statement (.eviction core) := noWord rfl rfl

theorem relaunch (core : Nat) (area : Nat) : Statement (.relaunch core area) := noWord rfl rfl

theorem endInstance (core : Nat) (area : Nat) : Statement (.endInstance core area) := noWord rfl rfl

theorem saveRestart (core : Nat) (area : Nat) : Statement (.saveRestart core area) := noWord rfl rfl

theorem copyStart (die : Nat) : Statement (.copyStart die) := noWord rfl rfl

theorem copyEnd (core : Nat) (slot : Nat) : Statement (.copyEnd core slot) := noWord rfl rfl

theorem cpyxAck (core : Nat) : Statement (.cpyxAck core) := noWord rfl rfl

theorem streamPrefetch (core : Nat) (q : Nat) : Statement (.streamPrefetch core q) := noWord rfl rfl

theorem streamEntryArrival (core : Nat) (q : Nat) : Statement (.streamEntryArrival core q) := noWord rfl rfl

theorem streamEntryWrite (core : Nat) (q : Nat) : Statement (.streamEntryWrite core q) := noWord rfl rfl

theorem waitaReport (core : Nat) : Statement (.waitaReport core) := noWord rfl rfl

theorem twaitExpiry (core : Nat) : Statement (.twaitExpiry core) := noWord rfl rfl

theorem wfiWake (core : Nat) : Statement (.wfiWake core) := noWord rfl rfl

theorem fundamentalReset : Statement .fundamentalReset := noWord rfl rfl

theorem functionLevelReset : Statement .functionLevelReset := noWord rfl rfl

theorem powerExcess (die : Nat) : Statement (.powerExcess die) := noWord rfl rfl

theorem thermalThrottle (die : Nat) : Statement (.thermalThrottle die) := noWord rfl rfl

theorem overpowerAtFloorTimeout (die : Nat) : Statement (.overpowerAtFloorTimeout die) := noWord rfl rfl

theorem moduleTrip (die : Nat) : Statement (.moduleTrip die) := noWord rfl rfl

theorem hostWindowWrite (level : Level) (off : Nat) (val : Word) : Statement (.hostWindowWrite level off val) := noWord rfl rfl

theorem circuitRequest (entry : Nat) (val : Word) : Statement (.circuitRequest entry val) := noWord rfl rfl

theorem circuitTeardown (entry : Nat) : Statement (.circuitTeardown entry) := noWord rfl rfl

theorem meshResize (entry : Nat) (waves : Nat) : Statement (.meshResize entry waves) := noWord rfl rfl

theorem circuitActivation (entry : Nat) : Statement (.circuitActivation entry) := noWord rfl rfl

theorem circuitDrainComplete (entry : Nat) : Statement (.circuitDrainComplete entry) := noWord rfl rfl

theorem routeChangeAck (a : Nat) (b : Nat) : Statement (.routeChangeAck a b) := noWord rfl rfl

theorem attestationRequest (nonce : Nat) : Statement (.attestationRequest nonce) := noWord rfl rfl

theorem spdmRequest (nonce : Nat) : Statement (.spdmRequest nonce) := noWord rfl rfl

theorem ownerKeyInstall (owner : Nat) (wrapped : Option Nat) : Statement (.ownerKeyInstall owner wrapped) := noWord rfl rfl

theorem ownerKeyRelease (owner : Nat) : Statement (.ownerKeyRelease owner) := noWord rfl rfl

theorem registerWrite (level : Option Level) (off : Nat) (val : Word) : Statement (.registerWrite level off val) := noWord rfl rfl

theorem contextStaged (core : Nat) : Statement (.contextStaged core) := noWord rfl rfl

theorem deputyTakeoverComplete : Statement .deputyTakeoverComplete := noWord rfl rfl

theorem clearMoveTransposeComplete (core : Nat) : Statement (.clearMoveTransposeComplete core) := noWord rfl rfl

theorem throttleRelease (die : Nat) : Statement (.throttleRelease die) := noWord rfl rfl

end Sys2Proof.Laws.EncodeFits
end

