-- ==== Sys2Proof/Laws/Ranges.lean ====
section
/-! SUPPORT. What the device's own reads and writes of memory leave of the range agents: the rest of them does not touch those
operations, but for the moves under way. -/

namespace Sys2Proof.Machine

/-- Poisoning a block neither reads nor changes the range agents. -/
theorem poison_ranges (s : State) (r : Ranges) (a : Nat) :
    ({ s with ranges := r } : State).poison a = { s.poison a with ranges := r } ∧ (s.poison a).ranges = s.ranges := by
  simp only [State.poison, State.region, State.core, State.setCore]
  split
  · rename_i k off _
    by_cases h : (s.cores.get k).segValid (off / 4096) = true <;> simp [h]
  · exact ⟨rfl, rfl⟩

/-- A read of memory depends on the moves alone. -/
theorem physRead_ranges (s : State) (r : Ranges) (h : r.moves = s.ranges.moves) (a o k : Nat) :
    ({ s with ranges := r } : State).physRead a o k = s.physRead a o k := by
  simp only [State.physRead, State.resolve, h]
  rfl

/-- So does a write, and it changes none of them. -/
theorem physWrite_ranges (s : State) (r : Ranges) (h : r.moves = s.ranges.moves) (a o k : Nat) (v m : BitVec 512) :
    ({ s with ranges := r } : State).physWrite a o k v m = (s.physWrite a o k v m).map (fun t => { t with ranges := r }) ∧
    ∀ t, s.physWrite a o k v m = .ok t → t.ranges = s.ranges := by
  have e (x : Nat) : ({ s with ranges := r } : State).region x = s.region x := rfl
  have f (x : Nat) : ({ s with ranges := r } : State).credOf x o k = s.credOf x o k := rfl
  have g (x : Nat) : ({ s with ranges := r } : State).peerSet x = s.peerSet x := rfl
  have c (x : Nat) : ({ s with ranges := r } : State).core x = s.core x := rfl
  have z : ({ s with ranges := r } : State).resolve a = s.resolve a := by simp only [State.resolve, h]
  simp only [State.physWrite, z, e, f, g, c]
  generalize s.resolve a = pa
  split <;> (try split) <;> (try split) <;> simp_all [Except.map]
  all_goals first | rfl | exact ⟨rfl, rfl⟩

/-- A block moved, likewise. -/
theorem moveBlock_ranges (s : State) (r : Ranges) (h : r.moves = s.ranges.moves) (a b : Nat) :
    ({ s with ranges := r } : State).moveBlock a b = { s.moveBlock a b with ranges := r } ∧ (s.moveBlock a b).ranges = s.ranges := by
  have p := poison_ranges s r b
  have w (v : BitVec 512) := physWrite_ranges s r h b 0 0 v (~~~0)
  have e (x : Nat) : ({ s with ranges := r } : State).region x = s.region x := rfl
  have q : ({ s with ranges := r } : State).silent a = s.silent a := rfl
  simp only [State.moveBlock, p.1, q, e, physRead_ranges s r h, (w _).1]
  split
  · exact ⟨rfl, p.2⟩
  split
  · exact ⟨rfl, rfl⟩
  split
  · rename_i v _
    cases k : s.physWrite b 0 0 v (~~~0) with
    | ok t => exact ⟨rfl, (w v).2 t k⟩
    | error => exact ⟨rfl, rfl⟩
  · exact ⟨rfl, p.2⟩

/-- A chunk moved, likewise. -/
theorem moveBytes_ranges (s : State) (r : Ranges) (h : r.moves = s.ranges.moves) (a b n : Nat) :
    ({ s with ranges := r } : State).moveBytes a b n = { s.moveBytes a b n with ranges := r } := by
  unfold State.moveBytes
  generalize List.range _ = l
  induction l generalizing s with
  | nil => rfl
  | cons i l ih =>
    have k := moveBlock_ranges s r h (a + 64 * i) (b + 64 * i)
    simp only [List.foldl_cons, k.1]
    exact ih _ (h.trans (congrArg _ k.2.symm))

theorem moveBytes_mem (s : State) (r : Ranges) (h : r.moves = s.ranges.moves) (a b n : Nat) :
    (({ s with ranges := r } : State).moveBytes a b n).mem = (s.moveBytes a b n).mem := by
  rw [moveBytes_ranges s r h]

end Sys2Proof.Machine
end

