-- ==== Sys2Proof/Tests/Slice0.lean ====
section
/-! SUPPORT. Tests: the well-formedness check refuses what it must, words written out from the encoding tables decode, a few
steps have the results that the spec's own examples give, and for every statement with hypotheses a state and operands that
meet them. -/

namespace Sys2Proof.Tests

open Sys2Proof Sys2Proof.Machine

set_option Elab.async false

/-! ## Well-formedness: an ill-formed term for each check -/

theorem test_wf_masked_immediate_beyond_nine_bits : (Instr.vld .dv 0 1 0x100 .msel).wf = false := by decide
theorem test_wf_masked_immediate_of_nine_bits : (Instr.vld .dv 0 1 0x1FF00 .msel).wf = true := by decide
theorem test_wf_masked_store_immediate : (Instr.vst .ls 0 1 0x0FF00 .msel).wf = false := by decide
theorem test_wf_fadd_of_64_bits : (Instr.amo 4 9 1 .fadd .relaxed .die).wf = false := by decide
theorem test_wf_fadd_of_32_bits : (Instr.amos 4 9 0 .fadd .relaxed .die).wf = true := by decide
theorem test_wf_core_1536 : (Instr.accessReply 1536).wf = false := by decide
theorem test_wf_core_1535 : (Instr.switchIn 1535).wf = true := by decide
theorem test_wf_agent_17 : (Instr.holderDrop 0 17).wf = false := by decide
theorem test_wf_move_owner : (Instr.dredgerMove 4096 0 0 0).wf = false := by decide
theorem test_wf_move_home : (Instr.dredgerMove 1 0 0 16).wf = false := by decide
theorem test_wf_grid_half : (Instr.gridHalfRetirement 0 2).wf = false := by decide
theorem test_wf_scratch_bank : (Instr.scratchBankRetirement 0 16).wf = false := by decide
theorem test_wf_cache_bank : (Instr.dieCacheBankRetirement 0 256).wf = false := by decide
theorem test_wf_hbm_region : (Instr.hbmRegionRetirement 0 192).wf = false := by decide
theorem test_wf_die_16 : (Instr.dieFence 16).wf = false := by decide
theorem test_wf_ptp_source : (Instr.ptpSourceEnable 3).wf = false := by decide
theorem test_wf_opa_half : (Instr.opaComplete 0 2).wf = false := by decide
theorem test_wf_slot_4096 : (Instr.placement 0 4096).wf = false := by decide
theorem test_wf_copy_slot : (Instr.copyEnd 0 128).wf = false := by decide
theorem test_wf_queue_4 : (Instr.streamPrefetch 0 4).wf = false := by decide
theorem test_wf_entry_88 : (Instr.circuitTeardown 88).wf = false := by decide
theorem test_wf_route_die : (Instr.routeChangeAck 0 16).wf = false := by decide
theorem test_wf_key_owner : (Instr.ownerKeyInstall 4096 none).wf = false := by decide
theorem test_wf_plain_operation : (Instr.add 3 9 8).wf = true := by decide

/-! ## Decoding: words of the spec's examples (R215 to R220) and words written out from R203 to R211 -/

theorem test_decode_scalar_add : decodeTableWord 32 0x00469400 = some (.add 3 9 8) := by decide +kernel
theorem test_decode_branch : decodeTableWord 32 0x22307FFF = some (.bne 3 0 0x7FFFFF) := by decide +kernel
theorem test_decode_load : decodeTableWord 32 0x46066010 = some (.ldd .dv 3 6 16) := by decide +kernel
theorem test_decode_atomic : decodeTableWord 32 0x4D08924C = some (.amo 4 9 1 .cas .acquire .package) := by decide +kernel
theorem test_decode_stream : decodeTableWord 32 0x6000A000 = some (.sbind 5 0 0) := by decide +kernel
theorem test_decode_tensor : decodeTableWord 32 0xC1DC0000 = some (.opa 1 2 3 1 0) := by decide +kernel
theorem test_decode_vector : decodeTableWord 32 0x83204185 = some (.vfma .row 64 65 66 .msel) := by decide +kernel
theorem test_decode_system : decodeTableWord 32 0xE0800000 = some .eret := by decide +kernel
theorem test_decode_zero_field : decodeTableWord 32 0x00469401 = none := by decide +kernel
theorem test_decode_view_3 : decodeTableWord 32 0x83E04185 = none := by decide +kernel
theorem test_decode_unassigned : decodeTableWord 32 0xCA000000 = none := by decide +kernel
theorem test_decode_headed_bundle : decodeBundle 0x080A5ED4C10A000083204185F4FF0000 =
    .ok ⟨true, [(1, .vfma .row 64 65 66 (.hdr 2)), (2, .opa 0 0 1 0 1), (3, .addi 5 5 0xFFED4)]⟩ := by decide +kernel
theorem test_decode_header_bit : decodeBundle 0xF1000000 = .error ⟨0, .headerBit⟩ := by decide +kernel
theorem test_decode_header_in_slot_1 : decodeBundle (0xF0000000 * 2 ^ 32) = .error ⟨1, .headerSlot⟩ := by decide +kernel
theorem test_decode_extension_of_nop : decodeBundle 0xF0000001 = .error ⟨0, .extension⟩ := by decide +kernel
theorem test_encode_needs_header :
    decodeBundle (encode (.addi 5 5 0xFFED4)) = .ok ⟨false, [(0, .addi 5 5 0xFFED4)]⟩ ∧
    decodeBundle (encode (.addi 5 5 0x0FED4)) = .ok ⟨true, [(1, .addi 5 5 0x0FED4)]⟩ := by decide +kernel

/-! ## A small bed for steps: one core with a hart, one range of its cache, at a fixed place -/

/-- A range of 64 KiB at address 0, readable, writable and executable, all of its segments resident, in HBM of die 0. -/
def room : RcEnt := { desc := { base := 0, lim := 0x10000, phys := 0, attr := 0xFFFF00000087 } }

/-- A core with a hart and the range. -/
def bedCore (h : Hart) : Core := { active := true, hart := h, cache := [room] }

/-- The package with that core as core 0. -/
def bed (h : Hart) : State := { State.reset with cores := [(0, bedCore h)] }

/-- A hart at U in the bed, at 0x1000, with some registers. -/
def hartWith (x : Tbl Word) : Hart := { pc := 0x1000, x := x }

/-- What a run of one instruction leaves of the running hart. -/
def after (i : Instr) (s : State) : Hart :=
  match exec i s with
  | .next t => t.my
  | _ => {}

theorem test_add_wraps : (after (.add 3 1 2) (bed (hartWith [(1, 0xFFFFFFFFFFFFFFFF), (2, 2)]))).rx 3 = 1 := by decide +kernel
theorem test_s0_discards : (after (.addi 0 0 5) (bed (hartWith []))).rx 0 = 0 := by decide +kernel
theorem test_div_truncates : (after (.div 3 1 2) (bed (hartWith [(1, -7), (2, 2)]))).rx 3 = -3 := by decide +kernel
theorem test_rem_by_zero : (after (.rem 3 1 2) (bed (hartWith [(1, -7), (2, 0)]))).rx 3 = -7 := by decide +kernel
theorem test_fshr : (after (.fshr 3 1 2 4) (bed (hartWith [(1, 1), (2, 0x8000000000000000)]))).rx 3 = 0x1800000000000000 := by
  decide +kernel
theorem test_bext : (after (.bext 3 1 2) (bed (hartWith [(1, 0xABCD), (2, 0x1C4)]))).rx 3 = 0xBC := by decide +kernel
theorem test_fcvtfi_saturates : (after (.fcvtfi 3 1 1) (bed (hartWith [(1, 0x5FD02AB5)]))).rx 3 = 0x7FFFFFFFFFFFFFFF := by
  decide +kernel
theorem test_fcvtfi_even : (after (.fcvtfi 3 1 1) (bed (hartWith [(1, 0xC0200000)]))).rx 3 = -2 := by decide +kernel
theorem test_fcvtbf_even : (after (.fcvtbf 3 1 1) (bed (hartWith [(1, 0x3F808000)]))).rx 3 = 0x3F80 := by decide +kernel
theorem test_setvl : (after (.setvl 2 9 3 2) (bed (hartWith [(9, 1000)]))).ctl.vl = 512 := by decide +kernel
theorem test_tshape : (after (.tshape 2 9)
    (bed { hartWith [(9, 0x10006440)] with sup := { vlcap := 1024 } })).rx 2 = 0x10002040 := by decide +kernel
theorem test_store_then_load : (after (.ldh .dv 4 1 2) (match exec (.stw .dv 2 1 0) (bed (hartWith [(1, 0x100), (2, 0x8001FFFF)])) with
    | .next t => t
    | _ => State.reset)).rx 4 = BitVec.ofInt 64 (-32767) := by decide +kernel
theorem test_unmapped_load_gives_fill : (after (.ldd .dv 4 1 0)
    (bed { hartWith [(1, 0x20000)] with ctl := { fill := 7 } })).rx 4 = 7 := by decide +kernel
theorem test_brk_traps : (after (.brk 5) (bed (hartWith []))).sup.trapcause = 0x19 := by decide +kernel
theorem test_svc_names_the_next_bundle : (after (.svc 5) (bed (hartWith []))).sup.trappc = 0x1010 := by decide +kernel
theorem test_step_from_reset : (match step (State.reset.withFetchWord 32 0x08020005) with
    | .next t => t.my.rx 1
    | _ => 0) = 5 := by decide +kernel


/-! ## Witnesses: a state and operands that meet the hypotheses of each statement, clause by clause -/

theorem witness_RoundingForms : (1 : BitVec 3) ≠ 7 ∧ (0 : BitVec 3) ≠ 7 ∧ (6 : BitVec 3) ≠ 7 := by decide

theorem witness_UnroundedFloatForms :
    (fp32.decode 0x7FC00000).isNan = true ∧ (fp32.decode 0x3F800000).isNan = false ∧
    fp32.decode 0x80000000 = .fin true 0 (-149) ∧ fp32.decode 0 = .fin false 0 (-149) ∧
    (fp32.decode 0x3F800000).lt (fp32.decode 0x40000000) = true := by decide +kernel

/-- Registers with which each branch is taken or not. -/
theorem witness_TransferForms :
    let h := hartWith [(1, 5), (2, 5), (3, -1)]
    h.rx 1 = h.rx 2 ∧ h.rx 1 ≠ h.rx 3 ∧ (h.rx 3).toInt < (h.rx 1).toInt ∧ (h.rx 2).toInt ≤ (h.rx 1).toInt ∧
    (h.rx 1).toNat < (h.rx 3).toNat ∧ (h.rx 2).toNat ≤ (h.rx 1).toNat ∧ (16 : BitVec 23).toNat % 16 = 0 ∧
    (17 : BitVec 23).toNat % 16 ≠ 0 ∧ (0 : SReg) = 0 ∧ (31 : SReg) ≠ 0 := by decide +kernel

/-- A loop of three passes at 0x0FF0 whose last bundle is the one in hand. -/
def looping (v : Bool) (n : Nat) : Hart :=
  { pc := 0x1000, x := [(1, 3)], loops := List.replicate n ⟨v, 3, 0xFF0, 0x1000⟩, ctl := { strip := 100, vl := 64 } }

theorem witness_LoopForms :
    (0 : BitVec 23) = 0 ∧ ((bed (looping false 4)).my.rx 1 ≠ 0 ∧ 4 ≤ (bed (looping false 4)).my.loops.length) ∧
    ((1 : BitVec 23) ≠ 0 ∧ (bed (looping false 4)).my.rx 2 = 0) ∧
    ((bed (looping false 3)).my.rx 1 ≠ 0 ∧ (bed (looping false 3)).my.loops.length < 4) ∧
    (∃ e ∈ (bed (looping true 1)).my.loops, e.vloop = true) ∧
    (∀ e ∈ (bed (looping false 3)).my.loops, e.vloop = false) := by decide +kernel

theorem witness_LoopEndOfABundle :
    let e : LoopEnt := ⟨false, 3, 0xFF0, 0x1000⟩
    let v : LoopEnt := ⟨true, 0, 0xFF0, 0x1000⟩
    let s := bed (looping false 2)
    let t := bed { looping true 0 with loops := [e, v] }
    let left : Word := t.my.ctl.strip - BitVec.ofNat 64 (min t.my.ctl.vl t.my.ctl.strip.toNat)
    (bed (hartWith [])).my.loops = [] ∧
    (s.my.loops = [e] ++ [e] ∧ e.last = s.my.pc ∧ e.vloop = false ∧ e.count ≠ 1) ∧
    (bed { looping false 0 with loops := [e, { e with count := 1 }] }).my.loops = [e] ++ [{ e with count := 1 }] ∧
    (bed { looping false 0 with pc := 0xFF0, loops := [e] }).my.pc ≠ e.last ∧
    (t.my.loops = [e] ++ [v] ∧ v.last = t.my.pc ∧ v.vloop = true ∧ left ≠ 0) ∧
    (let u := bed { looping true 0 with loops := [e, v], ctl := { strip := 64, vl := 64 } }
     u.my.ctl.strip - BitVec.ofNat 64 (min u.my.ctl.vl u.my.ctl.strip.toNat) = 0) := by decide +kernel

theorem witness_SetvlForms : (4 : BitVec 3).toNat ≤ 4 ∧ 4 < (5 : BitVec 3).toNat := by decide

/-- A hart at S that holds an OPA with steps left. -/
def supervisor : Hart :=
  { pc := 0x1000, level := .s, opas := [⟨0, 0, 1, false, false, 2, 2, 0, 0, 0x00014040, 0, 0, 0, [], []⟩], x := [(1, 0x21)] }

theorem witness_ControlWordForms :
    ((bed (hartWith [])).my.opas = [] ∧ (bed (hartWith [])).my.long = none ∧ (bed (hartWith [])).my.level = .u) ∧
    ((bed supervisor).my.opas ≠ [] ∧ (bed supervisor).my.level ≠ .u) ∧
    (∀ n : Nat, n = 0x100 ∨ n = 0x10A → 0x100 ≤ (BitVec.ofNat 12 n).toNat ∧ (BitVec.ofNat 12 n).toNat ≤ 0x10A) ∧
    ([0x009, 0x00F, 0x012, 0x01F, 0x023, 0x02F, 0x035, 0x03F, 0x042, 0x04F, 0x052, 0x0FF, 0x10B, 0xFFF] : List Nat).all
      (fun n => (0x009 ≤ n && n < 0x010) || (0x012 ≤ n && n < 0x020) || (0x023 ≤ n && n < 0x030) ||
        (0x035 ≤ n && n < 0x040) || (0x042 ≤ n && n < 0x050) || (0x052 ≤ n && n < 0x100) || 0x10B ≤ n) = true := by
  refine ⟨by decide +kernel, by decide +kernel, ?_, by decide⟩
  rintro n (rfl | rfl) <;> decide

/-- Values at the bounds of what SETC accepts: VTYPE, FRM, QFMT, VLCAP, TRAPCAUSE and SAVEPTR, accepted and refused. -/
theorem witness_SetcForms :
    let ok (n v : Nat) (b : Bool) : Prop := ∃ p f, Claim.writable n v = some (p, f) ∧ (p ↔ b = true)
    ok 1 0x1C true ∧ ok 1 0x1D false ∧ ok 4 6 true ∧ ok 4 0 false ∧ ok 6 0x3FF true ∧ ok 6 0x400 false ∧
    ok 0x100 2048 true ∧ ok 0x100 2047 false ∧ ok 0x108 4096 true ∧ ok 0x108 64 false ∧ ok 5 99 true ∧
    Claim.writable 0 0 = none ∧ Claim.writable 0x10A 0 = none := by
  and_intros <;> first | rfl | exact ⟨_, _, rfl, by decide⟩

/-! ### Accesses -/

/-- A byte as the blocks of an access read at their homes, computed. -/
def byteIs (s : State) (plain : Bool) (ps : List Piece) (a v : Nat) : Bool :=
  ps.any fun p => p.blk == a / 64 * 64 && match s.homeRead plain p.loc with
    | .ok b => v == b.toNat / 2 ^ (8 * (a % 64)) % 256
    | .error _ => false

theorem byte_of {s : State} {plain : Bool} {ps : List Piece} {a v : Nat} (h : byteIs s plain ps a v = true) :
    Claim.Byte s plain ps a v := by
  obtain ⟨p, hp, h⟩ := List.any_eq_true.1 h
  cases hb : s.homeRead plain p.loc with
  | error e => simp [hb] at h
  | ok b =>
    simp only [hb, Bool.and_eq_true, beq_iff_eq] at h
    exact ⟨p, hp, b, h.1, hb, h.2⟩

theorem bytes_of {s : State} {plain : Bool} {ps : List Piece} {ea n : Nat} {f : Nat → Nat}
    (h : ((List.range n).all fun k => byteIs s plain ps ((ea + k) % 2 ^ 64) (f k)) = true) :
    ∀ k, k < n → Claim.Byte s plain ps ((ea + k) % 2 ^ 64) (f k) :=
  fun k hk => byte_of (List.all_eq_true.1 h k (List.mem_range.2 hk))

/-- Every block of an access answers from storage, and two of one place have one name and touch different bits, computed. -/
def answersIs (s : State) (plain : Bool) (ps : List Piece) : Bool :=
  ps.all (fun p => (match s.homeRead plain p.loc with
    | .ok _ => true
    | .error _ => false) && (Claim.place s p.loc).isSome) && decide (ps.Pairwise fun p q => Claim.place s p.loc = Claim.place s q.loc → p.loc = q.loc ∧ p.mask &&& q.mask = 0)

theorem answers_of {s : State} {plain : Bool} {ps : List Piece} (h : answersIs s plain ps = true) :
    Claim.Answers s plain ps := by
  obtain ⟨h, g⟩ := Bool.and_eq_true_iff.1 h
  refine ⟨fun p hp => ?_, of_decide_eq_true g⟩
  obtain ⟨a, b⟩ := Bool.and_eq_true_iff.1 (List.all_eq_true.1 h p hp)
  refine ⟨?_, b⟩
  cases hb : s.homeRead plain p.loc with
  | error e => simp [hb] at a
  | ok b => exact ⟨b, rfl⟩

/-- A block lies on the core's die, and nothing holds an access back there, computed. -/
def freely (s : State) (p : Piece) : Bool :=
  s.nearBy s.cur p.loc && s.ranges.moves.isEmpty && s.ranges.placing.isEmpty && match p.loc with
    | .scr k off => !(s.core k).segMoving (off / 4096)
    | _ => true

theorem freely_of {s : State} {p : Piece} (h : freely s p = true) :
    s.nearBy s.cur p.loc = true ∧ ∀ f : Flight, f.owner = s.my.sup.owner.toNat → s.heldBack f p = false := by
  simp only [freely, Bool.and_eq_true, List.isEmpty_iff] at h
  obtain ⟨⟨⟨near, moves⟩, placing⟩, still⟩ := h
  refine ⟨near, fun f _ => ?_⟩
  cases e : p.loc <;> simp_all [State.heldBack, State.blockHeld, State.incoming]

/-- Nothing keeps an access from performing, computed. -/
def clearIs (s : State) (x : Xls) : Bool :=
  s.my.wait == .none && s.immediate && x.pieces.all (freely s) && !x.moving && x.held.isNone && x.nonres.isNone

theorem clear_of {s : State} {x : Xls} (h : clearIs s x = true) : Claim.Clear s x := by
  simp only [clearIs, Bool.and_eq_true, beq_iff_eq, List.all_eq_true, Bool.not_eq_true', Option.isNone_iff_eq_none] at h
  obtain ⟨⟨⟨⟨⟨wait, now⟩, near⟩, moving⟩, held⟩, nonres⟩ := h
  exact ⟨wait, now, fun p hp => freely_of (near p hp), moving, held, nonres⟩

/-- Registers of the accesses below: s1 an address that a word crosses a block at, s2 a value, s3 a time, s4 aligned. -/
def accessor : State := bed (hartWith [(1, 0x103C), (2, 0x1122334455667788), (3, 7), (4, 0x1040), (5, 0x40000008)])

theorem witness_ScalarLoadForms :
    let x := accessor.translate (spaceNum .dv) .load
      (scalarReqs (Claim.address accessor 1 0) 8 (spanReqs (Claim.address accessor 1 0) 8))
    Claim.Clear accessor x ∧ x.fails = [] ∧ x.pieces.length = 8 ∧
    ∀ k, k < 8 → Claim.Byte accessor true x.pieces ((Claim.address accessor 1 0 + k) % 2 ^ 64) 0 :=
  ⟨clear_of (by decide +kernel), by decide +kernel, by decide +kernel, bytes_of (f := fun _ => 0) (by decide +kernel)⟩

theorem witness_FailingLoads :
    let x := accessor.translate (spaceNum .dv) .load
      (scalarReqs (Claim.address accessor 2 0) 8 (spanReqs (Claim.address accessor 2 0) 8))
    Claim.Clear accessor x ∧ x.fails ≠ [] ∧ (∀ e ∈ x.fails, e.data = false) ∧ (∀ e ∈ x.fails, e.strict = false) ∧
    x.pieces = [] ∧ accessor.me.active = true ∧ (accessor.my.handler = true → accessor.my.level ≠ .u) := by
  refine ⟨clear_of (by decide +kernel), ?_⟩
  decide +kernel

theorem witness_FailingLoads_strict :
    let s := bed { hartWith [(2, 0x1122334455667788)] with sup := { violmode := true } }
    let x := s.translate (spaceNum .dv) .load (scalarReqs (Claim.address s 2 0) 8 (spanReqs (Claim.address s 2 0) 8))
    Claim.Clear s x ∧ (∀ e ∈ x.fails, e.data = false) ∧
    ∃ e ∈ x.fails, e.strict = true ∧ ∀ f ∈ x.fails, f.strict = true → e.addr ≤ f.addr :=
  ⟨clear_of (by decide +kernel), by decide +kernel, by decide +kernel⟩

theorem witness_ScalarStoreForms :
    let x := accessor.translate (spaceNum .dv) .store
      (scalarReqs (Claim.address accessor 1 0) 8 (storeReqs (Claim.address accessor 1 0) 8 0x1122334455667788))
    Claim.Clear accessor x ∧ x.fails = [] ∧ Claim.Answers accessor true x.pieces ∧ x.pieces.length = 8 :=
  ⟨clear_of (by decide +kernel), by decide +kernel, answers_of (by decide +kernel), by decide +kernel⟩

theorem witness_TimedScalarForms_beyond :
    accessor.my.wait = .none ∧ (accessor.die 0).atime.toNat + 2 ^ 30 < (accessor.my.rx 5).toNat ∧
    ¬(accessor.die 0).atime.toNat + 2 ^ 30 < (BitVec.ofNat 64 (2 ^ 30)).toNat := by decide +kernel

theorem witness_TimedScalarForms_load :
    let x := accessor.translate 0 .load (spanReqs (accessor.my.rx 4).toNat 8)
    Claim.Clear accessor x ∧ x.fails = [] ∧ (accessor.my.rx 3).toNat ≤ (accessor.die 0).atime.toNat + 2 ^ 30 ∧
    (∀ p ∈ x.pieces, accessor.homeReached p.loc 0 = true) ∧
    (∀ k, k < 8 → Claim.Byte accessor false x.pieces ((0x1040 + k) % 2 ^ 64) 0) ∧
    ∃ p ∈ x.pieces, accessor.refused p.loc = none ∧ accessor.homeReached p.loc 7 = false := by
  refine ⟨clear_of (by decide +kernel), ?_, ?_, ?_, bytes_of (ea := 0x1040) (f := fun _ => 0) (by decide +kernel), ?_⟩ <;>
    decide +kernel

/-- The same later, where time 7 has passed; and at the same tick, which a home of the die has not reached the end of. -/
def later (now : Word) : State := { accessor with dies := [(0, { atime := now })] }

theorem witness_TimedScalarForms_past :
    let x := (later 8).translate 0 .load (spanReqs ((later 8).my.rx 4).toNat 8)
    ((later 8).my.rx 3).toNat < ((later 8).die 0).atime.toNat ∧ Claim.Clear (later 8) x ∧ x.fails = [] ∧
    (∀ k, k < 8 → Claim.Byte (later 8) false x.pieces ((0x1040 + k) % 2 ^ 64) 0) ∧
    ((later 7).my.rx 3).toNat = ((later 7).die 0).atime.toNat ∧
    ∃ p ∈ ((later 7).translate 0 .load (spanReqs ((later 7).my.rx 4).toNat 8)).pieces, (later 7).nearBy (later 7).cur p.loc = true :=
  ⟨by decide +kernel, clear_of (by decide +kernel), by decide +kernel,
    bytes_of (ea := 0x1040) (f := fun _ => 0) (by decide +kernel), by decide +kernel, by decide +kernel⟩

theorem witness_TimedScalarForms_store :
    let x := accessor.translate 0 .store (storeReqs (accessor.my.rx 4).toNat 8 5)
    Claim.Clear accessor x ∧ x.fails = [] ∧ accessor.my.pend < 4096 ∧ Claim.Answers accessor false x.pieces ∧
    (∀ p ∈ x.pieces, accessor.homeReached p.loc 0 = true) ∧ (accessor.die 0).held.length + x.pieces.length ≤ 4096 ∧
    ∃ p, x.pieces = [p] ∧ p.loc.die = some 0 ∧ accessor.refused p.loc = none ∧ accessor.homeReached p.loc 7 = false :=
  ⟨clear_of (by decide +kernel), by decide +kernel, by decide +kernel, answers_of (by decide +kernel), by decide +kernel,
    by decide +kernel, _, rfl, by decide +kernel, by decide +kernel, by decide +kernel⟩

theorem witness_AtomicAndFenceForms_atomic :
    let x := accessor.translate 0 .atomic [{ blk := 0x1040, lo := 0x1040, mask := byteMask 0 8 }]
    (accessor.my.rx 4).toNat / 8 * 8 = 0x1040 ∧ ((4 : SReg) ≠ 0 ∧ (4 : SReg).toNat % 2 = 0) ∧ (0 : SReg) = 0 ∧
    (5 : SReg).toNat % 2 = 1 ∧ accessor.pushesOf (accessor.who accessor.cur) = false ∧ Claim.Clear accessor x ∧ x.fails = [] ∧
    Claim.Answers accessor false x.pieces ∧
    ∃ p, x.pieces = [p] ∧ (∃ b, accessor.homeRead false p.loc = .ok b) ∧ ∃ pa h c, p.loc = .mem pa h c ∧ accessor.region pa ≠ .host :=
  ⟨by decide +kernel, by decide, rfl, by decide, by decide +kernel, clear_of (by decide +kernel), by decide +kernel,
    answers_of (by decide +kernel), _, rfl, ⟨_, rfl⟩, _, _, _, rfl, by decide +kernel⟩

/-- A store of the hart is on its way. -/
def storing : State := { accessor with delay := true, flights := [
  { core := 0, owner := 0, area := 0, lvl := .u, cls := 2, vec := false, interval := 0, space := 0, kind := 0, pc := 0, slot := 0,
    act := .write, pieces := [⟨0x40, 0x40, .mem 0x40 0 none, false, 1, 1⟩], land := .drop }] }

theorem witness_AtomicAndFenceForms_fence :
    (storing.fencePending 2 .die = true ∧ (2 : BitVec 8) ≠ 0) ∧ accessor.fencePending 2 .die = false ∧
    (storing.fencePending 2 .core = false ∧ Scope.core = .core) ∧
    (∃ f ∈ storing.flights, f.ofCtx storing.cur storing.my.sup.owner.toNat storing.my.sup.saveptr.toNat = true ∧
      f.cls &&& 2 ≠ 0) := by decide +kernel

/-! ### Vector operations -/

/-- A vector operand keeps to R138, computed. -/
def legalIs (h : Hart) (v : View) (r : GReg) : Bool :=
  match v with
  | .row => r.toNat % 2 ^ (h.ctl.vtype.toNat / 8) == 0
  | _ => h.ctl.vtype.toNat == 4

theorem legal_of {h : Hart} {v : View} {r : GReg} (e : legalIs h v r = true) : Claim.Legal h v r := by
  cases v <;> exact beq_iff_eq.1 e

/-- VTYPE, VLCAP and VL in the relations of Claim.Shape. -/
abbrev ShapeIs (h : Hart) : Prop :=
  h.ctl.vtype.toNat % 8 ≤ 4 ∧ h.sup.vlcap.toNat ∈ ([256, 512, 1024, 2048] : List Nat) ∧ h.ctl.vl ≤ h.vlLimit

/-- Nothing is under way on the core in hand, and its grid has both halves and waits for nothing. -/
abbrev Quiet (s : State) : Prop :=
  s.delay = false ∧ s.my.missingHalf = none ∧ s.my.long = none ∧ s.my.popa = none ∧ s.my.pvec = none ∧
  s.my.grid.busy = 0 ∧ s.my.grid.missing = [] ∧ s.my.grid.bad = []

/-- What makes a vector operation ready, in a form to decide: the hart's shape, quiet, legal operands. -/
abbrev ReadyIs (s : State) (v : View) (regs : List GReg) : Prop := ShapeIs s.my ∧ Quiet s ∧ regs.all (legalIs s.my v) = true

theorem free_of {h : Hart} (hb : h.grid.busy = 0) (hm : h.grid.missing = []) (n : Nat) : Claim.Free h n := by
  simp [Claim.Free, hb, hm, Tbl.getD]

theorem sound_of {h : Hart} (hb : h.grid.bad = []) (n : Nat) : Claim.Sound h n := by simp [Claim.Sound, hb]

theorem ready_of {s : State} {v : View} {regs : List GReg} (h : ReadyIs s v regs) : Claim.Ready s v regs :=
  let ⟨shape, ⟨delay, half, long, popa, pvec, busy, missing, bad⟩, legal⟩ := h
  ⟨shape, delay, half, long, popa, pvec, fun r hr =>
    ⟨legal_of (List.all_eq_true.1 legal r hr), fun n _ => ⟨free_of busy missing n, sound_of bad n⟩⟩⟩

/-- A hart with a type, a vector length and a mask m2 of the even elements below 8. -/
def vectorHart (vtype : BitVec 5) (vl : Nat) : Hart :=
  { pc := 0x1000, ctl := { vtype := vtype, vl := vl, qfmt := 2 }, x := [(1, 0x1000), (2, 3)],
    grid := { rows := [(2, 0x0102030405060708), (4, 0x55)], masks := [(2, 0x55)] } }

/-- The same in the bed. -/
def vectors (vtype : BitVec 5) (vl : Nat) : State := bed (vectorHart vtype vl)

/-- Rows of one and of eight registers, and columns, are ready; a group of two that begins at an odd row is not. -/
theorem witness_VectorBitForms :
    Claim.Ready (vectors 4 64) .row [2, 4, 6] ∧ Claim.Ready (vectors 0x1C 512) .row [8, 16, 24] ∧
    Claim.Ready (vectors 4 64) .col [2, 66, 127] ∧ Claim.Ready (vectors 4 64) .diag [2, 4, 6] ∧
    ¬Claim.Legal (vectors 0x0C 128).my .row 3 ∧
    Claim.Active (vectors 4 64).my (.hdr 2) 0 ∧ ¬Claim.Active (vectors 4 64).my (.hdr 2) 1 ∧ (2 : GReg) ≠ 4 :=
  ⟨ready_of (by decide +kernel), ready_of (by decide +kernel), ready_of (by decide +kernel), ready_of (by decide +kernel),
    by unfold Claim.Legal; decide +kernel, ⟨by decide +kernel, by decide +kernel⟩, fun h => absurd h.2 (by decide +kernel),
    by decide⟩

theorem witness_VectorIntegerForms :
    Claim.Ready (vectors 2 256) .row [2, 4, 6] ∧ (vectors 2 256).my.ctl.vtype.toNat % 8 < 3 :=
  ⟨ready_of (by decide +kernel), by decide +kernel⟩

theorem witness_VectorFloatForms :
    Claim.Ready (vectors 3 128) .row [2, 4, 6] ∧ 3 ≤ (vectors 3 128).my.ctl.vtype.toNat % 8 ∧
    (vectors 3 128).my.ctl.frm.toNat ≠ 6 := ⟨ready_of (by decide +kernel), by decide +kernel, by decide +kernel⟩

/-- Targets of SEW 32: one of its row, one of no row, and a reserved code; rounding to nearest even, and FRM's (R326). -/
theorem witness_VectorRemainingForms_conversion :
    Claim.Ready (vectors 4 64) .row [2, 4] ∧
    (8 / 4 ∈ ([0x01, 0x02, 0x03] : List Nat) ∧ 8 % 4 = 0 ∧ (7 % 4 = 3 ∧ (vectors 4 64).my.ctl.frm.toNat ≠ 6)) ∧
    64 / 4 = 0x10 ∧ 28 / 4 = 0x07 := ⟨ready_of (by decide +kernel), by decide +kernel⟩

/-- A hart with one element 1.0 in v6, 1.0 in s2, and a QFMT. -/
def quantised (qfmt : BitVec 10) : State :=
  bed { vectorHart 4 1 with
    ctl := { vtype := 4, vl := 1, qfmt := qfmt }
    x := [(2, 0x3F800000)]
    grid := { rows := [(6, 0x3F800000)] } }

theorem witness_VectorRemainingForms_quantisation :
    Claim.Ready (quantised 0x11) .row [2, 6] ∧ (quantised 0x11).my.ctl.frm.toNat ≠ 6 ∧
    (∀ q, q = 2 ∨ q = 0x11 → fmtReserved q = false ∧ qntBad (quantised (BitVec.ofNat 10 q)) = false) ∧
    (fmtReserved 0x13 = false ∧ qntBad (quantised 0x13) = true) ∧ (fmtReserved 0x07 = true ∧ qntBad (quantised 0x07) = false) :=
  ⟨ready_of (by decide +kernel), by decide +kernel, by rintro q (rfl | rfl) <;> decide +kernel, by decide +kernel,
    by decide +kernel⟩

/-- The code of that element's block: 1.0 is 2^0, and E4M3's largest exponent is 8 (R87). -/
theorem witness_VectorRemainingForms_block :
    let q (j : Nat) := ((fp32.decode (Claim.elem (quantised 0x11).my (quantised 0x11).my.grid .row 6 j)).mul
      (fp32.decode ((quantised 0x11).my.rx 2).toNat) { seed := 0 }).1
    Claim.BlockCode 8 q (Claim.Active (quantised 0x11).my .off) 0 119 := by
  have h : ∀ j, Claim.Active (quantised 0x11).my .off j → j = 0 := fun j a => by
    have b : j < 1 := a.1
    omega
  have q0 : ((fp32.decode (Claim.elem (quantised 0x11).my (quantised 0x11).my.grid .row 6 0)).mul
      (fp32.decode ((quantised 0x11).my.rx 2).toNat) { seed := 0 }).1 = .fin false 70368744177664 (-46) := by decide +kernel
  refine ⟨?_, fun z => ?_, ?_⟩
  · rintro ⟨j, ⟨a, _⟩, x⟩
    obtain rfl := h j a
    exact absurd q0 (x _ _ _)
  · obtain ⟨n, e, x⟩ := z 0 ⟨⟨by decide +kernel, trivial⟩, rfl⟩
    exact absurd (q0.symm.trans x) (by simp)
  · rintro j n m e ⟨a, _⟩ x _ _
    obtain rfl := h j a
    obtain ⟨_, rfl, rfl⟩ := Machine.Num.fin.inj (q0.symm.trans x)
    decide +kernel

theorem witness_VectorRemainingForms_butterfly :
    Claim.Ready (vectors 4 64) .row [2, 4] ∧ Claim.Ready (vectors 2 256) .row [2, 2] ∧ (2 : GReg) ≠ 4 ∧
    (10 : BitVec 7).toNat ≤ 10 ∧ 10 < (11 : BitVec 7).toNat ∧ (vectors 2 256).my.ctl.vtype.toNat % 8 < 3 ∧
    (vectors 4 64).my.ctl.frm ≠ 6 :=
  ⟨ready_of (by decide +kernel), ready_of (by decide +kernel), by decide +kernel⟩

theorem witness_VectorRemainingForms_function :
    Claim.Ready (vectors 3 128) .row [2, 4] ∧ 3 ≤ (vectors 3 128).my.ctl.vtype.toNat % 8 ∧
    (vectors 2 256).my.ctl.vtype.toNat % 8 < 3 ∧ (11 : BitVec 7).toNat ≤ 11 ∧ 11 < (12 : BitVec 7).toNat :=
  ⟨ready_of (by decide +kernel), by decide +kernel⟩

/-- SEW 32 to 16 in part 0, all modes; part 3 of a full row lies beyond a row of 16-bit elements; and SEW 32 to 32 is refused. -/
theorem witness_VectorRemainingForms_widths :
    let h := (vectors 4 32).my
    let beyond (k : BitVec 7) (h : Hart) : Prop :=
      2 ^ (h.ctl.vtype.toNat / 8) * (h.sup.vlcap.toNat / 2 ^ (k.toNat % 8 + 1)) < (k.toNat / 32 + 1) * h.ctl.vl
    Claim.Ready (vectors 4 32) .row [2, 4] ∧ Claim.Ready (vectors 4 64) .row [2, 4] ∧
    (¬beyond 3 h ∧ ¬beyond 0x1B h ∧ beyond 0x63 (vectors 4 64).my) ∧ (0x1B / 8 % 4 = 3 ∧ 0x1B % 8 = 3) ∧
    ¬h.ctl.vtype.toNat % 8 ≤ 3 ∧ h.ctl.vtype.toNat % 8 ≤ 4 ∧ h.ctl.frm ≠ 6 :=
  ⟨ready_of (by decide +kernel), ready_of (by decide +kernel), by decide +kernel⟩

/-- Of four elements, with segments that begin at 0 and at 2, the last of each segment is 1 and 3. -/
theorem witness_VectorRemainingForms_scans :
    let h := (vectors 4 4).my
    let seg (j : Nat) : Bool := (h.mask 2).getLsbD j
    let last (j : Nat) : Nat := if j < 2 then 1 else 3
    Claim.Ready (vectors 4 4) .row [2, 4] ∧ (∀ j, j < h.ctl.vl → (decide (j < 4) = true ↔ Claim.Active h .off j)) ∧ h.ctl.frm ≠ 6 ∧
    ∀ j, Claim.Active h .off j → Claim.Active h .off (last j) ∧ j ≤ last j ∧ (∀ n, j < n → n ≤ last j → seg n = false) ∧
      ∀ n, last j < n → Claim.Active h .off n → ∃ q, last j < q ∧ q ≤ n ∧ seg q = true := by
  intro h seg last
  have four (j : Nat) (a : Claim.Active h .off j) : j < 4 := a.1
  have sure (j : Nat) (b : j < 4) : Claim.Active h .off j := ⟨b, trivial⟩
  have odd (n : Nat) (b : n = 1 ∨ n = 3) : seg n = false := by rcases b with rfl | rfl <;> decide +kernel
  have two : seg 2 = true := by decide +kernel
  refine ⟨ready_of (by decide +kernel), fun j _ => ⟨fun b => sure j (of_decide_eq_true b), fun a => decide_eq_true (four j a)⟩,
    by decide +kernel, fun j a => ?_⟩
  have below := four j a
  by_cases c : j < 2
  · rw [show last j = 1 from if_pos c]
    exact ⟨sure 1 (by decide), by omega, fun n _ _ => odd n (by omega), fun n _ _ => ⟨2, by decide, by omega, two⟩⟩
  · rw [show last j = 3 from if_neg c]
    exact ⟨sure 3 (by decide), by omega, fun n _ _ => odd n (by omega), fun n g b => absurd (four n b) (by omega)⟩

/-- Of four elements 0 and 2 are active: they are the first and the second. -/
theorem witness_VectorRemainingForms_compression (x : Nat → Nat) :
    let h := (vectors 4 4).my
    let act (j : Nat) : Bool := decide (j = 0 ∨ j = 2)
    Claim.Ready (vectors 4 4) .row [2, 4] ∧ (∀ j, j < h.ctl.vl → (act j = true ↔ Claim.Active h (.hdr 2) j)) ∧
    (MaskUse.hdr 2 ≠ .off ∧ (2 : GReg) ≠ 4) ∧ ∀ j, Claim.Active h (.hdr 2) j → x (2 * Claim.count act j) = x j := by
  have four (j : Nat) (a : j < (vectors 4 4).my.ctl.vl) : j < 4 := a
  refine ⟨ready_of (by decide +kernel), fun j hj => ?_, by decide, fun j a => ?_⟩
  · have := four j hj
    unfold Claim.Active
    interval_cases j <;> decide +kernel
  · have := four j a.1
    have b := a.2
    interval_cases j
    · rfl
    · exact absurd b (by decide +kernel)
    · rfl
    · exact absurd b (by decide +kernel)

theorem witness_VectorRemainingForms_sparse :
    let s := vectors 4 64
    Claim.Ready s .row [2, 6, 3] ∧ s.my.ctl.vtype.toNat / 8 = 0 ∧ (2 : BitVec 7).toNat ≤ 2 ∧ 2 < (3 : BitVec 7).toNat ∧
    (2 : GReg) ≠ 63 ∧ (2 : GReg) ≠ 127 ∧ (6 : GReg) ≠ 2 + 1 ∧ s.my.ctl.vl % 8 = 0 ∧ s.my.ctl.vl % 4 = 0 :=
  ⟨ready_of (by decide +kernel), by decide +kernel⟩

theorem witness_MaskForms :
    let s := vectors 4 64
    s.my.missingHalf = none ∧ s.my.long = none ∧ Claim.Ready s .row [2] ∧ Claim.Ready s .col [2, 66] ∧ (0 : MReg) = 0 ∧
    (1 : MReg) ≠ 0 ∧ 8 ≤ (8 : BitVec 4).toNat ∧ (8 : BitVec 4) ≠ 15 ∧ 3 ≤ s.my.ctl.vtype.toNat % 8 ∧
    (vectors 2 64).my.ctl.vtype.toNat % 8 < 3 ∧ Claim.Ready (vectors 2 64) .row [2, 4] := by
  refine ⟨?_, ?_, ready_of (by decide +kernel), ready_of (by decide +kernel), ?_, ?_, ?_, ?_, ?_, ?_, ready_of (by decide +kernel)⟩ <;>
    decide +kernel

theorem witness_VectorToScalarForms :
    let s := vectors 2 8
    s.my.missingHalf = none ∧ s.my.long = none ∧ Claim.Ready s .row [2] ∧ s.my.ctl.vtype.toNat % 8 < 3 ∧
    ((s.my.mask 2).getLsbD 2 = true ∧ 2 < s.my.ctl.vl) ∧ (s.my.mask 2).getLsbD 1 = false ∧
    (∀ j, j < s.my.ctl.vl → (s.my.mask 3).getLsbD j = false) ∧ (∃ j, Claim.Active s.my (.hdr 2) j) ∧
    (∀ j, ¬Claim.Active s.my (.hdr 3) j) ∧ Claim.Ready (vectors 4 64) .row [2] ∧ 3 ≤ (vectors 4 64).my.ctl.vtype.toNat % 8 ∧
    (vectors 4 64).my.ctl.frm ≠ 6 ∧ MaskUse.msel ≠ .off := by
  have none (j : Nat) : ¬Claim.Active (vectors 2 8).my (.hdr 3) j := fun h => by
    have z : (vectors 2 8).my.mask 3 = 0 := by decide +kernel
    have : ((vectors 2 8).my.mask 3).getLsbD j = true := h.2
    rw [z] at this
    simp at this
  refine ⟨?_, ?_, ready_of (by decide +kernel), ?_, ?_, ?_, ?_, ⟨0, ?_, ?_⟩, none, ready_of (by decide +kernel), ?_⟩ <;> decide +kernel

/-- The leaves of R334's tree of level 2 over four elements of 32 bits. -/
theorem witness_VectorToScalarForms_tree :
    let h := (vectors 4 4).my
    let e := Claim.elem h h.grid .row 2
    Claim.Ready (vectors 4 4) .row [2] ∧ 3 ≤ h.ctl.vtype.toNat % 8 ∧ h.ctl.frm ≠ 6 ∧ h.ctl.vl ≤ 2 ^ 2 ∧
    (∀ k, h.ctl.vl ≤ 2 ^ k → 2 ≤ k) ∧
    ∀ j, (Claim.Active h .off j → (if j < 4 then some (e j) else none) = some (e j)) ∧
      (¬Claim.Active h .off j → (if j < 4 then some (e j) else none) = none) := by
  intro h e
  have four : h.ctl.vl = 4 := by decide +kernel
  refine ⟨ready_of (by decide +kernel), by decide +kernel, by decide +kernel, by decide +kernel, fun k l => ?_, fun j => ⟨fun a => ?_, fun a => ?_⟩⟩
  · rw [four] at l
    match k with
    | 0 | 1 => exact absurd l (by decide)
    | k + 2 => omega
  · exact if_pos (four ▸ a.1)
  · exact if_neg fun b => a ⟨four ▸ b, trivial⟩

/-! ### Vector loads and stores -/

/-- An access to the scratchpad meets no range (R257): only the rest of `Plain` is left. -/
theorem plain_scratch {s : State} {v : GReg} {m : MaskUse} {addr : Nat → Nat} 
    (q : ReadyIs s .row [v] ∧ s.flights = [] ∧ s.me.active = true ∧ s.my.handler = false) : Claim.Plain s 1 v m addr := by
  obtain ⟨hr, hf, ha, hl⟩ := q
  refine ⟨ready_of hr, hf, ha, fun h => absurd (hl ▸ h) (by decide), fun c e h => ?_⟩
  simp [State.rangeAt, State.rangeFor] at h

/-- The same for one element in the bed's range, whose format is raw. -/
theorem plain_one {s : State} {v : GReg} {addr : Nat → Nat} 
    (q : ReadyIs s .row [v] ∧ s.flights = [] ∧ s.me.active = true ∧ s.my.handler = false ∧ s.my.ctl.vl = 1)
    (h : (s.rangeAt 0 (addr 0 / 8) = some { desc := room.desc } ∧ addr 0 % 8 = 0 ∧ s.my.ctl.vtype = 4 ∧
      (List.range 32).all fun k => s.rangeAt 0 ((addr 0 / 8 + k / 8) % 2 ^ 64 / 64 * 64) == some { desc := room.desc })) :
    Claim.Plain s 0 v .off addr := by
  obtain ⟨hr, hf, ha, hl, hv⟩ := q
  obtain ⟨h, g, w, l⟩ := h
  refine ⟨ready_of hr, hf, ha, fun h => absurd (hl ▸ h) (by decide), fun c e hc ho => ?_⟩
  have raw : ({ desc := room.desc } : Rng).fmt = 0 ∧ ({ desc := room.desc } : Rng).comp = none := by decide +kernel
  have key : e = { desc := room.desc } := by
    rcases ho with rfl | ⟨j, ⟨hj, -⟩, ho⟩
    · exact Option.some.inj (hc.symm.trans h)
    · obtain rfl : j = 0 := by omega
      rcases ho with rfl | ⟨k, hk, rfl⟩
      · exact Option.some.inj (hc.symm.trans h)
      · have hk : k < 32 := by
          rw [g, w] at hk
          simpa using hk
        have := List.all_eq_true.1 l k (List.mem_range.2 hk)
        exact Option.some.inj (hc.symm.trans (eq_of_beq this))
  exact key ▸ raw

/-- One 32-bit element at 0x1000. -/
def one : State := vectors 4 1

theorem witness_VectorLoadForms_unit :
    let addr := Claim.unit one 1 (0 : BitVec 17).toInt 32
    let y := one.translate 0 .load (joinReqs ((Claim.visited one.my .off).flatMap fun j =>
      spanReqs (addr j / 8) ((addr j % 8 + 32 + 7) / 8)))
    Claim.Plain one 0 4 .off addr ∧ Claim.Clear one y ∧ y.fails = [] ∧ y.pieces.length = 1 ∧
    ∀ q ∈ y.pieces, ∃ blk, one.homeRead true q.loc = .ok blk :=
  ⟨plain_one (by decide +kernel) (by decide +kernel),
    clear_of (by decide +kernel), by decide +kernel, by decide +kernel, fun q hq => ((answers_of (by decide +kernel)).1 q hq).1⟩

/-- Two elements of a strided and an indexed access to the scratchpad, through the mask m2 of the even elements. -/
def scratch : State := vectors 4 4

theorem witness_VectorLoadForms_strided :
    let addr (j : Nat) : Nat := 8 * (((scratch.my.rx 1).toNat + j * (scratch.my.rx 2).toNat) % 2 ^ 64)
    let y := scratch.translate 1 .load (joinReqs ((Claim.visited scratch.my (.hdr 2)).flatMap fun j =>
      spanReqs (addr j / 8) ((addr j % 8 + 32 + 7) / 8)))
    Claim.Plain scratch 1 4 (.hdr 2) addr ∧ 1 < scratch.my.ctl.vtype.toNat % 8 ∧ Claim.Clear scratch y ∧ y.fails = [] ∧
    Claim.visited scratch.my (.hdr 2) = [0, 2] ∧ ∀ q ∈ y.pieces, ∃ blk, scratch.homeRead true q.loc = .ok blk :=
  ⟨plain_scratch (by decide +kernel), by decide +kernel,
    clear_of (by decide +kernel), by decide +kernel, by decide +kernel, fun q hq => ((answers_of (by decide +kernel)).1 q hq).1⟩

theorem witness_VectorLoadForms_indexed :
    let addr (j : Nat) : Nat := 8 * (((scratch.my.rx 1).toNat + ((BitVec.ofNat 32 ((scratch.my.grid.rows.get (6 + j / 64)).toNat /
      2 ^ (32 * (j % 64)))).signExtend 64).toNat) % 2 ^ 64)
    let y := scratch.translate 1 .load (joinReqs ((Claim.visited scratch.my .off).flatMap fun j =>
      spanReqs (addr j / 8) ((addr j % 8 + 32 + 7) / 8)))
    Claim.Plain scratch 1 4 .off addr ∧ Claim.Clear scratch y ∧ y.fails = [] ∧
    (∀ n, n < (scratch.my.ctl.vl + 63) / 64 → ((6 : GReg).toNat + n) / 64 = (6 : GReg).toNat / 64 ∧
      Claim.Free scratch.my ((6 : GReg).toNat + n) ∧ Claim.Sound scratch.my ((6 : GReg).toNat + n)) ∧ ∀ q ∈ y.pieces, ∃ blk, scratch.homeRead true q.loc = .ok blk :=
  ⟨plain_scratch (by decide +kernel), clear_of (by decide +kernel),
    by decide +kernel,
    fun n hn => ⟨by
      have h : (scratch.my.ctl.vl + 63) / 64 = 1 := by decide +kernel
      obtain rfl : n = 0 := by omega
      rfl, free_of (by decide +kernel) (by decide +kernel) _, sound_of (by decide +kernel) _⟩,
    fun q hq => ((answers_of (by decide +kernel)).1 q hq).1⟩

theorem witness_VectorStoreForms_elements :
    let addr := Claim.unit one 1 (0 : BitVec 17).toInt 32
    let y := one.translate 0 .store (joinReqs ((Claim.visited one.my .off).flatMap fun j =>
      elemReqs (addr j) 32 (Claim.elem one.my one.my.grid .row 4 j)))
    Claim.Plain one 0 4 .off addr ∧ Claim.Clear one y ∧ y.fails = [] ∧ Claim.Answers one true y.pieces ∧ y.pieces.length = 1 :=
  ⟨plain_one (by decide +kernel) (by decide +kernel),
    clear_of (by decide +kernel), by decide +kernel, answers_of (by decide +kernel), by decide +kernel⟩

theorem witness_VectorStoreForms_strided :
    let addr (j : Nat) : Nat := 8 * (((scratch.my.rx 1).toNat + j * (scratch.my.rx 2).toNat) % 2 ^ 64)
    let y := scratch.translate 1 .store (joinReqs ((Claim.visited scratch.my .off).flatMap fun j =>
      elemReqs (addr j) 32 (Claim.elem scratch.my scratch.my.grid .row 4 j)))
    Claim.Plain scratch 1 4 .off addr ∧ Claim.Clear scratch y ∧ y.fails = [] ∧ Claim.Answers scratch true y.pieces :=
  ⟨plain_scratch (by decide +kernel), clear_of (by decide +kernel),
    by decide +kernel, answers_of (by decide +kernel)⟩

theorem witness_VectorStoreForms_bytes :
    let y := scratch.translate 1 .store (joinReqs (((List.range 256).filter fun j => (scratch.my.mask 2).getLsbD j).flatMap
      fun j => storeReqs (((scratch.my.rx 1).toNat + j) % 2 ^ 64) 1 0))
    scratch.my.missingHalf = none ∧ scratch.my.long = none ∧ Claim.Free scratch.my 2 ∧ Claim.Sound scratch.my 2 ∧ Claim.Clear scratch y ∧ y.fails = [] ∧
    Claim.Answers scratch true y.pieces ∧ y.pieces.length = 1 :=
  ⟨by decide +kernel, by decide +kernel, free_of (by decide +kernel) (by decide +kernel) _, sound_of (by decide +kernel) _,
    clear_of (by decide +kernel), by decide +kernel, answers_of (by decide +kernel), by decide +kernel⟩

theorem witness_VectorStoreForms_spill :
    let y := scratch.translate 1 .store (storeReqs (scratch.my.rx 1).toNat 32 0)
    (127 : GReg).toNat % 2 ^ (1 : BitVec 2).toNat ≠ 0 ∧ scratch.my.wait = .none ∧ (2 : GReg).toNat % 2 ^ (1 : BitVec 2).toNat = 0 ∧
    (∀ n, n < 2 → Claim.Free scratch.my ((2 : GReg).toNat + n) ∧ Claim.Sound scratch.my ((2 : GReg).toNat + n)) ∧ Claim.Clear scratch y ∧ y.fails = [] ∧
    Claim.Answers scratch true y.pieces :=
  ⟨by decide, by decide +kernel, by decide,
    fun n _ => ⟨free_of (by decide +kernel) (by decide +kernel) _, sound_of (by decide +kernel) _⟩,
    clear_of (by decide +kernel), by decide +kernel, answers_of (by decide +kernel)⟩

theorem witness_VectorTimedStore :
    let addr := Claim.unit one 1 0 32
    let x := one.translate 0 .store (joinReqs ((Claim.visited one.my .off).flatMap fun j =>
      elemReqs (addr j) 32 (Claim.elem one.my one.my.grid .row 4 j)))
    Claim.Plain one 0 4 .off addr ∧ one.my.wait = .none ∧ Claim.Clear one x ∧ x.fails = [] ∧ one.my.pend < 4096 ∧
    (one.my.rx 0).toNat ≤ (one.die 0).atime.toNat ∧ (one.die 0).atime.toNat < (one.my.rx 2).toNat ∧
    (one.my.rx 2).toNat ≤ (one.die 0).atime.toNat + 2 ^ 30 ∧ Claim.Answers one false x.pieces ∧
    (∀ p ∈ x.pieces, one.homeReached p.loc 0 = true) ∧
    ∃ p, x.pieces = [p] ∧ p.loc.die = some 0 ∧ one.refused p.loc = none ∧ one.homeReached p.loc 3 = false :=
  ⟨plain_one (by decide +kernel) (by decide +kernel),
    by
      refine ⟨?_, clear_of (by decide +kernel), ?_, ?_, ?_, ?_, ?_, answers_of (by decide +kernel), ?_, _, rfl, ?_⟩ <;> decide +kernel⟩

/-- A frame of two 32-bit elements in the scratchpad, as a VSPILL of a group of one leaves it (R264). -/
def framed : State :=
  { vectors 4 2 with cores := [(0, { bedCore (vectorHart 4 2) with
      scr := cellsWrite [] 0x1000 24 (2 + 4 * 2 ^ 32 + 2048 * 2 ^ 40 + 2 ^ 128 * 7 + 2 ^ 160 * 9) })] }

/-- Its bytes. -/
def frameByte (k : Nat) : Nat := (2 + 4 * 2 ^ 32 + 2048 * 2 ^ 40 + 2 ^ 128 * 7 + 2 ^ 160 * 9) / 256 ^ k % 256

theorem witness_FrameAndStreamLoads_fill :
    let x := framed.translate 1 .load (spanReqs 0x1000 16)
    let y := framed.translate 1 .load (spanReqs 0x1000 24)
    (framed.my.rx 1).toNat = 0x1000 ∧ framed.delay = false ∧ framed.flights = [] ∧ framed.my.missingHalf = none ∧
    framed.my.long = none ∧ (∀ n, n < 1 → Claim.Free framed.my (2 + n)) ∧ framed.my.sup.vlcap.toNat = 2048 ∧
    2 ≤ 2048 / 2 ^ (4 + 1) ∧ Claim.value frameByte 16 = 2 + 4 * 2 ^ 32 + 0 * 2 ^ 35 + 2048 * 2 ^ 40 ∧
    Claim.Clear framed x ∧ x.fails = [] ∧ (∀ k, k < 16 → Claim.Byte framed true x.pieces ((0x1000 + k) % 2 ^ 64) (frameByte k)) ∧
    Claim.Clear framed y ∧ y.fails = [] ∧ (∀ k, k < 24 → Claim.Byte framed true y.pieces ((0x1000 + k) % 2 ^ 64) (frameByte k)) ∧
    framed.me.active = true ∧ framed.my.handler = false ∧ (2 : GReg).toNat % 2 ^ (1 : BitVec 2).toNat = 0 ∧
    (3 : GReg).toNat % 2 ^ (1 : BitVec 2).toNat ≠ 0 ∧
    ∀ q ∈ (framed.translate 1 .load (spanReqs 0x1000 (16 + 1 * (2048 / 8)))).pieces, framed.nearBy framed.cur q.loc = true ∧
      ∀ f : Flight, f.owner = framed.my.sup.owner.toNat → framed.heldBack f q = false := by
  have near : ((framed.translate 1 .load (spanReqs 0x1000 (16 + 1 * (2048 / 8)))).pieces.all (freely framed)) = true := by
    decide +kernel
  refine ⟨?_, ?_, ?_, ?_, ?_, fun n _ => free_of (by decide +kernel) (by decide +kernel) _, ?_, ?_, ?_, clear_of (by decide +kernel),
    ?_, bytes_of (by decide +kernel), clear_of (by decide +kernel), ?_, bytes_of (by decide +kernel), ?_, ?_, by decide, by decide,
    fun q hq => freely_of (List.all_eq_true.1 near q hq)⟩ <;> decide +kernel

theorem witness_FrameAndStreamLoads_decode :
    let n := min (scratch.my.rx 2).toNat 4096
    let x := scratch.translate 1 .load (spanReqs 0x1000 n)
    Claim.Ready scratch .row [2] ∧ scratch.my.ctl.vtype.toNat % 8 = 4 ∧
    (∀ c e, scratch.rangeAt 1 c = some e → e.fmt = 0 ∨ e.fmt = 0x13) ∧ n = 3 ∧ Claim.Clear scratch x ∧ x.fails = [] ∧
    ∀ k, k < n → Claim.Byte scratch true x.pieces ((0x1000 + k) % 2 ^ 64) 0 :=
  ⟨ready_of (by decide +kernel), by decide +kernel, fun c e h => by simp [State.rangeAt, State.rangeFor] at h, by decide +kernel,
    clear_of (by decide +kernel), by decide +kernel, bytes_of (f := fun _ => 0) (by decide +kernel)⟩

/-- A VLDC of the hart into s9 has still to decode, and the bundle in hand is the last of a VLOOP. -/
def decoding : State :=
  { bed { looping true 1 with grid := {} } with delay := true, flights := [
    { core := 0, owner := 0, area := 0, lvl := .u, cls := 4, vec := true, interval := 0, space := 1, kind := 1, pc := 0, slot := 0,
      act := .read, pieces := [], land := .decode 2 1 3 0x1000 3 9 }] }

theorem witness_FrameAndStreamLoads_held :
    (∃ f ∈ decoding.flights, f.land = .decode 2 1 3 0x1000 3 9 ∧
      f.ofCtx decoding.cur decoding.my.sup.owner.toNat decoding.my.sup.saveptr.toNat = true) ∧ (9 : SReg) ≠ 0 ∧
    (Instr.vadd .row 1 2 3 .off).isStep = false ∧ decoding.mustDecode [(0, .vadd .row 1 2 3 .off)] = true ∧
    (decoding.my.missingHalf = none ∧ decoding.my.popa = none ∧ decoding.my.pvec = none) ∧
    ([1, 2, 3] : List GReg).all (legalIs decoding.my .row) = true ∧
    ∃ e ∈ decoding.my.loops, e.vloop = true ∧ e.last = decoding.my.pc := by decide +kernel

/-! ### Streams, copies, ranges, time and tasks -/

/-- An answer that is the value named. -/
theorem ok_of {ε α : Type} [BEq α] [LawfulBEq α] {e : Except ε α} {v : α} (h : (match e with
    | .ok w => w == v
    | .error _ => false) = true) : e = .ok v := by
  cases e with
  | error => simp at h
  | ok w => exact congrArg _ (eq_of_beq h)

theorem error_of {ε α : Type} [BEq ε] [LawfulBEq ε] {e : Except ε α} {v : ε} (h : (match e with
    | .ok _ => false
    | .error w => w == v) = true) : e = .error v := by
  cases e with
  | error w => exact congrArg _ (eq_of_beq h)
  | ok => simp at h

/-- Words one after the other as one number. -/
def packWords : List Word → Nat
  | [] => 0
  | w :: ws => w.toNat + packWords ws * 2 ^ 64

/-- The bed with some words in memory. -/
def bedMem (h : Hart) (a : Nat) (ws : List Word) : State :=
  { bed h with mem := { cells := cellsWrite [] a (8 * ws.length) (packWords ws) } }

/-- The byte at an offset of some words. -/
def wordByte (ws : List Word) (k : Nat) : Nat := packWords ws / 256 ^ k % 256

/-- A structure in memory is read word by word, in a form to decide. -/
abbrev StructureIs (s : State) (ea : Word) (ws : List Word) : Prop :=
  let x := s.translate 0 .load (spanReqs ea.toNat (8 * ws.length))
  (s.my.passed = none ∧ s.flights = []) ∧ (x.moving = false ∧ x.held = none ∧ x.nonres = none ∧ x.fails = [] ∧
    ∀ p ∈ x.pieces, s.inView s.cur p.loc = true) ∧
  ((List.range (8 * ws.length)).all fun k => byteIs s true x.pieces ((ea.toNat + k) % 2 ^ 64) (wordByte ws k)) = true ∧
  ws = (List.range ws.length).map fun j => BitVec.ofNat 64 (Claim.value (fun k => wordByte ws (8 * j + k)) 8)

theorem structure_of {s : State} {ea : Word} {n : Nat} {ws : List Word} (hn : ws.length = n)
    (h : StructureIs s ea ws) : Claim.Structure s ea n ws := by
  subst hn
  obtain ⟨rest, ⟨moving, held, nonres, fails, seen⟩, bytes, words⟩ := h
  exact ⟨rest.1, rest.2, moving, held, nonres, fails, seen, wordByte ws, bytes_of bytes, words⟩

/-- A record of 64 FP32 elements in one window at 0x2000 (R92). -/
def record64 : List Word := [0x2000, 0x101, 0, 0x40000040, 0, 0, 0, 0, 1, 0, 0, 0]

/-- The same with a reserved format, and one of no dimension. -/
def recordReserved : List Word := [0x2000, 0x107, 0, 0x40000040, 0, 0, 0, 0, 1, 0, 0, 0]
def recordNone : List Word := [0x2000, 0x001, 0, 0, 0, 0, 0, 0, 0, 0, 0, 0]

theorem witness_StreamBinding :
    let s (r : List Word) : State := bedMem (hartWith [(1, 0x3000)]) 0x3000 r
    (∀ r, ((s r).my.queue 3).bind = 0) ∧ (0x3000 : Word).toNat % 32 = 0 ∧ (0x3010 : Word).toNat % 32 ≠ 0 ∧
    Claim.Structure (s record64) 0x3000 12 record64 ∧ recInvalid record64 = false ∧ fmtReserved (recFmt record64) = false ∧
    recRing record64 = false ∧
    Claim.Structure (s recordReserved) 0x3000 12 recordReserved ∧ recInvalid recordReserved = false ∧
    fmtReserved (recFmt recordReserved) = true ∧
    Claim.Structure (s recordNone) 0x3000 12 recordNone ∧ recInvalid recordNone = true :=
  ⟨fun r => rfl, by decide +kernel, by decide +kernel, structure_of rfl (by decide +kernel), by decide +kernel,
    by decide +kernel, by decide +kernel, structure_of rfl (by decide +kernel), by decide +kernel, by decide +kernel,
    structure_of rfl (by decide +kernel), by decide +kernel⟩

/-- Queues: q0 read and settled with an entry, q1 store with an entry, q2 claimed, q3 unbound; all but q2 unclaimed. -/
def queued : State :=
  let q : Queue := { bind := 1, rcd := record64, fmt := some 1, entries := [⟨0, 0, 5, 0⟩] }
  bed { vectorHart 4 64 with
    queues := [(0, q), (1, { q with bind := 2, rcd := [0x2000, 0x101, 0, 0x40000080, 0, 0, 0, 0, 1, 0, 0, 0], win := 1 }),
      (2, { q with claim := true })] }

/-- The same, with an entry that was pushed before a switch-out and is still to be written. -/
def departed : State := queued.modCore queued.cur fun c => { c with left := c.left ++ queued.my.leftOf (queued.my.queue 1) }

theorem witness_StreamControl :
    let b (q : Nat) : Queue := queued.my.queue q
    (b 2).claim = true ∧ (b 2).bind ≠ 0 ∧ ((b 0).claim = false ∧ (b 0).partner = none) ∧
    (∀ q, q < 4 → (b q).entries.length ≤ 16 ∧ (b q).bind ≤ 2) ∧ (b 3).bind = 0 ∧
    ((b 0).bind ≠ 0 ∧ (queued.my.rx 5).toNat = 0 ∧ (queued.my.rx 2).toNat ≠ 0) ∧
    (queued.queueFmt (queued.streamWho queued.cur) (b 0) = .ok 1) ∧ ((b 1).bind = 2 ∧ (b 1).entries ≠ []) ∧
    queued.leavings (queued.who queued.cur) = false ∧ departed.leavings (departed.who departed.cur) = true ∧
    (bed { vectorHart 4 64 with queues := [(1, { bind := 2 })] }).my.queue 1 = { bind := 2 } ∧ (b 0).bind = 1 := by
  and_intros <;> decide +kernel

theorem witness_QueuePopAndPush :
    let b (q : Nat) : Queue := queued.my.queue q
    Claim.Ready queued .row [2] ∧ queued.my.ctl.vtype.toNat / 8 = 0 ∧ queued.my.passed = none ∧ (b 1).bind ≠ 1 ∧ ((b 2).bind = 1 ∧ (b 2).claim = true) ∧
    ((b 0).bind = 1 ∧ (b 0).claim = false ∧ (b 0).entries = [⟨0, 0, 5, 0⟩]) ∧
    (queued.my.missingHalf = none ∧ queued.my.long = none ∧ Claim.Free queued.my 2 ∧ Claim.Sound queued.my 2) ∧ (b 0).bind ≠ 2 ∧
    ((b 1).bind = 2 ∧ (b 1).partner = none ∧ (b 1).entries.length < 16 ∧ walkDone (b 1).rcd (b 1).win = false) ∧
    (∃ f x es, queued.examine (queued.streamWho queued.cur) (b 1) true ((b 1).win, (b 1).pos)
        (writeReqs (queued.my.grid.rows.get 2)) = .ready f x es ∧
      queued.strictError (streamFlight (queued.streamWho queued.cur) (b 1) .write clsQW x) = none) := by
  intro b
  have h : (match queued.examine (queued.streamWho queued.cur) (queued.my.queue 1) true ((queued.my.queue 1).win,
      (queued.my.queue 1).pos) (writeReqs (queued.my.grid.rows.get 2)) with
    | .ready _ x _ => queued.strictError (streamFlight (queued.streamWho queued.cur) (queued.my.queue 1) .write clsQW x) == none
    | _ => false) = true := by decide +kernel
  split at h
  · rename_i f x es he
    refine ⟨ready_of (by decide +kernel), by decide +kernel, ?_⟩
    refine ⟨rfl, ?_, ?_, ?_, ⟨?_, ?_, free_of (by decide +kernel) (by decide +kernel) _, sound_of (by decide +kernel) _⟩, ?_, ?_,
      f, x, es, he, eq_of_beq h⟩ <;> decide +kernel
  · simp at h

/-- A command block of zeros, with ROUND 2. -/
def command : List Word := 0x100 :: List.replicate 15 0

theorem witness_CopyIssue :
    let s := bedMem (hartWith [(1, 0x3000)]) 0x3000 command
    (0x3000 : Word).toNat % 128 = 0 ∧ (0x3040 : Word).toNat % 128 ≠ 0 ∧ Claim.Structure s 0x3000 16 command ∧
    ((s.me.copies.get 0).st = .ended) ∧
    ({ s.me with copies := (List.range 128).map fun i => (i, { st := .waiting }) } : Core).freeCopy = none ∧
    ((({ s.me with copies := (List.range 127).map fun i => (i, { st := .waiting }) } : Core).copies.get 127).st = .ended) :=
  ⟨by decide +kernel, by decide +kernel, structure_of rfl (by decide +kernel), by decide +kernel, by decide +kernel,
    by decide +kernel⟩

/-- Two copies of core 0: one ended, one that waits; s1 and s2 hold their tickets, s3 a stale one. -/
def copying : State :=
  { bed (hartWith [(1, 0), (2, 0x40001), (3, 0x80002)]) with
    cores := [(0, { bedCore (hartWith [(1, 0), (2, 0x40001), (3, 0x80002)]) with
      copies := [(0, { seq := 0, code := 1, written := 9 }), (1, { seq := 1, st := .waiting })] })] }

theorem witness_CopyTickets :
    copying.ticketed 0 (copying.my.rx 3) = none ∧
    copying.ticketed 0 (copying.my.rx 1) = some (0, 0, { seq := 0, code := 1, written := 9 }) ∧
    copying.ticketed 0 (copying.my.rx 2) = some (0, 1, { seq := 1, st := .waiting }) ∧ copying.my.ewait = .none ∧
    (bed { hartWith [] with ewait := .cpyxDone 5 }).my.ewait = .cpyxDone 5 := by decide +kernel

theorem witness_RangeQueries :
    let s := bed { hartWith [(1, 0x1000), (2, 0x100000)] with level := .s }
    let w := s.who s.cur
    2 ^ 57 ≤ (BitVec.ofNat 64 (2 ^ 57)).toNat ∧ 0x100000 < 2 ^ 57 ∧
    s.lookup s.me.cache w.owner w.dirbase 0x100000 = .error (0x07, false) ∧
    s.lookup s.me.cache w.owner w.dirbase 0x1000 = .ok (room, [room]) ∧ room.desc.bit 0 = true ∧ s.my.level ≠ .u :=
  ⟨by decide +kernel, by decide +kernel, error_of (by decide +kernel), ok_of (by decide +kernel), by decide +kernel,
    by decide +kernel⟩

/-- A directory at 0x4000 with two adjacent ranges, and a third of another OWNER; LOCK free unless said. -/
def directory (lock : Word) : State :=
  bedMem { hartWith [(1, 0x1040), (2, 0x2000)] with level := .s, sup := { dirbase := 0x4000 } } 0x4000
    [0x100000003, lock, 0, 0, 0, 0, 0, 0,
     0x1000, 0x2000, 0x100000, 0x0000FFFF00000087, 0x2000, 0x3000, 0x101000, 0x0000FFFF00000087,
     0x3000, 0x4000, 0x102000, 0x0001FFFF00000087]

/-- Those ranges. -/
def range1 : Desc := ⟨0x1000, 0x2000, 0x100000, 0x0000FFFF00000087⟩
@[inherit_doc range1]
def range2 : Desc := ⟨0x2000, 0x3000, 0x101000, 0x0000FFFF00000087⟩
@[inherit_doc range1]
def range3 : Desc := ⟨0x3000, 0x4000, 0x102000, 0x0001FFFF00000087⟩

theorem witness_RangeEdits :
    let s := directory 0
    (directory 5).lockOf 0x4000 ≠ some 0 ∧ s.lockOf 0x4000 = some 0 ∧ s.my.ewait = .none ∧ s.my.level ≠ .u ∧
    (bed (hartWith [])).my.level = .u ∧ (bed { hartWith [] with ewait := .edited 7 }).my.ewait = .edited 7 ∧
    s.entryAt 0x4000 0x9000 = none ∧ s.dirCount 0x4000 = .ok 3 ∧ s.entryAt 0x4000 0x1040 = some (0, range1) ∧
    ((3 : Nat) ≠ 4095 ∧ range1.base.toNat < 0x1040 ∧ 0x1040 < range1.lim.toNat) ∧
    ((0x1040 : Nat) % 64 = 0 ∧ 0x1040 ≠ range1.base.toNat ∧ fmtScaled range1.fmt = false ∧ range1.bit 6 = false) ∧
    (s.entriesFrom 0x4000 1 3 = [range2, range3] ∧ range2.bit 7 = true ∧ range1.lim = range2.base ∧
      range1.pa + range1.size = range2.pa ∧ mergeAttr range1 = mergeAttr range2 ∧ fmtScaled range2.fmt = false ∧
      range2.bit 6 = false) ∧
    (s.entriesFrom 0x4000 2 3 = [range3] ∧ range2.lim = range3.base ∧ mergeAttr range2 ≠ mergeAttr range3) ∧
    s.entriesFrom 0x4000 3 3 = [] ∧
    (0x2000000000000 % 64 = 0 ∧ homeOk s.link.expanders 0x2000000000000 range1.size 0 range1.owner = true ∧
      s.roomAt 0x2000000000000 range1.size = true) := by
  and_intros <;> decide +kernel

theorem witness_TimeForms :
    let s := bed (hartWith [(1, 0), (2, 1)])
    (s.my.rx 1).toNat ≤ (s.die (s.cur / 96)).atime.toNat ∧ (s.die (s.cur / 96)).atime.toNat < (s.my.rx 2).toNat ∧
    s.ptp.state < 4 ∧ s.ptp.source < 4 ∧ s.ptp.skew < 2 ^ 12 := by decide +kernel

/-- A slice of two members on die 0 in slot 0, of which this hart is the first; arrivals as given. -/
def gang (arrived : List (Nat × Word)) (pending : Tbl Nat) (opens : Tbl Word) : State :=
  { bed { hartWith [(1, 0)] with ident := { handle := 0x10000, gangw := 2 } } with
    dies := [(0, { slots := [(0, { live := true, seq := 1, rcd := [0, 0, 0, 0, 2, 0, 0, 0], arrived := arrived, pending := pending,
                                   opens := opens })] })] }

theorem witness_GangBarrier :
    let t (s : State) : Slot := (s.die 0).slots.get 0
    let first := gang [] [] []
    let last := gang [(1, 0)] [] []
    let opened := gang [] [(0, 4)] [(4, 0)]
    (bed { hartWith [] with ident := { indexed := true } }).my.ident.indexed = true ∧
    ((bed (hartWith [])).slotOf 0 = none ∧ (bed (hartWith [])).my.ewait = .none ∧ (bed (hartWith [])).releasing = false) ∧
    (first.slotOf 0x10000 = some (0, 0, t first) ∧ first.my.ident.indexed = false ∧ (t first).awaits 0 = none ∧
      (t first).arrived.length + 1 < (t first).width ∧ (t first).opens = [] ∧ (t first).gone = [] ∧ first.releasing = false) ∧
    (last.slotOf 0x10000 = some (0, 0, t last) ∧ (t last).width ≤ (t last).arrived.length + 1 ∧
      (∀ p ∈ (t last).arrived, p.2.toNat ≤ (last.die 0).atime.toNat)) ∧
    (opened.slotOf 0x10000 = some (0, 0, t opened) ∧ (t opened).awaits 0 = some 4 ∧
      ((t opened).opens.find? (·.1 == 4)).map (·.2) = some 0) ∧
    (first.die 0).atime.toNat + 2 ^ 30 < (0x40000001 : Word).toNat := by decide +kernel

/-- An owner table at 0x8000 with owner 0 valid: a save pool of four areas at 0x1000000 (R158). -/
def ownerTable : List Word := [0x4000, 0x7000, 0x1000000, 0x8000000008000004, 0, 0, 0, 0]

/-- A record of a single hart of class 2, for owner 0 (R148), at 0x3000. -/
def sliceRecord : List Word := [0x1000, 7, 0, 0x200000000, 1, 0, 0, 0]

/-- Both in memory, and the owner table in force. -/
def posting : State :=
  let s := bed (hartWith [(1, 0x3000)])
  { s with
    mem := { cells := cellsWrite (cellsWrite [] 0x3000 64 (packWords sliceRecord)) 0x8000 64 (packWords ownerTable) }
    link := { s.link with owntab := 0x8000 } }

theorem witness_SlicePost :
    (0x3000 : Word).toNat % 64 = 0 ∧ (0x3008 : Word).toNat % 64 ≠ 0 ∧ posting.harbour.takeover = false ∧
    Claim.Structure posting 0x3000 8 sliceRecord ∧ posting.postStatus sliceRecord = none ∧ recField sliceRecord 5 32 32 = 0 ∧
    posting.ownEnt (recField sliceRecord 7 0 12) ≠ none ∧ posting.postDie posting.cur (recField sliceRecord 7 16 16) = some 0 ∧
    ((posting.die 0).slots.get 0).live = false ∧ (bed (hartWith [])).ownEnt 0 = none ∧
    posting.postStatus (List.replicate 8 0) = some 1 := by
  refine ⟨?_, ?_, ?_, structure_of rfl (by decide +kernel), ?_⟩ <;> decide +kernel

theorem witness_TaskForms :
    let s := gang [] [] []
    let one := { s with dies := [(0, { slots := [(0, { live := true, seq := 1, preds := 1 })] })] }
    (bed { hartWith [] with handler := true }).my.handler = true ∧ s.my.handler = false ∧ s.releasing = false ∧
    s.slotOf 0 = none ∧ (∃ t, s.slotOf 0x10000 = some (0, 0, t) ∧ t.finished = false ∧ t.failed = false ∧ t.preds = 0 ∧ (s.die 0).slots.get 0 = t) ∧
    (∃ t, one.slotOf 0x10000 = some (0, 0, t) ∧ t.preds ≠ 0 ∧ (one.die 0).slots.get 0 = t) ∧ storing.releasing = true := by
  and_intros <;> first | decide +kernel | exact ⟨_, rfl, by decide +kernel⟩

theorem witness_WatchAndCapacity :
    let t := accessor.translate 0 .load (spanReqs (accessor.my.rx 4).toNat 8)
    (accessor.my.rx 4).toNat % 8 = 0 ∧ (accessor.my.rx 1).toNat % 8 ≠ 0 ∧ accessor.my.ewait = .none ∧ t.moving = false ∧
    t.held = none ∧ t.nonres = none ∧ t.fails = [] ∧ (∃ p, t.pieces = [p] ∧ accessor.inView accessor.cur p.loc = true ∧ accessor.homeRead false p.loc = .ok 0) ∧
    accessor.my.rx 2 ≠ 0 ∧ accessor.my.rx 6 = 0 ∧ (1 < (2 : BitVec 8).toNat ∧ 15 < 16) ∧ 1536 ≤ (accessor.my.rx 1).toNat ∧
    (accessor.my.rx 6).toNat < 1536 := by
  and_intros <;> first | decide +kernel | exact ⟨_, rfl, by decide +kernel, ok_of (by decide +kernel)⟩

/-! ### The grid, the system instructions and the return from a trap -/

theorem rows_free {s : State} {row : Nat → Prop} (h : Quiet s) : Claim.RowsFree s row :=
  let ⟨delay, half, long, _, _, busy, missing, _⟩ := h
  ⟨delay, half, fun l e => absurd (long.symm.trans e) (by simp), fun n _ => free_of busy missing n⟩

/-- A long operation on other rows leaves some free. -/
theorem rows_free_beside {s : State} {row : Nat → Prop} {l : LongOp} (delay : s.delay = false) (half : s.my.missingHalf = none)
    (long : s.my.long = some l) (apart : ∀ n ∈ l.touches, ¬row n) (busy : s.my.grid.busy = 0)
    (missing : s.my.grid.missing = []) : Claim.RowsFree s row :=
  ⟨delay, half, fun k e => by
    obtain rfl : l = k := Option.some.inj (long.symm.trans e)
    exact apart, fun n _ => free_of busy missing n⟩

/-- A hart with two settled FP32 read queues, the first with an OPA's steps left or not. -/
def opaHart (opas : List OpaRun) (fmt : Option Nat) (claim : Bool) : Hart :=
  let q : Queue := { bind := 1, rcd := record64, fmt := some 2, entries := [⟨0, 0, 5, 0⟩] }
  { hartWith [(1, 0x1000)] with opas := opas, queues := [(0, { q with fmt := fmt, claim := claim }), (1, q)] }

/-- An OPA with a step left, and one with none. -/
def opaLeft : OpaRun := ⟨0, 0, 1, false, false, 2, 2, 0, 0, 0x00014040, 0, 0, 0, [], []⟩
@[inherit_doc opaLeft]
def opaDone : OpaRun := { opaLeft with step := 1 }

/-- A hart whose first queue has a scaled format, and no scales left for its entry. -/
def starved : State :=
  bed { hartWith [] with queues := [(0, { bind := 1, rcd := record64, fmt := some 0x11, blen := 32, entries := [⟨0, 0, 5, 0⟩] })] }

/-- A queue whose first strip is of a reserved format, and a hart with it and a settled one. -/
def reservedQueue : Queue := { bind := 1, rcd := record64, fault := some (0x0E, 0x3000) }
@[inherit_doc reservedQueue]
def reservedHart : State := bed { opaHart [] (some 2) false with queues := [(0, reservedQueue)] }

theorem reserved_none {s : State} {q : Nat} (h : ((s.my.queue q).fmt.isSome || (s.my.queue q).fault.isNone) = true) (ad : Word) :
    ¬Claim.reserved (s.my.queue q) ad := by
  rintro ⟨_, _, fmt, fault⟩
  simp [fmt, fault] at h

theorem witness_OuterProductIssue :
    let s := bed (opaHart [] (some 2) false)
    let t := bed (opaHart [] none false)
    Claim.RowsFree s (fun r => 64 * 0 ≤ r ∧ r < 64 * 0 + 64) ∧ (∀ n, Claim.Sound s.my n) ∧
    (∀ ad, ¬Claim.reserved (s.my.queue 0) ad ∧ ¬Claim.reserved (s.my.queue 1) ad) ∧
    ((s.my.handler = true → s.my.popa = none ∧ s.my.pvec = none) ∧
      (bed { opaHart [] (some 2) false with handler := true, popa := some opaLeft }).my.popa ≠ none ∧
      (∃ r ∈ (bed (opaHart [opaLeft] (some 2) false)).my.opas, r.step < r.steps) ∧
      (∀ r ∈ (bed (opaHart [opaDone] (some 2) false)).my.opas, r.steps ≤ r.step) ∧
      ((s.my.queue 2).bind ≠ 1 ∧ (s.my.queue 2).fault = none) ∧ ((s.my.queue 3).bind ≠ 1 ∧ (s.my.queue 3).fault = none) ∧
      ((bed (opaHart [] (some 2) true)).my.queue 0).claim = true ∧
      ((t.my.queue 0).fmt = none ∧ (t.my.queue 0).fault = none ∧ walkDone (t.my.queue 0).rcd (t.my.queue 0).win = false) ∧
      ((s.my.queue 0).bind = 1 ∧ (s.my.queue 0).claim = false ∧ (s.my.queue 0).fmt = some 2) ∧ (s.my.queue 1).fmt = some 2) :=
  ⟨rows_free (by decide +kernel), fun n => sound_of (by decide +kernel) n,
    fun ad => ⟨reserved_none (by decide +kernel) ad, reserved_none (by decide +kernel) ad⟩, by decide +kernel⟩

/-- The formats BF16 make a pair, FP16 makes one with itself alone, and FP32 none. -/
theorem witness_OuterProductIssue_pairs :
    Claim.accepted 2 2 ∧ ¬Claim.accepted 3 2 ∧ (∃ f, Claim.accepted f 3) ∧ (∃ f, Claim.accepted 3 f) ∧
    (∀ f, ¬Claim.accepted f 1) ∧ ∀ f, ¬Claim.accepted 1 f := by
  refine ⟨.inl ⟨rfl, rfl⟩, ?_, ⟨3, .inr (.inl ⟨rfl, rfl⟩)⟩, ⟨3, .inr (.inl ⟨rfl, rfl⟩)⟩, ?_, ?_⟩ <;> simp [Claim.accepted]

theorem witness_OuterProductIssue_scales :
    let s := bed (opaHart [] (some 2) false)
    (s.scalesReady 0 0 64 64 = true ∧ s.scalesReady 1 0 64 64 = true) ∧ s.scalesReady 0 64 64 128 = true ∧
    starved.scalesReady 0 0 64 64 = false := by decide +kernel

theorem witness_OuterProductIssue_reserved :
    Claim.reserved (reservedHart.my.queue 0) 0x3000 ∧ (∀ ad, ¬Claim.reserved (reservedHart.my.queue 1) ad) ∧
    reservedHart.my.passed = none ∧ reservedHart.my.wait ≠ .ask :=
  ⟨⟨rfl, rfl, rfl, rfl⟩, reserved_none (by decide +kernel), by decide +kernel⟩

theorem witness_GridRowForms (row : Nat → Prop) :
    Claim.RowsFree (vectors 4 64) row ∧ ∀ n, Claim.Sound (vectors 4 64).my n :=
  ⟨rows_free (by decide +kernel), sound_of (by decide +kernel)⟩

/-- A group of v127 that a load fills, the load, and a hart that it comes to. -/
def loadGroup : ArrGroup := ⟨127, 7, [⟨127, 224, 32, 0, 32, .raw⟩]⟩
@[inherit_doc loadGroup]
def loadOnWay : Flight :=
  { core := 0, owner := 0, area := 0, lvl := .u, cls := 2, vec := true, interval := 0, space := 0, kind := 0, pc := 0, slot := 0,
    act := .read, pieces := [], land := .groups 0 [loadGroup] }
@[inherit_doc loadGroup]
def loading : State := { bed (opaHart [] none false) with flights := [loadOnWay] }

theorem witness_TileAndStatusForms :
    (0x10001 : Nat) / 2 ^ 8 % 2 ^ 8 = 0 ∧ (0x00014040 % 2 ^ 8 ≠ 0 ∧ 0x00014040 / 2 ^ 8 % 2 ^ 8 ≠ 0 ∧ 0x00014040 / 2 ^ 16 % 2 ^ 16 ≠ 0) ∧
    (bed (opaHart [opaLeft] (some 2) false)).my.opas = [opaLeft] ∧
    (∀ r ∈ (bed (opaHart [opaDone] (some 2) false)).my.opas, r.steps ≤ r.step) ∧
    (bed (opaHart [] none false)).my.missingHalf = none ∧
    (opaLeft.step < opaLeft.steps ∧ 63 < opaLeft.tshp.toNat % 2 ^ 8 ∧ 64 * opaLeft.half + 63 < 128) ∧
    (loading.flights = [loadOnWay] ∧ loadOnWay.ofCtx loading.cur 0 0 = true ∧ loadOnWay.space ≠ 5 ∧
      loadOnWay.land = .groups 0 [loadGroup] ∧ loadGroup.elems ≠ [] ∧ loadGroup.row = 127) ∧
    ((bed (opaHart [] none false)).my.opas = [] ∧ (bed (opaHart [] none false)).my.long = none ∧
      (bed (opaHart [] none false)).flights = []) := by decide +kernel

/-- R312, R191: the rows of a running OPA count as dirty, and a load on its way into v127 makes h1 count. -/
theorem test_gdirty_due :
    (after (.gdirty 3 0) (bed (opaHart [opaLeft] (some 2) false))).rx 3 = 0xFFFFFFFFFFFFFFFF ∧
    (after (.gdirty 3 1) loading).rx 3 = 0x8000000000000000 := by decide +kernel

/-- A hart with a save area at 0x100000. -/
def saving : State := bed { vectorHart 4 64 with sup := { saveptr := 0x100000 } }

theorem witness_SaveAreaRows :
    let h := saving.my
    let all := (List.range 2).flatMap fun j => saving.slotPieces (saving.who saving.cur) (126 + j) (h.grid.rows.get (126 + j))
    128 < (127 : GReg).toNat + 2 ∧ (126 : GReg).toNat + 2 ≤ 128 ∧ (bed (hartWith [])).my.sup.saveptr = 0 ∧ h.sup.saveptr ≠ 0 ∧
    h.sup.saveptr.toNat % 64 = 0 ∧ Claim.RowsFree saving (fun r => 126 ≤ r ∧ r < 128) ∧ saving.flights = [] ∧
    h.sup.violmode = false ∧ Claim.Answers saving true all ∧ all.length = 8 ∧
    (∀ q ∈ all, saving.nearBy saving.cur q.loc = true ∧
      ∀ g : Flight, g.owner = h.sup.owner.toNat → saving.heldBack g q = false) ∧ saving.me.active = true ∧
    (h.handler = true → h.level ≠ .u) ∧ ∀ n, Claim.Sound h n := by
  intro h all
  have near : all.all (freely saving) = true := by decide +kernel
  refine ⟨?_, ?_, ?_, ?_, ?_, rows_free (by decide +kernel), ?_, ?_, answers_of (by decide +kernel), ?_,
    fun q hq => freely_of (List.all_eq_true.1 near q hq), ?_, ?_, sound_of (by decide +kernel)⟩ <;> decide +kernel

theorem witness_MissingHalfTraps :
    let s := bed { vectorHart 4 64 with missingHalf := some 1, sup := { saveptr := 0x100000 } }
    s.my.missingHalf = some 1 ∧ 1 < 2 ∧ s.me.staging = none ∧ s.my.passed = none ∧ (1 : BitVec 1).toNat = 1 ∧ s.my.ctl.tshp.toNat % 256 ≠ 0 ∧
    s.my.holdsPartial = false ∧ (64 : GReg).toNat / 64 = 1 ∧ (63 : GReg).toNat / 64 ≠ 1 ∧
    ((s.my.queue 0).fmt.isSome || (s.my.queue 0).fault.isNone) = true ∧ s.my.sup.saveptr ≠ 0 ∧
    ((60 : GReg).toNat + (67 : BitVec 7).toNat < 128 ∧ 64 * 1 ≤ (60 : GReg).toNat + (67 : BitVec 7).toNat ∧
      (60 : GReg).toNat < 64 * 1 + 64) := by decide +kernel

theorem witness_ReturnFromTrap :
    let s := bed { hartWith [] with level := .s, handler := true, sup := { trapcause := 0x018, trappc := 0x1010 } }
    let t := bed { hartWith [] with level := .s, handler := true, sup := { trapcause := 0x218, trappc := 0x1010 }, popa := some opaLeft }
    (bed (hartWith [])).my.level = .u ∧ (t.my.level = .s ∧ t.my.sup.trapcause.toNat / 2 ^ 8 % 4 = 2 ∧ t.my.popa = some opaLeft) ∧
    (s.my.level ≠ .u ∧ s.my.sup.trapcause.toNat / 2 ^ 8 % 4 ≠ 2 ∧ s.my.sup.trapcause.getLsbD 10 = false ∧ s.my.reread = false) := by
  decide +kernel

/-- A handler of a context whose loop could not be found at the switch-in; its bundle can be fetched now, or waits for a place. -/
def rereading (placing : List Placing) : State :=
  { bed { looping false 1 with level := .s, handler := true, reread := true, sup := { trapcause := 0x00A } } with
    ranges := { placing := placing } }

theorem witness_ReturnFromTrap_reread :
    let waits (s : State) : Bool := s.my.recalls.any fun pc => (s.modMy (·.leave)).fetchHeld s.cur pc
    ((rereading []).my.reread = true ∧ (rereading []).my.sup.trapcause.getLsbD 10 = false) ∧ waits (rereading []) = false ∧
    waits (rereading [⟨0, 0, 0, room.desc, 0, 0, false, []⟩]) = true := by decide +kernel

/-- An entry of a slice queue for the save area at an address (R158). -/
def entryAt (area : Nat) (st : EntrySt) : QEntry :=
  { handle := 0x10000, idx := 0, area := area, owner := 0, cls := 2, deadline := 0, seq := 1, width := 1, gangid := 0,
    entry := 0x1000, arg := 7, budget := 0xFFFFFFFF, counted := false, indexed := false, minGrid := 1, dies := 0, alloc := 0,
    dirbase := 0, trapvec := 0x7000, violmode := false, vlcap := 2048, st := st }

/-- A saved context in the area at 0x100000: the words of its header and first body words that R190 and R193 want (VERSION 1,
the pc 0x2000, VTYPE 4, MSEL 1, FRM 1, VLCAP 2,048); VERSION as given. -/
def savedArea (version : Nat) : List Host.Cell :=
  cellsWrite (cellsWrite [] 0x100000 36 (version + 0x2000 * 2 ^ 64 + 4 * 2 ^ 224 + 0x10001 * 2 ^ 256)) (0x100000 + 400) 8 2048

/-- A handler at S that has saved the context of that area, on core 0. -/
def restoring (version : Nat) (queue : List QEntry) (cores : Tbl Core) : State :=
  let h : Hart := { hartWith [] with level := .s, handler := true, sup := { trapcause := 0x410, saveptr := 0x100000, trapvec := 0x7000 } }
  { State.reset with cores := (0, { bedCore h with queue := queue }) :: cores, mem := { cells := savedArea version } }

theorem witness_ReturnToSavedContext :
    let e := entryAt 0x100000 .running
    let good := restoring 1 [e] []
    let bad := restoring 2 [e] []
    let busy := restoring 0x10001 [e] []
    let gone := restoring 1 [] [(1, { queue := [{ e with st := .out }] })]
    (good.my.level ≠ .u ∧ good.my.sup.trapcause.toNat / 2 ^ 8 % 4 ≠ 2 ∧ good.my.sup.trapcause.getLsbD 10 = true) ∧
    e ∈ good.me.queue ∧ (good.me.evac = [] ∧ good.my.passed = none ∧ bad.my.passed = none) ∧
    (good.scratchOwed good.cur = false ∧
      ({ good with flights := [{ loadOnWay with space := 1, pieces := [⟨0x40, 0x40, .scr 0 0x40, false, 1, 1⟩] }] } : State).scratchOwed
        good.cur = true) ∧
    (good.ranges.moves = [] ∧ good.ranges.placing = []) ∧
    (({ good with cores := [(0, { good.me with evac := [{ seg := 1, dst := 2 }] })] } : State).me.evac ≠ []) ∧ good.entryOf 0x100000 = some (good.cur, e) ∧ good.areaBusy 0x100000 0 = false ∧
    good.restoreBad good.cur 0x100000 0 2048 false = none ∧
    (bad.areaBusy 0x100000 0 = false ∧ bad.restoreBad bad.cur 0x100000 0 2048 false = some (0x0B, 0x100000)) ∧
    busy.areaBusy 0x100000 0 = true ∧ (1 ≠ gone.cur ∧ gone.entryOf 0x100000 = some (1, { e with st := .out })) := by
  decide +kernel

/-- A segment of a core without a retiring bank is not being moved (R56). -/
theorem still_of {c : Core} (h : ∀ l, l < 128 → (c.bankEnt l).getLsbD 8 = false) (l : Nat) : c.segMoving l = false := by
  unfold Core.segMoving
  by_cases b : l < 128
  · rw [h l b, Bool.and_false]
  · simp [b]

/-- At reset the clocks of all dies agree. -/
theorem witness_ReturnToSavedContext_clocks (d : Nat) :
    ((restoring 1 [] []).die d).atime = ((restoring 1 [] []).die 0).atime := rfl

theorem witness_ReturnToSavedContext_still (k l : Nat) :
    ((restoring 1 [entryAt 0x100000 .running] []).core k).segMoving l = false := by
  by_cases h : k = 0
  · subst h
    exact still_of (by decide +kernel) l
  · have e : (restoring 1 [entryAt 0x100000 .running] []).core k = default := by
      simp [State.core, restoring, Tbl.get, Tbl.getD, Ne.symm h]
    rw [e]
    exact still_of (by decide +kernel) l

theorem witness_CoreServiceForms :
    let s := bed { hartWith [(1, 0x40), (2, 0x80), (3, 0x100), (4, 0xC1), (5, 1), (6, 0x3000), (7, 0x1000)] with level := .f }
    256 ≤ (s.my.rx 3).toNat ∧ ((s.my.rx 4).getLsbD 7 = true ∧ (s.my.rx 4).toNat % 64 ≠ 0) ∧ (s.my.rx 1).toNat < 128 ∧
    (s.my.rx 2).toNat = 128 ∧ s.my.level = .f ∧ (bed (hartWith [])).my.level ≠ .f ∧ (s.my.rx 0).toNat = 0 ∧
    4095 < (s.my.rx 7).toNat ∧ ((s.my.rx 5).toNat ≠ 0 ∧ (s.my.rx 5).toNat ≤ 4095 ∧ (s.my.rx 6).toNat % 64 = 0) ∧
    s.physRead (s.my.rx 6).toNat 0 0 = .ok 0 := by
  decide +kernel

theorem witness_HaltForm :
    let e := entryAt 0x100000 .running
    let x := entryAt 0x280000 .fresh
    let s (q : List QEntry) : State :=
      { bed { hartWith [] with level := .s } with
        cores := [(0, { bedCore { hartWith [] with level := .s } with queue := q })]
        dies := [(0, { slots := [(0, { live := true, seq := 1, rcd := [0, 0, 0, 0, 1, 0, 0, 0] })] })] }
    (bed (hartWith [])).my.level = .u ∧ (s [e]).my.level ≠ .u ∧ (s [e]).me.running = some e ∧ (s [e]).my.handler = false ∧
    (∃ u, (s [e]).slotOf e.handle = some (0, 0, u) ∧ ((s [e]).die 0).slots.get 0 = u ∧ u.failed = false ∧ u.finished = false ∧ u.reissue = false) ∧
    ((s [x]).me.queue = [x] ∧ x.st ≠ .running ∧ 1 ≠ (s [x]).cur ∧ 1 / 96 = (s [x]).cur / 96 ∧ (s [x]).fits x 1 = true) := by
  and_intros <;> first | decide +kernel | exact ⟨_, rfl, by decide +kernel⟩

/-! ### Encoding, the step, and the machine as a whole -/

theorem witness_EncodeThenDecode :
    (Instr.vld .dv 127 31 0x1FF00 .msel).wf = true ∧ (Instr.vld .dv 127 31 0x1FF00 .msel).isStep = false ∧
    needsHeader (.vld .dv 127 31 0x0FF00 (.hdr 7)) = true ∧ (Instr.vld .dv 127 31 0x0FF00 (.hdr 7)).wf = true ∧
    Instr.bundleFetch.isStep = true := by decide

/-- A plain module: nothing in its host link, so that its states can be compared; a bundle at the pc as given. -/
def plainAt (b : Nat) : State :=
  { bed (hartWith [(1, 5)]) with link := {}, mem := { cells := cellsWrite [] 0x1000 16 b } }

/-- The bundle that a core fetches next. -/
theorem fetch_of {s : State} {b : Nat} {used : List RcEnt} (h : (match s.fetch (s.who s.cur) s.my.pc.toNat with
    | .bundle c u => c == b && u == used
    | _ => false) = true) : s.fetch (s.who s.cur) s.my.pc.toNat = .bundle b used := by
  split at h
  · rename_i c u e
    simp only [Bool.and_eq_true, beq_iff_eq] at h
    rw [e, h.1, h.2]
  · simp at h

theorem witness_StepRunsTheOperation :
    let s := plainAt 0x00442080
    s.down = false ∧ s.agenda = [] ∧ s.settle = s ∧ s.me.active = true ∧ s.boundary s.cur = none ∧ s.me.wfi = false ∧
    s.my.inval = none ∧ s.my.passed = none ∧ s.fetch (s.who s.cur) s.my.pc.toNat = .bundle 0x00442080 [room] ∧
    { s with raised := 0 }.useEntries s.cur [room] = { s with raised := 0 } ∧
    decodeBundle 0x00442080 = .ok ⟨false, [(0, .add 2 2 1)]⟩ ∧ (Instr.add 2 2 1).wf = true ∧ (Instr.add 2 2 1).isStep = false ∧
    brokenSlot s.my false [] [(0, .add 2 2 1)] = none ∧ (∃ t, exec (.add 2 2 1) s = .next t ∧ s.moved t = true) := by
  intro s
  have h : (match exec (.add 2 2 1) (plainAt 0x00442080) with
    | .next t => (plainAt 0x00442080).moved t
    | _ => false) = true := by decide +kernel
  split at h
  · rename_i t e
    and_intros <;> first | decide +kernel | rfl | exact fetch_of (by decide +kernel) | exact ⟨t, e, h⟩
  · simp at h

/-- A step of a hart that does not move on: a branch to itself. -/
theorem witness_StepRunsTheOperation_unmoved :
    ∃ t, exec (.beq 0 0 0) (plainAt 0x20000000) = .next t ∧ (plainAt 0x20000000).moved t = false := by
  have h : (match exec (.beq 0 0 0) (plainAt 0x20000000) with
    | .next t => !(plainAt 0x20000000).moved t
    | _ => false) = true := by decide +kernel
  split at h
  · rename_i t e
    exact ⟨t, e, by simpa using h⟩
  · simp at h

theorem witness_BundleRules :
    let s := plainAt 0
    (∃ e, decodeBundle (0xCA000000 * 2 ^ 96) = .error e ∧ e.slot = 3) ∧
    (decodeBundle 0x0046000000460000 = .ok ⟨false, [(0, .add 3 0 0), (1, .add 3 0 0)]⟩ ∧
      brokenSlot s.my false [] [(0, .add 3 0 0), (1, .add 3 0 0)] = some 1) ∧
    ((3 : SReg) ≠ 4 ∧ (3 : SReg) ≠ 0 ∧ (4 : SReg) ≠ 0 ∧ s.my.wait ≠ .ask) ∧
    decodeBundle 0x0088300000461080 = .ok ⟨false, [(0, .add 3 1 1), (1, .sub 4 3 0)]⟩ ∧
    decodeBundle 0x1008108700461080 = .ok ⟨false, [(0, .add 3 1 1), (1, .fadd 4 1 1 7)]⟩ :=
  ⟨⟨⟨3, .opcode⟩, by decide +kernel, rfl⟩, by decide +kernel⟩

theorem witness_TimeSkew : ∃ t, step (plainAt 0x00442080) = .next t ∧ t.master + 8 < 2 ^ 64 := by
  refine ⟨(plainAt 0x00442080).settle.advance.pass, ?_, ?_⟩
  · have h : ((plainAt 0x00442080).down && !(plainAt 0x00442080).outsideNext) = false := by decide +kernel
    simp [step, h]
  · have h : (plainAt 0x00442080).settle.advance.master = 0 := by decide +kernel
    have := (Config.ticks (plainAt 0x00442080).settle.advance.count).isLt
    simp only [State.pass, h]
    omega

theorem witness_StorageReads :
    let s := plainAt 0x00442080
    (∃ t, s.physWrite 0x2000 0 0 5 0xFF = .ok t) ∧ s.mem.wf ∧ s.physRead 0x2000 0 0 = .ok 0 ∧
    (Claim.place s (.mem 0x1000 0 none)).isSome = true ∧ (Claim.place s (.mem 0x2000 0 none)).isSome = true ∧
    Claim.place s (.mem 0x1000 0 none) ≠ Claim.place s (.mem 0x2000 0 none) :=
  ⟨⟨_, rfl⟩, by decide +kernel, ok_of (by decide +kernel), by decide +kernel, by decide +kernel, by decide +kernel⟩

/-! ### The steps of the other agents -/

/-- An access of the hart of core 0 on its way. -/
def onWay (space : Nat) (act : Act) (land : Land) (ps : List Piece) : Flight :=
  { core := 0, owner := 0, area := 0, lvl := .u, cls := 2, vec := false, interval := 0, space := space, kind := 0, pc := 0, slot := 0,
    act := act, pieces := ps, land := land }

/-- The bed with some accesses on their way and a hart that waits for a reply. -/
def waitingFor (fs : List Flight) : State := { bed { hartWith [] with wait := .ask } with delay := true, flights := fs }

/-- Blocks of HBM, of the host's memory, and of two scratchpads. -/
def atHbm : Piece := ⟨0x40, 0x40, .mem 0x40 0 none, false, 1, 1⟩
@[inherit_doc atHbm]
def atHost : Piece := ⟨0x40, 0x40, .mem 0x2000000000000 0 none, false, 1, 1⟩
@[inherit_doc atHbm]
def atScratch (core : Nat) : Piece := ⟨0x40, 0x40, .scr core 0x40, false, 1, 1⟩

theorem some_of {α : Type} {o : Option α} {p : α → Prop} [DecidablePred p] (h : (match o with
    | some u => decide (p u)
    | none => false) = true) : ∃ u, o = some u ∧ p u := by
  cases o with
  | none => simp at h
  | some u => exact ⟨u, rfl, of_decide_eq_true h⟩

/-- Claim.Able, in a form to decide. -/
abbrev AbleIs (s : State) (k : Nat) (f : Flight) : Prop :=
  s.flights[k]? = some f ∧ (f.awaits = false ∧ f.time = none ∧ f.fails = [] ∧ f.late = []) ∧
  (s.arrived f = true ∧ s.mayPerform (s.flights.take k) f = true) ∧
  ∀ p ∈ f.pieces, s.heldBack f p = false ∧ s.lostPiece f p = p

theorem able_of {s : State} {k : Nat} {f : Flight} (h : AbleIs s k f) : Claim.Able s k f :=
  let ⟨here, ⟨awaits, time, fails, late⟩, come, free⟩ := h
  ⟨here, awaits, time, fails, late, come.1, come.2, free⟩

/-- A load of one block answers. -/
theorem answer_of {s : State} {plain : Bool} {p : Piece} (h : answersIs s plain [p] = true) :
    ∃ b, s.homeRead plain p.loc = .ok b := ((answers_of h).1 p (List.mem_singleton.2 rfl)).1

/-- A store of two blocks performs whole or in either block; a load waits for one. -/
theorem witness_AccessSteps_homes :
    let w := onWay 0 .write .drop [atHbm, { atHbm with blk := 0x80, lo := 0x80, loc := .mem 0x80 0 none }]
    let r := onWay 0 .read (.ask []) [atHbm]
    let host := onWay 0 .read (.ask []) [atHost]
    (Claim.Able (waitingFor [w]) 0 w ∧ w.space ≠ 1 ∧ w.space ≠ 2 ∧ w.pieces ≠ [] ∧ w.pieces[1]?.isSome = true ∧
      dropAt w.pieces 1 ≠ []) ∧
    (∀ q ∈ w.pieces, (waitingFor [w]).locPeer q.loc = false) ∧ w.owed = false ∧
    ((waitingFor [w]).pick = none ∧ ({ waitingFor [w] with pick := some 1 } : State).pick = some 1) ∧
    Claim.Answers (waitingFor [w]) w.plain w.pieces ∧
    (Claim.Able (waitingFor [r]) 0 r ∧ (waitingFor [r]).locHost atHbm.loc = false ∧
      ∃ b, (waitingFor [r]).homeRead r.plain atHbm.loc = .ok b) ∧
    (Claim.Able (waitingFor [host]) 0 host ∧ (waitingFor [host]).locHost atHost.loc = true) :=
  ⟨⟨able_of (by decide +kernel), by decide +kernel⟩, by decide +kernel, rfl, by decide, answers_of (by decide +kernel),
    ⟨able_of (by decide +kernel), by decide +kernel, answer_of (by decide +kernel)⟩, able_of (by decide +kernel), by decide +kernel⟩

/-- In a scratchpad a store of two lines goes line by line, and a load of one block waits for it. -/
theorem witness_AccessSteps_lines :
    let w := onWay 1 .write .drop [atScratch 0, { atScratch 0 with blk := 0x140, lo := 0x140, loc := .scr 0 0x140 }]
    let r := onWay 1 .read (.ask []) [atScratch 0]
    let cs := { onWay 2 .read (.ask []) [atScratch 1] with accepted := true, port := 3 }
    (Claim.Able (waitingFor [w]) 0 w ∧ (waitingFor [w]).portBefore 0 w = false ∧
      w.firstLine = ([atScratch 0], [{ atScratch 0 with blk := 0x140, lo := 0x140, loc := .scr 0 0x140 }])) ∧
    Claim.Answers (waitingFor [w]) w.plain w.pieces ∧
    (Claim.Able (waitingFor [r]) 0 r ∧ (waitingFor [r]).portBefore 0 r = false ∧
      ∃ b, (waitingFor [r]).homeRead r.plain (atScratch 0).loc = .ok b) ∧
    (Claim.Able (waitingFor [cs]) 0 cs ∧ cs.accepted = true ∧ (waitingFor [cs]).portBefore 0 cs = false) :=
  ⟨⟨able_of (by decide +kernel), by decide +kernel⟩, answers_of (by decide +kernel),
    ⟨able_of (by decide +kernel), by decide +kernel, answer_of (by decide +kernel)⟩, able_of (by decide +kernel), by decide +kernel⟩

theorem witness_AccessSteps_fetch :
    let s := plainAt 0x00442080
    (s.me.active = true ∧ s.boundary s.cur = none ∧ s.me.wfi = false ∧ s.my.inval = none ∧ s.my.passed = none) ∧
    s.fetch (s.who s.cur) s.my.pc.toNat = .bundle 0x00442080 [room] :=
  ⟨by decide +kernel, fetch_of (by decide +kernel)⟩

theorem witness_AccessSteps_answers :
    let host : Flight := { onWay 0 .read (.ask []) [atHost] with awaits := true }
    let peer : Flight := { onWay 0 .write .drop [] with awaits := true }
    let own := onWay 2 .read (.ask []) [atScratch 1]
    let other : Flight := { own with owner := 5 }
    let done := onWay 0 .read (.ask []) []
    ((waitingFor [host]).flights[0]? = some host ∧ host.awaits = true ∧ host.fails = [] ∧
      (waitingFor [host]).heldBack host atHost = false) ∧
    ((waitingFor [peer]).flights[0]? = some peer ∧ peer.awaits = true ∧ peer.pieces = [] ∧ peer.land = .drop) ∧
    ((waitingFor [own]).flights[0]? = some own ∧ own.space = 2 ∧ own.accepted = false ∧
      (waitingFor [own]).ownerBad own (atScratch 1) = false) ∧
    (∀ g ∈ (waitingFor [{ own with accepted := true }, own]).flights.take 1, g.accepted = true) ∧
    (waitingFor [other]).ownerBad other (atScratch 1) = true ∧
    (done.ready = true ∧ (waitingFor [done]).returned done = true ∧ ((waitingFor [done]).hart 0).wait = .ask ∧
      done.ofCtx 0 ((waitingFor [done]).hart 0).sup.owner.toNat ((waitingFor [done]).hart 0).sup.saveptr.toNat = true) := by
  decide +kernel

theorem witness_AccessSteps_host_answer :
    ∃ b, (waitingFor [{ onWay 0 .read (.ask []) [atHost] with awaits := true }]).homeRead true atHost.loc = .ok b :=
  answer_of (by decide +kernel)

theorem witness_AccessSteps_landing :
    let g := onWay 0 .read (.groups 0 [⟨3, 1, []⟩]) []
    let d := onWay 0 .read (.decode 3 2 2048 0x1000 5 9) []
    let there (f : Flight) : Prop := (waitingFor [f]).flights = [f] ∧ f.pieces = [] ∧ f.awaits = false ∧ f.fails = [] ∧
      (waitingFor [f]).returned f = true ∧ (waitingFor [f]).present f.core f.area f.lvl = true
    (there g ∧ ((waitingFor [g]).hart 0).grid.busy.getLsbD 3 = false) ∧ there d ∧
    ∀ r, 3 ≤ r → r < 5 → ((waitingFor [d]).hart 0).grid.busy.getLsbD r = false :=
  ⟨by decide +kernel, by decide +kernel, fun r _ _ => (free_of (h := hartWith []) rfl rfl r).1⟩

theorem witness_AccessSteps_resent :
    let f := onWay 0 .write .drop [⟨0x100040, 0x100040, .mem 0x100040 0 none, false, 1, 1⟩]
    let far := onWay 0 .write .drop [⟨0x100040, 0x100040, .mem 0x100040 1 none, false, 1, 1⟩]
    let moved : State := { waitingFor [f] with
      ranges := { moves := [{ id := 0, owner := 0, dirbase := 0, index := 0, desc := range1, src := 0x100000, dst := 0x200000,
                              homeA := 0, homeB := 0, st := .inval }] } }
    (∃ m, moved.ranges.moves.find? (·.passed 0x100040) = some m ∧ m.dst = 0x200000) ∧ moved.arrived f = true ∧
    moved.arrived far = false := ⟨some_of (by decide +kernel), by decide +kernel⟩

theorem witness_AccessSteps_timed :
    let f : Flight := { onWay 0 .write .drop [atHbm] with time := some 5, wasFuture := true }
    let due : Flight := { f with time := some 0 }
    let late : Flight := { onWay 0 .write .drop [] with late := [0x40], accepted := true, time := some 1 }
    let s := waitingFor [f]
    let t : State := { waitingFor [] with dies := [(0, { held := [due] })] }
    (s.flights = [f] ∧ s.ranges.moves = [] ∧ s.ranges.placing = [] ∧ f.accepted = false ∧ f.late = [] ∧ f.fails = [] ∧
      atHbm.loc.die = some 0 ∧ (s.die 0).held.length < 4096 ∧ s.homeReached atHbm.loc 5 = false ∧ s.arrived f = true ∧
      s.present 0 0 .u = true) ∧
    (t.flights = [] ∧ (t.die 0).held = [due] ∧ due.plain = false ∧ t.homeReached atHbm.loc 0 = true ∧ t.locPeer atHbm.loc = false ∧
      t.heldBack due atHbm = false) ∧ Claim.Answers t false [atHbm] ∧
    (late.lateNotice = some ⟨0x12, 0x40⟩ ∧ (waitingFor [late]).present 0 0 .u = true ∧
      ((waitingFor [late]).hart 0).notices.length < 8) :=
  ⟨by decide +kernel, by decide +kernel, answers_of (by decide +kernel), by decide +kernel⟩

theorem strip_of {s : State} {w : Who} {b : Queue} {st : Bool} {p : Nat × Nat} {mk : Nat → List (Option TElem) → List Req}
    {act : Act} {cls : BitVec 8} (h : (match s.examine w b st p mk with
      | .ready _ x _ => decide (s.strictError (streamFlight w b act cls x) = none ∧ s.inStep w.core x.pieces = true ∧
          s.behindFence w cls x.pieces = false ∧ s.portTaken (streamFlight w b act cls x) = false)
      | _ => false) = true) :
    ∃ f x es, s.examine w b st p mk = .ready f x es ∧ s.strictError (streamFlight w b act cls x) = none ∧
      s.inStep w.core x.pieces = true ∧ s.behindFence w cls x.pieces = false ∧
      s.portTaken (streamFlight w b act cls x) = false := by
  split at h
  · rename_i f x es he
    exact ⟨f, x, es, he, of_decide_eq_true h⟩
  · simp at h

theorem next_of {o : Host.Outcome State Fault Refusal} {p : State → Prop} [DecidablePred p] (h : (match o with
    | .next t => decide (p t)
    | _ => false) = true) : ∃ t, o = .next t ∧ p t := by
  cases o with
  | next t => exact ⟨t, rfl, of_decide_eq_true h⟩
  | _ => simp at h

/-- Core 0 with a hart in the steps of its own units. -/
def unitsOf (h : Hart) : State := bed h

theorem witness_OperationSteps_outer_product :
    let q : Queue := { bind := 1, rcd := record64, fmt := some 2, entries := [⟨0, 0, 5, 0⟩] }
    let s := unitsOf { hartWith [] with opas := [opaLeft], queues := [(0, q), (1, q)] }
    let t := unitsOf { hartWith [] with opas := [opaDone] }
    ((s.hart 0).opas = [opaLeft] ∧ opaLeft.step < opaLeft.steps ∧ opaKind 2 2 = some (true, 1) ∧ fmtScaled 2 = false ∧
      opaLeft.qa ≠ opaLeft.qb ∧ (s.hart 0).long = none ∧ ((s.hart 0).queue 0).entries = [⟨0, 0, 5, 0⟩] ∧ ((s.hart 0).queue 1).entries = [⟨0, 0, 5, 0⟩]) ∧
    ((t.hart 0).opas = [opaDone] ∧ opaDone.steps ≤ opaDone.step ∧ opaDone.half < 2) := by decide +kernel

theorem witness_OperationSteps_long :
    let l : LongOp := { instr := some (.vadd .row 8 16 24 .off), pc := 0x1000, slot := 1, start := 64, cap := { vl := 128, vtype := 0x0C } }
    (∃ p, l.instr.bind planOf = some p) ∧ ((unitsOf { hartWith [] with long := some l }).hart 0).long = some l ∧ l.needs = [] ∧
    ({ l with needs := [(16, 0)] } : LongOp).needs ≠ [] ∧ l.cap.vl ≤ l.start + max 1 l.cap.vlmax :=
  ⟨⟨_, rfl⟩, rfl, rfl, by decide, by decide +kernel⟩

/-- A queue with its format settled, as the prefetch of its first strip leaves it (R90). -/
def settled (s : State) (b : Queue) (f : Nat) : Queue :=
  let g := tensorGeom b.rcd (s.rangeFor (s.streamWho 0) (recSpace b.rcd) (recBase b.rcd))
  { b with fmt := some f, blen := g.1, bdim := g.2 }

theorem witness_OperationSteps_streams :
    let b : Queue := { bind := 1, rcd := record64 }
    let s := unitsOf { hartWith [] with queues := [(0, b), (1, { b with inbound := [⟨0, 0, 5, 0⟩] }),
      (2, { b with bind := 2, fmt := some 1, entries := [⟨0, 0, 5, 0⟩], win := 1 })] }
    let c := (s.hart 0).queue 2
    (b.bind = 1 ∧ b.fault = none ∧ walkDone b.rcd b.win = false ∧ b.entries.length + b.inbound.length < 16 ∧ b.partner = none ∧
      (s.core 0).active = true ∧ (s.core 0).left = [] ∧ b.part = none ∧ s.pick = none ∧
      (recSpace b.rcd ≠ 1 ∧ recSpace b.rcd ≠ 2)) ∧
    (∃ f x es, s.examine (s.streamWho 0) b false (b.win, b.pos) (fun f es => (es.filterMap id).flatMap (·.reqs f) ++
        (s.nextScales (s.streamWho 0) (settled s b f) f).flatMap (·.reqs f)) = .ready f x es ∧
      s.strictError (streamFlight (s.streamWho 0) b .read clsQR x) = none ∧
      s.inStep 0 x.pieces = true ∧ s.behindFence (s.streamWho 0) clsQR x.pieces = false ∧
      s.portTaken (streamFlight (s.streamWho 0) b .read clsQR x) = false) ∧
    ((s.hart 0).queue 1).inbound = [⟨0, 0, 5, 0⟩] ∧
    ((s.core 0).left = [] ∧ c.bind = 2 ∧ c.entries = [⟨0, 0, 5, 0⟩] ∧
      ∃ u, s.writeWord (s.streamWho 0) c ⟨0, 0, 5, 0⟩ = some u ∧ (u.hart 0).queue 2 = c) := by
  refine ⟨by decide +kernel, strip_of (by decide +kernel), ?_⟩
  and_intros <;> decide +kernel

/-- An entry that lies in two lines of the scratchpad: its first line passes alone where `pick` says that it may. -/
theorem witness_OperationSteps_lines :
    let b : Queue := { bind := 2, rcd := [0x2080, 0x1101, 0, 0x40000040, 0, 0, 0, 0, 1, 0, 0, 0], fmt := some 1,
                       entries := [⟨0, 0, 5, 0⟩], win := 1 }
    let s : State := { unitsOf { hartWith [] with queues := [(2, b)] } with pick := some 0 }
    recSpace b.rcd = 1 ∧ (s.hart 0).queue 2 = b ∧ (s.core 0).left = [] ∧
    ∃ r, s.writeLines (s.streamWho 0) b ⟨0, 0, 5, 0⟩ = some r ∧ r.1.pieces ≠ [] ∧ (r.2.hart 0).queue 2 = b :=
  ⟨by decide +kernel, rfl, rfl, some_of (by decide +kernel)⟩

/-- Two records of 64 FP32 elements, at 0x2000 and at 0x5000, in memory at 0x3000 and 0x3080; a copy of core 0 from one to the
other, in slot 0, and the ranges in the caches of lighter 0 of die 0. -/
def copyRun (q : Copy) (die : Die) : State :=
  { State.reset with
    cores := [(0, { bedCore (hartWith []) with copies := [(0, q)] })]
    dies := [(0, die)]
    mem := { cells := cellsWrite [] 0x3000 224 (packWords (record64 ++ [0, 0, 0, 0] ++ (0x5000 :: record64.drop 1))) } }

/-- Its command block (R277). -/
def copyBlock : List Word := [0, 0x3000, 0x3080] ++ List.replicate 13 0

/-- The die with the range in its lighter's cache. -/
def litDie : Die := { lighters := [(0, [room])] }

theorem witness_OperationSteps_copies :
    let y : Copy := { cmd := copyBlock, st := .waiting }
    let s := copyRun y litDie
    let stop := copyRun { y with stopping := true } litDie
    let run := copyRun { y with st := .running, src := record64, dst := 0x5000 :: record64.drop 1, sfmt := 1, dfmt := 1 } litDie
    let q := (run.core 0).copies.get 0
    let r := run.moveCopy 0 q none
    let cut := run.moveCopy 0 { q with stopping := true } (some 1)
    (s.copiesOf 0 .running = [] ∧ firstCopy ((s.copiesOf 0 .waiting).filter fun x =>
        !x.2.2.stopping && decide (x.2.2.notBefore ≤ (s.die 0).atime.toNat)) = some (0, 0, y)) ∧
    (match s.openCopy 0 { y with lighter := 0 } with
      | .ok src dst _ _ _ => src == record64 && dst == (0x5000 :: record64.drop 1)
      | _ => false) = true ∧
    (((stop.core 0).copies.get 0).st = .waiting ∧ ((stop.core 0).copies.get 0).stopping = true ∧
      (stop.finishCopy 0 0 ((stop.core 0).copies.get 0) 0x0A false 0).isSome = true) ∧
    (q.st = .running ∧ q.code = 0 ∧ q.stopping = false ∧ r.wait = false ∧ r.n = 64 ∧
      (((r.s.formatErrors 0 r.f.fmtErrs).sendCopied 0 q r.whole).finishCopy 0 0 q
        (r.stop.getD (if r.failed then 0x02 else 0x01)) r.sat r.n).isSome = true) ∧
    (cut.wait = false ∧ cut.n < 64 ∧ (((cut.s.formatErrors 0 cut.f.fmtErrs).sendCopied 0 { q with stopping := true } cut.whole).finishCopy 0 0
        { q with stopping := true } (cut.stop.getD 0x0A) cut.sat cut.n).isSome = true) := by decide +kernel

theorem witness_OperationSteps_waits :
    let x := copyRun { st := .ended, code := 1 } {}
    let h : Hart := { hartWith [] with ewait := .watch (.mem 0x40 0 none) 0 5 }
    let s := unitsOf h
    let q (k : Nat) : State := { bed (hartWith []) with
      cores := [(0, { bedCore (hartWith []) with queue := [{ entryAt 0x100000 .running with blk := { kind := k } }] })] }
    ((x.core 0).copies.get 0).st = .ended ∧ (unitsOf { hartWith [] with ewait := .cpyx 0 0 }).my.ewait = .cpyx 0 0 ∧
    ((s.hart 0).ewait = .watch (.mem 0x40 0 none) 0 5 ∧ s.reports 0 (.mem 0x40 0 none) 0 5 = true) ∧
    ((q 7).blockKind 0 = 7 ∧ (q 4).blockKind 0 = 4 ∧ (q 9).blockKind 0 ≠ 0) ∧
    ((unitsOf { hartWith [] with notices := [⟨0x12, 0⟩] }).hart 0).notices ≠ [] := by decide +kernel

/-- A move of a range from 0x100000 to 0x200000, in its stages (R38). -/
def moving (st : MoveSt) : Move :=
  { id := 3, owner := 0, dirbase := 0x4000, index := 0, desc := range1, src := 0x100000, dst := 0x200000, homeA := 0, homeB := 0,
    st := st }

/-- The directory of three ranges, with the range agents in some state. -/
def agents (r : Ranges) : State := { directory 0 with ranges := r }

/-- The invalidation of an interval (R34). -/
def inval (holders : BitVec 17) (what : InvalFor) : Inval := { id := 3, owner := 0, lo := 0x1000, hi := 0x2000, holders := holders, what := what }

theorem witness_RangeSteps_invalidations :
    let s := agents { invals := [inval 0x10001 (.hart 0 0), inval 0 (.edit 0 0 0x4000)], records := [⟨0, 0x1000, 0x2000, 1⟩] }
    let t := agents { invals := [inval 0 (.hart 0 0)] }
    let fill : TdRec := ⟨0, 0x1000, 0x2000, 1⟩
    let u := agents { fills := [fill], waiting := [5] }
    (s.ranges.invals[0]? = some (inval 0x10001 (.hart 0 0)) ∧ (inval 0x10001 (.hart 0 0)).holders.getLsbD 0 = true) ∧
    (t.ranges.invals[0]? = some (inval 0 (.hart 0 0)) ∧ t.invalDone (inval 0 (.hart 0 0)) = true) ∧
    (s.ranges.invals[1]? = some (inval 0 (.edit 0 0 0x4000)) ∧ s.invalDone (inval 0 (.edit 0 0 0x4000)) = true) ∧
    (u.ranges.fills[0]? = some fill ∧ u.ranges.waiting.contains (fill.owner % 16) = false) ∧
    (u.ranges.waiting.contains (21 % 16) = true ∧ u.flights = [] ∧ (∀ p ∈ u.dies, p.2.held = []) ∧ u.ranges.searches = []) := by decide +kernel

theorem witness_RangeSteps_search :
    let y : Search := ⟨0, 0, 0x4000, 0x1040⟩
    let s := agents { searches := [y] }
    s.ranges.searches[0]? = some y ∧ y.va.toNat < 2 ^ 57 ∧ s.ranges.invals = [] ∧
    (agents {}).search 0x4000 0x1040 = .ent range1 0 none none := by decide +kernel

/-- The directory and an owner table that names it for owner 0. -/
def owned (r : Ranges) : State :=
  { directory 5 with
    ranges := r
    mem := { cells := cellsWrite (directory 5).mem.cells 0x8000 64 (packWords ownerTable) }
    link := { (directory 5).link with owntab := 0x8000 } }

theorem witness_RangeSteps_dredger_move :
    let s := owned {}
    (∃ o, s.ownEnt 0 = some o ∧ s.entryAt o.dirbase.toNat 0x1040 = some (0, range1) ∧ s.lockOf o.dirbase.toNat ≠ some 0) ∧
    0x2000000000000 % 64 = 0 ∧ homeOk s.link.expanders 0x2000000000000 range1.size 0 range1.owner = true ∧
    s.roomAt 0x2000000000000 range1.size = true ∧ s.ranges.moves = [] :=
  ⟨some_of (by decide +kernel), by decide +kernel⟩

theorem witness_RangeSteps_moves :
    let m := moving .copying
    let s := agents { moves := [moving .lock] }
    (s.ranges.moves[0]? = some (moving .lock) ∧ ∃ t, s.tryLock 0x4000 (lockDredger 0) = some t ∧
      s.entryAt 0x4000 range1.base.toNat = some (0, range1)) ∧
    ((agents { moves := [m] }).ranges.moves = [m] ∧ m.back = false ∧ m.desc.chunks[m.chunk]? = some (0, 256) ∧
      m.chunk + 1 < m.desc.chunks.length ∧ (agents { moves := [m] }).dedups m 0 256 = false) ∧
    ((agents { moves := [moving .finish] }).ranges.moves[0]? = some (moving .finish) ∧ (moving .finish).requester = none ∧
      (moving .finish).back = false ∧ ({ moving .finish with requester := some (0, 0), back := true } : Move).requester ≠ none) ∧
    (let b : Move := { m with back := true, chunk := 1 }
     (agents { moves := [b] }).ranges.moves = [b] ∧ b.chunk = 0 + 1 ∧ b.desc.chunks[0]? = some (0, 256) ∧ b.src + 256 ≤ b.dst) ∧
    ((moving .copying).dst ≤ 0x200000 ∧ 0x200000 < (moving .copying).dst + (moving .copying).desc.size) :=
  ⟨⟨by decide +kernel, some_of (by decide +kernel)⟩, by decide +kernel⟩

/-- A hash that a block sent by reference has when it is moved in full (R62): the hash itself is opaque. -/
theorem witness_RangeSteps_reference (s : State) (a b owner : Nat) : ∃ hash,
    let r : Ranges := { s.ranges with xfers := [{ src := 0, dst := 1, owner := owner, hash := hash, pa := b, content := 0 }] }
    Config.blockHash owner (bytesOf (cellsRead (({ s with ranges := r } : State).moveBytes a b 4096).mem.cells b 4096) 4096) =
      hash :=
  ⟨Config.blockHash owner (bytesOf (cellsRead (s.moveBytes a b 4096).mem.cells b 4096) 4096), by
    intro r
    rw [moveBytes_mem s r rfl]⟩

/-- The fence leaves the dies without retired regions, as they are at reset. -/
theorem witness_RangeSteps_finish_back (d : Nat) : ((agents {}).die d).hbmGone = [] := rfl

theorem witness_RangeSteps_placement :
    let big : Desc := ⟨0x1000, 0x80000001000, 0x2000000000000, 0x87⟩
    let p : Placing := ⟨0, 0x4000, 0, big, 1, 0, true, []⟩
    let q : Placing := ⟨0, 0x4000, 0, range1, 1, 0, true, []⟩
    let s (x : Placing) : State :=
      { bedMem (hartWith []) 0x4000 [0x100000001, 0, 0, 0, 0, 0, 0, 0, x.desc.base, x.desc.lim, x.desc.phys, x.desc.attr] with
        ranges := { placing := [x] }
        link := { owntab := 0xC000000000 } }
    ((s p).placingNow p = some (0, big) ∧ (s p).newPlace (s p).roomiest big.size = none) ∧
    ((s q).ranges.moves = [] ∧ (s q).placingNow q = some (0, range1) ∧ q.desc.lim ≤ range1.lim) ∧
    (∃ x, (s q).newPlace (s q).roomiest range1.size = some x ∧
      ((s q).tryLock 0x4000 (lockDredger x.2)).isSome = true) ∧ q.grace ≤ (s q).master :=
  ⟨by decide +kernel, by decide +kernel, some_of (by decide +kernel), by decide +kernel⟩

/-- Core 0 as given. -/
def coreAs (c : Core) : State := { State.reset with cores := [(0, c)] }

/-- A slice in slot 0 of die 0, for owner 0 of the owner table and cores of die 0, of some width and class. -/
def slice (width : Word) (cls : Word) : Slot :=
  { live := true, seq := 1, left := 1, rcd := [0x1000, 7, if cls = 1 then 5 else 0, cls * 2 ^ 32, width, 0, 0, 0x10000] }

/-- A package with that slice and the owner table. -/
def sliced (t : Slot) : State := { posting with dies := [(0, { slots := [(0, t)] })] }

theorem witness_SchedulingSteps_placement :
    let s := sliced (slice 1 2)
    let u := (s.die 0).slots.get 0
    u.waits = true ∧ u.gang = false ∧ s.harbour.takeover = false ∧ s.firstToPlace 0 0 = true ∧
    (∃ o, s.ownEnt u.owner = some o ∧ s.freeArea u.owner o = some 0x1000000 ∧
      s.bestCore u (newEntry u (u.handle 0 0) u.nextIdx 0x1000000 o) allCores = some 0) ∧
    (s.core 0).resident = none ∧ (coreAs {}).coreFree 0 = true ∧
    (coreAs { resident := some { area := 0x2000000, owner := 0, alloc := 1 } }).coreFree 0 = true :=
  ⟨by decide +kernel, by decide +kernel, by decide +kernel, by decide +kernel, some_of (by decide +kernel), by decide +kernel⟩

theorem witness_SchedulingSteps_gang :
    let s := sliced (slice 2 2)
    let u := (s.die 0).slots.get 0
    u.waits = true ∧ u.gang = true ∧ s.firstToPlace 0 0 = true ∧
    (∃ o, s.ownEnt u.owner = some o ∧ u.width ≤ (s.freeAreas u.owner o).length) ∧
    (∃ ks, gangCores (s.eligibleCores u) u.width = some ks ∧ ks.length = u.width) :=
  ⟨by decide +kernel, by decide +kernel, by decide +kernel, some_of (by decide +kernel), some_of (by decide +kernel)⟩

theorem witness_SchedulingSteps_gang_resident (k : Nat) : ((sliced (slice 2 2)).core k).resident = none := by
  by_cases h : k = 0
  · subst h
    decide +kernel
  · have e : (sliced (slice 2 2)).core k = default := by
      simp [State.core, sliced, posting, bed, Tbl.get, Tbl.getD, Ne.symm h]
    rw [e]
    decide +kernel

theorem witness_SchedulingSteps_switch :
    let e := entryAt 0x100000 .running
    let out := coreAs { bedCore { hartWith [] with sup := { saveptr := 0x100000 } } with queue := [e], preempt := true }
    let long := coreAs { bedCore { hartWith [] with sup := { saveptr := 0x100000 } } with
      queue := [{ e with blk := { kind := 7 } }], waited := 4097 }
    let fresh := coreAs { queue := [{ e with st := .fresh }] }
    let staged := coreAs { queue := [{ e with st := .out, staged := false }] }
    let drain := coreAs { staging := some { area := 0x100000, owner := 0, chunks := [(8, 8, 5)] } }
    (out.me.preempt = true ∧ out.me.active = true ∧ out.my.handler = false ∧ out.my.due = [] ∧ out.me.staging = none) ∧
    (4096 < long.me.waited ∧ long.me.running = some { e with blk := { kind := 7 } }) ∧
    (fresh.coreFree 0 = true ∧ fresh.me.next = some { e with st := .fresh } ∧ fresh.me.resident = none) ∧
    (staged.me.next = some { e with st := .out } ∧ staged.areaBusy 0x100000 0 = false) ∧
    (drain.me.staging = some { area := 0x100000, owner := 0, chunks := [(8, 8, 5)] } ∧ 0x100000 < 2 ^ 64) := by decide +kernel

theorem witness_SchedulingSteps_drain :
    let drain := coreAs { staging := some { area := 0x100000, owner := 0, chunks := [(8, 8, 5)] } }
    let r := drain.drainChunks 0x100000 0 [(8, 8, 5)]
    r.2 = none ∧ r.1.gsavePending 0x100000 0 = false ∧ r.1.absentAt 0x100000 = false ∧
    (match r.1.areaPut 0x100000 0 0 8 (1 + 57472 * 2 ^ 32 + (r.1.areaGet 0x100000 0 2 2 / 2 * 2) * 2 ^ 16) with
      | .ok _ => true
      | .error _ => false) = true := by decide +kernel

theorem witness_SchedulingSteps_cores :
    let e := entryAt 0x100000 .waiting
    let blocked := coreAs { queue := [{ e with blk := { kind := 7, obj := 0 } }] }
    let shares := coreAs { share := { window := 1 } }
    let owed := coreAs { queue := [{ e with st := .fresh }], share := { elapsed := 1, fg := 5760 } }
    let turn := coreAs { queue := [{ e with st := .running }], turn := some (0x10000, 0), share := { ran := 384 } }
    let absent : Absent := ⟨0, 0x100000, { hartWith [] with ewait := .edited 0 }⟩
    (blocked.me.queue = [{ e with blk := { kind := 7, obj := 0 } }] ∧ (0 : Word).toNat ≤ blocked.atime 0 ∧
      blocked.areaBusy 0x100000 0 = false ∧ blocked.ranges.invals = []) ∧
    shares.me.share.window ≠ shares.atime 0 / 40000000 ∧
    (owed.me.owed = some { e with st := .fresh } ∧ owed.me.turn = none ∧ 5760 ≤ owed.me.share.fg) ∧
    (turn.me.running = some { e with st := .running } ∧ turn.me.turn = some (0x10000, 0) ∧ 384 ≤ turn.me.share.ran) ∧
    (absent.hart.answered = true ∧ (coreAs {}).entryOf 0x100000 = none) := by decide +kernel

/-- An absent context in the area at 0x100000: its bundle waits for a directory edit that has ended, at a pc with some bundle. -/
def absent (b : Nat) : State :=
  { plainAt b with
    cores := [(0, { queue := [entryAt 0x100000 .out], cache := [room] })]
    absent := [⟨0, 0x100000, { hartWith [(1, 0x1040)] with level := .s, ewait := .edited 0 }⟩] }

theorem witness_SchedulingSteps_absent :
    let outcome (b : Nat) (traps : Bool) : Prop :=
      let s := absent b
      let a : Absent := ⟨0, 0x100000, { hartWith [(1, 0x1040)] with level := .s, ewait := .edited 0 }⟩
      let old := s.absentHart a.hart a.area
      let v : State := State.bundleTurn { s.modCore 0 (fun c => c.standIn a.area old) with cur := 0 } 0
      let g := v.hart 0
      (s.absent[0]? = some a ∧ a.hart.answered = true ∧ s.entryOf a.area = some (0, entryAt 0x100000 .out) ∧
        s.stored a.area = true) ∧
      (g.wait = .none ∧ g.ewait = .none ∧ v.ranges.moves = [] ∧ a.area % 64 = 0) ∧ (g.handler = traps ∧ old.handler = false) ∧
      (List.range 8).all fun b =>
        (match v.region (a.area + 64 * b) with
          | .hbm _ => true
          | _ => false) &&
        match v.physRead (a.area + 64 * b) (areaOwner g.sup.owner.toNat b) b with
        | .ok _ => true
        | .error _ => false
    outcome (encode (.rgsplit 3 1)) false ∧ outcome (encode (.brk 5)) true := by decide +kernel

/-- A single hart that waits for its own slice is a circle of one (R166). -/
def circle (st : EntrySt) : State :=
  let e : QEntry := { entryAt 0x100000 st with blk := { kind := 5, obj := 0x10000, episode := 2 } }
  { sliced (slice 1 2) with
    cores := [(0, { bedCore (hartWith []) with queue := [e] })]
    harbour := { sampled := 1, sample := [[(0x10000, 0, 2)]] } }

theorem witness_SchedulingSteps_circle :
    let stands (st : EntrySt) : Prop :=
      let s := circle st
      let m : Word × Nat × Nat := (0x10000, 0, 2)
      s.harbour.sampled ≠ s.master / 4000000 ∧ s.circlesNow = [[m]] ∧ s.harbour.sample.contains [m] = true ∧
      s.harbour.told.contains [m] = false ∧ (∃ e ∈ (s.core 0).queue, e.handle = m.1 ∧ e.idx = m.2.1 ∧ e.st = st ∧
        ∀ p ∈ s.cores, ∀ x ∈ p.2.queue, x.handle = m.1 → x.idx = m.2.1 → p.1 = 0 ∧ x = e) ∧ s.my.handler = false
    stands .running ∧ stands .waiting := by decide +kernel

theorem witness_SchedulingSteps_end :
    let e := entryAt 0x100000 .out
    let r := entryAt 0x100000 .running
    let s (x : QEntry) (h : Hart) : State := { sliced (slice 1 2) with cores := [(0, { bedCore h with queue := [x] })] }
    let saved : Hart := { hartWith [] with level := .s, handler := true, sup := { trapcause := 0x410 } }
    (s e {}).entryOf 0x100000 = some (0, e) ∧ (s r saved).entryOf 0x100000 = some (0, r) ∧
    (((s r saved).hart 0).handler = true ∧ ((s r saved).hart 0).saved = true) ∧
    ∃ p, (s e {}).slotOf e.handle = some p ∧ p.2.2.failed = false ∧ p.2.2.finished = false :=
  ⟨by decide +kernel, by decide +kernel, by decide +kernel, some_of (by decide +kernel)⟩

theorem witness_SchedulingSteps_late :
    let s := sliced (slice 1 1)
    let u := (s.die 0).slots.get 0
    let t : State := { s with dies := s.dies.mod 0 fun v => { v with atime := 5 } }
    u.live = true ∧ u.finished = false ∧ u.failed = false ∧ u.late = false ∧ u.cls = 1 ∧
    (u.rcd.getD 2 0).toNat ≤ (t.die 0).atime.toNat := by decide +kernel

theorem witness_SchedulingSteps_notices :
    let s := bed { hartWith [] with notices := [⟨0x12, 0x40⟩] }
    let d : DueTrap := { cause := 0x20, addr := 8, slot := some 0, resumable := true }
    let t := bed { hartWith [] with due := [d] }
    (s.my.notices = [⟨0x12, 0x40⟩] ∧ s.my.handler = false ∧ s.my.dueTrap = none ∧ s.noticeWaits 0 = false) ∧
    (t.my.due = [d] ∧ t.my.inval = none ∧ t.underWay 0 = false ∧ savingCause d.cause = false) ∧
    ({ s with harbour := { sampled := 1, beat := 1 } } : State).harbour.sampled ≠ s.master / 4000000 ∧ s.circlesNow = [] := by
  decide +kernel

theorem witness_SchedulingSteps_entries :
    let e := entryAt 0x100000 .out
    let s : State := { State.reset with cores := [(0, {}), (1, { queue := [e] })] }
    (0x100000 < 2 ^ 64 ∧ s.entryOf 0x100000 = some (1, e) ∧ e.st ≠ .running ∧ 1 ≠ 0 ∧ (s.core 0).inService = true ∧
      (s.die 0).inService = true ∧ dieAllowed e.dies 0 = true ∧ (s.core 0).queue.length < 64) ∧ s.slotOf e.handle = none ∧
    ((bed { hartWith [] with handler := true }).my.handler = true ∧ (bed (hartWith [])).my.handler = false ∧
      (bed (hartWith [])).my.due = [] ∧ (bed (hartWith [])).me.staging = none) := by decide +kernel

theorem witness_UnitSteps_retirement :
    let c := coreAs {}
    let r := agents {}
    let s : State := { r with link := { owntab := 0xC000000000 } }
    (c.me.gridGone.getLsbD 1 = false ∧ c.me.active = false ∧ c.me.retired.getLsbD 15 = false ∧ c.me.resident = none) ∧
    ((c.die 15).cacheGone.contains 255 = false ∧ (c.die 15).hbmGone.contains 191 = false) ∧ s.allRanges = [] ∧ s.ranges.moves = [] := by decide +kernel

theorem witness_UnitSteps_evacuation :
    let e : Evac := { seg := 5, dst := 9 }
    let s (e : Evac) : State := coreAs { evac := [e], evacuating := 1 }
    (s e).me.evac = [e] ∧ e.started = false ∧ (s { e with started := true, lines := 15 }).me.scrMarks = [] ∧
    ({ e with started := true, lines := 15 } : Evac).lines < 16 ∧ 16 ≤ ({ e with started := true, lines := 16 } : Evac).lines := by
  decide +kernel

theorem witness_UnitSteps_due :
    let s := bed { hartWith [] with due := [{ cause := 0x10, addr := 1 }], sup := { saveptr := 0x100000 } }
    let t := bed { hartWith [] with due := [{ cause := 0x11, addr := 0 }] }
    (s.me.active = true ∧ s.my.due = [{ cause := 0x10, addr := 1 }] ∧ s.me.staging = none) ∧
    t.my.due = [{ cause := 0x11, addr := 0 }] ∧ (s.die 3).inService = true ∧
    ({ s with dies := [(3, { mhz := 600 })] } : State).die 3 = { mhz := 600 } := by decide +kernel

/-- A package with an outside: windows, a peer entry, PTP on, and the owner table. -/
def outside (state : Nat) (stepped twoStep : Bool) : State :=
  { posting with
    ptp := { state := state, source := 1, stepped := stepped, twoStep := twoStep }
    link := { posting.link with
      windows := [(0, 0x1000), (1, 0x1000), (2, 0)], peers := [(0, 2), (1, 7), (2, 0), (3, 0x10000)], cache := [room] } }

theorem witness_OutsideSteps_time :
    let s := outside 1 true true
    let t := outside 1 false false
    (s.ptp.state = 1 ∧ s.ptp.stepped = true ∧ s.ptp.twoStep = true) ∧
    (t.ptp.stepped = false ∧ (-4000001 : Int) < -4000000 ∧ t.flights = [] ∧ (t.die 0).held = []) ∧
    (outside 2 true false).ptp.state = 2 ∧ (1 = 1 ∨ 1 = (2 : Nat)) := by decide +kernel

theorem witness_OutsideSteps_host :
    let s := outside 0 false false
    let data : List Byte := [1, 2, 3]
    s.down = false ∧ data ≠ [] ∧ s.windowAt 0xFFD data.length = some (0x1FFD, 0) ∧ s.windowAt 0xFFE data.length = none ∧
    (s.regBytes 0x20005000 8).length = 8 ∧ 0x20005000 + 8 ≤ 2 ^ 30 ∧ s.delay = false ∧ ({ s with delay := true } : State).windowAt 0xFFD 3 = some (0x1FFD, 0) ∧ s.link.held = [] ∧
    (match s.hostAccess 0 0x1FFD .write (storeReqs 0x1FFD 3 (ofBytes data)) with
      | .done f _ _ => f.fails == []
      | _ => false) = true ∧
    (match s.hostAccess 0 0x1FFD .read (spanReqs 0x1FFD 3) with
      | .done f false _ => f.fails == [] && (gather f.got 0x1FFD 3).isSome
      | _ => false) = true := by decide +kernel

theorem witness_OutsideSteps_peer :
    let s := outside 0 false false
    s.peerEntry 6 0x40 64 = none ∧ s.incoming 0x40 = false ∧ s.peerEntry 7 0x40 64 = some 0 ∧ s.physRead 0x40 0 0 = .ok 0 ∧ ∀ x, s.region 0x40 ≠ .mmio x :=
  ⟨by decide +kernel, by decide +kernel, by decide +kernel, ok_of (by decide +kernel), fun x h => by
    have : (match (outside 0 false false).region 0x40 with
      | .mmio _ => true
      | _ => false) = false := by decide +kernel
    rw [h] at this
    simp at this⟩

/-- A request for a circuit from die 0 to die 3 of 4 wavelengths (R359), and that circuit in some state. -/
def circuit (state : Nat) : Word := BitVec.ofNat 64 (0 + 3 * 16 + 4 * 256 + state * 65536)

theorem witness_OutsideSteps_circuits :
    let s (st : Nat) : State := { outside 0 false false with link := { (outside 0 false false).link with conn := [(87, circuit st)] } }
    (connState (circuit 1) = 1 ∧ connState ((s 0).link.entry 24) = 0 ∧ connSrc (circuit 1) ≠ connDst (circuit 1) ∧
      1 ≤ connWaves (circuit 1) ∧ connWaves (circuit 1) ≤ 64 ∧ (circuit 1).toNat / 2 ^ 18 = 0 ∧ (circuit 1).toNat / 2 ^ 15 % 2 = 0 ∧
      (s 0).link.paired 0 3 = false ∧ ((s 0).die 0).inService = true ∧ ((s 0).die 3).inService = true) ∧
    connState ((s 2).link.entry 87) = 2 ∧
    (connState ((s 0).link.entry 23) = 2 ∧ 2 < connWaves ((s 0).link.entry 23) ∧ connWaves ((s 0).link.entry 23) ≤ 64) ∧
    (connState ((s 1).link.entry 87) = 1 ∧ connWaves (circuit 1) ≤ (s 1).link.freeWaves 0 ∧ connWaves (circuit 1) ≤ (s 1).link.freeWaves 3) ∧
    (connState ((s 3).link.entry 87) = 3 ∧ (s 3).link.routes = []) := by decide +kernel

/-- An access that was sent before a route changed has still to arrive, or has arrived. -/
theorem witness_OutsideSteps_routes :
    let f := onWay 0 .write .drop [⟨0x40, 0x40, .mem 0x40 1 none, false, 1, 1⟩]
    let s (now : Word) : State := { waitingFor [f] with
      link := { routes := [(0, 1, 1)] }
      dies := [(0, { atime := now }), (1, { atime := now })] }
    ((s 0).link.routes.find? (fun r => r.1 == 0 && r.2.1 == 1) = some (0, 1, 1) ∧ f.bound 0 1 = true ∧ f.sent < 1 ∧
      f.accepted = false ∧ (s 0).arrived f = false) ∧
    ((s 9).link.routes = [(0, 1, 1)] ∧ (s 9).arrived f = true) := by decide +kernel

theorem witness_OutsideSteps_registers :
    let s := outside 0 false false
    s.link.tripped = false ∧ s.link.recovery = false ∧ 0x1F0 < 0x200 ∧ 0x1F0 % 8 = 0 ∧ 0x1F0 / 8 % 4 = 2 ∧
    (4095 : Word).toNat < 4096 ∧ 1 ≠ 0 ∧ 4095 ≤ 4095 := by decide +kernel

end Sys2Proof.Tests
end

section
/-! SUPPORT. Storage (R5, R61, R67): which store of bytes a physical address reaches, and what a store of a block leaves of each.
Settles O54. -/

namespace Sys2Proof.Machine

/-! ### Tables searched by key -/

theorem Tbl.find?_del_same {α : Type} (t : Tbl α) (k : Nat) : (t.del k).find? (fun p => p.1 == k) = none := by
  simp [Tbl.del]

theorem Tbl.find?_del_ne {α : Type} (t : Tbl α) {j k : Nat} (h : j ≠ k) :
    (t.del k).find? (fun p => p.1 == j) = t.find? (fun p => p.1 == j) := by
  rw [Tbl.del, List.find?_filter]
  congr 1
  funext p
  by_cases e : p.1 = j
  · simp [e, h]
  · simp [e]

theorem Tbl.find?_put_ne {α : Type} (t : Tbl α) {j k : Nat} (v : α) (h : j ≠ k) :
    (t.put k v).find? (fun p => p.1 == j) = t.find? (fun p => p.1 == j) := by
  have hk : k ≠ j := Ne.symm h
  induction t with
  | nil => simp [Tbl.put, hk]
  | cons p rest ih =>
    obtain ⟨i, w⟩ := p
    unfold Tbl.put
    split
    · next e => simp [e, hk]
    · split
      · simp [hk]
      · simp only [List.find?_cons, ih]

/-- A key that is not listed has nothing to delete. -/
theorem Tbl.del_of_find?_none {α : Type} {t : Tbl α} {k : Nat} (h : t.find? (fun p => p.1 == k) = none) : t.del k = t := by
  rw [Tbl.del, List.filter_eq_self]
  intro p hp
  simpa using List.find?_eq_none.mp h p hp

/-! ### Blocks of memory -/

/-- A store that succeeds replaces the block and leaves it without an error mark (R67). -/
theorem Mem.write_ok {m n : Mem} {pa : Nat} {cred : Option (Nat × Nat)} {val mask : BitVec 512}
    (h : m.write pa cred val mask = .ok n) :
    n = { m.setBlock pa cred val mask with marks := m.marks.del (pa / 64) } := by
  unfold Mem.write at h
  split at h
  · split at h <;> cases h
    rfl
  · next hm =>
    cases h
    rw [Tbl.del_of_find?_none (Option.map_eq_none_iff.mp hm)]
    rfl

/-- The block just stored to, read in the same name. -/
theorem Mem.read_write_same {m n : Mem} {pa : Nat} {cred : Option (Nat × Nat)} {val mask b : BitVec 512}
    (h : m.write pa cred val mask = .ok n) (hr : m.read pa cred = .ok b) : n.read pa cred = .ok (patch b val mask) := by
  have hb : m.view pa cred = b := by
    unfold Mem.read at hr
    split at hr <;> cases hr
    rfl
  have hmark : n.mark pa = none := by
    rw [Mem.write_ok h, Mem.mark, Tbl.find?_del_same, Option.map_none]
  have hview : n.view pa cred = patch b val mask := by
    rw [← hb, ← Mem.view_setBlock, Mem.write_ok h]
    rfl
  simp only [Mem.read, hmark, hview]

/-- The key and tweak recorded for another block stay. -/
theorem Mem.setBlock_find_tag_ne (m : Mem) {pa q : Nat} (cred : Option (Nat × Nat)) (val mask : BitVec 512)
    (h : q / 64 ≠ pa / 64) :
    (m.setBlock pa cred val mask).tags.find? (fun p => p.1 == q / 64) = m.tags.find? (fun p => p.1 == q / 64) := by
  cases cred with
  | none => exact Tbl.find?_del_ne _ h
  | some c => exact Tbl.find?_put_ne _ c h

/-- Another block, read in any name. -/
theorem Mem.read_write_ne {m n : Mem} {pa q : Nat} {cred : Option (Nat × Nat)} {val mask : BitVec 512}
    (h : m.write pa cred val mask = .ok n) (hpa : pa % 64 = 0) (hq : q % 64 = 0) (hne : q ≠ pa) (c : Option (Nat × Nat)) :
    n.read q c = m.read q c := by
  have hblk : q / 64 ≠ pa / 64 := by omega
  have hmark : n.mark q = m.mark q := by
    rw [Mem.write_ok h, Mem.mark, Tbl.find?_del_ne _ hblk, Mem.mark]
  have hcells : cellsRead n.cells q 64 = cellsRead m.cells q 64 := by
    rw [Mem.write_ok h]
    exact cellsRead_write_ne _ (by omega)
  have htag : n.tags.find? (fun p => p.1 == q / 64) = m.tags.find? (fun p => p.1 == q / 64) := by
    rw [Mem.write_ok h]
    exact Mem.setBlock_find_tag_ne m cred val mask hblk
  simp only [Mem.read, Mem.view, hmark, hcells, htag]

/-! ### Blocks of a scratchpad -/

/-- Where a byte of the logical scratchpad lies in the physical one (R48). -/
def Core.scrPlace (c : Core) (off : Nat) : Nat := c.pseg (off / 4096) * 4096 + off % 4096

/-- A read of a scratchpad block: the map of its segment, then the error mark of its place, then the bytes there. -/
theorem Core.scrRead_eq (c : Core) (off : Nat) : c.scrRead off =
    if c.segValid (off / 4096) then
      (c.scrMarks.find? (fun p => p.1 == c.scrPlace off / 64)).elim
        (.ok (BitVec.ofNat 512 (cellsRead c.scr (c.scrPlace off) 64))) (fun p => .error p.2)
    else .error 0x08 := by
  unfold Core.scrRead Core.scrPlace
  cases c.segValid (off / 4096) with
  | false => rfl
  | true =>
    dsimp only
    cases c.scrMarks.find? (fun p => p.1 == (c.pseg (off / 4096) * 4096 + off % 4096) / 64) <;> rfl

theorem Core.scrRead_ok_iff (c : Core) (off : Nat) (b : BitVec 512) :
    c.scrRead off = .ok b ↔ c.segValid (off / 4096) = true ∧
      c.scrMarks.find? (fun p => p.1 == c.scrPlace off / 64) = none ∧
      BitVec.ofNat 512 (cellsRead c.scr (c.scrPlace off) 64) = b := by
  rw [Core.scrRead_eq]
  cases c.segValid (off / 4096) with
  | false => simp
  | true => cases c.scrMarks.find? (fun p => p.1 == c.scrPlace off / 64) <;> simp

/-- A store that succeeds replaces the bytes of one block, over what the block read as, and clears its error mark (R67). -/
theorem Core.scrWrite_ok {c d : Core} {off : Nat} {val mask : BitVec 512} (h : c.scrWrite off val mask = .ok d) :
    ∃ old : BitVec 512, (∀ b, c.scrRead off = .ok b → old = b) ∧
      d = { c with scr := cellsWrite c.scr (c.scrPlace off) 64 (patch old val mask).toNat
                   scrMarks := c.scrMarks.del (c.scrPlace off / 64) } := by
  unfold Core.scrWrite at h
  split at h
  · cases h
  · dsimp only at h
    split at h
    · next e hm =>
      split at h <;> cases h
      refine ⟨0, fun b hb => ?_, rfl⟩
      obtain ⟨-, hnone, -⟩ := (Core.scrRead_ok_iff c off b).mp hb
      unfold Core.scrPlace at hnone
      simp [hnone] at hm
    · next hm =>
      cases h
      refine ⟨_, fun b hb => ((Core.scrRead_ok_iff c off b).mp hb).2.2, ?_⟩
      rw [Core.scrPlace, Tbl.del_of_find?_none (Option.map_eq_none_iff.mp hm)]
      rfl

theorem Core.scrWrite_hart {c d : Core} {off : Nat} {val mask : BitVec 512} (h : c.scrWrite off val mask = .ok d) :
    d.hart = c.hart := by
  obtain ⟨old, -, rfl⟩ := Core.scrWrite_ok h
  rfl

/-- The scratchpad block just stored to. -/
theorem Core.scrRead_scrWrite_same {c d : Core} {off : Nat} {val mask b : BitVec 512} (h : c.scrWrite off val mask = .ok d)
    (hr : c.scrRead off = .ok b) : d.scrRead off = .ok (patch b val mask) := by
  obtain ⟨hseg, -, -⟩ := (Core.scrRead_ok_iff c off b).mp hr
  obtain ⟨old, hold, rfl⟩ := Core.scrWrite_ok h
  obtain rfl := hold b hr
  refine (Core.scrRead_ok_iff _ off _).mpr ⟨hseg, Tbl.find?_del_same _ _, ?_⟩
  show BitVec.ofNat 512 (cellsRead (cellsWrite c.scr (c.scrPlace off) 64 _) (c.scrPlace off) 64) = _
  rw [cellsRead_write_same, Nat.mod_eq_of_lt (BitVec.isLt _), BitVec.ofNat_toNat, BitVec.setWidth_eq]

/-- A block of the scratchpad in another place. -/
theorem Core.scrRead_scrWrite_ne {c d : Core} {off off' : Nat} {val mask : BitVec 512} (h : c.scrWrite off val mask = .ok d)
    (ha : off % 64 = 0) (ha' : off' % 64 = 0) (hne : c.scrPlace off' ≠ c.scrPlace off) : d.scrRead off' = c.scrRead off' := by
  have hal : c.scrPlace off % 64 = 0 := by unfold Core.scrPlace; omega
  have hal' : c.scrPlace off' % 64 = 0 := by unfold Core.scrPlace; omega
  obtain ⟨old, -, rfl⟩ := Core.scrWrite_ok h
  have hcells (x : Nat) : cellsRead (cellsWrite c.scr (c.scrPlace off) 64 x) (c.scrPlace off') 64 =
      cellsRead c.scr (c.scrPlace off') 64 := cellsRead_write_ne _ (by omega)
  have hmark := Tbl.find?_del_ne c.scrMarks (j := c.scrPlace off' / 64) (k := c.scrPlace off / 64) (by omega)
  rw [Core.scrRead_eq, Core.scrRead_eq c, ← hmark, ← hcells]
  rfl

/-! ### Physical addresses -/

/-- The store of bytes behind a physical address, as an owner's access reaches it (R13, R65). -/
inductive Seat where
  /-- Memory, under a key and tweak or under none. -/
  | memory (cred : Option (Nat × Nat))
  /-- An offset of a core's scratchpad, through its aperture. -/
  | scratch (core off : Nat)
  /-- No storage: the access is answered with cause 0x13. -/
  | nowhere

/-- The seat of a physical address that moves have been followed to. -/
def State.seat (s : State) (q owner tweak : Nat) : Seat :=
  match s.region q with
  | .hbm _ => .memory (s.credOf q owner tweak)
  | .second => .memory (s.credOf q owner tweak)
  | .host => .memory none
  | .peer e => if s.peerSet e then .memory none else .nowhere
  | .aperture k off => .scratch k off
  | _ => .nowhere

/-- A read at a seat. -/
def State.seatRead (s : State) (q : Nat) : Seat → Except Nat (BitVec 512)
  | .memory cred => s.mem.read q cred
  | .scratch k off => (s.core k).scrRead off
  | .nowhere => .error 0x13

/-- A store at a seat. -/
def State.seatWrite (s : State) (q : Nat) (val mask : BitVec 512) : Seat → Except Nat State
  | .memory cred =>
    match s.mem.write q cred val mask with
    | .ok m => .ok { s with mem := m }
    | .error e => .error e
  | .scratch k off =>
    match (s.core k).scrWrite off val mask with
    | .ok c => .ok (s.setCore k c)
    | .error e => .error e
  | .nowhere => .error 0x13

theorem State.physRead_eq (s : State) (pa owner tweak : Nat) :
    s.physRead pa owner tweak = s.seatRead (s.resolve pa) (s.seat (s.resolve pa) owner tweak) := by
  unfold State.physRead State.seat
  dsimp only
  cases s.region (s.resolve pa) with
  | peer e => dsimp only; cases s.peerSet e <;> rfl
  | _ => rfl

theorem State.physWrite_eq (s : State) (pa owner tweak : Nat) (val mask : BitVec 512) :
    s.physWrite pa owner tweak val mask =
      s.seatWrite (s.resolve pa) val mask (s.seat (s.resolve pa) owner tweak) := by
  unfold State.physWrite State.seat
  dsimp only
  cases s.region (s.resolve pa) with
  | peer e => dsimp only; cases s.peerSet e <;> rfl
  | _ => rfl

/-- What a store that succeeds does: it stores the block in memory, or in one core's scratchpad, and changes nothing else. -/
theorem State.physWrite_ok {s t : State} {pa owner tweak : Nat} {val mask : BitVec 512}
    (h : s.physWrite pa owner tweak val mask = .ok t) :
    (∃ cred m, s.seat (s.resolve pa) owner tweak = .memory cred ∧
      s.mem.write (s.resolve pa) cred val mask = .ok m ∧ t = { s with mem := m }) ∨
    (∃ k off c, s.seat (s.resolve pa) owner tweak = .scratch k off ∧
      (s.core k).scrWrite off val mask = .ok c ∧ t = s.setCore k c) := by
  rw [State.physWrite_eq] at h
  cases hs : s.seat (s.resolve pa) owner tweak with
  | memory cred =>
    cases hw : s.mem.write (s.resolve pa) cred val mask <;> simp [hs, State.seatWrite, hw] at h
    exact .inl ⟨cred, _, rfl, hw, h.symm⟩
  | scratch k off =>
    cases hw : (s.core k).scrWrite off val mask <;> simp [hs, State.seatWrite, hw] at h
    exact .inr ⟨k, off, _, rfl, hw, h.symm⟩
  | nowhere => simp [hs, State.seatWrite] at h

/-- New contents of memory change no address's seat. -/
theorem State.physRead_of_mem (s : State) (m : Mem) (q owner tweak : Nat) :
    ({ s with mem := m } : State).physRead q owner tweak =
      ({ s with mem := m } : State).seatRead (s.resolve q) (s.seat (s.resolve q) owner tweak) :=
  State.physRead_eq _ q owner tweak

/-- A core replaced changes no address's seat. -/
theorem State.physRead_setCore (s : State) (k : Nat) (c : Core) (q owner tweak : Nat) :
    (s.setCore k c).physRead q owner tweak =
      (s.setCore k c).seatRead (s.resolve q) (s.seat (s.resolve q) owner tweak) :=
  State.physRead_eq _ q owner tweak

/-- A core replaced by one with the same hart leaves the hart in hand. -/
theorem State.setCore_my (s : State) {k : Nat} {c : Core} (h : c.hart = (s.core k).hart) : (s.setCore k c).my = s.my := by
  show ((s.setCore k c).core s.cur).hart = (s.core s.cur).hart
  by_cases e : s.cur = k
  · rw [e, State.core_setCore_same, h]
  · rw [State.core_setCore_ne s c e]

/-! ### The place of a block -/

/-- The place of the block at a physical address that moves have been followed to. -/
def State.blockPlace (s : State) (q : Nat) : Option (Option Nat × Nat) :=
  match s.region q with
  | .aperture k off =>
    if (s.core k).segValid (off / 4096) ∧ off % 64 = 0 then some (some k, (s.core k).scrPlace off) else none
  | .hbm _ => if q % 64 = 0 then some (none, q) else none
  | .second => if q % 64 = 0 then some (none, q) else none
  | .host => if q % 64 = 0 then some (none, q) else none
  | .peer _ => if q % 64 = 0 then some (none, q) else none
  | _ => none

theorem place_eq_blockPlace {s : State} {q : Nat} (h : (Claim.place s (.mem q 0 none)).isSome = true) :
    Claim.place s (.mem q 0 none) = s.blockPlace (s.resolve q) := by
  unfold Claim.place at h ⊢
  dsimp only at h ⊢
  cases hr : s.region q with
  | mmio => rw [hr] at h; cases h
  | _ => unfold State.blockPlace; rfl

theorem State.blockPlace_of_seat_memory {s : State} {q owner tweak : Nat} {cred : Option (Nat × Nat)}
    (hseat : s.seat q owner tweak = .memory cred) : s.blockPlace q = if q % 64 = 0 then some (none, q) else none := by
  unfold State.seat at hseat
  unfold State.blockPlace
  cases hr : s.region q with
  | hbm | second | host | peer => rfl
  | aperture | mmio | unfitted | unassigned => rw [hr] at hseat; cases hseat

theorem State.blockPlace_of_seat_scratch {s : State} {q owner tweak k off : Nat}
    (hseat : s.seat q owner tweak = .scratch k off) : s.blockPlace q =
      if (s.core k).segValid (off / 4096) ∧ off % 64 = 0 then some (some k, (s.core k).scrPlace off) else none := by
  unfold State.seat at hseat
  unfold State.blockPlace
  cases hr : s.region q with
  | aperture => rw [hr] at hseat; cases hseat; rfl
  | peer => rw [hr] at hseat; dsimp only at hseat; split at hseat <;> cases hseat
  | _ => rw [hr] at hseat; cases hseat

/-- A block with a place and a seat in memory is aligned, and its place is its address. -/
theorem place_of_seat_memory {s : State} {q owner tweak : Nat} {cred : Option (Nat × Nat)}
    (hseat : s.seat (s.resolve q) owner tweak = .memory cred) (hp : (Claim.place s (.mem q 0 none)).isSome = true) :
    s.resolve q % 64 = 0 ∧ Claim.place s (.mem q 0 none) = some (none, s.resolve q) := by
  have hplace := (place_eq_blockPlace hp).trans (State.blockPlace_of_seat_memory hseat)
  by_cases hal : s.resolve q % 64 = 0
  · exact ⟨hal, hplace.trans (if_pos hal)⟩
  · rw [hplace, if_neg hal] at hp; cases hp

/-- A block with a place and a seat in a scratchpad is aligned, and its place is that of its offset. -/
theorem place_of_seat_scratch {s : State} {q owner tweak k off : Nat}
    (hseat : s.seat (s.resolve q) owner tweak = .scratch k off) (hp : (Claim.place s (.mem q 0 none)).isSome = true) :
    off % 64 = 0 ∧ Claim.place s (.mem q 0 none) = some (some k, (s.core k).scrPlace off) := by
  have hplace := (place_eq_blockPlace hp).trans (State.blockPlace_of_seat_scratch hseat)
  by_cases hal : (s.core k).segValid (off / 4096) ∧ off % 64 = 0
  · exact ⟨hal.2, hplace.trans (if_pos hal)⟩
  · rw [hplace, if_neg hal] at hp; cases hp

/-! ### Stores -/

theorem State.physWrite_keeps_wf {s t : State} {pa owner tweak : Nat} {val mask : BitVec 512}
    (h : s.physWrite pa owner tweak val mask = .ok t) (hwf : s.mem.wf) : t.mem.wf := by
  obtain ⟨_, _, -, hw, rfl⟩ | ⟨_, _, _, -, -, rfl⟩ := State.physWrite_ok h
  · exact Mem.wf_write hwf hw
  · exact hwf

theorem State.physWrite_my {s t : State} {pa owner tweak : Nat} {val mask : BitVec 512}
    (h : s.physWrite pa owner tweak val mask = .ok t) : t.my = s.my := by
  obtain ⟨_, _, -, -, rfl⟩ | ⟨_, _, _, -, hw, rfl⟩ := State.physWrite_ok h
  · rfl
  · exact s.setCore_my (Core.scrWrite_hart hw)

theorem State.physWrite_dies {s t : State} {pa owner tweak : Nat} {val mask : BitVec 512}
    (h : s.physWrite pa owner tweak val mask = .ok t) : t.dies = s.dies := by
  obtain ⟨_, _, -, -, rfl⟩ | ⟨_, _, _, -, -, rfl⟩ := State.physWrite_ok h <;> rfl

/-- The block just stored to, read in the same name: its old contents, with the bytes of the mask replaced. -/
theorem State.physRead_physWrite_same {s t : State} {pa owner tweak : Nat} {val mask b : BitVec 512}
    (h : s.physWrite pa owner tweak val mask = .ok t) (hr : s.physRead pa owner tweak = .ok b) :
    t.physRead pa owner tweak = .ok (patch b val mask) := by
  rw [State.physRead_eq] at hr
  obtain ⟨cred, m, hs, hw, rfl⟩ | ⟨k, off, c, hs, hw, rfl⟩ := State.physWrite_ok h
  · rw [State.physRead_of_mem, hs]
    rw [hs] at hr
    exact Mem.read_write_same hw hr
  · rw [State.physRead_setCore, hs]
    rw [hs] at hr
    show ((s.setCore k c).core k).scrRead off = _
    rw [State.core_setCore_same]
    exact Core.scrRead_scrWrite_same hw hr

/-- A block in another place, read in any name. -/
theorem State.physRead_physWrite_ne {s t : State} {pa owner tweak q : Nat} {val mask : BitVec 512}
    (h : s.physWrite pa owner tweak val mask = .ok t)
    (hq : (Claim.place s (.mem q 0 none)).isSome = true) (hpa : (Claim.place s (.mem pa 0 none)).isSome = true)
    (hne : Claim.place s (.mem q 0 none) ≠ Claim.place s (.mem pa 0 none)) (o w : Nat) :
    t.physRead q o w = s.physRead q o w := by
  rw [State.physRead_eq s]
  obtain ⟨cred, m, hs, hw, rfl⟩ | ⟨k, off, c, hs, hw, rfl⟩ := State.physWrite_ok h
  · obtain ⟨hal, hplace⟩ := place_of_seat_memory hs hpa
    rw [State.physRead_of_mem]
    cases hsq : s.seat (s.resolve q) o w with
    | memory cred' =>
      obtain ⟨halq, hplaceq⟩ := place_of_seat_memory hsq hq
      have hdiff : s.resolve q ≠ s.resolve pa := fun e => hne (by rw [hplaceq, hplace, e])
      exact Mem.read_write_ne hw hal halq hdiff cred'
    | scratch | nowhere => rfl
  · obtain ⟨hal, hplace⟩ := place_of_seat_scratch hs hpa
    rw [State.physRead_setCore]
    cases hsq : s.seat (s.resolve q) o w with
    | memory | nowhere => rfl
    | scratch k' off' =>
      obtain ⟨halq, hplaceq⟩ := place_of_seat_scratch hsq hq
      show ((s.setCore k c).core k').scrRead off' = (s.core k').scrRead off'
      by_cases e : k' = k
      · subst e
        have hdiff : (s.core k').scrPlace off' ≠ (s.core k').scrPlace off := fun e => hne (by rw [hplaceq, hplace, e])
        rw [State.core_setCore_same]
        exact Core.scrRead_scrWrite_ne hw hal halq hdiff
      · rw [State.core_setCore_ne s c e]

/-- Settles O54: a store reaches one block of one seat, and a block in another place shares neither its bytes, its key nor its
error mark. -/
theorem storageReads : Obligations.StorageReads := by
  unfold Obligations.StorageReads
  intro s t pa owner tweak val mask h
  exact ⟨State.physWrite_keeps_wf h, congrArg Hart.x (State.physWrite_my h), State.physWrite_dies h,
    fun _ hr => State.physRead_physWrite_same h hr,
    fun _ o w hq hpa hne => State.physRead_physWrite_ne h hq hpa hne o w⟩

end Sys2Proof.Machine
end

section
/-! SUPPORT. Stores and loads at their homes (R105, R109, R248): what a store of some blocks leaves of every block of storage, and
how a step that performs an access goes on from there. -/

namespace Sys2Proof.Machine

/-! ### Lists by position -/

/-- A change that does nothing to the element at its position changes nothing. -/
theorem modAt_fixed {α : Type} {l : List α} {k : Nat} {x : α} {f : α → α} (h : l[k]? = some x) (hf : f x = x) :
    modAt l k f = l := by
  induction l generalizing k with
  | nil => rfl
  | cons y ys ih =>
    cases k with
    | zero => cases h; rw [modAt, hf]
    | succ k => rw [modAt, ih h]

theorem modAt_of_fixes {α : Type} {f : α → α} (h : ∀ x, f x = x) (l : List α) (k : Nat) : modAt l k f = l := by
  induction l generalizing k with
  | nil => rfl
  | cons y ys ih => cases k <;> simp [modAt, h, ih]

/-- Two changes that agree on the element at their position agree. -/
theorem modAt_congr {α : Type} {l : List α} {k : Nat} {x : α} {f g : α → α} (h : l[k]? = some x) (hfg : f x = g x) :
    modAt l k f = modAt l k g := by
  induction l generalizing k with
  | nil => rfl
  | cons y ys ih =>
    cases k with
    | zero => cases h; rw [modAt, modAt, hfg]
    | succ k => rw [modAt, modAt, ih h]

/-! ### The map of storage -/

/-- Two states find every block in one place: they agree on the address map and the peers, on the moves, and on the bank maps. -/
structure SameMap (s t : State) : Prop where
  link : t.link = s.link
  moves : t.ranges.moves = s.ranges.moves
  bank : ∀ k, (t.core k).bank = (s.core k).bank

theorem SameMap.refl (s : State) : SameMap s s := ⟨rfl, rfl, fun _ => rfl⟩

theorem SameMap.of_cores {s t : State} (hlink : t.link = s.link) (hmoves : t.ranges.moves = s.ranges.moves)
    (hcores : t.cores = s.cores) : SameMap s t :=
  ⟨hlink, hmoves, fun k => by unfold State.core; rw [hcores]⟩

theorem SameMap.bankEnt {s t : State} (h : SameMap s t) (k seg : Nat) : (t.core k).bankEnt seg = (s.core k).bankEnt seg := by
  unfold Core.bankEnt; rw [h.bank]

theorem SameMap.region {s t : State} (h : SameMap s t) (pa : Nat) : t.region pa = s.region pa := by
  unfold State.region; rw [h.link]

theorem SameMap.resolve {s t : State} (h : SameMap s t) (pa : Nat) : t.resolve pa = s.resolve pa := by
  unfold State.resolve; rw [h.moves]

theorem SameMap.seat {s t : State} (h : SameMap s t) (q owner tweak : Nat) : t.seat q owner tweak = s.seat q owner tweak := by
  have hpeer (e : Nat) : t.peerSet e = s.peerSet e := by
    unfold State.peerSet State.peerClean State.peerWord; rw [h.link]
  have hcred : t.credOf q owner tweak = s.credOf q owner tweak := by
    unfold State.credOf; rw [h.region, h.link]
  unfold State.seat
  simp only [h.region, hpeer, hcred]

theorem SameMap.place {s t : State} (h : SameMap s t) (l : Loc) : Claim.place t l = Claim.place s l := by
  have hseg (k seg : Nat) : (t.core k).segValid seg = (s.core k).segValid seg := by
    unfold Core.segValid; rw [h.bankEnt]
  have hpseg (k seg : Nat) : (t.core k).pseg seg = (s.core k).pseg seg := by
    unfold Core.pseg; rw [h.bankEnt]
  unfold Claim.place
  cases l with
  | bad c => rfl
  | scr k off => simp only [hseg, hpseg]
  | mem pa home cred => simp only [hseg, hpseg, h.region, h.resolve]

/-! ### What a store leaves alone -/

/-- Only bytes of memory and of scratchpads, with their keys and marks, may differ. -/
def OnlyStored (s t : State) : Prop :=
  t = { s with mem := t.mem, cores := t.cores } ∧
  ∀ k, t.core k = { s.core k with scr := (t.core k).scr, scrMarks := (t.core k).scrMarks }

theorem OnlyStored.refl (s : State) : OnlyStored s s := ⟨rfl, fun _ => rfl⟩

theorem OnlyStored.trans {s t u : State} (h : OnlyStored s t) (g : OnlyStored t u) : OnlyStored s u := by
  obtain ⟨hst, hcore⟩ := h
  obtain ⟨hgt, gcore⟩ := g
  refine ⟨?_, fun k => ?_⟩
  · rw [hgt, hst]
  · rw [gcore k, hcore k]

theorem OnlyStored.flights {s t : State} (h : OnlyStored s t) : t.flights = s.flights := by rw [h.1]
theorem OnlyStored.dies {s t : State} (h : OnlyStored s t) : t.dies = s.dies := by rw [h.1]

theorem OnlyStored.sameMap {s t : State} (h : OnlyStored s t) : SameMap s t :=
  ⟨by rw [h.1], by rw [h.1], fun k => by rw [h.2 k]⟩

/-- A core whose scratchpad alone is stored to. -/
theorem onlyStored_setCore {s : State} {k off : Nat} {c : Core} {val mask : BitVec 512}
    (h : (s.core k).scrWrite off val mask = .ok c) : OnlyStored s (s.setCore k c) := by
  obtain ⟨old, -, rfl⟩ := Core.scrWrite_ok h
  refine ⟨rfl, fun j => ?_⟩
  by_cases e : j = k
  · subst e; rw [State.core_setCore_same]
  · rw [State.core_setCore_ne _ _ e]

/-! ### The seat of a block as an access names it -/

/-- Where an access that names a location reaches storage: the address, moves followed, and the store of bytes behind it. -/
def State.homeSeat (s : State) : Loc → Nat × Seat
  | .bad _ => (0, .nowhere)
  | .scr k off => (0, .scratch k off)
  | .mem pa _ cred => (s.resolve pa, s.seat (s.resolve pa) (cred.getD (0, 0)).1 (cred.getD (0, 0)).2)

theorem SameMap.homeSeat {s t : State} (h : SameMap s t) (l : Loc) : t.homeSeat l = s.homeSeat l := by
  unfold State.homeSeat
  cases l with
  | mem pa home cred => simp only [h.resolve, h.seat]
  | bad | scr => rfl

/-- A block that has a place is no register's. -/
theorem region_ne_mmio_of_place {s : State} {pa home off : Nat} {cred : Option (Nat × Nat)}
    (h : (Claim.place s (.mem pa home cred)).isSome = true) : s.region pa ≠ .mmio off := by
  intro e
  simp [Claim.place, e] at h

/-- A read of a block that has a place reads its seat. -/
theorem State.homeRead_eq {s : State} {l : Loc} (h : (Claim.place s l).isSome = true) (plain : Bool) :
    s.homeRead plain l = s.seatRead (s.homeSeat l).1 (s.homeSeat l).2 := by
  cases l with
  | bad c => simp [Claim.place] at h
  | scr k off => rfl
  | mem pa home cred =>
    have hmmio (off : Nat) : s.region pa ≠ .mmio off := region_ne_mmio_of_place h
    unfold State.homeRead State.homeSeat
    dsimp only
    split
    · next off e => exact absurd e (hmmio off)
    · cases cred <;> exact State.physRead_eq ..

/-- A store to a block that has a place stores at its seat. -/
theorem State.homeWrite_eq {s : State} {l : Loc} (h : (Claim.place s l).isSome = true) (plain : Bool) (lvl : Level)
    (val mask : BitVec 512) :
    s.homeWrite plain lvl l val mask = s.seatWrite (s.homeSeat l).1 val mask (s.homeSeat l).2 := by
  cases l with
  | bad c => simp [Claim.place] at h
  | scr k off => rfl
  | mem pa home cred =>
    have hmmio (off : Nat) : s.region pa ≠ .mmio off := region_ne_mmio_of_place h
    unfold State.homeWrite State.homeSeat
    dsimp only
    split
    · next off e => exact absurd e (hmmio off)
    · cases cred <;> exact State.physWrite_eq ..

/-- States with one map and the same bytes read alike. -/
theorem SameMap.homeRead {s t : State} {l : Loc} (h : SameMap s t) (hmem : t.mem = s.mem) (hcores : t.cores = s.cores)
    (hp : (Claim.place s l).isSome = true) (plain : Bool) : t.homeRead plain l = s.homeRead plain l := by
  rw [State.homeRead_eq hp, State.homeRead_eq ((h.place l).symm ▸ hp), h.homeSeat]
  unfold State.seatRead State.core
  rw [hmem, hcores]

/-- The place of a block whose seat is in memory. -/
theorem place_of_homeSeat_memory {s : State} {l : Loc} {q : Nat} {cred : Option (Nat × Nat)}
    (hs : s.homeSeat l = (q, .memory cred)) (h : (Claim.place s l).isSome = true) :
    q % 64 = 0 ∧ Claim.place s l = some (none, q) := by
  cases l with
  | bad | scr => cases hs
  | mem pa home c =>
    obtain ⟨rfl, hseat⟩ := Prod.mk.inj hs
    exact place_of_seat_memory hseat h

/-- The place of a block whose seat is in a scratchpad. -/
theorem place_of_homeSeat_scratch {s : State} {l : Loc} {q k off : Nat}
    (hs : s.homeSeat l = (q, .scratch k off)) (h : (Claim.place s l).isSome = true) :
    off % 64 = 0 ∧ Claim.place s l = some (some k, (s.core k).scrPlace off) := by
  cases l with
  | bad => cases hs
  | mem pa home c => exact place_of_seat_scratch (Prod.mk.inj hs).2 h
  | scr j o =>
    cases hs
    by_cases hal : (s.core k).segValid (off / 4096) = true ∧ off % 64 = 0
    · exact ⟨hal.2, if_pos hal⟩
    · have hnone : Claim.place s (.scr k off) = none := if_neg hal
      rw [hnone] at h; cases h

/-! ### A block stored at its home -/

/-- What a store that succeeds does: it stores the block in memory, or in one core's scratchpad, and changes nothing else. -/
theorem State.homeWrite_ok {s t : State} {plain : Bool} {lvl : Level} {l : Loc} {val mask : BitVec 512}
    (hp : (Claim.place s l).isSome = true) (h : s.homeWrite plain lvl l val mask = .ok t) :
    (∃ q cred m, s.homeSeat l = (q, .memory cred) ∧ s.mem.write q cred val mask = .ok m ∧ t = { s with mem := m }) ∨
    (∃ q k off c, s.homeSeat l = (q, .scratch k off) ∧ (s.core k).scrWrite off val mask = .ok c ∧ t = s.setCore k c) := by
  rw [State.homeWrite_eq hp] at h
  rcases hs : s.homeSeat l with ⟨q, seat⟩
  rw [hs] at h
  cases seat with
  | memory cred =>
    cases hw : s.mem.write q cred val mask <;> simp [State.seatWrite, hw] at h
    exact .inl ⟨q, cred, _, rfl, hw, h.symm⟩
  | scratch k off =>
    cases hw : (s.core k).scrWrite off val mask <;> simp [State.seatWrite, hw] at h
    exact .inr ⟨q, k, off, _, rfl, hw, h.symm⟩
  | nowhere => simp [State.seatWrite] at h

theorem State.homeWrite_onlyStored {s t : State} {plain : Bool} {lvl : Level} {l : Loc} {val mask : BitVec 512}
    (hp : (Claim.place s l).isSome = true) (h : s.homeWrite plain lvl l val mask = .ok t) : OnlyStored s t := by
  obtain ⟨_, _, _, -, -, rfl⟩ | ⟨_, _, _, _, -, hw, rfl⟩ := State.homeWrite_ok hp h
  · exact ⟨rfl, fun _ => rfl⟩
  · exact onlyStored_setCore hw

/-- A block that can be read takes a store (R67). -/
theorem State.homeWrite_of_read {s : State} {plain : Bool} {l : Loc} {b : BitVec 512} (hp : (Claim.place s l).isSome = true)
    (hr : s.homeRead plain l = .ok b) (lvl : Level) (val mask : BitVec 512) :
    ∃ t, s.homeWrite plain lvl l val mask = .ok t := by
  rw [State.homeRead_eq hp] at hr
  rw [State.homeWrite_eq hp]
  rcases hs : s.homeSeat l with ⟨q, seat⟩
  rw [hs] at hr
  cases seat with
  | memory cred =>
    have hmark : s.mem.mark q = none := by
      simp only [State.seatRead, Mem.read] at hr
      split at hr
      · cases hr
      · assumption
    exact ⟨_, by simp [State.seatWrite, Mem.write, hmark]; rfl⟩
  | scratch k off =>
    obtain ⟨hseg, hmark, -⟩ := (Core.scrRead_ok_iff _ _ _).mp hr
    unfold Core.scrPlace at hmark
    exact ⟨_, by
      simp only [State.seatWrite, Core.scrWrite, hseg, hmark, Option.map_none, Bool.not_true, Bool.false_eq_true, if_false]
      rfl⟩
  | nowhere => cases hr

/-- The block just stored to. -/
theorem State.homeRead_homeWrite_same {s t : State} {plain : Bool} {lvl : Level} {l : Loc} {val mask b : BitVec 512}
    (hp : (Claim.place s l).isSome = true) (h : s.homeWrite plain lvl l val mask = .ok t)
    (hr : s.homeRead plain l = .ok b) : t.homeRead plain l = .ok (patch b val mask) := by
  have hst := State.homeWrite_onlyStored hp h
  rw [State.homeRead_eq hp] at hr
  rw [State.homeRead_eq ((hst.sameMap.place l).symm ▸ hp), hst.sameMap.homeSeat]
  obtain ⟨q, cred, m, hs, hw, rfl⟩ | ⟨q, k, off, c, hs, hw, rfl⟩ := State.homeWrite_ok hp h
  · rw [hs] at hr ⊢
    exact Mem.read_write_same hw hr
  · rw [hs] at hr ⊢
    show ((s.setCore k c).core k).scrRead off = _
    rw [State.core_setCore_same]
    exact Core.scrRead_scrWrite_same hw hr

/-- A block in another place. -/
theorem State.homeRead_homeWrite_ne {s t : State} {plain : Bool} {lvl : Level} {l r : Loc} {val mask : BitVec 512}
    (hp : (Claim.place s l).isSome = true) (h : s.homeWrite plain lvl l val mask = .ok t)
    (hpr : (Claim.place s r).isSome = true) (hne : Claim.place s r ≠ Claim.place s l) :
    t.homeRead plain r = s.homeRead plain r := by
  have hst := State.homeWrite_onlyStored hp h
  rw [State.homeRead_eq hpr, State.homeRead_eq ((hst.sameMap.place r).symm ▸ hpr), hst.sameMap.homeSeat]
  rcases hsr : s.homeSeat r with ⟨qr, seat⟩
  obtain ⟨q, cred, m, hs, hw, rfl⟩ | ⟨q, k, off, c, hs, hw, rfl⟩ := State.homeWrite_ok hp h
  · obtain ⟨hal, hplace⟩ := place_of_homeSeat_memory hs hp
    cases seat with
    | memory cred' =>
      obtain ⟨halr, hplacer⟩ := place_of_homeSeat_memory hsr hpr
      have hdiff : qr ≠ q := fun e => hne (by rw [hplacer, hplace, e])
      exact Mem.read_write_ne hw hal halr hdiff cred'
    | scratch | nowhere => rfl
  · obtain ⟨hal, hplace⟩ := place_of_homeSeat_scratch hs hp
    cases seat with
    | memory | nowhere => rfl
    | scratch j o =>
      obtain ⟨halr, hplacer⟩ := place_of_homeSeat_scratch hsr hpr
      show ((s.setCore k c).core j).scrRead o = (s.core j).scrRead o
      by_cases e : j = k
      · subst e
        have hdiff : (s.core j).scrPlace o ≠ (s.core j).scrPlace off := fun e => hne (by rw [hplacer, hplace, e])
        rw [State.core_setCore_same]
        exact Core.scrRead_scrWrite_ne hw hal halr hdiff
      · rw [State.core_setCore_ne s c e]

end Sys2Proof.Machine
end

section
/-! SUPPORT. The blocks of an access perform at their home (R46, R105, R248): what the bytes hold after a store of some of them,
and what a load of some of them answers. -/

namespace Sys2Proof.Machine

/-! ### Some blocks of a store perform -/

/-- The contents of a block before and after a store of some pieces: those that name it replace the bits of their masks. -/
def BlockAfter (ps : List Piece) (l : Loc) (b c : BitVec 512) : Prop :=
  ∀ i, (∀ q ∈ ps, q.loc = l → q.mask.getLsbD i = true → c.getLsbD i = q.val.getLsbD i) ∧
    ((∀ q ∈ ps, q.loc = l → q.mask.getLsbD i = false) → c.getLsbD i = b.getLsbD i)

/-- Two masks with no bit in common. -/
theorem getLsbD_of_disjoint {m n : BitVec 512} (h : m &&& n = 0) {i : Nat} (hm : m.getLsbD i = true) : n.getLsbD i = false := by
  have hi := congrArg (·.getLsbD i) h
  simpa [hm] using hi

theorem patch_getLsbD (b val mask : BitVec 512) (i : Nat) :
    (patch b val mask).getLsbD i = if mask.getLsbD i then val.getLsbD i else b.getLsbD i := by
  unfold patch
  rw [BitVec.getLsbD_or, BitVec.getLsbD_and, BitVec.getLsbD_and, BitVec.getLsbD_not]
  by_cases hi : i < 512
  · cases mask.getLsbD i <;> simp [hi]
  · rw [BitVec.getLsbD_of_ge mask i (by omega), BitVec.getLsbD_of_ge b i (by omega)]
    simp

/-- A first piece that names the block, before pieces whose masks are disjoint from its own. -/
theorem blockAfter_cons_same {p : Piece} {ps : List Piece} {b c : BitVec 512}
    (hdis : ∀ q ∈ ps, q.loc = p.loc → p.mask &&& q.mask = 0) (h : BlockAfter ps p.loc (patch b p.val p.mask) c) :
    BlockAfter (p :: ps) p.loc b c := by
  intro i
  obtain ⟨hset, hkept⟩ := h i
  refine ⟨fun q hq hloc hm => ?_, fun hnone => ?_⟩
  · rcases List.mem_cons.mp hq with rfl | hq
    · rw [hkept fun r hr hrl => getLsbD_of_disjoint (hdis r hr hrl) hm, patch_getLsbD, if_pos hm]
    · exact hset q hq hloc hm
  · have hp : p.mask.getLsbD i = false := hnone p List.mem_cons_self rfl
    rw [hkept fun q hq => hnone q (List.mem_cons_of_mem _ hq), patch_getLsbD, hp]
    rfl

/-- A first piece that names another block. -/
theorem blockAfter_cons_ne {p : Piece} {ps : List Piece} {l : Loc} {b c : BitVec 512} (hne : p.loc ≠ l)
    (h : BlockAfter ps l b c) : BlockAfter (p :: ps) l b c := by
  intro i
  obtain ⟨hset, hkept⟩ := h i
  refine ⟨fun q hq hloc hm => ?_, fun hnone => hkept fun q hq => hnone q (List.mem_cons_of_mem _ hq)⟩
  rcases List.mem_cons.mp hq with rfl | hq
  · exact absurd hloc hne
  · exact hset q hq hloc hm

/-- A block that pieces may store to only in its own name reads as they leave it. -/
theorem writes_read {s t : State} {plain : Bool} {ps : List Piece} {l : Loc} {b : BitVec 512} (h : Claim.Writes s t plain ps)
    (hl : (Claim.place s l).isSome = true) (hname : ∀ q ∈ ps, Claim.place s q.loc = Claim.place s l → q.loc = l)
    (hr : s.homeRead plain l = .ok b) : ∃ c, t.homeRead plain l = .ok c ∧ BlockAfter ps l b c := by
  obtain ⟨hthere, helse⟩ := h
  by_cases hin : ∃ q ∈ ps, Claim.place s q.loc = Claim.place s l
  · obtain ⟨q, hq, hplace⟩ := hin
    obtain rfl := hname q hq hplace
    exact hthere q hq b hr
  · have hout : ∀ q ∈ ps, Claim.place s q.loc ≠ Claim.place s l := fun q hq e => hin ⟨q, hq, e⟩
    refine ⟨b, (helse l hl hout).trans hr, fun i => ⟨fun q hq e => ?_, fun _ => rfl⟩⟩
    exact absurd (congrArg (Claim.place s) e) (hout q hq)

/-- Pieces of an access that are left out answer no less. -/
theorem answers_sublist {s : State} {plain : Bool} {ps qs : List Piece} (h : Claim.Answers s plain ps) (hsub : qs.Sublist ps) :
    Claim.Answers s plain qs :=
  ⟨fun p hp => h.1 p (hsub.subset hp), h.2.sublist hsub⟩

/-- The pieces after a first one still answer when that has been stored. -/
theorem answers_after {s t : State} {plain : Bool} {lvl : Level} {p : Piece} {ps : List Piece}
    (h : Claim.Answers s plain (p :: ps)) (hw : s.homeWrite plain lvl p.loc p.val p.mask = .ok t) :
    Claim.Answers t plain ps := by
  obtain ⟨hall, hpair⟩ := h
  obtain ⟨hfirst, hrest⟩ := List.pairwise_cons.mp hpair
  have hp := (hall p List.mem_cons_self).2
  have hst := State.homeWrite_onlyStored hp hw
  constructor
  · intro q hq
    obtain ⟨⟨b, hb⟩, hplace⟩ := hall q (List.mem_cons_of_mem _ hq)
    refine ⟨?_, (hst.sameMap.place q.loc).symm ▸ hplace⟩
    by_cases e : Claim.place s p.loc = Claim.place s q.loc
    · rw [← (hfirst q hq e).1] at hb ⊢
      exact ⟨_, State.homeRead_homeWrite_same hp hw hb⟩
    · exact ⟨b, (State.homeRead_homeWrite_ne hp hw hplace (Ne.symm e)).trans hb⟩
  · simpa only [hst.sameMap.place] using hrest

/-- Pieces of an access that lie in one place have one name. -/
theorem answers_name {s : State} {plain : Bool} {ps : List Piece} (h : Claim.Answers s plain ps) :
    ∀ p ∈ ps, ∀ q ∈ ps, Claim.place s p.loc = Claim.place s q.loc → p.loc = q.loc := by
  intro p hp q hq
  let named (p q : Piece) : Prop := Claim.place s p.loc = Claim.place s q.loc → p.loc = q.loc
  have hsymm : Std.Symm named := ⟨fun _ _ hxy e => (hxy e.symm).symm⟩
  exact List.Pairwise.forall_of_forall (R := named) (fun _ _ _ => rfl) (h.2.imp fun hpq e => (hpq e).1) hp hq

/-- A store of one piece and then of others is a store of them all. -/
theorem writes_cons {s t u : State} {plain : Bool} {lvl : Level} {p : Piece} {ps : List Piece}
    (ha : Claim.Answers s plain (p :: ps)) (hw : s.homeWrite plain lvl p.loc p.val p.mask = .ok t)
    (h : Claim.Writes t u plain ps) : Claim.Writes s u plain (p :: ps) := by
  have hplace (r : Piece) (hr : r ∈ p :: ps) : (Claim.place s r.loc).isSome = true := (ha.1 r hr).2
  have hp := hplace p List.mem_cons_self
  have hst := State.homeWrite_onlyStored hp hw
  have hname : ∀ r ∈ p :: ps, ∀ q ∈ ps, Claim.place t q.loc = Claim.place t r.loc → q.loc = r.loc := by
    intro r hr q hq e
    rw [hst.sameMap.place, hst.sameMap.place] at e
    exact answers_name ha q (List.mem_cons_of_mem _ hq) r hr e
  constructor
  · intro r hr b hb
    by_cases e : Claim.place s p.loc = Claim.place s r.loc
    · have hloc : p.loc = r.loc := answers_name ha p List.mem_cons_self r hr e
      have hnames := hname r hr
      rw [← hloc] at hb hnames ⊢
      obtain ⟨c, hc, hafter⟩ := writes_read h ((hst.sameMap.place _).symm ▸ hp) hnames (State.homeRead_homeWrite_same hp hw hb)
      have hdis : ∀ q ∈ ps, q.loc = p.loc → p.mask &&& q.mask = 0 := fun q hq hl =>
        ((List.pairwise_cons.mp ha.2).1 q hq (by rw [hl])).2
      exact ⟨c, hc, blockAfter_cons_same hdis hafter⟩
    · have hkept := State.homeRead_homeWrite_ne hp hw (hplace r hr) (Ne.symm e)
      obtain ⟨c, hc, hafter⟩ := writes_read h ((hst.sameMap.place _).symm ▸ hplace r hr) (hname r hr) (hkept.trans hb)
      exact ⟨c, hc, blockAfter_cons_ne (fun hl => e (congrArg _ hl)) hafter⟩
  · intro l hl hout
    have hlater : ∀ q ∈ ps, Claim.place t q.loc ≠ Claim.place t l := fun q hq => by
      rw [hst.sameMap.place, hst.sameMap.place]; exact hout q (List.mem_cons_of_mem _ hq)
    rw [h.2 l ((hst.sameMap.place l).symm ▸ hl) hlater]
    exact State.homeRead_homeWrite_ne hp hw hl (Ne.symm (hout p List.mem_cons_self))

theorem writes_nil (s : State) (plain : Bool) : Claim.Writes s s plain [] :=
  ⟨fun _ h => absurd h List.not_mem_nil, fun _ _ _ => rfl⟩

/-- One block of a store performs (R105). -/
theorem State.performPiece_write {s t : State} {f : Flight} {p : Piece} (hact : f.act = .write)
    (h : s.homeWrite f.plain f.lvl p.loc p.val p.mask = .ok t) :
    s.performPiece f p = ({ f with done := f.done ++ [p.blk] }, t) := by
  unfold State.performPiece
  dsimp only
  rw [hact]
  change (match s.homeWrite f.plain f.lvl p.loc p.val p.mask with
    | .ok t => _
    | .error e => _) = _
  rw [h]

/-- One block of a load performs (R105). -/
theorem State.performPiece_read {s : State} {f : Flight} {p : Piece} {b : BitVec 512} (hact : f.act = .read)
    (h : s.homeRead f.plain p.loc = .ok b) :
    s.performPiece f p = ({ f.read p b with done := f.done ++ [p.blk] }, s) := by
  unfold State.performPiece
  dsimp only
  rw [hact]
  change (match s.homeRead f.plain p.loc with
    | .ok b => _
    | .error e => _) = _
  rw [h]
  simp only [Flight.read, hact]

/-- What a store does to storage is no matter of what else has changed beside it. -/
theorem writes_congr {s s' t t' : State} {plain : Bool} {ps : List Piece} (h : Claim.Writes s t plain ps)
    (hp : ∀ p ∈ ps, (Claim.place s p.loc).isSome = true) (hst : SameMap s t)
    (hs : SameMap s s') (hsm : s'.mem = s.mem) (hsc : s'.cores = s.cores)
    (ht : SameMap t t') (htm : t'.mem = t.mem) (htc : t'.cores = t.cores) : Claim.Writes s' t' plain ps := by
  obtain ⟨hthere, helse⟩ := h
  have hplace (l : Loc) (hl : (Claim.place s l).isSome = true) : (Claim.place t l).isSome = true := (hst.place l).symm ▸ hl
  constructor
  · intro p hq b hb
    rw [hs.homeRead hsm hsc (hp p hq)] at hb
    obtain ⟨c, hc, hbits⟩ := hthere p hq b hb
    exact ⟨c, (ht.homeRead htm htc (hplace _ (hp p hq)) plain).trans hc, hbits⟩
  · intro l hl hout
    rw [hs.place] at hl
    simp only [hs.place] at hout
    rw [ht.homeRead htm htc (hplace l hl), hs.homeRead hsm hsc hl]
    exact helse l hl hout

/-- Whether blocks answer is no matter of anything but storage. -/
theorem answers_congr {s t : State} {plain : Bool} {ps : List Piece} (h : Claim.Answers s plain ps)
    (hst : SameMap s t) (hmem : t.mem = s.mem) (hcores : t.cores = s.cores) : Claim.Answers t plain ps := by
  refine ⟨fun p hp => ?_, by simpa only [hst.place] using h.2⟩
  obtain ⟨hread, hplace⟩ := h.1 p hp
  rw [hst.homeRead hmem hcores hplace, hst.place]
  exact ⟨hread, hplace⟩

/-- Every piece of a store performs where all of them answer (R105). -/
theorem State.performList_write {s : State} {f : Flight} {ps : List Piece} (hact : f.act = .write)
    (ha : Claim.Answers s f.plain ps) :
    ∃ t, s.performList f ps = ({ f with done := f.done ++ ps.map (·.blk) }, t) ∧ OnlyStored s t ∧
      Claim.Writes s t f.plain ps := by
  induction ps generalizing s f with
  | nil => exact ⟨s, by simp [State.performList], OnlyStored.refl s, writes_nil s f.plain⟩
  | cons p ps ih =>
    obtain ⟨⟨b, hb⟩, hp⟩ := ha.1 p List.mem_cons_self
    obtain ⟨t, ht⟩ := State.homeWrite_of_read hp hb f.lvl p.val p.mask
    obtain ⟨u, hu, hst, hw⟩ := ih (f := { f with done := f.done ++ [p.blk] }) hact (answers_after ha ht)
    refine ⟨u, ?_, (State.homeWrite_onlyStored hp ht).trans hst, writes_cons ha ht hw⟩
    rw [State.performList, State.performPiece_write hact ht]
    simp only [hu, List.append_assoc, List.map_cons, List.singleton_append]

/-- The strict blocks of a store that answers meet no error (R173). -/
theorem State.strictError_none {s : State} {f : Flight} (hact : f.act = .write) (ha : Claim.Answers s f.plain f.pieces) :
    s.strictError f = none := by
  have hclean : ∀ p ∈ f.pieces, s.clean f p = none := by
    intro p hp
    obtain ⟨⟨b, hb⟩, hplace⟩ := ha.1 p hp
    obtain ⟨t, ht⟩ := State.homeWrite_of_read hplace hb f.lvl p.val p.mask
    simp only [State.clean, hact, ht]
  have hnil : (f.pieces.filterMap fun p =>
      if p.strict then (s.clean f p).map fun e => (⟨p.lo, e, p.loc.dataError e, true⟩ : Fail) else none) = [] := by
    rw [List.filterMap_eq_nil_iff]
    intro p hp
    rw [hclean p hp]
    split <;> rfl
  rw [State.strictError, hnil]
  rfl

/-- A piece of a store that has been checked (R173). -/
def Piece.checked (p : Piece) : Piece := { p with strict := false }

theorem answers_checked {s : State} {plain : Bool} {ps : List Piece} (h : Claim.Answers s plain ps) :
    Claim.Answers s plain (ps.map Piece.checked) := by
  refine ⟨fun p hp => ?_, List.pairwise_map.mpr h.2⟩
  obtain ⟨q, hq, rfl⟩ := List.mem_map.mp hp
  exact h.1 q hq

theorem writes_of_checked {s t : State} {plain : Bool} {ps : List Piece}
    (h : Claim.Writes s t plain (ps.map Piece.checked)) : Claim.Writes s t plain ps := by
  obtain ⟨hthere, helse⟩ := h
  have hall {P : Piece → Prop} : (∀ q ∈ ps.map Piece.checked, P q) ↔ ∀ q ∈ ps, P q.checked := List.forall_mem_map
  simp only [hall] at hthere helse
  exact ⟨hthere, helse⟩

/-- A store of which some blocks have performed and others have not. -/
def State.storedSome (s : State) (f : Flight) (now rest : List Piece) : Flight :=
  { f with pieces := rest, heard := s.answerAt f now, done := f.done ++ now.map (·.blk) }

/-- A load whose one block has answered. -/
def State.loadedOne (s : State) (f : Flight) (p : Piece) (b : BitVec 512) : Flight :=
  { f with pieces := [], got := (f.read p b).got, done := f.done ++ [p.blk], heard := s.answerAt f [p] }

/-- Some blocks of a store perform, where all of them answer: storage takes their values, and the others stay (R109, R248). -/
theorem State.performSome_write {s : State} {f : Flight} {now rest : List Piece} (hact : f.act = .write)
    (ha : Claim.Answers s f.plain f.pieces) (hsub : now.Sublist f.pieces) :
    ∃ t, s.performSome f now rest = (s.storedSome f now rest, t) ∧ OnlyStored s t ∧ Claim.Writes s t f.plain now := by
  obtain ⟨t, ht, hst, hw⟩ := State.performList_write (f := { f with pieces := [], heard := s.answerAt f now }) hact
    (answers_checked (answers_sublist ha hsub))
  have hmap : (now.map fun p : Piece => if f.act == .write then { p with strict := false } else p) = now.map Piece.checked := by
    rw [hact]; rfl
  refine ⟨t, ?_, hst, writes_of_checked hw⟩
  have hnone : (if f.done.isEmpty && f.act != .read then s.strictError f else none) = none := by
    rw [State.strictError_none hact ha]; split <;> rfl
  unfold State.performSome
  simp only [hnone, hmap, ht, List.map_map]
  rfl

/-- The one block of a load performs: its bits are there (R105). -/
theorem State.performSome_read {s : State} {f : Flight} {p : Piece} {b : BitVec 512} (hact : f.act = .read)
    (hr : s.homeRead f.plain p.loc = .ok b) :
    s.performSome f [p] [] = (s.loadedOne f p b, s) := by
  have hnone : (if f.done.isEmpty && f.act != .read then s.strictError f else none) = none := by
    rw [hact]; simp
  have hmap : ([p].map fun p : Piece => if f.act == .write then { p with strict := false } else p) = [p] := by
    rw [hact]; rfl
  have hstep := State.performPiece_read (f := { f with pieces := [], heard := s.answerAt f [p] }) hact hr
  unfold State.performSome
  simp only [hnone, hmap, State.performList, hstep]
  rfl

end Sys2Proof.Machine
end

section
/-! SUPPORT. What an access does once blocks of it have performed (R28, R107, R127): it answers, lands, or waits for the rest. -/

namespace Sys2Proof.Machine

/-! ### What follows when blocks have performed -/

/-- An access without failures leaves no trace in logs and counts (R28). -/
theorem State.report_of_no_fails {f : Flight} (h : f.fails = []) (s : State) : s.report f = s := by
  unfold State.report
  rw [h]
  rfl

/-- The end of a store that has not failed brings nothing. -/
theorem State.land_drop {f : Flight} (hland : f.land = .drop) (hfails : f.fails = []) (s : State) : s.land f = s := by
  unfold State.land
  rw [State.report_of_no_fails hfails, hland]

/-- A store is over when its last block has performed. -/
theorem State.performed_drop {f : Flight} (hland : f.land = .drop) (hfails : f.fails = []) (s : State) (k : Nat) :
    s.performed k f = s.dropFlight k := by
  unfold State.performed
  rw [hland]
  exact State.land_drop hland hfails _

/-- What a bundle waits for stays, for its reply (R107). -/
theorem State.performed_ask {f : Flight} {gs : List ArrGroup} (hland : f.land = .ask gs) (s : State) (k : Nat) :
    s.performed k f = s.modFlight k fun _ => f := by
  unfold State.performed
  rw [hland]

/-- An access some blocks of which have performed: it is done, or its other blocks stay. -/
def State.goOn (s : State) (k : Nat) (f : Flight) : State :=
  if f.pieces.isEmpty then s.performed k f else s.modFlight k fun _ => f

theorem State.goOn_done {f : Flight} (h : f.pieces = []) (s : State) (k : Nat) : s.goOn k f = s.performed k f := by
  unfold State.goOn
  rw [h]
  rfl

theorem State.goOn_rest {f : Flight} (h : f.pieces ≠ []) (s : State) (k : Nat) : s.goOn k f = s.modFlight k fun _ => f := by
  unfold State.goOn
  rw [if_neg (by simpa using h)]

/-- A step that performs some blocks of a store and goes on (R109, R248). -/
theorem storeStep_of_goOn {i : Instr} {s : State} {k : Nat} {f : Flight} {now rest : List Piece} (hfails : f.fails = [])
    (hsub : now.Sublist f.pieces)
    (h : f.act = .write → f.pieces ≠ [] → (∀ q ∈ f.pieces, s.locPeer q.loc = false) → f.owed = false →
      ∀ t, s.performSome f now rest = (s.storedSome f now rest, t) → exec i s = .next (t.goOn k (s.storedSome f now rest))) :
    Claim.StoreStep i s k f now rest := by
  intro hact hland hne hpeer howed ha
  obtain ⟨t, ht, hst, hw⟩ := State.performSome_write (rest := rest) hact ha hsub
  refine ⟨_, h hact hne hpeer howed t ht, ?_⟩
  have hkeep {u : State} (hlink : u.link = t.link) (hranges : u.ranges = t.ranges) (hmem : u.mem = t.mem)
      (hcores : u.cores = t.cores) : Claim.Writes s u f.plain now :=
    writes_congr hw (fun p hp => (ha.1 p (hsub.subset hp)).2) hst.sameMap (SameMap.refl s) rfl rfl
      (.of_cores hlink (congrArg _ hranges) hcores) hmem hcores
  by_cases hrest : rest = []
  · rw [State.goOn_done hrest, State.performed_drop (f := s.storedSome f now rest) hland hfails]
    exact ⟨hst.dies, hkeep rfl rfl rfl rfl, fun _ => congrArg (dropAt · k) hst.flights, fun h => absurd hrest h⟩
  · rw [State.goOn_rest (f := s.storedSome f now rest) hrest]
    exact ⟨hst.dies, hkeep rfl rfl rfl rfl, fun h => absurd h hrest,
      fun _ => congrArg (modAt · k fun _ => s.storedSome f now rest) hst.flights⟩

/-- A step that performs the one block of a load and goes on (R102, R107). -/
theorem loadStep_of_goOn {i : Instr} {s : State} {k : Nat} {f : Flight} {p : Piece}
    (h : f.act = .read → f.pieces = [p] → f.owed = false →
      ∀ b, s.performSome f [p] [] = (s.loadedOne f p b, s) →
        exec i s = .next (s.goOn k { s.loadedOne f p b with awaits := false })) :
    Claim.LoadStep i s k f p := by
  intro gs b hact howed hland hps hr
  refine (h hact hps howed b (State.performSome_read hact hr)).trans (congrArg _ ?_)
  rw [State.goOn_done (f := { s.loadedOne f p b with awaits := false }) rfl]
  exact State.performed_ask (f := { s.loadedOne f p b with awaits := false }) hland s k

theorem State.loadedOne_awaits {f : Flight} (h : f.awaits = false) (s : State) (p : Piece) (b : BitVec 512) :
    ({ s.loadedOne f p b with awaits := false } : Flight) = s.loadedOne f p b := by
  rw [← h]
  rfl

/-! ### An access at its home -/

theorem able_awaits {s : State} {k : Nat} {f : Flight} (h : Claim.Able s k f) : f.awaits = false := by
  obtain ⟨-, hawaits, -⟩ := h
  exact hawaits

theorem able_fails {s : State} {k : Nat} {f : Flight} (h : Claim.Able s k f) : f.fails = [] := by
  obtain ⟨-, -, -, hfails, -⟩ := h
  exact hfails

/-- The blocks of an access that may perform are not held back, and none of them lies in a lost segment. -/
theorem able_pieces {s : State} {k : Nat} {f : Flight} {now : List Piece} (h : Claim.Able s k f) (hsub : now.Sublist f.pieces) :
    now.any (s.heldBack f) = false ∧ f.pieces.map (s.lostPiece f) = f.pieces := by
  obtain ⟨-, -, -, -, -, -, -, hfree⟩ := h
  refine ⟨List.any_eq_false.mpr fun p hp => by simp [(hfree p (hsub.subset hp)).1], ?_⟩
  exact (List.map_congr_left fun p hp => (hfree p hp).2).trans (List.map_id' _)

/-- An access that may perform performs the blocks that `pick` leaves it, and goes on (R105, R248). -/
theorem State.accessAtHome_eq {s t : State} {k : Nat} {f g : Flight} {now rest : List Piece} (hable : Claim.Able s k f)
    (h1 : f.space ≠ 1) (h2 : f.space ≠ 2) (hne : f.pieces ≠ []) (hblock : s.blockOf f = (now, rest))
    (hsub : now.Sublist f.pieces) (hhost : (f.act != .write && f.pieces.any fun p => s.locHost p.loc) = false)
    (hpeer : (f.owed || f.act == .write && now.any fun p => s.locPeer p.loc) = false)
    (hsome : s.performSome f now rest = (g, t)) (hg : g.owed = false) : s.accessAtHome k = t.goOn k g := by
  obtain ⟨hheld, hlost⟩ := able_pieces hable hsub
  obtain ⟨hf, hawaits, htime, -, -, harr, hmay, -⟩ := hable
  have hsame : ({ f with pieces := f.pieces.map (s.lostPiece f) } : Flight) = f := by rw [hlost]
  have hcond : (f.pieces.isEmpty || f.awaits || f.time.isSome || f.space = 1 || f.space = 2 || !s.arrived f ||
      now.any (s.heldBack f) || !s.mayPerform (s.flights.take k) f) = false := by
    simp [hne, hawaits, htime, h1, h2, harr, hheld, hmay]
  unfold State.accessAtHome
  simp -zeta only [hf, hsame]
  dsimp only
  rw [hblock]
  dsimp only
  rw [hcond, hhost, hpeer, hsome]
  unfold State.goOn
  have howed : ({ g with owed := false } : Flight) = g := by rw [← hg]
  cases g.pieces.isEmpty with
  | true => rfl
  | false => exact congrArg (fun x => t.modFlight k fun _ => x) howed

end Sys2Proof.Machine
end

section
/-! SUPPORT. The steps of the fabric and the homes (R45 to R47, R105, R107, R126, R40), each by its event. -/

namespace Sys2Proof.Machine

/-- An access of one block performs it, whatever the pick (log 77). -/
theorem State.blockOf_one (s : State) {f : Flight} {p : Piece} (h : f.pieces = [p]) : s.blockOf f = ([p], []) := by
  unfold State.blockOf
  rw [h]
  cases s.pick with
  | none => rfl
  | some j => cases j <;> rfl

theorem State.blockOf_all {s : State} (h : s.pick = none) (f : Flight) : s.blockOf f = (f.pieces, []) := by
  unfold State.blockOf
  rw [h]
  rfl

theorem State.blockOf_pick {s : State} {j : Nat} {f : Flight} {p : Piece} (h : s.pick = some j) (hp : f.pieces[j]? = some p) :
    s.blockOf f = ([p], dropAt f.pieces j) := by
  unfold State.blockOf
  rw [h]
  simp only [Option.bind_some, hp, Option.getD_some]

/-- A store at its home performs the blocks that `pick` leaves it. -/
theorem accessAtHome_store {s : State} {k : Nat} {f : Flight} {now rest : List Piece} (hable : Claim.Able s k f)
    (h1 : f.space ≠ 1) (h2 : f.space ≠ 2) (hblock : s.blockOf f = (now, rest)) (hsub : now.Sublist f.pieces) :
    Claim.StoreStep (.accessAtHome k) s k f now rest := by
  refine storeStep_of_goOn (able_fails hable) hsub fun hact hne hpeer howed t hsome => ?_
  have hnow : now.any (fun p => s.locPeer p.loc) = false :=
    List.any_eq_false.mpr fun p hp => by simp [hpeer p (hsub.subset hp)]
  exact congrArg _ (State.accessAtHome_eq hable h1 h2 hne hblock hsub (by simp [hact]) (by simp [howed, hnow]) hsome howed)

/-- A load of one block at its home performs, where the home is not the host (R126). -/
theorem accessAtHome_load {s : State} {k : Nat} {f : Flight} {p : Piece} (hable : Claim.Able s k f)
    (h1 : f.space ≠ 1) (h2 : f.space ≠ 2) (hhost : s.locHost p.loc = false) : Claim.LoadStep (.accessAtHome k) s k f p := by
  refine loadStep_of_goOn fun hact hps howed b hsome => ?_
  rw [State.loadedOne_awaits (able_awaits hable)]
  exact congrArg _ (State.accessAtHome_eq hable h1 h2 (by simp [hps]) (s.blockOf_one hps) (by rw [hps])
    (by simp [hps, hhost]) (by simp [howed, hact]) hsome howed)

/-- A read of the host's memory goes to the host (R126). -/
theorem accessAtHome_host {s : State} {k : Nat} {f : Flight} {p : Piece} (hable : Claim.Able s k f)
    (h1 : f.space ≠ 1) (h2 : f.space ≠ 2) (hact : f.act = .read) (hps : f.pieces = [p]) (hhost : s.locHost p.loc = true) :
    s.accessAtHome k = s.modFlight k fun _ => { f with awaits := true } := by
  obtain ⟨hheld, hlost⟩ := able_pieces hable (List.Sublist.refl f.pieces)
  obtain ⟨hf, hawaits, htime, -, -, harr, hmay, -⟩ := hable
  have hsame : ({ f with pieces := f.pieces.map (s.lostPiece f) } : Flight) = f := by rw [hlost]
  rw [hps] at hheld
  have hcond : (f.pieces.isEmpty || f.awaits || f.time.isSome || f.space = 1 || f.space = 2 || !s.arrived f ||
      [p].any (s.heldBack f) || !s.mayPerform (s.flights.take k) f) = false := by
    rw [hps, hawaits, htime, harr, hheld, hmay]; simp [h1, h2]
  have hgoes : (f.act != .write && f.pieces.any fun p => s.locHost p.loc) = true := by
    rw [hact, hps]; simpa using hhost
  unfold State.accessAtHome
  simp -zeta only [hf, hsame]
  dsimp only
  rw [s.blockOf_one hps]
  dsimp only
  rw [hcond, hgoes]
  rfl

/-! ### An access in a scratchpad -/

theorem Flight.firstLine_sublist (f : Flight) : f.firstLine.1.Sublist f.pieces := by
  unfold Flight.firstLine
  split
  · exact List.nil_sublist _
  · rw [List.partition_eq_filter_filter]
    exact List.filter_sublist

theorem Flight.firstLine_one {f : Flight} {p : Piece} (h : f.pieces = [p]) : f.firstLine = ([p], []) := by
  unfold Flight.firstLine
  simp [h]

/-- A line of an access that may perform passes its bank, and the access goes on (R45, R46). -/
theorem State.scratchComplete_eq {s t : State} {k : Nat} {f g : Flight} (hable : Claim.Able s k f)
    (hspace : f.space = 1 ∨ (f.space = 2 ∧ f.accepted = true)) (hport : s.portBefore k f = false) (hne : f.pieces ≠ [])
    (hsome : s.performSome f f.firstLine.1 f.firstLine.2 = (g, t)) : s.scratchComplete k = t.goOn k g := by
  obtain ⟨hheld, -⟩ := able_pieces hable f.firstLine_sublist
  obtain ⟨hf, -, -, -, -, -, hmay, -⟩ := hable
  have hplace : (f.space = 1 || (f.space = 2 && f.accepted)) = true := by simpa using hspace
  have hcond : (f.pieces.isEmpty || !(f.space = 1 || (f.space = 2 && f.accepted)) || f.firstLine.1.any (s.heldBack f) ||
      s.portBefore k f || !s.mayPerform (s.flights.take k) f) = false := by
    rw [hplace, hheld, hport, hmay]; simp [hne]
  unfold State.scratchComplete
  rw [hf]
  dsimp only
  rw [hcond, hsome]
  rfl

theorem scratchComplete_steps {s : State} {k : Nat} {f : Flight} (p : Piece) (hable : Claim.Able s k f)
    (hspace : f.space = 1 ∨ (f.space = 2 ∧ f.accepted = true)) (hport : s.portBefore k f = false) :
    Claim.StoreStep (.scratchAccessComplete k) s k f f.firstLine.1 f.firstLine.2 ∧
    Claim.LoadStep (.scratchAccessComplete k) s k f p := by
  refine ⟨storeStep_of_goOn (able_fails hable) f.firstLine_sublist fun _ hne _ _ t hsome => ?_,
    loadStep_of_goOn fun _ hps _ b hsome => ?_⟩
  · exact congrArg _ (State.scratchComplete_eq hable hspace hport hne hsome)
  · rw [State.loadedOne_awaits (able_awaits hable)]
    refine congrArg _ (State.scratchComplete_eq hable hspace hport (by simp [hps]) ?_)
    rw [Flight.firstLine_one hps]
    exact hsome

/-! ### Answers from outside, and arrivals at a cluster's port -/

/-- The host's completion of a read performs its block (R126). -/
theorem hostCompletion_load {s : State} {k : Nat} {f : Flight} {p : Piece} (hf : s.flights[k]? = some f)
    (hawaits : f.awaits = true) (hheld : s.heldBack f p = false) : Claim.LoadStep (.hostCompletion k) s k f p := by
  refine loadStep_of_goOn fun _ hps _ b hsome => ?_
  have hcond : (!f.awaits || f.pieces.isEmpty || [p].any (s.heldBack f)) = false := by simp [hawaits, hps, hheld]
  have hstep : s.hostCompletion k = s.performed k { s.loadedOne f p b with awaits := false } := by
    unfold State.hostCompletion
    rw [hf]
    dsimp only
    rw [s.blockOf_one hps]
    dsimp only
    rw [hcond, hsome]
    rfl
  rw [State.goOn_done (f := { s.loadedOne f p b with awaits := false }) rfl, ← hstep]
  rfl

/-- A peer's acknowledgement ends a store (R127). -/
theorem peerAck_store {s : State} {k : Nat} {f : Flight} (hf : s.flights[k]? = some f) (hawaits : f.awaits = true)
    (hfails : f.fails = []) (hps : f.pieces = []) (hland : f.land = .drop) : s.peerAck k = s.dropFlight k := by
  have hcond : (f.awaits && f.pieces.isEmpty) = true := by simp [hawaits, hps]
  unfold State.peerAck
  rw [hf]
  dsimp only
  rw [hcond]
  exact State.performed_drop (f := { f with awaits := false }) hland hfails s k

/-- An access of one block reaches a cluster-scratch port, when those that its core sent before it have (R47). -/
theorem State.clusterArrival_eq {s : State} {k : Nat} {f : Flight} {p : Piece} (hf : s.flights[k]? = some f)
    (hspace : f.space = 2) (hacc : f.accepted = false) (hps : f.pieces = [p])
    (hbefore : ∀ g ∈ s.flights.take k, g.space = 2 → g.core = f.core → g.accepted = true) :
    s.clusterArrival k =
      let t := { s with uid := s.uid + 1 }
      if s.ownerBad f p then t.performed k { f with
        accepted := true, port := s.uid, pieces := [], fails := f.fails ++ [⟨p.lo, 0x06, false, p.strict⟩] }
      else t.modFlight k fun _ => { f with accepted := true, port := s.uid } := by
  have hcond : ¬(f.space ≠ 2 ∨ f.accepted = true ∨
      ((s.flights.take k).any fun g => g.space == 2 && g.core == f.core && !g.accepted && g.meets f) = true) := by
    simp only [hspace, hacc, ne_eq, not_true_eq_false, Bool.false_eq_true, false_or, List.any_eq_true, not_exists, not_and]
    intro g hg hcond
    simp only [Bool.and_eq_true, beq_iff_eq, Bool.not_eq_true'] at hcond
    obtain ⟨⟨⟨h2, hcore⟩, hnot⟩, -⟩ := hcond
    rw [hbefore g hg h2 hcore] at hnot
    cases hnot
  unfold State.clusterArrival
  rw [hf]
  dsimp only
  rw [if_neg hcond, hps]
  cases hbad : s.ownerBad f p with
  | true =>
    have hpart : [p].partition (s.ownerBad f) = ([p], []) := by simp [hbad]
    rw [hpart]
    simp only [ite_self]
    rfl
  | false =>
    have hpart : [p].partition (s.ownerBad f) = ([], [p]) := by simp [hbad]
    rw [hpart]
    simp only [List.map_nil, List.append_nil, List.any_nil, ← hps]
    simp [hps]

/-- A step without an action at its boundary issues the bundle that the fetch finds (R129, R197). -/
theorem State.turn_fetch {s : State} {b : Nat} {used : List RcEnt} (hact : s.me.active = true) (hbd : s.boundary s.cur = none)
    (hwfi : s.me.wfi = false) (hinval : s.my.inval = none) (hpassed : s.my.passed = none)
    (hfetch : s.fetch (s.who s.cur) s.my.pc.toNat = .bundle b used) : s.turn s.cur = s.issueBundle b used := by
  have hat : s.bundleAt s.cur = .bundle b used := by
    unfold State.bundleAt
    change (match s.my.passed.bind (·.bundle) with
      | some (b, used) => Fetched.bundle b used
      | none => s.fetch (s.who s.cur) s.my.pc.toNat) = _
    rw [hpassed]
    exact hfetch
  have hbundle : s.bundleTurn s.cur = s.issueBundle b used := by
    unfold State.bundleTurn
    rw [hat]
  unfold State.turn
  dsimp only
  rw [show (s.core s.cur).active = true from hact, hbd]
  dsimp only
  rw [show (s.core s.cur).wfi = false from hwfi, show (s.hart s.cur).inval = none from hinval, hbundle]
  rfl

/-- The one access on its way, whose answer a hart waits for, returns to its bundle (R107). -/
theorem State.accessReply_one {s : State} {core : Nat} {f : Flight} (hfs : s.flights = [f]) (hready : f.ready = true)
    (hret : s.returned f = true) (hwait : (s.hart core).wait = .ask)
    (hctx : f.ofCtx core (s.hart core).sup.owner.toNat (s.hart core).sup.saveptr.toNat = true) :
    s.accessReply core = (s.dropFlight 0).modHart core fun h => { h with wait := .answer f } := by
  have hasks : ((s.hart core).wait == .ask && f.ready && s.returned f &&
      f.ofCtx core (s.hart core).sup.owner.toNat (s.hart core).sup.saveptr.toNat) = true := by
    rw [hwait, hready, hret, hctx]; rfl
  unfold State.accessReply
  rw [hfs]
  simp only [indexWhere, hasks, if_true, List.getElem?_cons_zero]

/-- A block whose chunk has passed its move point goes to the new home, once its access has arrived at the old one (R40). -/
theorem State.resend_moved {s : State} {f : Flight} {p : Piece} {pa h : Nat} {c : Option (Nat × Nat)} {m : Move}
    (hloc : p.loc = .mem pa h c) (hm : s.ranges.moves.find? (·.passed pa) = some m) :
    s.resend f p = if s.arrived { f with pieces := [p] } then
        ((s.die m.homeA).atime.toNat + (if m.homeA = dieOf f.core then 0 else 8),
          { p with loc := .mem (m.dst + (pa - m.src)) m.homeB c })
      else (0, p) := by
  unfold State.resend
  rw [hloc]
  dsimp only
  rw [hm]
  cases s.arrived { f with pieces := [p] } <;> rfl

/-- An access of one block, its sending again decided (R40). -/
theorem State.movedResponseResend_one {s : State} {k : Nat} {f : Flight} {p : Piece} (hf : s.flights[k]? = some f)
    (hps : f.pieces = [p]) : s.movedResponseResend k = s.modFlight k fun f =>
      { f with pieces := [(s.resend f p).2], again := max f.again (s.resend f p).1, sent := max f.sent (s.resend f p).1 } := by
  unfold State.movedResponseResend State.modFlight
  refine congrArg (fun fs => ({ s with flights := fs } : State)) (modAt_congr hf ?_)
  simp only [hps, List.map_cons, List.map_nil, List.foldl_cons, List.foldl_nil, Nat.zero_max]

end Sys2Proof.Machine
end

section
/-! SUPPORT. The steps of the fabric and the homes, collected: O55's first part. -/

namespace Sys2Proof.Machine

/-- A step that answers a state has the properties of that state. -/
theorem happens_of_eq {i : Instr} {s t u : State} {P : State → Prop} (hexec : exec i s = .next u) (hu : u = t) (ht : P t) :
    Happens i s P := ⟨t, by rw [hexec, hu], ht⟩

/-- An access of one block meets the moved response of its chunk once it has arrived, and not before (R40, R102). -/
theorem movedResponseResend_steps {s : State} {k : Nat} {f : Flight} {p : Piece} {pa h : Nat} {c : Option (Nat × Nat)}
    {m : Move} (hf : s.flights[k]? = some f) (hps : f.pieces = [p]) (hloc : p.loc = .mem pa h c)
    (hm : s.ranges.moves.find? (·.passed pa) = some m) :
    let back := (s.die m.homeA).atime.toNat + (if m.homeA = f.core / 96 then 0 else 8)
    (s.arrived f = true → Claim.Does (.movedResponseResend k) s { s with flights := modAt s.flights k fun f =>
      { f with pieces := [{ p with loc := .mem (m.dst + (pa - m.src)) m.homeB c }]
               again := max f.again back, sent := max f.sent back } }) ∧
    (s.arrived f = false → Claim.Does (.movedResponseResend k) s s) := by
  have hres := State.resend_moved (f := f) hloc hm
  have hsame : ({ f with pieces := [p] } : Flight) = f := by rw [← hps]
  rw [hsame] at hres
  have hstep := State.movedResponseResend_one hf hps
  refine ⟨fun harr => congrArg _ (hstep.trans ?_), fun harr => congrArg _ (hstep.trans ?_)⟩
  · rw [if_pos harr] at hres
    refine congrArg (fun fs => ({ s with flights := fs } : State)) (modAt_congr hf ?_)
    rw [hres]
    rfl
  · rw [if_neg (by simp [harr])] at hres
    refine congrArg (fun fs => ({ s with flights := fs } : State)) (modAt_fixed hf ?_)
    rw [hres]
    simp only [Nat.max_zero, ← hps]

theorem accessReply_step {s : State} {core : Nat} {f : Flight} (hcore : core < 1536) (hfs : s.flights = [f])
    (hready : f.ready = true) (hret : s.returned f = true) (hwait : (s.hart core).wait = .ask)
    (hctx : f.ofCtx core (s.hart core).sup.owner.toNat (s.hart core).sup.saveptr.toNat = true) :
    Happens (.accessReply core) s fun t => t.flights = [] ∧ t.hart core = { s.hart core with wait := .answer f } := by
  have hstep : (s.onCore core fun s => s.accessReply core) =
      (s.dropFlight 0).modHart core fun h => { h with wait := .answer f } :=
    (if_pos hcore).trans (State.accessReply_one hfs hready hret hwait hctx)
  refine happens_of_eq rfl hstep ⟨?_, State.hart_modHart_same _ _ _⟩
  rw [State.modHart_flights, State.dropFlight, hfs]
  rfl

/-- An access of one block at a cluster's port, accepted or refused for its owner (R12, R28, R47). -/
theorem clusterArrival_steps {s : State} {k : Nat} {f : Flight} {p : Piece} (hf : s.flights[k]? = some f)
    (hspace : f.space = 2) (hacc : f.accepted = false) (hps : f.pieces = [p])
    (hbefore : ∀ g ∈ s.flights.take k, g.space = 2 → g.core = f.core → g.accepted = true) :
    (s.ownerBad f p = false →
      Claim.Does (.clusterScratchArrival k) s { s with
        uid := s.uid + 1, flights := modAt s.flights k fun _ => { f with accepted := true, port := s.uid } }) ∧
    (s.ownerBad f p = true → ∀ gs, f.land = .ask gs → Claim.Does (.clusterScratchArrival k) s { s with
      uid := s.uid + 1, flights := modAt s.flights k fun _ =>
        { f with accepted := true, port := s.uid, pieces := [], fails := f.fails ++ [⟨p.lo, 0x06, false, p.strict⟩] } }) := by
  have hstep := State.clusterArrival_eq hf hspace hacc hps hbefore
  refine ⟨fun hgood => congrArg _ (hstep.trans ?_), fun hbad gs hland => congrArg _ (hstep.trans ?_)⟩
  · rw [hgood]
    rfl
  · rw [hbad]
    exact State.performed_ask (f := { f with
      accepted := true, port := s.uid, pieces := [], fails := f.fails ++ [⟨p.lo, 0x06, false, p.strict⟩] }) hland _ k

/-- The fabric and the homes (R45 to R47, R102, R105, R107, R126, R127, R40, R248). -/
theorem homeSteps : Claim.HomeSteps := by
  intro s k core f p
  refine ⟨?fetch, ?home, ?scratch, ?outside, ?cluster, ?reply, ?moved⟩
  case fetch =>
    intro b used hact hbd hwfi hinval hpassed hfetch
    exact congrArg _ (State.turn_fetch hact hbd hwfi hinval hpassed hfetch)
  case home =>
    intro hable h1 h2
    refine ⟨fun hpick => accessAtHome_store hable h1 h2 (State.blockOf_all hpick f) (List.Sublist.refl _),
      fun j hpick hj => accessAtHome_store hable h1 h2 (State.blockOf_pick hpick hj) ?_,
      fun hhost => accessAtHome_load hable h1 h2 hhost,
      fun hact hps hhost => congrArg _ (accessAtHome_host hable h1 h2 hact hps hhost)⟩
    exact List.singleton_sublist.mpr (List.mem_of_getElem? hj)
  case scratch => exact scratchComplete_steps p
  case outside =>
    intro hf hawaits hfails
    exact ⟨hostCompletion_load hf hawaits, fun hps hland => congrArg _ (peerAck_store hf hawaits hfails hps hland)⟩
  case cluster => exact clusterArrival_steps
  case reply => exact accessReply_step
  case moved =>
    intro pa h c m hf hps hloc hm
    exact movedResponseResend_steps hf hps hloc hm

end Sys2Proof.Machine
end

section
/-! SUPPORT. What loads bring to the grid (R135, R263, R308): O55's second part. -/

namespace Sys2Proof.Machine

/-! ### Groups of a load that land -/

/-- Only the grid and the long operation of a core's hart, and the core's count of format errors, may differ there. -/
def OnlyGrid (s t : State) (k : Nat) : Prop :=
  t = { s with cores := t.cores } ∧
  t.core k = { s.core k with
    hart := { s.hart k with grid := (t.hart k).grid, long := (t.hart k).long }, fmtErrs := (t.core k).fmtErrs }

theorem OnlyGrid.refl (s : State) (k : Nat) : OnlyGrid s s k := ⟨rfl, rfl⟩

theorem OnlyGrid.hart {s t : State} {k : Nat} (h : OnlyGrid s t k) :
    t.hart k = { s.hart k with grid := (t.hart k).grid, long := (t.hart k).long } := congrArg Core.hart h.2

theorem OnlyGrid.x {s t : State} {k : Nat} (h : OnlyGrid s t k) : (t.hart k).x = (s.hart k).x := by rw [h.hart]

theorem OnlyGrid.trans {s t u : State} {k : Nat} (h : OnlyGrid s t k) (g : OnlyGrid t u k) : OnlyGrid s u k := by
  refine ⟨?_, ?_⟩
  · rw [g.1, h.1]
  · rw [g.2, h.hart, h.2]

/-- A context is where it was. -/
theorem OnlyGrid.present {s t : State} {k : Nat} (h : OnlyGrid s t k) (area : Nat) (lvl : Level) :
    t.present k area lvl = s.present k area lvl := by
  unfold State.present
  dsimp only
  rw [h.2]
  rfl

theorem State.formatErrors_onlyGrid (s : State) (k n : Nat) : OnlyGrid s (s.formatErrors k n) k := by
  refine ⟨rfl, ?_⟩
  unfold State.formatErrors State.hart
  simp only [State.core_modCore_same]

/-- Elements delivered change one row's value; that its errors are mended changes no row. -/
theorem Grid.deliver_rows (g : Grid) (row : Nat) (v : BitVec 2048) (es : List LElem) :
    (g.deliver row v es).rows = g.rows.put row v := by
  have hfold (d : Grid) : (es.foldl (fun d e => d.mend row e.lo e.w) d).rows = d.rows := by
    induction es generalizing d with
    | nil => rfl
    | cons e es ih => exact ih (d.mend row e.lo e.w)
  exact hfold _

/-- A group landed in a grid (R135). -/
def Grid.land (d : Grid) (f : Flight) (fill : BitVec 32) (g : ArrGroup) : Grid :=
  let r := if g.elems.isEmpty then d else d.deliver g.row (deliverAll (d.rows.get g.row) f.got fill g.elems) g.elems
  { r with missing := d.missing.put g.row (d.missing.getD g.row 0xFF ||| BitVec.ofNat 8 (2 ^ g.grp)),
           dirty := if f.space = 5 then d.dirty else r.dirty }

theorem Grid.land_row (d : Grid) (f : Flight) (fill : BitVec 32) (g : ArrGroup) :
    (d.land f fill g).rows.get g.row = deliverAll (d.rows.get g.row) f.got fill g.elems := by
  unfold Grid.land
  cases hes : g.elems with
  | nil => rfl
  | cons e es =>
    show (d.deliver g.row _ (e :: es)).rows.get g.row = _
    rw [Grid.deliver_rows, Tbl.get_put_same]

theorem Grid.land_row_ne (d : Grid) (f : Flight) (fill : BitVec 32) {g : ArrGroup} {r : Nat} (h : r ≠ g.row) :
    (d.land f fill g).rows.get r = d.rows.get r := by
  unfold Grid.land
  cases hes : g.elems with
  | nil => rfl
  | cons e es =>
    show (d.deliver g.row _ (e :: es)).rows.get r = _
    rw [Grid.deliver_rows, Tbl.get_put_ne _ _ h]

theorem Grid.land_missing (d : Grid) (f : Flight) (fill : BitVec 32) (g : ArrGroup) (r : Nat) :
    (d.land f fill g).missing.getD r 0xFF =
      if r = g.row then d.missing.getD r 0xFF ||| BitVec.ofNat 8 (2 ^ g.grp) else d.missing.getD r 0xFF := by
  show (d.missing.put g.row _).getD r 0xFF = _
  split
  · next e => rw [e, Tbl.getD_put_same]
  · next e => exact Tbl.getD_put_ne _ _ _ e

/-- A group lands in the hart of its context, where that runs. -/
theorem State.landGroup_present {s : State} {f : Flight} (h : s.present f.core f.area f.lvl = true) (fill : BitVec 32)
    (g : ArrGroup) : s.landGroup f fill g =
      (s.formatErrors f.core ((g.elems.map fun e => e.errors f.got).sum)).modHart f.core fun c =>
        { c.modGrid fun d => d.land f fill g with
          long := c.long.map (·.lands g fun v => deliverAll v f.got fill g.elems) } := by
  have hpres := (s.formatErrors_onlyGrid f.core ((g.elems.map fun e => e.errors f.got).sum)).present f.area f.lvl
  unfold State.landGroup
  dsimp only
  rw [hpres, h]
  simp only [if_true, Nat.one_shiftLeft]
  rfl

theorem State.landGroup_onlyGrid {s : State} {f : Flight} (h : s.present f.core f.area f.lvl = true) (fill : BitVec 32)
    (g : ArrGroup) : OnlyGrid s (s.landGroup f fill g) f.core := by
  refine (s.formatErrors_onlyGrid f.core ((g.elems.map fun e => e.errors f.got).sum)).trans ?_
  rw [State.landGroup_present h]
  refine ⟨rfl, ?_⟩
  rw [State.hart_modHart_same, State.core_modHart_same]
  rfl

theorem State.landGroup_grid {s : State} {f : Flight} (h : s.present f.core f.area f.lvl = true) (fill : BitVec 32)
    (g : ArrGroup) : ((s.landGroup f fill g).hart f.core).grid = (s.hart f.core).grid.land f fill g := by
  rw [State.landGroup_present h, State.hart_modHart_same]
  show ((s.formatErrors _ _).hart f.core).grid.land f fill g = _
  unfold State.formatErrors
  rw [State.hart_modCore_same]
  rfl

/-- Arrival bits are as they were where no access is left to fill them. -/
theorem State.reclear_none {s : State} (h : s.flights = []) (f : Flight) (row grp : Nat) : s.reclear f row grp = s := by
  unfold State.reclear State.groupPending
  rw [h]
  simp

/-- The only access on its way lands a group where nothing busy writes its row (R134, R135). -/
theorem State.groupFree_first {s : State} {f : Flight} {row : Nat} (h : (s.hart f.core).grid.busy.getLsbD row = false)
    (grp : Nat) : s.groupFree [] f row grp = true := by
  unfold State.groupFree Hart.rowTakes State.groupPending
  rw [h]
  simp

theorem groupLanded_step {s : State} {f : Flight} {fill : BitVec 32} {g : ArrGroup} (hfs : s.flights = [f])
    (hps : f.pieces = []) (hawaits : f.awaits = false) (hret : s.returned f = true)
    (hpres : s.present f.core f.area f.lvl = true) (hland : f.land = .groups fill [g]) (hpick : s.pick = none)
    (hbusy : (s.hart f.core).grid.busy.getLsbD g.row = false) : s.groupLanded 0 = (s.landGroup f fill g).dropFlight 0 := by
  have hflights : ((s.landGroup f fill g).dropFlight 0).flights = [] := by
    unfold State.dropFlight
    rw [(State.landGroup_onlyGrid hpres fill g).1, hfs]
    rfl
  have hcond : (!f.pieces.isEmpty || f.awaits || !s.returned f) = false := by rw [hps, hawaits, hret]; rfl
  have hfree : s.groupFree ([f].take 0) f g.row g.grp = true := State.groupFree_first hbusy g.grp
  unfold State.groupLanded
  rw [hpick, hfs]
  dsimp only [List.getElem?_cons_zero, Option.getD_none]
  rw [hland]
  dsimp only
  rw [hcond, if_neg Bool.false_ne_true, List.getElem?_cons_zero]
  dsimp only
  rw [hfree]
  exact State.reclear_none hflights f g.row g.grp

/-! ### A stream of packed values that lands (R262, R263) -/

/-- Groups of rows that land one after another leave all but the grid of their hart, and all but their rows of it. -/
theorem landGroups_onlyGrid {f : Flight} (fill : BitVec 32) (gs : List ArrGroup) {s : State}
    (h : s.present f.core f.area f.lvl = true) :
    OnlyGrid s (gs.foldl (fun t g => t.landGroup f fill g) s) f.core ∧
    ∀ r, (∀ g ∈ gs, g.row ≠ r) →
      ((gs.foldl (fun t g => t.landGroup f fill g) s).hart f.core).grid.rows.get r = (s.hart f.core).grid.rows.get r := by
  induction gs generalizing s with
  | nil => exact ⟨OnlyGrid.refl s f.core, fun _ _ => rfl⟩
  | cons g gs ih =>
    have hfirst := State.landGroup_onlyGrid h fill g
    obtain ⟨hrest, hrows⟩ := ih ((hfirst.present f.area f.lvl).trans h)
    refine ⟨hfirst.trans hrest, fun r hr => (hrows r fun g hg => hr g (List.mem_cons_of_mem _ hg)).trans ?_⟩
    rw [State.landGroup_grid h]
    exact Grid.land_row_ne _ f fill (Ne.symm (hr g List.mem_cons_self))

/-- An arrival bit, once set, stays set while other groups land; and each group sets its own (R135). -/
theorem landGroups_arrived {f : Flight} (fill : BitVec 32) (gs : List ArrGroup) {s : State}
    (h : s.present f.core f.area f.lvl = true) {r j : Nat} (hj : j < 8)
    (hset : ((s.hart f.core).grid.missing.getD r 0xFF).getLsbD j = true ∨ ∃ g ∈ gs, g.row = r ∧ g.grp = j) :
    (((gs.foldl (fun t g => t.landGroup f fill g) s).hart f.core).grid.missing.getD r 0xFF).getLsbD j = true := by
  induction gs generalizing s with
  | nil => exact hset.resolve_right fun ⟨g, hg, _⟩ => absurd hg List.not_mem_nil
  | cons g gs ih =>
    refine ih (((State.landGroup_onlyGrid h fill g).present f.area f.lvl).trans h) ?_
    rw [State.landGroup_grid h, Grid.land_missing]
    rcases hset with hold | ⟨x, hx, hrow, hgrp⟩
    · left
      split
      · rw [BitVec.getLsbD_or, hold, Bool.true_or]
      · exact hold
    · rcases List.mem_cons.mp hx with rfl | hx
      · left
        rw [if_pos hrow.symm, BitVec.getLsbD_or, BitVec.getLsbD_ofNat, hgrp, Nat.testBit_two_pow_self]
        simp [hj]
      · exact .inr ⟨x, hx, hrow, hgrp⟩

/-- The groups of some rows are those of these rows alone, and all eight of each. -/
theorem mem_rowGroups_row {row n : Nat} {es : List LElem} {g : ArrGroup} (h : g ∈ rowGroups row n es) :
    row ≤ g.row ∧ g.row < row + n := by
  obtain ⟨i, hi, rfl⟩ := List.mem_map.mp h
  have := List.mem_range.mp hi
  constructor
  · exact Nat.le_add_right row (i / 8)
  · show row + i / 8 < row + n
    omega

theorem exists_mem_rowGroups {row n r j : Nat} (es : List LElem) (h1 : row ≤ r) (h2 : r < row + n) (hj : j < 8) :
    ∃ g ∈ rowGroups row n es, g.row = r ∧ g.grp = j := by
  refine ⟨_, List.mem_map.mpr ⟨8 * (r - row) + j, List.mem_range.mpr (by omega), rfl⟩, ?_, ?_⟩
  · show row + (8 * (r - row) + j) / 8 = r
    omega
  · show (8 * (r - row) + j) % 8 = j
    omega

/-- A context that runs on the core that issued an access is there (R195). -/
theorem State.homeOf_present {s : State} {k area : Nat} {lvl : Level} (h : s.present k area lvl = true) :
    s.homeOf k area lvl = some k := if_pos h

/-- The elements that a stream's decoding gives to a group of rows (R262). -/
def dbpElems (row vlcap : Nat) (d : Dbp) : List LElem :=
  (d.vals.zip (List.range d.vals.length)).map fun p =>
    knownElem (row + p.2 / max 1 (vlcap / 32)) (32 * (p.2 % max 1 (vlcap / 32))) 32 p.1.toNat

/-- A decoding that met no failure lands its rows and has its results, in the hart of its context. -/
theorem State.vldcEnd_present {s : State} {f : Flight} {row n cap ea bound : Nat} {reg : SReg} (hfails : f.fails = [])
    (hpres : s.present f.core f.area f.lvl = true) (hland : f.land = .decode row n cap ea bound reg) :
    let d := dbpOf f.got n cap ea bound
    let g := f.failsIn ea d.seen
    s.vldcEnd f = ((rowGroups row n (dbpElems row cap d)).foldl (fun t a => t.landGroup g 0 a) s).modHart f.core fun h =>
      (h.modCtl fun w => { w with vl := d.vals.length }).wx reg (BitVec.ofNat 64 (d.off + d.flags)) := by
  intro d g
  have hreport : s.report g = s := State.report_of_no_fails (by simp [g, Flight.failsIn, hfails]) s
  have hrows := (landGroups_onlyGrid (f := g) 0 (rowGroups row n (dbpElems row cap d)) hpres).1
  unfold State.vldcEnd
  rw [hland]
  show (((rowGroups row n (dbpElems row cap d)).foldl (fun t a => t.landGroup g 0 a) (s.report g)).vldcResult g reg d) = _
  rw [hreport]
  unfold State.vldcResult
  rw [State.homeOf_present (k := g.core) (area := g.area) (lvl := g.lvl) ((hrows.present g.area g.lvl).trans hpres)]
  rfl

/-- The only access on its way is a VLDC whose answers are there and whose rows are free: its decoding ends (R263). -/
theorem State.decodeEnd_one {s : State} {f : Flight} {row n cap ea bound : Nat} {reg : SReg} (hfs : s.flights = [f])
    (hps : f.pieces = []) (hawaits : f.awaits = false) (hfails : f.fails = []) (hret : s.returned f = true)
    (hpres : s.present f.core f.area f.lvl = true) (hland : f.land = .decode row n cap ea bound reg)
    (hfree : ∀ r, row ≤ r → r < row + n → (s.hart f.core).grid.busy.getLsbD r = false) :
    s.decodeEnd f.core = (s.dropFlight 0).vldcEnd f := by
  have hrows : s.rowsFree ([f].take 0) f row n = true := by
    refine List.all_eq_true.mpr fun i hi => State.groupFree_first (hfree _ (Nat.le_add_right row (i / 8)) ?_) _
    have := List.mem_range.mp hi
    omega
  have hpres' : (s.dropFlight 0).present f.core f.area f.lvl = true := hpres
  have hflights : ((s.dropFlight 0).vldcEnd f).flights = [] := by
    obtain ⟨hgrid, -⟩ := landGroups_onlyGrid (f := f.failsIn ea (dbpOf f.got n cap ea bound).seen) 0
      (rowGroups row n (dbpElems row cap (dbpOf f.got n cap ea bound))) hpres'
    rw [State.vldcEnd_present hfails hpres' hland, State.modHart_flights, hgrid.1]
    unfold State.dropFlight
    rw [hfs]
    rfl
  have hclear (is : List Nat) : is.foldl (fun t i => t.reclear f (row + i / 8) (i % 8)) ((s.dropFlight 0).vldcEnd f) =
      (s.dropFlight 0).vldcEnd f := by
    induction is with
    | nil => rfl
    | cons i is ih => rw [List.foldl_cons, State.reclear_none hflights, ih]
  have hcond : (f.pieces.isEmpty && !f.awaits && s.returned f && s.rowsFree ([f].take 0) f row n) = true := by
    rw [hps, hawaits, hret, hrows]; rfl
  unfold State.decodeEnd
  simp only [hfs, indexWhere, beq_self_eq_true, hland, Bool.and_true, if_true, List.getElem?_cons_zero, hcond]
  exact hclear _

/-- A byte with all its bits set. -/
theorem eq_0xFF_of_bits {x : BitVec 8} (h : ∀ j, j < 8 → x.getLsbD j = true) : x = 0xFF := by
  refine BitVec.eq_of_getLsbD_eq fun j hj => ?_
  rw [h j hj, show (0xFF : BitVec 8) = BitVec.allOnes 8 from rfl, BitVec.getLsbD_allOnes]
  simp [hj]

theorem vldcDecodeEnd_step {s : State} {f : Flight} {row n cap ea bound : Nat} {reg : SReg} (hcore : f.core < 1536)
    (hfs : s.flights = [f]) (hps : f.pieces = []) (hawaits : f.awaits = false) (hfails : f.fails = [])
    (hret : s.returned f = true) (hpres : s.present f.core f.area f.lvl = true)
    (hland : f.land = .decode row n cap ea bound reg)
    (hfree : ∀ r, row ≤ r → r < row + n → (s.hart f.core).grid.busy.getLsbD r = false) :
    let d := dbpOf f.got n cap ea bound
    Happens (.vldcDecodeEnd f.core) s fun t => t.flights = [] ∧ t.mem = s.mem ∧
      (t.hart f.core).ctl.vl = d.vals.length ∧
      OnlyReg (s.hart f.core) (t.hart f.core) reg (BitVec.ofNat 64 (d.off + d.flags)) ∧
      (∀ r, row ≤ r → r < row + n → (t.hart f.core).grid.missing.getD r 0xFF = 0xFF) ∧
      ∀ r, r < row ∨ row + n ≤ r → (t.hart f.core).grid.rows.get r = (s.hart f.core).grid.rows.get r := by
  intro d
  have hpres' : (s.dropFlight 0).present f.core f.area f.lvl = true := hpres
  have hstep : (s.onCore f.core fun s => s.decodeEnd f.core) = (s.dropFlight 0).vldcEnd f :=
    (if_pos hcore).trans (State.decodeEnd_one hfs hps hawaits hfails hret hpres hland hfree)
  rw [State.vldcEnd_present hfails hpres' hland] at hstep
  obtain ⟨hgrid, hrows⟩ := landGroups_onlyGrid (f := f.failsIn ea d.seen) 0 (rowGroups row n (dbpElems row cap d)) hpres'
  have harrived (r j : Nat) := landGroups_arrived (f := f.failsIn ea d.seen) 0 (rowGroups row n (dbpElems row cap d)) hpres'
    (r := r) (j := j)
  generalize (rowGroups row n (dbpElems row cap d)).foldl (fun t a => t.landGroup (f.failsIn ea d.seen) 0 a) (s.dropFlight 0) = u
    at hstep hgrid hrows harrived
  have hx : (u.hart f.core).x = (s.hart f.core).x := hgrid.x
  refine happens_of_eq rfl hstep ⟨?_, ?_, ?_, ?_, ?_, ?_⟩
  · rw [State.modHart_flights, hgrid.1, State.dropFlight, hfs]
    rfl
  · rw [State.modHart_mem, hgrid.1]
    rfl
  · rw [State.hart_modHart_same, Hart.wx_ctl]
    rfl
  · rw [State.hart_modHart_same]
    exact ⟨Hart.rx_wx_same _ _ _, fun r hr => (Hart.rx_wx_ne _ _ hr).trans (Hart.rx_congr hx r)⟩
  · intro r h1 h2
    rw [State.hart_modHart_same, Hart.wx_grid]
    exact eq_0xFF_of_bits fun j hj => harrived r j hj (.inr (exists_mem_rowGroups _ h1 h2 hj))
  · intro r hr
    rw [State.hart_modHart_same, Hart.wx_grid]
    refine hrows r fun g hg e => ?_
    have := mem_rowGroups_row hg
    omega

/-- What loads bring to the grid (R135, R263, R308). -/
theorem landingSteps : Claim.LandingSteps := by
  intro s core f there
  refine ⟨?group, ?decode, ?clearing⟩
  case group =>
    rintro fill g ⟨hfs, hps, hawaits, -, hret, hpres⟩ hland hpick hbusy
    have hgrid := State.landGroup_onlyGrid hpres fill g
    refine happens_of_eq rfl (groupLanded_step hfs hps hawaits hret hpres hland hpick hbusy) ⟨?_, ?_, ?_, ?_⟩
    · rw [State.dropFlight, hgrid.1, hfs]
      rfl
    · show (s.landGroup f fill g).mem = s.mem
      rw [hgrid.1]
    · show ((s.landGroup f fill g).hart f.core).grid.missing.getD g.row 0xFF = _
      rw [State.landGroup_grid hpres, Grid.land_missing, if_pos rfl]
    · show ((s.landGroup f fill g).hart f.core).grid.rows.get g.row = _
      rw [State.landGroup_grid hpres, Grid.land_row]
  case decode =>
    rintro row n cap ea bound reg hcore ⟨hfs, hps, hawaits, hfails, hret, hpres⟩ rfl hland hfree
    exact vldcDecodeEnd_step hcore hfs hps hawaits hfails hret hpres hland hfree
  case clearing =>
    intro hcore
    have hstep : (s.onCore core fun s => s.clearingDone core) = s.clearingDone core := if_pos hcore
    have hhart : (s.clearingDone core).hart core = _ := State.hart_modHart_same s core _
    refine happens_of_eq rfl hstep ⟨?_, ?_, ?_, fun j hj => State.core_modHart_ne s _ hj⟩
    all_goals rw [hhart]

end Sys2Proof.Machine
end

section
/-! SUPPORT. Timed stores (R118, R120, R122, R181): O55's third part. Settles O55. -/

namespace Sys2Proof.Machine

/-! ### Timed stores -/

/-- Without a move nothing meets a moved response (R40). -/
theorem State.movedResponseResend_still {s : State} (h : s.ranges.moves = []) (k : Nat) : s.movedResponseResend k = s := by
  have hres (f : Flight) (p : Piece) : s.resend f p = (0, p) := by
    unfold State.resend
    rw [h]
    cases p.loc <;> rfl
  refine congrArg (fun fs => ({ s with flights := fs } : State)) (modAt_of_fixes (fun f => ?_) _ _)
  have hback : (f.pieces.map (s.resend f)).foldl (fun a q => max a q.1) 0 = 0 := by
    rw [funext (hres f)]
    induction f.pieces with
    | nil => rfl
    | cons p ps ih => simpa using ih
  have hpieces : (f.pieces.map (s.resend f)).map (·.2) = f.pieces := by
    rw [funext (hres f), List.map_map]
    exact List.map_id' _
  simp only [hback, hpieces, Nat.max_zero]

/-- Where nothing is on the move, a block is held back by its scratch segment alone (R39, R56, R63). -/
theorem State.heldBack_still {s : State} {f : Flight} {p : Piece} (hmoves : s.ranges.moves = []) (hplacing : s.ranges.placing = [])
    (hseg : ∀ c o, p.loc = .scr c o → (s.core c).segMoving (o / 4096) = false) : s.heldBack f p = false := by
  unfold State.heldBack State.blockHeld State.incoming
  rw [hmoves, hplacing]
  cases hl : p.loc with
  | scr c o => simp [hseg c o hl]
  | mem | bad => simp

/-- PEND of a context that runs on the core that issued an access falls there (R181). -/
theorem State.pendDown_present {s : State} {f : Flight} (h : s.present f.core f.area f.lvl = true) :
    s.pendDown f = s.modHart f.core fun h => { h with pend := h.pend - 1 } := by
  unfold State.pendDown
  rw [State.homeOf_present h]

/-- A timed store without a late block ends, where its context runs. -/
theorem State.storeArrived_drop {s : State} {f : Flight} (hland : f.land = .drop) (hlate : f.late = [])
    (h : s.present f.core f.area f.lvl = true) (k : Nat) :
    s.storeArrived k f = (s.dropFlight k).modHart f.core fun h => { h with pend := h.pend - 1 } := by
  unfold State.storeArrived
  rw [hlate, hland]
  exact State.pendDown_present h

/-- A block of a timed store that comes before its time is held at its home (R118). -/
theorem State.arriveBlock_early {s : State} {f : Flight} {p : Piece} {time d : Nat} (hfuture : f.wasFuture = true)
    (hearly : s.homeReached p.loc time = false) (hd : p.loc.die = some d) :
    s.arriveBlock time f p =
      (f, s.modDie d fun v => { v with held := v.held ++ [{ f with pieces := [p], fails := [], late := [] }] }) := by
  unfold State.arriveBlock
  rw [hfuture, hearly, hd]
  rfl

/-- A home has room for the one block of the only access on its way (R122). -/
theorem State.roomFor_one {s : State} {f : Flight} {p : Piece} {d : Nat} (hfs : s.flights = [f]) (hacc : f.accepted = false)
    (hps : f.pieces = [p]) (hd : p.loc.die = some d) (hroom : (s.die d).held.length < 4096) : s.roomFor f = true := by
  have hwaiting : s.waitingAt d = (s.die d).held.length := by
    unfold State.waitingAt
    rw [hfs]
    simp [hacc]
  have hblocks : f.blocksAt d = 1 := by
    unfold Flight.blocksAt
    rw [hps]
    simp [hd]
  unfold State.roomFor
  rw [hps]
  simp only [List.all_cons, List.all_nil, Bool.and_true, hd, hwaiting, hblocks]
  exact decide_eq_true hroom

/-- The only access on its way is a timed store of one block that reaches its home before its time (R118, R122). -/
theorem State.timedArrival_early {s : State} {f : Flight} {p : Piece} {time d : Nat} (hfs : s.flights = [f])
    (hmoves : s.ranges.moves = []) (htime : f.time = some time) (hact : f.act = .write) (hacc : f.accepted = false)
    (hps : f.pieces = [p]) (harr : s.arrived f = true) (hheld : s.heldBack f p = false) (hroom : s.roomFor f = true)
    (hfuture : f.wasFuture = true) (hearly : s.homeReached p.loc time = false) (hd : p.loc.die = some d) :
    s.timedArrival 0 =
      (s.modDie d fun v => { v with held := v.held ++ [{ f with pieces := [p], fails := [], late := [] }] }).storeArrived 0
        { f with pieces := [], accepted := true } := by
  have hsame : ({ f with pieces := [p] } : Flight) = f := by rw [← hps]
  have hread : (f.act == .read) = false := by rw [hact]; rfl
  have hcond : (f.accepted || !s.arrived f || [p].any (s.heldBack f) || !s.roomFor f || s.timedBefore 0 f) = false := by
    rw [hacc, harr, hroom]
    simp [hheld, State.timedBefore]
  have harrive := State.arriveBlock_early (f := { f with pieces := [] }) hfuture hearly hd
  unfold State.timedArrival
  rw [State.movedResponseResend_still hmoves]
  dsimp only
  rw [hfs]
  dsimp only [List.getElem?_cons_zero]
  split
  next hnone => rw [htime] at hnone; cases hnone
  next due hdue =>
    obtain rfl : time = due := Option.some.inj (htime.symm.trans hdue)
    rw [hread, s.blockOf_one hps]
    simp -zeta only [Bool.false_eq_true, if_false, State.arriveBlocks, hsame, harrive]
    rw [hcond]
    rfl

/-- A timed store that comes before its time is held at its home, and its bundle waits for it no more (R118, R122). -/
theorem timedArrival_step {s : State} {f : Flight} {p : Piece} {time d : Nat} (hfs : s.flights = [f])
    (hmoves : s.ranges.moves = []) (hplacing : s.ranges.placing = []) (htime : f.time = some time) (hact : f.act = .write)
    (hland : f.land = .drop) (hacc : f.accepted = false) (hfuture : f.wasFuture = true) (hlate : f.late = [])
    (hps : f.pieces = [p]) (hd : p.loc.die = some d)
    (hseg : ∀ c o, p.loc = .scr c o → (s.core c).segMoving (o / 4096) = false) (hroom : (s.die d).held.length < 4096)
    (hearly : s.homeReached p.loc time = false) (harr : s.arrived f = true) (hpres : s.present f.core f.area f.lvl = true)
    {i : Instr} (hexec : exec i s = .next (s.timedArrival 0)) :
    Happens i s fun t => t.flights = [] ∧ t.mem = s.mem ∧ (t.hart f.core).pend = (s.hart f.core).pend - 1 ∧
      ∃ g, (t.die d).held = (s.die d).held ++ [g] ∧ g.time = some time ∧ g.pieces = [p] := by
  have hstep := State.timedArrival_early hfs hmoves htime hact hacc hps harr (State.heldBack_still hmoves hplacing hseg)
    (State.roomFor_one hfs hacc hps hd hroom) hfuture hearly hd
  rw [State.storeArrived_drop
    (s := s.modDie d fun v => { v with held := v.held ++ [{ f with pieces := [p], fails := [], late := [] }] })
    (f := { f with pieces := [], accepted := true }) hland hlate hpres] at hstep
  refine happens_of_eq hexec hstep ⟨?_, rfl, ?_, { f with pieces := [p], fails := [], late := [] }, ?_, htime, rfl⟩
  · rw [State.modHart_flights, State.dropFlight, State.modDie_flights, hfs]
    rfl
  · rw [State.hart_modHart_same]
    rfl
  · rw [State.die_modHart]
    exact congrArg Die.held (State.die_modDie_same s d fun v =>
      { v with held := v.held ++ [{ f with pieces := [p], fails := [], late := [] }] })

/-- Two changes that agree on a die's state change it alike. -/
theorem State.modDie_congr {s : State} {d : Nat} {f g : Die → Die} (h : f (s.die d) = g (s.die d)) :
    s.modDie d f = s.modDie d g := by
  unfold State.modDie Tbl.mod
  unfold State.die at h
  rw [h]

/-! ### Timed stores that are due, and late ones -/

/-- A block of a timed store that answers performs, and its home logs nothing (R118). -/
theorem State.performTimed_ok {s t : State} {f : Flight} {p : Piece} (hact : f.act = .write) (hpeer : s.locPeer p.loc = false)
    (h : s.homeWrite f.plain f.lvl p.loc p.val p.mask = .ok t) : s.performTimed f p = t := by
  have hawait : s.awaitPeer { f with pieces := [p] } = s := by
    unfold State.awaitPeer
    simp [hpeer]
  unfold State.performTimed
  simp only [hawait, State.performPiece_write (f := { f with pieces := [], fails := [] }) hact h]

/-- The only store held at a die, whose time has come there, performs (R118). -/
theorem State.timedDueAll_one {s : State} {f : Flight} {p : Piece} {time d : Nat} (hfs : s.flights = [])
    (hheld : (s.die d).held = [f]) (htime : f.time = some time) (hps : f.pieces = [p])
    (hdue : s.homeReached p.loc time = true) (hfree : s.heldBack f p = false) {t : State}
    (h : (s.modDie d fun v => { v with held := [] }).performTimed f p = t) (hts : t.flights = []) : s.timedDueAll d = t := by
  have htd : f.due = time := by unfold Flight.due; rw [htime]; rfl
  have htimes : s.dueTimes d = [time] := by
    unfold State.dueTimes
    rw [hheld, hfs]
    simp [hps, htd, hdue, hfree]
  have hmine : ((s.die d).held.filter fun f => f.due == time && f.pieces.any (fun p => s.homeReached p.loc time) &&
      !f.pieces.any (s.heldBack f)) = [f] := by
    rw [hheld]
    simp [hps, htd, hdue, hfree]
  have hleft : (s.modDie d fun v => { v with held := v.held.filter fun g => !(List.contains [f] g) }) =
      s.modDie d fun v => { v with held := [] } := by
    apply State.modDie_congr
    rw [hheld]
    simp
  have hat : s.timedAt d time = t := by
    unfold State.timedAt
    dsimp only
    rw [hmine, hleft]
    simp only [List.foldl_cons, List.foldl_nil, hps, h, hts, List.length_nil, List.range_zero]
  unfold State.timedDueAll
  rw [hheld, hfs]
  show (match leastOf (s.dueTimes d) with
    | none => s
    | some t => (s.timedAt d t).timedDue d 0) = t
  rw [htimes]
  exact hat

theorem timedDue_step {s : State} {f : Flight} {p : Piece} {time d : Nat} (hd : d < 16) (hfs : s.flights = [])
    (hheld : (s.die d).held = [f]) (htime : f.time = some time) (hdue : s.homeReached p.loc time = true)
    (hplain : f.plain = false) (hpeer : s.locPeer p.loc = false) (hact : f.act = .write) (hps : f.pieces = [p])
    (hfree : s.heldBack f p = false) (ha : Claim.Answers s false [p]) :
    Happens (.timedAccessDue d) s fun t => (t.die d).held = [] ∧ t.flights = [] ∧ Claim.Writes s t false [p] := by
  have hmap : SameMap s (s.modDie d fun v => { v with held := [] }) := .of_cores rfl rfl rfl
  have hmap' : SameMap (s.modDie d fun v => { v with held := [] }) s := .of_cores rfl rfl rfl
  have ha' := answers_congr ha hmap rfl rfl
  obtain ⟨⟨b, hb⟩, hp⟩ := ha'.1 p List.mem_cons_self
  obtain ⟨t, ht⟩ := State.homeWrite_of_read hp hb f.lvl p.val p.mask
  have hst := State.homeWrite_onlyStored hp ht
  have hw := writes_cons ha' ht (writes_nil t false)
  rw [← hplain] at ht
  have hperf := State.performTimed_ok (s := s.modDie d fun v => { v with held := [] }) hact hpeer ht
  have hts : t.flights = [] := hst.flights.trans hfs
  have hstep : (s.onDie d fun s => s.timedDueAll d) = t :=
    (if_pos hd).trans (State.timedDueAll_one hfs hheld htime hps hdue hfree hperf hts)
  refine happens_of_eq rfl hstep ⟨?_, hts, ?_⟩
  · show (t.dies.get d).held = []
    rw [hst.dies]
    show ((s.modDie d _).die d).held = []
    rw [State.die_modDie_same]
  · exact writes_congr hw (fun q hq => (ha'.1 q hq).2) hst.sameMap hmap' rfl rfl (SameMap.refl t) rfl rfl

/-- A late store's notice reaches its context, and PEND falls (R120, R181). -/
theorem missedReport_step {s : State} {f : Flight} {n : Notice} (hfs : s.flights = [f]) (hn : f.lateNotice = some n)
    (hacc : f.accepted = true) (hland : f.land = .drop) (hpres : s.present f.core f.area f.lvl = true)
    (hroom : (s.hart f.core).notices.length < 8) :
    Happens (.missedDeadlineReport 0) s fun t => t.flights = [] ∧ t.mem = s.mem ∧
      (t.hart f.core).notices = (s.hart f.core).notices ++ [n] ∧ (t.hart f.core).pend = (s.hart f.core).pend - 1 := by
  have hnotice : s.noticeTo f n = s.modHart f.core fun h => { h with notices := h.notices ++ [n] } := by
    unfold State.noticeTo
    rw [State.homeOf_present hpres]
    exact if_pos hroom
  have hpres' : (s.modHart f.core fun h => { h with notices := h.notices ++ [n] }).present f.core f.area f.lvl = true := by
    unfold State.present at hpres ⊢
    rw [State.core_modHart_same]
    exact hpres
  have hstep : s.missedReport 0 = ((s.modHart f.core fun h => { h with notices := h.notices ++ [n] }).dropFlight 0).modHart
      f.core fun h => { h with pend := h.pend - 1 } := by
    unfold State.missedReport
    rw [hfs]
    dsimp only [List.getElem?_cons_zero]
    rw [hn]
    dsimp only
    rw [hacc, hnotice]
    exact State.storeArrived_drop (f := { f with late := [], accepted := true }) hland rfl hpres' 0
  have hhart (g : Hart → Hart) (k : Nat) : ((s.modHart k g).dropFlight 0).hart k = g (s.hart k) := State.hart_modHart_same s k g
  refine happens_of_eq rfl hstep ⟨?_, rfl, ?_, ?_⟩
  · rw [State.modHart_flights, State.dropFlight, State.modHart_flights, hfs]
    rfl
  · rw [State.hart_modHart_same, hhart]
  · rw [State.hart_modHart_same, hhart]

/-- Timed stores (R118, R120, R122, R181). -/
theorem timedSteps : Claim.TimedSteps := by
  intro s f p
  refine ⟨?early, ?due, ?late⟩
  case early =>
    intro time d hfs hmoves hplacing htime hact hland hacc hfuture hlate _ hps hd hseg hroom hearly harr hpres i hi
    have hexec : exec i s = .next (s.timedArrival 0) := by
      rcases hi with rfl | rfl <;> rfl
    exact timedArrival_step hfs hmoves hplacing htime hact hland hacc hfuture hlate hps hd hseg hroom hearly harr hpres hexec
  case due =>
    intro time d hd hfs hheld htime hdue hplain hpeer hact hps hfree ha
    exact timedDue_step hd hfs hheld htime hdue hplain hpeer hact hps hfree ha
  case late =>
    intro n hfs hn hacc hland hpres hroom
    exact missedReport_step hfs hn hacc hland hpres hroom

/-- Settles O55: the steps at the homes, what lands in the grid, and the timed stores. -/
theorem accessSteps : Obligations.AccessSteps := by
  unfold Obligations.AccessSteps
  exact ⟨homeSteps, landingSteps, timedSteps⟩

end Sys2Proof.Machine
end

section
/-! SUPPORT. Blocks that a dredger moves (R38, R40): what a move of bytes leaves alone, and what it depends on. -/

namespace Sys2Proof.Machine

/-! ### What the device's own stores leave alone -/

/-- A store by a physical address changes storage alone. -/
theorem State.physWrite_onlyStored {s t : State} {pa owner tweak : Nat} {val mask : BitVec 512}
    (h : s.physWrite pa owner tweak val mask = .ok t) : OnlyStored s t := by
  obtain ⟨_, _, -, -, rfl⟩ | ⟨_, _, _, -, hw, rfl⟩ := State.physWrite_ok h
  · exact ⟨rfl, fun _ => rfl⟩
  · exact onlyStored_setCore hw

/-- A word of a directory stored changes storage alone (R29, R38). -/
theorem State.physPutWord_onlyStored (s : State) (pa : Nat) (w : Word) : OnlyStored s (s.physPutWord pa w) := by
  unfold State.physPutWord
  dsimp only
  split
  next t ht => exact State.physWrite_onlyStored ht
  next => exact .refl s

theorem State.unlock_onlyStored (s : State) (dirbase : Nat) : OnlyStored s (s.unlock dirbase) :=
  s.physPutWord_onlyStored (dirbase + 8) 0

theorem State.tryLock_onlyStored {s t : State} {dirbase holder : Nat} (h : s.tryLock dirbase holder = some t) :
    OnlyStored s t := by
  unfold State.tryLock at h
  split at h <;> cases h
  exact s.physPutWord_onlyStored _ _

/-- A block poisoned (R40). -/
theorem State.poison_onlyStored (s : State) (pa : Nat) : OnlyStored s (s.poison pa) := by
  unfold State.poison
  split
  next k off _ =>
    dsimp only
    split
    · refine ⟨rfl, fun j => ?_⟩
      by_cases e : j = k
      · subst e; rw [State.core_setCore_same]
      · rw [State.core_setCore_ne _ _ e]
    · exact .refl s
  next => exact ⟨rfl, fun _ => rfl⟩

theorem State.moveBlock_onlyStored (s : State) (a b : Nat) : OnlyStored s (s.moveBlock a b) := by
  unfold State.moveBlock
  split
  · exact s.poison_onlyStored b
  split
  · exact ⟨rfl, fun _ => rfl⟩
  split
  · split
    next t ht => exact State.physWrite_onlyStored ht
    next => exact .refl s
  · exact s.poison_onlyStored b

theorem State.moveBytes_onlyStored (s : State) (a b n : Nat) : OnlyStored s (s.moveBytes a b n) := by
  unfold State.moveBytes
  exact List.foldlRecOn _ _ (.refl s) fun t ht i _ => ht.trans (t.moveBlock_onlyStored (a + 64 * i) (b + 64 * i))

theorem OnlyStored.ranges {s t : State} (h : OnlyStored s t) : t.ranges = s.ranges := by rw [h.1]
theorem OnlyStored.link {s t : State} (h : OnlyStored s t) : t.link = s.link := by rw [h.1]
theorem OnlyStored.count {s t : State} (h : OnlyStored s t) : t.count = s.count := by rw [h.1]
theorem OnlyStored.die {s t : State} (h : OnlyStored s t) (d : Nat) : t.die d = s.die d := by
  unfold State.die; rw [h.dies]
theorem OnlyStored.hart {s t : State} (h : OnlyStored s t) (k : Nat) : t.hart k = s.hart k := by
  unfold State.hart; rw [h.2 k]

/-! ### What a move of bytes depends on -/

/-- Two states whose dredgers move bytes alike: the same storage, in the same places, and the same dies in service. -/
structure SameStorage (s t : State) : Prop extends SameMap s t where
  mem : t.mem = s.mem
  cores : t.cores = s.cores
  count : t.count = s.count
  inService : ∀ d, (t.die d).inService = (s.die d).inService

theorem SameStorage.physRead {s t : State} (h : SameStorage s t) (pa owner tweak : Nat) :
    t.physRead pa owner tweak = s.physRead pa owner tweak := by
  rw [State.physRead_eq, State.physRead_eq, h.resolve, h.seat]
  unfold State.seatRead State.core
  rw [h.mem, h.cores]

theorem SameStorage.silent {s t : State} (h : SameStorage s t) (pa : Nat) : t.silent pa = s.silent pa := by
  unfold State.silent
  rw [h.region, h.count]
  simp only [h.inService]

/-- States that store alike have the same storage still: the rest of each is as it was. -/
theorem SameStorage.of_stored {s t u v : State} (h : SameStorage s t) (hu : OnlyStored s u) (hv : OnlyStored t v)
    (hmem : v.mem = u.mem) (hcores : v.cores = u.cores) : SameStorage u v where
  link := by rw [hv.link, hu.link, h.link]
  moves := by rw [hv.ranges, hu.ranges, h.moves]
  bank k := by unfold State.core; rw [hcores]
  mem := hmem
  cores := hcores
  count := by rw [hv.count, hu.count, h.count]
  inService d := by rw [hv.die, hu.die, h.inService]

theorem SameStorage.poison {s t : State} (h : SameStorage s t) (pa : Nat) : SameStorage (s.poison pa) (t.poison pa) := by
  have hcore (k : Nat) : t.core k = s.core k := congrArg (Tbl.get · k) h.cores
  refine h.of_stored (s.poison_onlyStored pa) (t.poison_onlyStored pa) ?_ ?_
  · unfold State.poison
    rw [h.region, h.mem]
    split
    next k off _ => dsimp only; rw [hcore]; split <;> exact h.mem
    next => rfl
  · unfold State.poison
    rw [h.region]
    split
    next k off _ =>
      dsimp only
      rw [hcore]
      split
      · exact congrArg (Tbl.put · k _) h.cores
      · exact h.cores
    next => exact h.cores

/-- A store by a physical address: both states answer alike. -/
theorem SameStorage.physWrite {s t : State} (h : SameStorage s t) (pa owner tweak : Nat) (val mask : BitVec 512) :
    (∃ e, s.physWrite pa owner tweak val mask = .error e ∧ t.physWrite pa owner tweak val mask = .error e) ∨
    ∃ u v, s.physWrite pa owner tweak val mask = .ok u ∧ t.physWrite pa owner tweak val mask = .ok v ∧
      v.mem = u.mem ∧ v.cores = u.cores := by
  rw [State.physWrite_eq, State.physWrite_eq, h.resolve, h.seat]
  cases s.seat (s.resolve pa) owner tweak with
  | memory cred =>
    unfold State.seatWrite
    dsimp only
    rw [h.mem]
    cases s.mem.write (s.resolve pa) cred val mask with
    | error e => exact .inl ⟨e, rfl, rfl⟩
    | ok m => exact .inr ⟨_, _, rfl, rfl, rfl, h.cores⟩
  | scratch k off =>
    have hcore : t.core k = s.core k := congrArg (Tbl.get · k) h.cores
    unfold State.seatWrite
    dsimp only
    rw [hcore]
    cases (s.core k).scrWrite off val mask with
    | error e => exact .inl ⟨e, rfl, rfl⟩
    | ok c => exact .inr ⟨_, _, rfl, rfl, h.mem, congrArg (Tbl.put · k c) h.cores⟩
  | nowhere => exact .inl ⟨_, rfl, rfl⟩

theorem SameStorage.moveBlock {s t : State} (h : SameStorage s t) (a b : Nat) :
    SameStorage (s.moveBlock a b) (t.moveBlock a b) := by
  have hif {p : Prop} [Decidable p] {x y u v : State} (hx : SameStorage x u) (hy : SameStorage y v) :
      SameStorage (if p then x else y) (if p then u else v) := by split <;> assumption
  have hsame : SameStorage ({ s with mem := s.mem.moveBlock a b }) { t with mem := t.mem.moveBlock a b } :=
    h.of_stored ⟨rfl, fun _ => rfl⟩ ⟨rfl, fun _ => rfl⟩ (congrArg (·.moveBlock a b) h.mem) h.cores
  unfold State.moveBlock
  rw [h.silent, h.region, h.region, h.physRead]
  refine hif (h.poison b) (hif hsame ?_)
  cases s.physRead a 0 0 with
  | error e => exact h.poison b
  | ok w =>
    obtain ⟨e, hs, ht⟩ | ⟨u, v, hs, ht, hmem, hcores⟩ := h.physWrite b 0 0 w (~~~0)
    · dsimp only; rw [hs, ht]; exact h
    · dsimp only
      rw [hs, ht]
      exact h.of_stored (State.physWrite_onlyStored hs) (State.physWrite_onlyStored ht) hmem hcores

theorem SameStorage.moveBytes {s t : State} (h : SameStorage s t) (a b n : Nat) :
    SameStorage (s.moveBytes a b n) (t.moveBytes a b n) := by
  unfold State.moveBytes
  generalize List.range _ = l
  induction l generalizing s t with
  | nil => exact h
  | cons i l ih => exact ih (h.moveBlock (a + 64 * i) (b + 64 * i))

end Sys2Proof.Machine
end

section
/-! SUPPORT. Holders and retrievers (R34, R35, R37, R290): the steps that end invalidations, fills, drops and searches. -/

namespace Sys2Proof.Machine

/-- A table whose values are changed in place, the default left as it is. -/
theorem Tbl.get_map {α : Type} [Inhabited α] (t : Tbl α) {g : Nat → α → α} (hg : ∀ k, g k default = default) (k : Nat) :
    Tbl.get (t.map fun p => (p.1, g p.1 p.2)) k = g k (t.get k) := by
  unfold Tbl.get
  induction t with
  | nil => exact (hg k).symm
  | cons p t ih =>
    obtain ⟨j, v⟩ := p
    rw [List.map_cons, Tbl.getD, Tbl.getD, ih]
    split
    next h => rw [h]
    next => rfl

/-- Every core of a state whose cores are changed in place. -/
theorem State.core_of_map {s t : State} {g : Nat → Core → Core} (h : t.cores = s.cores.map fun p => (p.1, g p.1 p.2))
    (hg : ∀ k, g k default = default) (k : Nat) : t.core k = g k (s.core k) := by
  unfold State.core
  rw [h]
  exact Tbl.get_map s.cores hg k

/-! ### Invalidations -/

theorem RcEnt.inside_iff (e : RcEnt) (owner lo hi : Nat) :
    e.inside owner lo hi = true ↔ e.owner = owner ∧ lo < hi ∧ e.desc.base.toNat < hi ∧ lo < e.desc.lim.toNat := by
  simp [RcEnt.inside, cross, and_assoc]

/-- A core after a holder's drop: the cores of its die lose the entries (R34). -/
def Core.dropHeld (agent owner lo hi k : Nat) (c : Core) : Core :=
  if dieOf k = agent then { c with cache := c.cache.filter fun e => !e.inside owner lo hi } else c

/-- The entries of an owner in an interval go from the caches of a die's cores, and from no other core's (R34). -/
theorem State.dropHeld_cache (s : State) {agent : Nat} (h : agent < 16) (owner lo hi j : Nat) :
    ((s.dropHeld agent owner lo hi).core j).cache =
      if j / 96 = agent then (s.core j).cache.filter (fun e => !e.inside owner lo hi) else (s.core j).cache := by
  have hmap : (s.dropHeld agent owner lo hi).cores =
      s.cores.map fun p => (p.1, Core.dropHeld agent owner lo hi p.1 p.2) := by
    unfold State.dropHeld Core.dropHeld
    rw [if_neg (by omega)]
    refine congrArg (List.map · s.cores) (funext fun p => ?_)
    split <;> rfl
  rw [State.core_of_map hmap fun k => by unfold Core.dropHeld; split <;> rfl]
  unfold Core.dropHeld dieOf
  split <;> rfl

theorem State.dropHeld_ranges (s : State) (agent owner lo hi : Nat) : (s.dropHeld agent owner lo hi).ranges = s.ranges := by
  unfold State.dropHeld
  split <;> rfl

theorem State.dropHeld_mem (s : State) (agent owner lo hi : Nat) : (s.dropHeld agent owner lo hi).mem = s.mem := by
  unfold State.dropHeld
  split <;> rfl

/-- An invalidation reaches a die that holds entries of it (R34). -/
theorem holderDrop_step {s : State} {k : Nat} {v : Inval} {agent : Nat} (hv : s.ranges.invals[k]? = some v) (hagent : agent < 16)
    (hbit : v.holders.getLsbD agent = true) :
    Happens (.holderDrop k agent) s fun t => t.mem = s.mem ∧
      t.ranges = { s.ranges with invals := modAt s.ranges.invals k fun v =>
        { v with holders := v.holders &&& ~~~(BitVec.twoPow 17 agent) } } ∧
      ∀ j e, j / 96 = agent → (e ∈ (t.core j).cache ↔
        e ∈ (s.core j).cache ∧ ¬(e.owner = v.owner ∧ v.lo < v.hi ∧ e.desc.base.toNat < v.hi ∧ v.lo < e.desc.lim.toNat)) := by
  have hstep : s.holderDrop k agent = (s.dropHeld agent v.owner v.lo v.hi).modRanges fun r =>
      { r with invals := modAt r.invals k fun v => { v with holders := v.holders &&& ~~~(BitVec.twoPow 17 agent) } } := by
    unfold State.holderDrop
    rw [hv]
    exact if_pos hbit
  refine happens_of_eq rfl hstep ⟨s.dropHeld_mem .., ?_, fun j e hj => ?_⟩
  · show _ = _
    unfold State.modRanges
    dsimp only
    rw [State.dropHeld_ranges]
  · show e ∈ ((s.dropHeld agent v.owner v.lo v.hi).core j).cache ↔ _
    rw [State.dropHeld_cache s hagent, if_pos hj, List.mem_filter, Bool.not_eq_true', ← RcEnt.inside_iff,
      Bool.not_eq_true]

/-- The records of the directory that an invalidation clears are those of its interval (R34). -/
theorem mem_records_cleared {v : Inval} {r : TdRec} {l : List TdRec}
    (h : r ∈ l.filter fun t => !(t.owner == v.owner && cross v.lo v.hi t.lo t.hi)) (ho : r.owner = v.owner) :
    ¬(v.lo < v.hi ∧ r.lo < v.hi ∧ v.lo < r.hi) := by
  have hb := (List.mem_filter.mp h).2
  simp [ho, cross] at hb
  omega

/-- A core after an RGINV has completed: its hart, where it waits for that one, goes on (R35). -/
def Core.endInval (id : Nat) (c : Core) : Core :=
  if c.hart.inval = some id then { c with hart := { c.hart with inval := none } }.unblock else c

/-- The hart that waits for its RGINV waits for none (R35). -/
theorem State.endInval_hart (s : State) (id j : Nat) (h : (s.hart j).inval = some id) :
    ((s.endInval id).hart j).inval = none := by
  have hmap : (s.endInval id).cores = s.cores.map fun p => (p.1, p.2.endInval id) := by
    unfold State.endInval Core.endInval
    refine congrArg (List.map · s.cores) (funext fun p => ?_)
    split <;> rfl
  unfold State.hart at h ⊢
  rw [State.core_of_map (g := fun _ => Core.endInval id) hmap fun _ => rfl, Core.endInval, if_pos h]
  rfl

/-- An RGINV completes (R35). -/
theorem rginvComplete_hart {s : State} {k core a : Nat} {v : Inval} (hv : s.ranges.invals[k]? = some v)
    (hdone : s.invalDone v = true) (hwhat : v.what = .hart core a) :
    Happens (.rginvComplete k) s fun t => t.mem = s.mem ∧ t.ranges.invals = dropAt s.ranges.invals k ∧
      (∀ j, (s.hart j).inval = some v.id → (t.hart j).inval = none) ∧
      ∀ r ∈ t.ranges.records, r.owner = v.owner → ¬(v.lo < v.hi ∧ r.lo < v.hi ∧ v.lo < r.hi) := by
  have hstep : s.rginvComplete k = (s.modRanges fun r => { r with
      invals := dropAt r.invals k
      records := r.records.filter fun t => !(t.owner == v.owner && cross v.lo v.hi t.lo t.hi) }).endInval v.id := by
    unfold State.rginvComplete
    rw [hv]
    dsimp only
    rw [if_pos hdone, hwhat]
  exact happens_of_eq rfl hstep ⟨rfl, rfl, fun j hj => State.endInval_hart _ v.id j hj,
    fun r hr ho => mem_records_cleared hr ho⟩

/-- A core after a wait has ended: its hart, where it waits for that one, has the result (R33). -/
def Core.endWait (id : Nat) (w : Wait) (c : Core) : Core :=
  { c with hart := if c.hart.ewait = .edit id then { c.hart with ewait := w } else c.hart }

/-- What has a wait ended, in the hart that waits (R33). -/
theorem State.endWait_hart (s : State) (id j : Nat) (w : Wait) (h : (s.hart j).ewait = .edit id) :
    ((s.endWait id w).hart j).ewait = w := by
  unfold State.hart at h ⊢
  rw [State.core_of_map (g := fun _ => Core.endWait id w) (t := s.endWait id w) rfl fun _ => rfl, Core.endWait]
  dsimp only
  rw [if_pos h]

/-- An edit completes: its invalidation is over, LOCK is released, and its hart goes on (R33, R34). -/
theorem rginvComplete_edit {s u : State} {k core a dirbase : Nat} {v : Inval} (hv : s.ranges.invals[k]? = some v)
    (hdone : s.invalDone v = true) (hwhat : v.what = .edit core a dirbase)
    (hu : u = s.modRanges fun r => { r with
      invals := dropAt r.invals k
      records := r.records.filter fun t => !(t.owner == v.owner && cross v.lo v.hi t.lo t.hi) }) :
    Happens (.rginvComplete k) s fun t => t.ranges = u.ranges ∧ t.mem = (u.unlock dirbase).mem ∧
      ∀ j, (s.hart j).ewait = .edit v.id → (t.hart j).ewait = .edited 0 := by
  have hstep : s.rginvComplete k = (u.unlock dirbase).endWait v.id (.edited 0) := by
    unfold State.rginvComplete
    rw [hv]
    dsimp only
    rw [if_pos hdone, hwhat, hu]
  have hkept := u.unlock_onlyStored dirbase
  have hharts (j : Nat) : u.hart j = s.hart j := by rw [hu]; rfl
  refine happens_of_eq rfl hstep ⟨hkept.ranges, rfl, fun j hj => State.endWait_hart _ v.id j _ ?_⟩
  rw [hkept.hart, hharts, hj]

/-! ### Fills, drops and searches -/

/-- A fill's message reaches its slice, which waits for no drop (R37). -/
theorem fillRecord_step {s : State} {k : Nat} {f : TdRec} (hf : s.ranges.fills[k]? = some f)
    (hwait : s.ranges.waiting.contains (f.owner % 16) = false) :
    Claim.Does (.fillRecord k) s ((s.modRanges fun r => { r with fills := dropAt r.fills k }).recordFill f) := by
  refine congrArg Host.Outcome.next ?_
  unfold State.fillRecord
  rw [hf]
  exact if_neg (Bool.eq_false_iff.mp hwait)

/-- A core after the drop for a moved slice: it keeps no entry of that slice's owners (R37). -/
def Core.dropSlice (k : Nat) (c : Core) : Core := { c with cache := c.cache.filter fun e => !(e.owner % 16 == k % 16) }

/-- The drop for a moved slice completes (R37). -/
theorem sliceDropComplete_step {s : State} {k : Nat} (hwait : s.ranges.waiting.contains (k % 16) = true) (hfs : s.flights = [])
    (hheld : ∀ p ∈ s.dies, p.2.held = []) (hsearch : s.ranges.searches = []) :
    Happens (.sliceDropComplete k) s fun t => t.mem = s.mem ∧ t.ranges.waiting.contains (k % 16) = false ∧
      ∀ j, ∀ e ∈ (t.core j).cache, e.owner % 16 ≠ k % 16 := by
  have hnone (f : Flight → Bool) : s.dies.any (fun d => d.2.held.any f) = false :=
    List.any_eq_false.mpr fun d hd => by rw [hheld d hd]; simp
  have hcond : ((!s.ranges.waiting.contains (k % 16)) || s.flights.any (fun f => f.owner % 16 == k % 16 && f.space == 0 &&
      !f.pieces.isEmpty) || s.dies.any (fun d => d.2.held.any fun f => f.owner % 16 == k % 16 && f.space == 0 &&
      !f.pieces.isEmpty) || s.ranges.searches.any fun x => x.owner % 16 == k % 16) = false := by
    rw [hwait, hfs, hnone, hsearch]
    rfl
  have hstep : s.sliceDropComplete k = _ := if_neg (Bool.eq_false_iff.mp hcond)
  refine happens_of_eq rfl hstep ⟨rfl, ?_, fun j e he => ?_⟩
  · rw [← Bool.not_eq_true, List.contains_iff_mem, List.mem_filter]
    simp
  · rw [State.core_of_map (s := s) (g := fun _ => Core.dropSlice k) rfl fun _ => rfl] at he
    simpa using (List.mem_filter.mp he).2

/-- A search depends on memory and on the moves alone. -/
theorem State.search_ranges (s : State) (r : Ranges) (h : r.moves = s.ranges.moves) (dirbase va : Nat) :
    ({ s with ranges := r } : State).search dirbase va = s.search dirbase va := by
  have hread := physRead_ranges s r h
  have hcount : ({ s with ranges := r } : State).dirCount dirbase = s.dirCount dirbase := by
    unfold State.dirCount
    rw [hread]
  have hentry (i : Nat) : ({ s with ranges := r } : State).dirEntry dirbase i = s.dirEntry dirbase i := by
    unfold State.dirEntry
    dsimp only
    rw [hread]
  have hjudge (n i : Nat) (d : Desc) : ({ s with ranges := r } : State).judge dirbase n i d = s.judge dirbase n i d := by
    unfold State.judge
    rw [hentry, hentry]
  have hprobe (n lo hi : Nat) (c : Option (Nat × Desc)) :
      ({ s with ranges := r } : State).probe dirbase va n lo hi c = s.probe dirbase va n lo hi c := by
    induction n generalizing lo hi c with
    | zero => rfl
    | succ n ih =>
      unfold State.probe
      simp only [hentry, ih]
  unfold State.search
  simp only [hcount, hprobe, hjudge]

/-- A search begun by RGTOUCH finds an entry, and the core uses it (R290). -/
theorem retrieverSearchEnd_step {s t : State} {k i : Nat} {y : Search} {d : Desc} {c : Option Desc} {p : Option Word}
    (ht : t = s.modRanges fun r => { r with searches := dropAt r.searches k }) (hy : s.ranges.searches[k]? = some y)
    (hva : y.va.toNat < 2 ^ 57) (hinvals : s.ranges.invals = []) (hfound : t.search y.dirbase y.va.toNat = .ent d i c p) :
    Claim.Does (.retrieverSearchEnd k) s (t.useEntries y.core (foundEntries s.link.expanders y.owner i d c p).2) := by
  have hsearch : s.search y.dirbase y.va.toNat = .ent d i c p := by
    rw [← hfound, ht]
    exact (s.search_ranges { s.ranges with searches := dropAt s.ranges.searches k } rfl y.dirbase y.va.toNat).symm
  refine congrArg Host.Outcome.next ?_
  unfold State.retrieverSearchEnd
  rw [hy]
  dsimp only
  rw [if_neg (Nat.not_le.mpr hva), hsearch]
  dsimp only
  rw [hinvals, ← ht]
  exact congrArg (t.useEntries y.core) (List.filter_eq_self.mpr fun _ _ => rfl)

/-! ### Moves that start -/

/-- The only move takes no LOCK while that of its directory is taken (R29). -/
theorem State.dredgerLockRetry_waits {s : State} {m : Move} (hmoves : s.ranges.moves = [m])
    (hlock : s.lockOf m.dirbase ≠ some 0) : s.dredgerLockRetry 0 = s := by
  have hheld : s.tryLock m.dirbase (lockDredger m.homeA) = none := if_neg hlock
  unfold State.dredgerLockRetry
  rw [hmoves]
  dsimp only [List.getElem?_cons_zero]
  rw [hheld]
  exact ite_self _

/-- A first move, which waits for LOCK, changes no read of LOCK. -/
theorem State.lockOf_addMove {s : State} {m : Move} (hmoves : s.ranges.moves = []) (hst : m.st = .lock) (dirbase : Nat) :
    (s.addMove m).lockOf dirbase = s.lockOf dirbase := by
  have hres (a : Nat) : (s.addMove m).resolve a = s.resolve a := by
    show (match (s.ranges.moves ++ [m]).find? (·.passed a) with | some m => m.dst + (a - m.src) | none => a) = _
    unfold State.resolve
    rw [hmoves]
    simp [Move.passed, hst]
  have hread (a : Nat) : (s.addMove m).physRead a 0 0 = s.physRead a 0 0 := by
    rw [State.physRead_eq, State.physRead_eq, hres]
    rfl
  unfold State.lockOf State.physWord
  rw [hread]

/-- A dredger starts a move of a range, whose LOCK is taken: the move waits for it (R29, R38). -/
theorem dredgerMove_step {s : State} {owner va pa home i : Nat} {o : OwnEnt} {d : Desc} (ho : s.ownEnt owner = some o)
    (hent : s.entryAt o.dirbase.toNat va = some (i, d)) (hpa : pa % 64 = 0)
    (hhome : homeOk s.link.expanders pa d.size home d.owner = true) (hroom : s.roomAt pa d.size = true)
    (hmoves : s.ranges.moves = []) (hlock : s.lockOf o.dirbase.toNat ≠ some 0) :
    Happens (.dredgerMove owner va pa home) s fun t => t.mem = s.mem ∧
      ∃ n, t.ranges.moves = [n] ∧ n.st = .lock ∧ n.src = d.pa ∧ n.dst = pa ∧ n.homeB = home ∧ n.desc = d := by
  let m := newMove s.uid owner o.dirbase.toNat i d pa home true none
  have hadd : (s.addMove m).ranges.moves = [m] := congrArg (· ++ [m]) hmoves
  have hwait : (s.addMove m).dredgerLockRetry 0 = s.addMove m :=
    State.dredgerLockRetry_waits hadd ((State.lockOf_addMove (m := m) hmoves rfl _).symm ▸ hlock)
  have hstep : s.dredgerMove owner va pa home = s.addMove m := by
    unfold State.dredgerMove
    rw [ho]
    dsimp only
    rw [hent]
    dsimp only
    rw [if_neg (by simp [hpa, hhome, hroom, hmoves])]
    show (s.addMove m).dredgerLockRetry ((s.addMove m).ranges.moves.length - 1) = _
    rw [hadd]
    exact hwait
  exact happens_of_eq rfl hstep ⟨rfl, m, hadd, rfl, rfl, rfl, rfl, rfl⟩

/-- A move takes LOCK, once it is free, and goes on to its first chunk (R29, R38). -/
theorem dredgerLockRetry_step {s t : State} {k i : Nat} {m : Move} {d : Desc} (hm : s.ranges.moves[k]? = some m)
    (hst : m.st = .lock) (hlock : s.tryLock m.dirbase (lockDredger m.homeA) = some t)
    (hent : s.entryAt m.dirbase m.desc.base.toNat = some (i, d)) (hphys : d.phys = m.desc.phys) (hlim : d.lim = m.desc.lim) :
    Claim.Does (.dredgerLockRetry k) s { t with ranges := { t.ranges with
      moves := modAt t.ranges.moves k fun m => { m with st := .copying, index := i, desc := d } } } := by
  refine congrArg Host.Outcome.next ?_
  unfold State.dredgerLockRetry
  rw [hm]
  dsimp only
  rw [if_neg (by simp [hst]), hlock]
  dsimp only
  rw [hent]
  exact if_pos ⟨hphys, hlim⟩

end Sys2Proof.Machine
end

section
/-! SUPPORT. Dredgers (R38 to R41): a chunk opens at its new home, or comes back, and the move ends. -/

namespace Sys2Proof.Machine

/-! ### What dies count and log -/

/-- Only records of the dies may differ, and not which of them are in service. -/
def OnlyCounted (s t : State) : Prop :=
  t = { s with dies := t.dies } ∧ ∀ d, (t.die d).inService = (s.die d).inService

theorem OnlyCounted.refl (s : State) : OnlyCounted s s := ⟨rfl, fun _ => rfl⟩

theorem OnlyCounted.trans {s t u : State} (h : OnlyCounted s t) (g : OnlyCounted t u) : OnlyCounted s u := by
  obtain ⟨hst, hserv⟩ := h
  obtain ⟨hgt, gserv⟩ := g
  exact ⟨by rw [hgt, hst], fun d => (gserv d).trans (hserv d)⟩

theorem OnlyCounted.modDie (s : State) (d : Nat) {f : Die → Die} (hf : ∀ v, (f v).inService = v.inService) :
    OnlyCounted s (s.modDie d f) := by
  refine ⟨rfl, fun e => ?_⟩
  by_cases h : e = d
  · rw [h, State.die_modDie_same, hf]
  · rw [State.die_modDie_ne s f h]

theorem OnlyCounted.ranges {s t : State} (h : OnlyCounted s t) : t.ranges = s.ranges := by rw [h.1]
theorem OnlyCounted.flights {s t : State} (h : OnlyCounted s t) : t.flights = s.flights := by rw [h.1]

theorem OnlyCounted.sameStorage {s t : State} (h : OnlyCounted s t) : SameStorage s t where
  link := by rw [h.1]
  moves := by rw [h.ranges]
  bank k := by unfold State.core; rw [h.1]
  mem := by rw [h.1]
  cores := by rw [h.1]
  count := by rw [h.1]
  inService := h.2

theorem Die.log_inService (v : Die) (e : LogEnt) : (v.log e).inService = v.inService := by
  unfold Die.log
  split <;> rfl

/-- The errors of a span that a dredger copies go to its die's log (R69). -/
theorem State.dredgeLog_onlyCounted (s : State) (d owner a n : Nat) : OnlyCounted s (s.dredgeLog d owner a n) := by
  unfold State.dredgeLog
  refine List.foldlRecOn _ _ (.refl s) fun t ht i _ => ?_
  split
  · exact ht.trans (.modDie t d fun v => v.log_inService _)
  · exact ht

/-! ### Chunks that open -/

/-- A chunk that no reference stands for is shipped in full (R38, R62). -/
theorem State.shipChunk_full {s : State} {m : Move} {off len : Nat} (hx : s.ranges.xfers = [])
    (hd : s.dedups m off len = false) :
    ∃ u, OnlyCounted s u ∧ s.shipChunk m off len = (u.moveBytes (m.src + off) (m.dst + off) len, true) := by
  refine ⟨(if (m.homeA != m.homeB && len == 4096 && (m.dst + off) % 4096 == 0) = true then
      s.modDie m.homeA fun d => { d with sentFull := d.sentFull.count m.homeB } else s).dredgeLog
        m.homeA m.owner (m.src + off) len, ?_, ?_⟩
  · refine OnlyCounted.trans ?_ (State.dredgeLog_onlyCounted _ ..)
    split
    · exact .modDie s _ fun v => rfl
    · exact .refl s
  · unfold State.shipChunk
    rw [hx]
    exact if_pos (by rw [hd]; rfl)

/-- The next chunk of a move, not its last, opens at the new home (R38). -/
theorem chunkOpen_forward {s : State} {m : Move} {off len : Nat} (hmoves : s.ranges.moves = [m]) (hx : s.ranges.xfers = [])
    (hst : m.st = .copying) (hback : m.back = false) (hchunk : m.desc.chunks[m.chunk]? = some (off, len))
    (hmore : m.chunk + 1 < m.desc.chunks.length) (hd : s.dedups m off len = false) :
    Happens (.chunkOpen 0) s fun t => t.mem = (s.moveBytes (m.src + off) (m.dst + off) len).mem ∧
      t.ranges.moves = [{ m with chunk := m.chunk + 1, shut := false }] := by
  obtain ⟨u, hu, hship⟩ := State.shipChunk_full hx hd
  have hstep : s.chunkOpen 0 = ((u.moveBytes (m.src + off) (m.dst + off) len).moveHeld (m.src + off) (m.dst + off) len
      m.homeB).modRanges fun r => { r with moves := modAt r.moves 0 fun m => { m with chunk := m.chunk + 1, shut := false } } := by
    unfold State.chunkOpen
    rw [hmoves]
    dsimp only [List.getElem?_cons_zero]
    rw [if_neg (by simp [hst]), if_neg (by simp [hback]), hchunk]
    dsimp only
    rw [hship]
    exact if_neg (by omega)
  refine happens_of_eq rfl hstep ⟨(hu.sameStorage.moveBytes _ _ _).mem, ?_⟩
  show modAt (u.moveBytes _ _ _).ranges.moves 0 _ = _
  rw [(u.moveBytes_onlyStored _ _ _).ranges, hu.ranges, hmoves]
  rfl

/-- An access that follows a chunk names no block of the place that the chunk has left (R40, R41). -/
theorem Flight.follow_left {f : Flight} {a b n home old now : Nat} (hapart : b + n ≤ a ∨ a + n ≤ b) {p : Piece}
    (hp : p ∈ (f.follow a b n home old now).pieces) {pa h : Nat} {c : Option (Nat × Nat)} (hloc : p.loc = .mem pa h c) :
    ¬(a ≤ pa ∧ pa < a + n) := by
  intro hin
  unfold Flight.follow at hp
  split at hp
  · obtain ⟨q, -, rfl⟩ := List.mem_map.mp hp
    cases hq : q.loc with
    | bad | scr => simp [Piece.moved, Loc.moved, hq] at hloc
    | mem pa' h' c' =>
      by_cases hqin : a ≤ pa' ∧ pa' < a + n
      · simp [Piece.moved, Loc.moved, hq, hqin] at hloc
        omega
      · simp only [Piece.moved, Loc.moved, hq, if_neg hqin, Loc.mem.injEq] at hloc
        omega
  next hsame =>
    have hfix : p.moved a b n home = p := by
      by_contra hne
      exact hsame (List.any_eq_true.mpr ⟨p, hp, by simpa using hne⟩)
    have hl : (p.moved a b n home).loc = p.loc := by rw [hfix]
    simp [Piece.moved, Loc.moved, hloc, hin] at hl
    omega

/-- The last chunk of a move on its way back comes home, and accesses follow it (R41). -/
theorem chunkOpen_back {s u : State} {m : Move} {n off len : Nat} (hmoves : s.ranges.moves = [m]) (hst : m.st = .copying)
    (hback : m.back = true) (hn : m.chunk = n + 1) (hchunk : m.desc.chunks[n]? = some (off, len))
    (hu : u = s.modRanges fun r => { r with moves := [{ m with chunk := n }] }) :
    Happens (.chunkOpen 0) s fun t => t.mem = (u.moveBytes (m.dst + off) (m.src + off) len).mem ∧
      t.ranges.moves = [{ m with chunk := n }] ∧
      (m.src + len ≤ m.dst ∨ m.dst + len ≤ m.src → ∀ f ∈ t.flights, ∀ p ∈ f.pieces, ∀ pa h c, p.loc = .mem pa h c →
        ¬(m.dst + off ≤ pa ∧ pa < m.dst + off + len)) := by
  let w := (s.dredgeLog m.homeA m.owner (m.dst + off) len).modRanges fun r =>
    { r with moves := modAt r.moves 0 fun m => { m with chunk := n } }
  have hlog := s.dredgeLog_onlyCounted m.homeA m.owner (m.dst + off) len
  have hwmoves : w.ranges.moves = [{ m with chunk := n }] := by
    show modAt (s.dredgeLog m.homeA m.owner (m.dst + off) len).ranges.moves 0 _ = _
    rw [hlog.ranges, hmoves]
    rfl
  have hsame : SameStorage u w := by
    have h := hlog.sameStorage
    exact { link := by rw [hu]; exact h.link, moves := by rw [hu]; exact hwmoves, bank := by rw [hu]; exact h.bank
            mem := by rw [hu]; exact h.mem, cores := by rw [hu]; exact h.cores, count := by rw [hu]; exact h.count
            inService := by rw [hu]; exact h.inService }
  have hkept := w.moveBytes_onlyStored (m.dst + off) (m.src + off) len
  have hstep : s.chunkOpen 0 = (w.moveBytes (m.dst + off) (m.src + off) len).follow (m.dst + off) (m.src + off) len
      m.homeA m.homeB := by
    unfold State.chunkOpen
    rw [hmoves]
    dsimp only [List.getElem?_cons_zero]
    rw [if_neg (by simp [hst]), if_pos hback, hn]
    show (match n + 1, m.desc.chunks[n]? with | n + 1, some (off, len) => _ | _, _ => _) = _
    rw [hchunk]
  refine happens_of_eq rfl hstep ⟨(hsame.moveBytes _ _ _).mem, ?_, fun hapart f hf p hp pa h c hloc => ?_⟩
  · show (w.moveBytes _ _ _).ranges.moves = _
    rw [hkept.ranges, hwmoves]
  · obtain ⟨g, -, rfl⟩ := List.mem_map.mp hf
    exact Flight.follow_left (by omega) hp hloc

end Sys2Proof.Machine
end

section
/-! SUPPORT. Dredgers (R38, R41, R62): a move ends, and what becomes of a block sent by reference. -/

namespace Sys2Proof.Machine

/-! ### The end of a move -/

/-- A move ends: LOCK is released (R38 step 5). -/
def State.moveEnded (s : State) (k : Nat) (m : Move) : State :=
  (s.unlock m.dirbase).modRanges fun r => { r with moves := dropAt r.moves k }

theorem State.moveFinish_eq {s : State} {k : Nat} {m : Move} (hm : s.ranges.moves[k]? = some m) (hst : m.st = .finish) :
    s.moveFinish k = if m.requester.isSome then (s.moveEnded k m).endWait m.id (.edited (if m.back then 8 else 0))
      else s.moveEnded k m := by
  unfold State.moveFinish
  rw [hm]
  exact if_neg (by simp [hst])

theorem State.moveFinish_dies {s : State} {k : Nat} {m : Move} (hm : s.ranges.moves[k]? = some m) (hst : m.st = .finish) :
    (s.moveFinish k).dies = s.dies := by
  rw [State.moveFinish_eq hm hst]
  split <;> exact (s.unlock_onlyStored m.dirbase).dies

/-- Where no HBM region is retired, a range is not moved again (R41, R51). -/
theorem State.replan_whole {s : State} (h : ∀ d, (s.die d).hbmGone = []) (m : Move) : s.replan m = s := by
  unfold State.replan
  split
  · rfl
  · exact if_neg (by simp [State.hbmHoles, h])

/-- A move ends (R38 step 5, R41). -/
theorem moveFinish_step {s : State} {k : Nat} {m : Move} (hm : s.ranges.moves[k]? = some m) (hst : m.st = .finish)
    (hwhole : m.back = true → ∀ d, (s.die d).hbmGone = []) :
    Happens (.moveFinish k) s fun t => t.ranges.moves = dropAt s.ranges.moves k ∧ t.mem = (s.unlock m.dirbase).mem ∧
      (m.back = false → t.ranges.placing = s.ranges.placing) ∧
      (m.requester ≠ none → ∀ j, (s.hart j).ewait = .edit m.id → (t.hart j).ewait = .edited (if m.back then 8 else 0)) := by
  have hends : s.moveEnds k = s.moveFinish k := by
    unfold State.moveEnds
    rw [hm]
    dsimp only
    split
    next hboth =>
      have hback : m.back = true := ((Bool.and_eq_true _ _).mp hboth).2
      refine State.replan_whole (fun d => ?_) m
      unfold State.die
      rw [State.moveFinish_dies hm hst]
      exact hwhole hback d
    next => rfl
  have hkept := s.unlock_onlyStored m.dirbase
  have hmoves : (s.moveEnded k m).ranges.moves = dropAt s.ranges.moves k :=
    congrArg (fun r : Ranges => dropAt r.moves k) hkept.ranges
  have hplacing : (s.moveEnded k m).ranges.placing = s.ranges.placing := by
    show (s.unlock m.dirbase).ranges.placing = _
    rw [hkept.ranges]
  rw [State.moveFinish_eq hm hst] at hends
  cases hreq : m.requester with
  | none =>
    exact happens_of_eq rfl (hends.trans (if_neg (by simp [hreq]))) ⟨hmoves, rfl, fun _ => hplacing, fun h => absurd rfl h⟩
  | some r =>
    refine happens_of_eq rfl (hends.trans (if_pos (by simp [hreq]))) ⟨hmoves, rfl, fun _ => hplacing, fun _ j hj =>
      State.endWait_hart _ m.id j _ ?_⟩
    exact (congrArg Hart.ewait (hkept.hart j)).trans hj

/-! ### Blocks sent by reference -/

/-- One byte of a number's cells. -/
theorem cellsRead_cellsOf_byte (a v : Nat) {m n : Nat} (h : n < m) : cellsRead (cellsOf a v m) (a + n) 1 = v / 256 ^ n % 256 := by
  induction m generalizing a v n with
  | zero => omega
  | succ m ih =>
    have hhead (b : Byte) : cellsRead ((a, b) :: cellsOf (a + 1) (v / 256) m) (a + n) 1 =
        cellsRead [(a, b)] (a + n) 1 + cellsRead (cellsOf (a + 1) (v / 256) m) (a + n) 1 := cellsRead_append [(a, b)] _ _ _
    cases n with
    | zero =>
      have htail : cellsRead (cellsOf (a + 1) (v / 256) m) (a + 0) 1 = 0 :=
        cellsRead_none fun x hx => by have := cellsOf_mem hx; omega
      unfold cellsOf
      split
      next hz => rw [htail, Nat.pow_zero, Nat.div_one, hz]
      next => rw [hhead, htail]; simp [cellsRead_eq, cellsValue]
    | succ n =>
      have htail : cellsRead (cellsOf (a + 1) (v / 256) m) (a + (n + 1)) 1 = v / 256 ^ (n + 1) % 256 := by
        rw [show a + (n + 1) = a + 1 + n by omega, ih (a + 1) (v / 256) (by omega), Nat.div_div_eq_div_mul, Nat.pow_succ']
      unfold cellsOf
      split
      next => exact htail
      next =>
        rw [hhead, htail, cellsRead_none (c := [(a, _)]) fun x hx => by
          rw [List.mem_singleton.mp hx]; exact .inl (by dsimp only; omega)]
        omega

/-- One byte of an interval just written. -/
theorem cellsRead_write_byte (c : List Host.Cell) (a v : Nat) {m n : Nat} (h : n < m) :
    cellsRead (cellsWrite c a m v) (a + n) 1 = v / 256 ^ n % 256 := by
  have hbelow : cellsRead (cellsBelow a c) (a + n) 1 = 0 := cellsRead_none fun x hx => by
    rw [cellsBelow_eq] at hx
    have := (List.mem_filter.mp hx).2
    simp at this
    omega
  have habove : cellsRead (cellsFrom (a + m) c) (a + n) 1 = 0 := cellsRead_none fun x hx => by
    rw [cellsFrom_eq] at hx
    have := (List.mem_filter.mp hx).2
    simp at this
    omega
  unfold cellsWrite
  rw [cellsRead_append, cellsRead_append, hbelow, habove, cellsRead_cellsOf_byte a v h]
  omega

/-- The bytes of a block sent by reference have moved: its die's counters say so, and its transfer is done (R62). -/
def State.transferred (s : State) (x : Xfer) (f : Die → Die) : State :=
  (s.modDie x.src f).modRanges fun r => { r with xfers := modAt r.xfers 0 fun x => { x with done := true } }

theorem State.shipFull_one {s : State} {m : Move} {x : Xfer} (hmoves : s.ranges.moves = [m]) (hlo : m.dst ≤ x.pa)
    (hhi : x.pa < m.dst + m.desc.size) (f : Die → Die) :
    s.shipFull 0 x f = (s.moveBytes (m.src + (x.pa - m.dst)) x.pa 4096).transferred x f := by
  have hfind : (s.ranges.moves.find? fun m => decide (m.dst ≤ x.pa) && decide (x.pa < m.dst + m.desc.size)) = some m := by
    rw [hmoves, List.find?_cons_of_pos (by simp [hlo, hhi])]
  unfold State.shipFull
  rw [hfind]
  rfl

theorem State.transferred_xfers {s u : State} {x : Xfer} (hx : s.ranges.xfers = [x]) (hu : OnlyStored s u) (f : Die → Die) :
    (u.transferred x f).ranges.xfers = [{ x with done := true }] := by
  show modAt u.ranges.xfers 0 _ = _
  rw [hu.ranges, hx]
  rfl

theorem State.transferred_die {s u : State} (hu : OnlyStored s u) (x : Xfer) (f : Die → Die) :
    (u.transferred x f).die x.src = f (s.die x.src) := by
  show (u.modDie x.src f).die x.src = _
  rw [State.die_modDie_same, hu.die]

/-- A counter of blocks sent has risen by one. -/
theorem Tbl.get_count (t : Tbl Word) (d : Nat) : (t.count d).get d = t.get d + 1 := Tbl.get_mod_same t d (· + 1)

/-- A block sent by reference is performed with the content that its receiver holds (R62). -/
theorem manifestReference_step {s : State} {m : Move} {x : Xfer} (hx : s.ranges.xfers = [x]) (hdone : x.done = false)
    (hmoves : s.ranges.moves = [m]) (hlo : m.dst ≤ x.pa) (hhi : x.pa < m.dst + m.desc.size) :
    Happens (.manifestReference 0) s fun t => t.ranges.xfers = [{ x with done := true }] ∧
      (t.die x.src).sentRef.get x.dst = (s.die x.src).sentRef.get x.dst + 1 ∧
      (t.die x.src).sentFull = (s.die x.src).sentFull ∧
      (Config.blockHash x.owner (bytesOf (cellsRead
          (s.moveBytes (m.src + (x.pa - m.dst)) x.pa 4096).mem.cells x.pa 4096) 4096) = x.hash →
        ∀ n, n < 4096 → cellsRead t.mem.cells (x.pa + n) 1 = x.content / 256 ^ n % 256) := by
  have hship := State.shipFull_one hmoves hlo hhi fun d => { d with sentRef := d.sentRef.count x.dst }
  have hfull := s.moveBytes_onlyStored (m.src + (x.pa - m.dst)) x.pa 4096
  generalize s.moveBytes (m.src + (x.pa - m.dst)) x.pa 4096 = full at hship hfull ⊢
  have hstep : s.manifestReference 0 =
      if Config.blockHash x.owner (bytesOf (cellsRead full.mem.cells x.pa 4096) 4096) = x.hash then
        { full.transferred x fun d => { d with sentRef := d.sentRef.count x.dst } with
          mem := { full.mem with cells := cellsWrite full.mem.cells x.pa 4096 x.content } }
      else full.transferred x fun d => { d with sentRef := d.sentRef.count x.dst } := by
    unfold State.manifestReference
    rw [hx]
    dsimp only [List.getElem?_cons_zero]
    rw [if_neg (by simp [hdone]), hship]
    rfl
  have hxfers := State.transferred_xfers hx hfull fun d => { d with sentRef := d.sentRef.count x.dst }
  have hdie := State.transferred_die hfull x fun d => { d with sentRef := d.sentRef.count x.dst }
  have href := (congrArg (fun v : Die => v.sentRef.get x.dst) hdie).trans (Tbl.get_count _ _)
  have hsent := congrArg Die.sentFull hdie
  by_cases hhash : Config.blockHash x.owner (bytesOf (cellsRead full.mem.cells x.pa 4096) 4096) = x.hash
  · exact happens_of_eq rfl (hstep.trans (if_pos hhash)) ⟨hxfers, href, hsent, fun _ n hn => cellsRead_write_byte _ _ _ hn⟩
  · exact happens_of_eq rfl (hstep.trans (if_neg hhash)) ⟨hxfers, href, hsent, fun h => absurd h hhash⟩

/-- A reference is refused, and the block is sent in full (R62). -/
theorem manifestRefusal_step {s : State} {m : Move} {x : Xfer} (hx : s.ranges.xfers = [x]) (hdone : x.done = false)
    (hmoves : s.ranges.moves = [m]) (hlo : m.dst ≤ x.pa) (hhi : x.pa < m.dst + m.desc.size) :
    Happens (.manifestRefusal 0) s fun t => t.ranges.xfers = [{ x with done := true }] ∧
      (t.die x.src).sentNo.get x.dst = (s.die x.src).sentNo.get x.dst + 1 ∧
      (t.die x.src).sentFull.get x.dst = (s.die x.src).sentFull.get x.dst + 1 ∧
      t.mem = (s.moveBytes (m.src + (x.pa - m.dst)) x.pa 4096).mem := by
  have hship := State.shipFull_one hmoves hlo hhi fun d =>
    { d with sentNo := d.sentNo.count x.dst, sentFull := d.sentFull.count x.dst }
  have hfull := s.moveBytes_onlyStored (m.src + (x.pa - m.dst)) x.pa 4096
  generalize s.moveBytes (m.src + (x.pa - m.dst)) x.pa 4096 = full at hship hfull ⊢
  have hstep : s.manifestRefusal 0 =
      full.transferred x fun d => { d with sentNo := d.sentNo.count x.dst, sentFull := d.sentFull.count x.dst } := by
    unfold State.manifestRefusal
    rw [hx]
    dsimp only [List.getElem?_cons_zero]
    rw [if_neg (by simp [hdone]), hship]
  refine happens_of_eq rfl hstep ⟨State.transferred_xfers hx hfull _, ?_, ?_, rfl⟩
  all_goals
    rw [State.transferred_die hfull]
    exact Tbl.get_count _ _

end Sys2Proof.Machine
end

section
/-! SUPPORT. The placer (R63, R64): ranges of a fenced die that have, find or lose a place. Settles O57. -/

namespace Sys2Proof.Machine

/-! ### Operations that leave the range agents alone -/

/-- Steps in a row that each leave the range agents alone. -/
theorem ranges_foldl {α : Type} {l : List α} {f : State → α → State} (hf : ∀ t a, (f t a).ranges = t.ranges) (s : State) :
    (l.foldl f s).ranges = s.ranges := by
  induction l generalizing s with
  | nil => rfl
  | cons a l ih => exact (ih (f s a)).trans (hf s a)

theorem State.sendBlock_ranges (s : State) (src dst owner pa : Nat) (nodedup : Bool) :
    (s.sendBlock src dst owner pa nodedup).ranges = s.ranges := by
  unfold State.sendBlock
  dsimp only
  split
  · rfl
  split
  · rfl
  split
  · split <;> rfl
  · rfl

theorem State.sendSpan_ranges (s : State) (src dst owner pa n : Nat) (nodedup : Bool) :
    (s.sendSpan src dst owner pa n nodedup).ranges = s.ranges := by
  unfold State.sendSpan
  exact ranges_foldl (fun t i => t.sendBlock_ranges ..) s

theorem State.evacuateBytes_ranges (s : State) (p : Placing) (a b n : Nat) : (s.evacuateBytes p a b n).ranges = s.ranges := by
  unfold State.evacuateBytes
  refine ranges_foldl (fun t i => ?_) s
  dsimp only
  rw [(State.moveBlock_onlyStored _ _ _).ranges, (t.dredgeLog_onlyCounted _ _ _ _).ranges]

/-- The descriptor's word and the invalidation that follows: the move waits for that (R38 steps 3 and 4). -/
theorem State.moveWord_ranges (s : State) (k : Nat) (m : Move) :
    (s.moveWord k m).ranges.moves = modAt s.ranges.moves k (fun m => { m with st := .inval }) ∧
      (s.moveWord k m).ranges.placing = s.ranges.placing := by
  have hkept := s.physPutWord_onlyStored (m.dirbase + 64 + 32 * m.index + 16) (BitVec.ofNat 64 (m.dst + m.homeB * 2 ^ 52))
  rw [← hkept.ranges]
  exact ⟨rfl, rfl⟩

/-! ### Placement -/

/-- Nothing happens to a range without room whose dispatcher has been told (R64, log 53). -/
theorem segmentPlacement_told {s : State} {k i : Nat} {p : Placing} {d : Desc} (hp : s.ranges.placing[k]? = some p)
    (hnow : s.placingNow p = some (i, d)) (hfull : s.newPlace s.roomiest d.size = none) (htold : p.told = true) :
    Claim.Does (.segmentPlacement k) s s := by
  refine congrArg Host.Outcome.next ?_
  unfold State.segmentPlacement
  rw [hp]
  refine ite_eq_left_iff.mpr fun _ => ?_
  rw [hnow]
  dsimp only
  rw [hfull]
  exact if_pos htold

/-- A fenced die's range copied to its new place, with what a move under way had brought elsewhere (R63, log 84). -/
def State.evacuated (s t : State) (p : Placing) (d : Desc) (pa home : Nat) : State :=
  let t := d.chunks.foldl (fun t c =>
    (t.evacuateBytes p (d.pa + c.1) (pa + c.1) c.2).sendSpan s.harbour.master home p.owner (pa + c.1) c.2 (d.bit 5)) t
  let t := p.elsewhere.foldl (fun t x =>
    if d.pa ≤ x.1 ∧ x.1 < d.pa + d.size then t.follow x.2.2 (pa + (x.1 - d.pa)) x.2.1 home p.die else t) t
  t.moveHeld d.pa pa d.size home

theorem State.evacuated_ranges (s t : State) (p : Placing) (d : Desc) (pa home : Nat) :
    (s.evacuated t p d pa home).ranges = t.ranges := by
  unfold State.evacuated
  show (p.elsewhere.foldl _ _ : State).ranges = _
  refine (ranges_foldl (fun u x => ?_) _).trans (ranges_foldl (fun u c => ?_) t)
  · split <;> rfl
  · rw [State.sendSpan_ranges, State.evacuateBytes_ranges]

/-- The segments of a range that has room are placed together (R63, log 53). -/
theorem segmentPlacement_placed {s t : State} {p : Placing} {i pa home : Nat} {d : Desc} (hplacing : s.ranges.placing = [p])
    (hmoves : s.ranges.moves = []) (hnow : s.placingNow p = some (i, d)) (hlim : p.desc.lim ≤ d.lim)
    (hroom : s.newPlace s.roomiest d.size = some (pa, home)) (hlock : s.tryLock p.dirbase (lockDredger home) = some t) :
    Happens (.segmentPlacement 0) s fun u => u.ranges.placing = [] ∧
      ∃ n, u.ranges.moves = [n] ∧ n.dst = pa ∧ n.homeB = home ∧ n.st = .inval ∧ n.desc = d := by
  let m : Move := { newMove t.uid p.owner p.dirbase i d pa home true none with st := .copying, chunk := d.chunks.length }
  let w := (s.evacuated t p d pa home).addMove m
  have hranges : (s.evacuated t p d pa home).ranges = s.ranges :=
    (s.evacuated_ranges t p d pa home).trans (State.tryLock_onlyStored hlock).ranges
  have hwmoves : w.ranges.moves = [m] := by
    show (s.evacuated t p d pa home).ranges.moves ++ [m] = _
    rw [hranges, hmoves]
    rfl
  have hwplacing : w.ranges.placing = [p] := by
    show (s.evacuated t p d pa home).ranges.placing = _
    rw [hranges, hplacing]
  obtain ⟨hword, hleft⟩ := w.moveWord_ranges 0 m
  have hrest : p.rest d = [] := if_neg (BitVec.not_lt.mpr hlim)
  have hstep : s.segmentPlacement 0 = (w.moveWord (w.ranges.moves.length - 1) m).modRanges fun r =>
      { r with placing := r.placing.take 0 ++ p.rest d ++ (r.placing.drop 1).filter fun q =>
          !(q.owner == p.owner && q.dirbase == p.dirbase && d.has q.desc.base.toNat) } := by
    unfold State.segmentPlacement
    rw [hplacing]
    dsimp only [List.getElem?_cons_zero]
    rw [if_neg (by simp), hnow]
    dsimp only
    rw [hroom]
    dsimp only
    rw [hlock]
    rfl
  rw [hwmoves] at hstep
  refine happens_of_eq rfl hstep ⟨?_, { m with st := .inval }, ?_, rfl, rfl, rfl, rfl⟩
  · show (w.moveWord 0 m).ranges.placing.take 0 ++ p.rest d ++ ((w.moveWord 0 m).ranges.placing.drop 1).filter _ = []
    rw [hleft, hwplacing, hrest]
    rfl
  · show (w.moveWord 0 m).ranges.moves = _
    rw [hword, hwmoves]
    rfl

/-- A range waits still although the grace time of its die has passed (R64). -/
def Placing.expired (d now : Nat) (p : Placing) : Bool := p.die == d && decide (p.grace ≤ now)

theorem Placing.expired_iff (d now : Nat) (p : Placing) : p.expired d now = true ↔ p.die = d ∧ p.grace ≤ now := by
  simp [Placing.expired]

/-- What is still unplaced when the grace time of its die has passed is lost (R64). -/
theorem placementGraceExpiry_step (s : State) {d : Nat} (hd : d < 16) :
    Happens (.placementGraceExpiry d) s fun t => t.mem = s.mem ∧ t.cores = s.cores ∧
      (∀ p, p ∈ t.ranges.placing ↔ p ∈ s.ranges.placing ∧ ¬(p.die = d ∧ p.grace ≤ s.master)) ∧
      ∀ l, l ∈ t.ranges.lost ↔ l ∈ s.ranges.lost ∨ ∃ p ∈ s.ranges.placing, p.die = d ∧ p.grace ≤ s.master ∧
        l = (p.owner, p.desc.base.toNat, p.desc.lim.toNat) := by
  have hstep : (s.onDie d fun s => s.graceExpiry d) = s.modRanges fun r =>
      { r with placing := s.ranges.placing.filter fun p => !p.expired d s.master
               lost := r.lost ++ (s.ranges.placing.filter (·.expired d s.master)).map
                 fun p => (p.owner, p.desc.base.toNat, p.desc.lim.toNat) } := by
    refine (if_pos hd).trans ?_
    unfold State.graceExpiry
    dsimp only
    rw [List.partition_eq_filter_filter]
    rfl
  refine happens_of_eq rfl hstep ⟨rfl, rfl, fun p => ?_, fun l => ?_⟩
  · rw [← p.expired_iff d s.master, Bool.not_eq_true, ← Bool.not_eq_true']
    exact List.mem_filter
  · refine List.mem_append.trans (or_congr_right ?_)
    simp only [List.mem_map, List.mem_filter, Placing.expired_iff, and_assoc, eq_comm (b := l)]

/-- Settles O57: the steps of holders, retrievers, dredgers and the placer, each by its lemma. -/
theorem rangeSteps : Obligations.RangeSteps := by
  unfold Obligations.RangeSteps
  intro s k v m x
  refine ⟨?drop, ?inval, ?edit, ?fill, ?slice, ?search, ?move, ?lock, ?forward, ?back, ?finish,
    ?reference, ?told, ?placed, ?grace⟩
  case drop => exact fun agent hv ha hb => holderDrop_step hv ha hb
  case inval => exact fun core a hv hd hw => rginvComplete_hart hv hd hw
  case edit => exact fun core a dirbase hv hd hw => rginvComplete_edit hv hd hw rfl
  case fill => exact fun f hf hw => fillRecord_step hf hw
  case slice => exact fun hw hf hh hs => sliceDropComplete_step hw hf hh hs
  case search => exact fun y d i c p hy hva hi hfound => retrieverSearchEnd_step rfl hy hva hi hfound
  case move => exact fun owner va pa home o i d ho he hpa hh hr hm hl => dredgerMove_step ho he hpa hh hr hm hl
  case lock => exact fun t i d hm hst hl he hp hlim => dredgerLockRetry_step hm hst hl he hp hlim
  case forward => exact fun off len hm hx hst hb hc hmore hd => chunkOpen_forward hm hx hst hb hc hmore hd
  case back => exact fun n off len hm hst hb hn hc => chunkOpen_back hm hst hb hn hc rfl
  case finish => exact fun hm hst hw => moveFinish_step hm hst hw
  case reference =>
    exact fun hx hd hm hlo hhi => ⟨manifestReference_step hx hd hm hlo hhi, manifestRefusal_step hx hd hm hlo hhi⟩
  case told => exact fun p i d hp hn hf ht => segmentPlacement_told hp hn hf ht
  case placed => exact fun p i d pa home t hp hm hn hl hr hlk => segmentPlacement_placed hp hm hn hl hr hlk
  case grace => exact fun d hd => placementGraceExpiry_step s hd

end Sys2Proof.Machine
end

section
/-! SUPPORT. An ERET whose check of the saved context fails, in a hart that still waits for an access: raising the trap forgets
that access. Settles O45. -/

namespace Sys2Proof.Machine

/-- The entry of the saved context: it runs on core 0, with its save area at 0. -/
def EretAsks.entry : QEntry :=
  { handle := 0, idx := 0, area := 0, owner := 1, cls := 0, deadline := 0, seq := 0, width := 1, gangid := 0, entry := 0, arg := 0,
    budget := 0, counted := false, indexed := false, minGrid := 1, dies := 0, alloc := 0, dirbase := 0, trapvec := 0,
    violmode := false, vlcap := 2048, st := .running }

/-- The access that the hart waits for (R119). -/
def EretAsks.access : Flight :=
  { core := 0, owner := 1, area := 0, lvl := .f, cls := 0, vec := false, interval := 0, space := 0, kind := 0, pc := 0, slot := 0,
    act := .read, pieces := [], land := .ask [] }

/-- The core: its hart waits for the access, and SAVED is 1. -/
def EretAsks.core : Core :=
  { active := true, queue := [EretAsks.entry]
    hart := { level := .f, wait := .ask, sup := { owner := 1, trapcause := 0x400 } } }

/-- The machine after reset but for that core and that access. Its memory holds no saved context at 0. -/
def EretAsks.state : State :=
  { State.reset with cores := [(0, EretAsks.core)], flights := [EretAsks.access] }

namespace EretAsks

/-- The area's header names owner 0, not the hart's owner 1. -/
theorem areaGet_owner : state.areaGet 0 0 74 2 = 0 := by decide +kernel

theorem restoreBad_eq : state.restoreBad 0 0 1 2048 false = some (0x03, 0) := by
  rw [State.restoreBad, areaGet_owner]
  exact if_pos (by decide)

theorem areaBusy_eq : state.areaBusy 0 1 = false := by decide +kernel

theorem flights_after : (match exec .eret state with | .next t => t.flights | _ => state.flights) = [] := by decide +kernel

/-- The trap of the ERET loses the access, which stood among the flights before. -/
theorem not_outsideKept {t : State} (ht : exec .eret state = .next t) : ¬ OutsideKept state t := by
  rintro ⟨-, -, hflights, -⟩
  have hgone : t.flights = [] := by simpa [ht] using flights_after
  have hsame : t.flights = [access] := hflights
  simp [hgone] at hsame

end EretAsks

/-- Refutes O45: when its hart waits for an access of its own (R119), the trap of the ERET forgets the access (R184), so the
flights are not as they were. The statement leaves out a hart with operations already sent (`passed`), but not one that waits for
an access (`wait = .ask`). -/
theorem not_returnToSavedContext : ¬ Obligations.ReturnToSavedContext := by
  unfold Obligations.ReturnToSavedContext
  intro h
  obtain ⟨hentry, -⟩ := h EretAsks.state EretAsks.entry (by decide) (by decide) (by decide)
  obtain ⟨-, hready⟩ := hentry (List.mem_singleton.2 rfl) (.inl rfl)
  obtain ⟨hfails, -⟩ := hready EretAsks.areaBusy_eq rfl rfl
  obtain ⟨t, ht, -, -, -, -, -, -, -, -, -, hkept, -⟩ := hfails 3 0 EretAsks.restoreBad_eq rfl rfl
  exact EretAsks.not_outsideKept ht hkept
end Sys2Proof.Machine
end

section
/-! SUPPORT. What a trap that saves the context does and leaves alone (R178 to R186): the staging slot, the queues, the trap
words. For O42 and O59. -/

namespace Sys2Proof.Machine

/-- A trap, or what stands before it, changes nothing outside one core but the flights and what the device keeps. -/
structure OnlyCore (s t : State) (k : Nat) : Prop where
  mem : t.mem = s.mem
  dies : t.dies = s.dies
  cur : t.cur = s.cur
  others : ∀ j, j ≠ k → t.core j = s.core j

namespace OnlyCore

theorem refl (s : State) (k : Nat) : OnlyCore s s k := ⟨rfl, rfl, rfl, fun _ _ => rfl⟩

theorem trans {s t u : State} {k : Nat} (h : OnlyCore s t k) (g : OnlyCore t u k) : OnlyCore s u k :=
  ⟨g.mem.trans h.mem, g.dies.trans h.dies, g.cur.trans h.cur, fun j hj => (g.others j hj).trans (h.others j hj)⟩

theorem modCore (s : State) (k : Nat) (f : Core → Core) : OnlyCore s (s.modCore k f) k :=
  ⟨rfl, rfl, rfl, fun _ hj => s.core_modCore_ne f hj⟩

theorem forgetAsk (s : State) (k : Nat) : OnlyCore s (s.forgetAsk k) k :=
  ⟨rfl, rfl, rfl, fun _ hj => s.core_modHart_ne (fun h => { h with passed := none }) hj⟩

end OnlyCore

/-- The context of a core saved at a pc: the hart as a save leaves it, the staging slot filled, pushed entries the stream unit's
(R186). -/
structure Saves (s t : State) (k : Nat) (pc : Word) : Prop where
  only : OnlyCore s t k
  hart : t.hart k = { (s.hart k).stopLong with pc := pc, grid := { (s.hart k).stopLong.grid with dirty := 0 } }
  left : (t.core k).left = (s.core k).left ++ (s.hart k).leftovers
  staged : ∃ g, (t.core k).staging = some g ∧ g.area = (s.hart k).sup.saveptr.toNat ∧ g.owner = (s.hart k).sup.owner.toNat

/-- An empty staging slot has nothing to drain. -/
theorem State.drain_none {s : State} {k : Nat} (h : (s.core k).staging = none) : s.drain k = s := by
  simp [State.drain, h]

/-- The errors logged at a save change the core's log alone. -/
theorem State.logBadCells_only (s : State) (k : Nat) :
    OnlyCore s (s.logBadCells k) k ∧ (s.logBadCells k).hart k = s.hart k ∧
      ((s.logBadCells k).core k).left = (s.core k).left := by
  refine List.foldlRecOn (motive := fun t => OnlyCore s t k ∧ t.hart k = s.hart k ∧ (t.core k).left = (s.core k).left)
    _ _ ⟨OnlyCore.refl s k, rfl, rfl⟩ ?_
  rintro t ⟨honly, hhart, hleft⟩ c -
  refine ⟨honly.trans (OnlyCore.modCore ..), ?_, ?_⟩
  · rw [State.hart_modCore_same, ← hhart]
    unfold Core.log
    split <;> rfl
  · rw [State.core_modCore_same, ← hleft]
    unfold Core.log
    split <;> rfl

/-- A save where the staging slot is empty (R185): what becomes of the core, and the words that the device keeps. -/
theorem State.saveContext_eq {s : State} {k : Nat} (h : (s.core k).staging = none) (pc : Word) :
    ∃ f kept g, s.saveContext k pc = some { (s.logBadCells k).modCore k f with kept := kept } ∧
      (∀ c, (f c).hart = { (s.hart k).stopLong with pc := pc, grid := { (s.hart k).stopLong.grid with dirty := 0 } } ∧
        (f c).left = c.left ++ c.hart.leftovers ∧ (f c).staging = some g) ∧
      g.area = (s.hart k).sup.saveptr.toNat ∧ g.owner = (s.hart k).sup.owner.toNat := by
  obtain ⟨-, hhart, -⟩ := s.logBadCells_only k
  rw [← hhart]
  exact ⟨_, _, _, by rw [State.saveContext, State.drain_none h, h], fun c => ⟨rfl, rfl, rfl⟩, rfl, rfl⟩

/-- A save goes ahead where the staging slot is empty (R185). -/
theorem State.saveContext_saves {s : State} {k : Nat} (h : (s.core k).staging = none) (pc : Word) :
    ∃ t, s.saveContext k pc = some t ∧ Saves s t k pc := by
  obtain ⟨honly, hhart, hleft⟩ := s.logBadCells_only k
  obtain ⟨f, kept, g, heq, hf, harea, howner⟩ := State.saveContext_eq h pc
  obtain ⟨hfhart, hfleft, hfstaging⟩ := hf ((s.logBadCells k).core k)
  have hcore : ((s.logBadCells k).modCore k f).core k = f ((s.logBadCells k).core k) := State.core_modCore_same ..
  refine ⟨_, heq, ⟨honly.mem, honly.dies, honly.cur, fun j hj => ?_⟩, ?_, ?_, g, ?_, harea, howner⟩
  · exact (State.core_modCore_ne _ f hj).trans (honly.others j hj)
  · exact (congrArg Core.hart hcore).trans hfhart
  · refine ((congrArg Core.left hcore).trans hfleft).trans ?_
    rw [hleft]
    exact congrArg (fun h => (s.core k).left ++ Hart.leftovers h) hhart
  · exact (congrArg Core.staging hcore).trans hfstaging

/-- TRAPCAUSE as a trap writes it: cause, PREV, SAVED (R179). -/
theorem Hart.enter_trapcause {h : Hart} {t : Trap} (ht : t.cause < 256) (saved : Bool) :
    (h.enter t saved).sup.trapcause.toNat = t.cause + 2 ^ 8 * levelCode h.level + 2 ^ 10 * saved.toNat := by
  have hlevel : levelCode h.level < 3 := by cases h.level <;> decide
  have hsaved : saved.toNat < 2 := by cases saved <;> decide
  simp only [Hart.enter, BitVec.toNat_ofNat]
  omega

/-- A queue after a save (R147, R186). -/
theorem Hart.stopLong_queue (h : Hart) (k : Nat) : h.stopLong.queue k = (h.queue k).settle :=
  Tbl.get_map (g := fun _ q => Queue.settle q) h.queues (fun _ => rfl) k

/-- A key whose value is not the default is listed with it. -/
theorem Tbl.mem_of_get_ne_default {α : Type} [Inhabited α] {t : Tbl α} {k : Nat} (h : t.get k ≠ default) : (k, t.get k) ∈ t := by
  induction t with
  | nil => exact absurd rfl h
  | cons p t ih =>
    by_cases hj : p.1 = k
    · have hp : Tbl.get (p :: t) k = p.2 := by simp [Tbl.get, Tbl.getD, hj]
      rw [hp, ← hj]
      exact List.mem_cons_self
    · have hp : Tbl.get (p :: t) k = Tbl.get t k := by simp [Tbl.get, Tbl.getD, hj]
      rw [hp] at h ⊢
      exact List.mem_cons_of_mem _ (ih h)

/-- The entries of a store queue are left to the stream unit (R186). -/
theorem Hart.leftovers_of_store {h : Hart} {k : Nat} (hb : (h.queue k).bind = 2) {e : QWord} (he : e ∈ (h.queue k).entries) :
    ∃ l ∈ h.leftovers, l.word = e ∧ l.owner = h.sup.owner.toNat := by
  have hmem : (k, h.queue k) ∈ h.queues := by
    refine Tbl.mem_of_get_ne_default fun hd => ?_
    rw [Hart.queue, hd] at hb
    exact absurd hb (by decide)
  have hleft : ∃ l ∈ h.leftOf (h.queue k), l.word = e ∧ l.owner = h.sup.owner.toNat := by
    unfold Hart.leftOf
    rw [if_pos hb]
    cases hes : (h.queue k).entries with
    | nil => simp [hes] at he
    | cons x xs =>
      rw [hes, List.mem_cons] at he
      obtain rfl | hxs := he
      · exact ⟨_, List.mem_cons_self, rfl, rfl⟩
      · exact ⟨_, List.mem_cons_of_mem _ (List.mem_map_of_mem hxs), rfl, rfl⟩
  obtain ⟨l, hl, hword⟩ := hleft
  exact ⟨l, List.mem_flatMap.2 ⟨_, hmem, hl⟩, hword⟩

/-- The words and the registers of a hart that has taken a trap with a save (R178, R179): those of the saved hart, at TRAPVEC. -/
theorem State.trap_saves_hart {s : State} {k : Nat} {t : Trap} (h : (s.core k).staging = none) (hsave : t.save = true) :
    OnlyCore s (s.trap k t) k ∧
      (s.trap k t).hart k =
        ({ (s.hart k).stopLong with pc := t.pc, grid := { (s.hart k).stopLong.grid with dirty := 0 } } : Hart).enter t true ∧
      ((s.trap k t).core k).left = (s.core k).left ++ (s.hart k).leftovers ∧
      ∃ g, ((s.trap k t).core k).staging = some g ∧ g.area = (s.hart k).sup.saveptr.toNat ∧
        g.owner = (s.hart k).sup.owner.toNat := by
  obtain ⟨u, hu, hsaves⟩ := State.saveContext_saves h t.pc
  have htrap : s.trap k t = u.modHart k (·.enter t true) := by simp [State.trap, hsave, hu]
  rw [htrap, State.hart_modHart_same, State.core_modHart_same, hsaves.hart]
  exact ⟨hsaves.only.trans (OnlyCore.modCore ..), rfl, hsaves.left, hsaves.staged⟩

/-- A bundle that waits for an access forgets it, and its core is as it was (R184). -/
theorem State.core_forgetAsk {s : State} {k : Nat} (h : (s.hart k).passed = none) (j : Nat) :
    (s.forgetAsk k).core j = s.core j := by
  by_cases hj : j = k
  · subst hj
    refine (State.core_modHart_same s j fun h => { h with passed := none }).trans ?_
    rw [← h]
    rfl
  · exact (OnlyCore.forgetAsk s k).others j hj

end Sys2Proof.Machine
end
section
/-! SUPPORT. An operation that names rows of the missing half (R314): it traps whatever its rows hold, and the trap saves
the context. Settles O42. -/

namespace Sys2Proof.Machine

/-- What the trap of an operation on the missing half leaves, with the lowest row that it names there. -/
def CapacityTrapped (s : State) (row : Nat) (t : State) : Prop :=
  t.my.sup.trapcause.toNat = 0x10 + 2 ^ 8 * levelCode s.my.level + 2 ^ 10 ∧ t.my.sup.trappc = s.my.pc ∧
  t.my.sup.trapaddr = BitVec.ofNat 64 (2 ^ 60 + row) ∧ t.my.sup.trapslot = 4 ∧ t.my.level = .s ∧
  t.my.handler = true ∧ t.my.pc = s.my.sup.trapvec ∧ RegsKept s.my t.my ∧ t.my.ctl = s.my.ctl ∧ t.my.loops = s.my.loops ∧
  t.mem = s.mem ∧ t.dies = s.dies ∧ t.cur = s.cur ∧
  (∀ k, let q := s.my.queue k
    let u := t.my.queue k
    u.bind = q.bind ∧ u.rcd = q.rcd ∧ u.fill = q.fill ∧ u.fmt = q.fmt ∧ u.count = q.count ∧ u.win = q.win ∧
    u.pos = q.pos ∧ u.claim = q.claim ∧ u.entries = (if q.bind = 2 then [] else q.entries ++ q.inbound) ∧
    (q.bind = 2 → ∀ e ∈ q.entries, ∃ l ∈ t.me.left, l.word = e ∧ l.owner = s.my.sup.owner.toNat)) ∧
  (∃ g, t.me.staging = some g ∧ g.area = s.my.sup.saveptr.toNat ∧ g.owner = s.my.sup.owner.toNat) ∧
  ∀ k, k ≠ s.cur → t.core k = s.core k

/-- The words of a queue that a save keeps (R147, R186). -/
theorem Queue.settle_words (q : Queue) :
    q.settle.bind = q.bind ∧ q.settle.rcd = q.rcd ∧ q.settle.fill = q.fill ∧ q.settle.fmt = q.fmt ∧
      q.settle.count = q.count ∧ q.settle.win = q.win ∧ q.settle.pos = q.pos ∧ q.settle.claim = q.claim ∧
      q.settle.entries = if q.bind = 2 then [] else q.entries ++ q.inbound := by
  unfold Queue.settle
  split <;> simp [*]

/-- A bundle that has sent nothing and traps (R174): whether or not it waited for an access, its core is as it was before. -/
theorem State.raiseTrap_eq {s : State} {r : Raised} (hp : s.my.passed = none) :
    ∃ s', (∀ j, s'.core j = s.core j) ∧ OnlyCore s s' s.cur ∧
      s.raiseTrap r = ((r.note s').trap s.cur
        { cause := r.cause, addr := r.addr, slot := slotOfTrap r.cause r.slot, pc := s.my.pc, save := r.save
          kept := r.kept }).modCore s.cur Core.unblock := by
  refine ⟨if s.my.wait == .ask then s.forgetAsk s.cur else s, ?_, ?_, by simp [State.raiseTrap, hp]⟩
  · split
    · exact State.core_forgetAsk hp
    · exact fun _ => rfl
  · split
    · exact OnlyCore.forgetAsk s s.cur
    · exact OnlyCore.refl s s.cur

/-- The trap of such an operation, taken where the staging slot is empty. -/
theorem State.raiseTrap_capacity {s : State} {row : Nat} (hp : s.my.passed = none) (hst : s.me.staging = none) :
    CapacityTrapped s row (s.raiseTrap ⟨0, 0x10, BitVec.ofNat 64 (2 ^ 60 + row), true, id, false⟩) := by
  let tr : Trap := { cause := 0x10, addr := BitVec.ofNat 64 (2 ^ 60 + row), slot := some 0, pc := s.my.pc, save := true }
  obtain ⟨s', hcore, honly, hraise⟩ := State.raiseTrap_eq (r := ⟨0, 0x10, tr.addr, true, id, false⟩) hp
  have hme : s'.core s.cur = s.me := hcore s.cur
  have hmy : s'.hart s.cur = s.my := congrArg Core.hart hme
  obtain ⟨honly', hhart, hleft, hstaged⟩ := State.trap_saves_hart (t := tr) (hme ▸ hst) rfl
  rw [hmy, hme] at *
  rw [hraise]
  change CapacityTrapped s row ((s'.trap s.cur tr).modCore s.cur Core.unblock)
  generalize s'.trap s.cur tr = u at *
  have hkept := honly.trans honly'
  have htme : (u.modCore s.cur Core.unblock).me = (u.core s.cur).unblock := by
    show (u.modCore s.cur Core.unblock).core u.cur = _
    rw [hkept.cur, State.core_modCore_same]
  have htmy : (u.modCore s.cur Core.unblock).my = u.hart s.cur := (congrArg Core.hart htme).trans rfl
  unfold CapacityTrapped
  rw [htmy, htme, hhart]
  refine ⟨Hart.enter_trapcause (t := tr) (show 0x10 < 256 by decide) true, rfl, rfl, rfl, rfl, rfl, rfl, fun _ => rfl, rfl, rfl,
    hkept.mem, hkept.dies, hkept.cur, fun k => ?_, hstaged, fun k hk => ?_⟩
  · have hq : Hart.queue s.my.stopLong k = (s.my.queue k).settle := s.my.stopLong_queue k
    obtain ⟨hbind, hrcd, hfill, hfmt, hcount, hwin, hpos, hclaim, hentries⟩ := (s.my.queue k).settle_words
    rw [← hq] at *
    refine ⟨hbind, hrcd, hfill, hfmt, hcount, hwin, hpos, hclaim, hentries, fun hb e he => ?_⟩
    obtain ⟨l, hl, hword⟩ := Hart.leftovers_of_store hb he
    exact ⟨l, by rw [show (u.core s.cur).unblock.left = _ from hleft]; exact List.mem_append_right _ hl, hword⟩
  · exact (State.core_modCore_ne u _ hk).trans (hkept.others k hk)

/-- An operation that traps with over-capacity whatever its grid holds: the errors of its rows make no difference (R67, R314). -/
theorem State.runs_capacity {s : State} {i : Instr} {op : Op} {row : Nat} (hp : s.my.passed = none) (hst : s.me.staging = none)
    (hexec : exec i s = s.runOne i op)
    (htrap : ∀ u : State, u.my = { s.my with grid := u.my.grid } →
      op ⟨s.my.pc, 0⟩ u = .trap 0x10 (BitVec.ofNat 64 (2 ^ 60 + row))) :
    Runs i s (CapacityTrapped s row) := by
  intro hd
  have hanswer : onRows i op ⟨s.my.pc, 0⟩ s = .trap 0x10 (BitVec.ofNat 64 (2 ^ 60 + row)) := by
    unfold onRows
    split
    · exact htrap s rfl
    · rw [htrap _ (by rw [State.my_modMy])]
  refine happens_of_eq ((hexec.trans (State.runOne_eq hd))) ?_ (State.raiseTrap_capacity hp hst)
  simp [State.runOps, State.answers, verdict_one, hanswer, savingCause]

/-- The lowest of some numbers, as the trap takes it. -/
theorem foldl_lower_eq_min? (l : List Nat) :
    l.foldl (fun (a : Option Nat) r => some (lower a r |>.getD r)) none = l.min? := by
  have hsome : ∀ (l : List Nat) (x : Nat),
      l.foldl (fun (a : Option Nat) r => some (lower a r |>.getD r)) (some x) = some (l.foldl min x) := by
    intro l
    induction l with
    | nil => exact fun _ => rfl
    | cons r l ih => exact fun x => ih (min x r)
  cases l with
  | nil => rfl
  | cons r l => exact (hsome l r).trans List.min?_cons'.symm

/-- An operation that names rows of the missing half, and the lowest of them (R314). -/
theorem Hart.capTrap_missing {h : Hart} {rows : List Nat} {m row : Nat} (k : Res) (hp : h.passed = none)
    (hmiss : h.missingHalf = some m) (hm : m < 2) (hrow : row ∈ rows) (hhalf : row / 64 = m)
    (hlow : ∀ r ∈ rows, r / 64 = m → row ≤ r) : h.capTrap rows k = .trap 0x10 (BitVec.ofNat 64 (2 ^ 60 + row)) := by
  have hmin : (rows.filter fun r => m == 2 || r / 64 == m).min? = some row := by
    rw [List.min?_eq_some_iff]
    refine ⟨by simp [hrow, hhalf], fun r hr => ?_⟩
    obtain ⟨hr, hr'⟩ := List.mem_filter.1 hr
    exact hlow r hr (by simpa [show m ≠ 2 by omega] using hr')
  simp only [Hart.capTrap, hp, hmiss, Option.isSome_none, Bool.false_eq_true, if_false, foldl_lower_eq_min?, hmin]

/-- The lowest row of a half. -/
theorem mem_halfRows_first (h : Nat) : 64 * h ∈ halfRows h := List.mem_map.2 ⟨0, by simp⟩

theorem le_of_mem_halfRows {h r : Nat} (hr : r ∈ halfRows h) : 64 * h ≤ r := by
  obtain ⟨i, -, rfl⟩ := List.mem_map.1 hr
  omega

/-- A queue whose next strip is of no reserved format gives an OPA no reserved format (R301). -/
theorem Queue.forOpa_unreserved {q : Queue} {i : Nat} (h : ∀ ad, ¬Claim.reserved q ad) :
    ((q.forOpa i).causes.filter (·.1 == 0x0E)) = [] := by
  by_cases hb : q.bind ≠ 1
  · simp [Queue.forOpa, hb, OpaQueue.causes]
  by_cases hc : q.claim = true
  · simp [Queue.forOpa, hb, hc, OpaQueue.causes]
  cases hfmt : q.fmt with
  | some f => simp [Queue.forOpa, hb, hc, hfmt, OpaQueue.causes]
  | none =>
    cases hfault : q.fault with
    | none =>
      simp only [Queue.forOpa, if_neg hb, if_neg hc, hfmt, hfault]
      split <;> rfl
    | some e =>
      have he : e.1 ≠ 0x0E := fun he =>
        h e.2 ⟨not_not.1 hb, Bool.eq_false_iff.2 hc, hfmt, hfault.trans (congrArg some (Prod.ext he rfl))⟩
      simp [Queue.forOpa, hb, hc, hfmt, hfault, OpaQueue.causes, he]

section
variable {s : State} {m : Nat} (hmiss : s.my.missingHalf = some m) (hm : m < 2) (hst : s.me.staging = none)
  (hp : s.my.passed = none)
include hmiss hm hst hp

/-- A G operation on rows of the missing half. -/
theorem State.runs_gridGate_missing {i : Instr} {op : Op} {rows : List Nat} {row : Nat}
    (hexec : exec i s = s.runOne i op)
    (hop : ∀ u : State, u.my = { s.my with grid := u.my.grid } →
      ∃ writes k, op ⟨s.my.pc, 0⟩ u = gridGate u rows writes false k)
    (hrow : row ∈ rows) (hhalf : row / 64 = m) (hlow : ∀ r ∈ rows, r / 64 = m → row ≤ r) :
    Runs i s (CapacityTrapped s row) := by
  refine State.runs_capacity hp hst hexec fun u hu => ?_
  obtain ⟨writes, k, hgate⟩ := hop u hu
  rw [hgate, gridGate, if_neg Bool.false_ne_true]
  exact Hart.capTrap_missing _ (by rw [hu, hp]) (by rw [hu, hmiss]) hm hrow hhalf hlow

/-- GCLR and GTRN of the missing half. -/
theorem State.runs_half_missing {i : Instr} {op : Op} (hexec : exec i s = s.runOne i op)
    (hop : ∀ u : State, u.my = { s.my with grid := u.my.grid } →
      ∃ writes k, op ⟨s.my.pc, 0⟩ u = gridGate u (halfRows m) writes false k) :
    Runs i s (CapacityTrapped s (64 * m)) :=
  State.runs_gridGate_missing hmiss hm hst hp hexec hop (mem_halfRows_first m) (by omega) fun _ hr _ => le_of_mem_halfRows hr

theorem State.gdirty_missing (sd : SReg) {h : BitVec 1} (hh : h.toNat = m) :
    Runs (.gdirty sd h) s (CapacityTrapped s (64 * m)) :=
  State.runs_capacity hp hst rfl fun u hu =>
    Hart.capTrap_missing _ (by rw [hu, hp]) (by rw [hu, hmiss]) hm (hh ▸ mem_halfRows_first m) (by omega)
      fun _ hr _ => hh ▸ le_of_mem_halfRows hr

theorem State.opz_missing {h : BitVec 1} (hh : h.toNat = m) (ht : s.my.ctl.tshp.toNat % 256 ≠ 0) :
    Runs (.opz h) s (CapacityTrapped s (64 * m)) := by
  refine State.runs_gridGate_missing hmiss hm hst hp (rows := (List.range (tshpM s.my.ctl.tshp)).map (64 * h.toNat + ·))
    rfl (fun u hu => ?_) ?_ (by omega) ?_
  · have hctl : u.my.ctl = s.my.ctl := by rw [hu]
    exact ⟨_, _, by simp only [opOpz, hctl]; rfl⟩
  · exact List.mem_map.2 ⟨0, List.mem_range.2 (Nat.pos_of_ne_zero ht), by omega⟩
  · rintro r hr -
    obtain ⟨j, -, rfl⟩ := List.mem_map.1 hr
    omega

theorem State.gmov_missing {d r : GReg} {row : Nat} (hrow : row = d.toNat ∨ row = r.toNat) (hhalf : row / 64 = m)
    (hd : d.toNat / 64 = m → row ≤ d.toNat) (hr : r.toNat / 64 = m → row ≤ r.toNat) :
    Runs (.gmov d r) s (CapacityTrapped s row) := by
  refine State.runs_gridGate_missing hmiss hm hst hp (rows := [d.toNat, r.toNat]) rfl (fun u _ => ⟨_, _, rfl⟩)
    (by simpa using hrow) hhalf fun x hx => ?_
  simp only [List.mem_cons, List.not_mem_nil, or_false] at hx
  obtain rfl | rfl := hx
  · exact hd
  · exact hr

/-- GSAVE and GLOAD of rows of the missing half. -/
theorem State.slotGate_missing {i : Instr} {op : Op} {store : Bool} {d : GReg} {c : BitVec 7}
    (hexec : exec i s = s.runOne i op) (hop : ∀ u, ∃ k, op ⟨s.my.pc, 0⟩ u = slotGate u ⟨s.my.pc, 0⟩ store d c k)
    (hfit : d.toNat + c.toNat < 128) (hptr : s.my.sup.saveptr ≠ 0) (hlo : 64 * m ≤ d.toNat + c.toNat)
    (hhi : d.toNat < 64 * m + 64) : Runs i s (CapacityTrapped s (max d.toNat (64 * m))) := by
  refine State.runs_gridGate_missing hmiss hm hst hp (rows := (List.range (c.toNat + 1)).map (d.toNat + ·)) hexec
    (fun u hu => ?_) ?_ (by omega) ?_
  · obtain ⟨k, hk⟩ := hop u
    have hlegal : (decide (128 < d.toNat + (c.toNat + 1)) || u.my.sup.saveptr == 0) = false := by
      rw [hu, Bool.or_eq_false_iff, decide_eq_false_iff_not, beq_eq_false_iff_ne]
      exact ⟨by omega, hptr⟩
    exact ⟨_, _, by rw [hk, slotGate, hlegal]⟩
  · exact List.mem_map.2 ⟨max d.toNat (64 * m) - d.toNat, List.mem_range.2 (by omega), by omega⟩
  · intro r hr hrm
    obtain ⟨j, -, rfl⟩ := List.mem_map.1 hr
    omega

theorem State.opa_missing {h : BitVec 1} {qa qb : QReg} (n o : BitVec 1) (hh : h.toNat = m) (hpart : s.my.holdsPartial = false)
    (hres : ∀ ad, ¬Claim.reserved (s.my.queue qa.toNat) ad ∧ ¬Claim.reserved (s.my.queue qb.toNat) ad) :
    Runs (.opa h qa qb n o) s (CapacityTrapped s (64 * m)) := by
  refine State.runs_half_missing hmiss hm hst hp rfl fun u hu => ?_
  have hpart' : u.my.holdsPartial = false := by rw [hu]; exact hpart
  have hqueue : ∀ k, u.my.queue k = s.my.queue k := fun k => by rw [hu]; rfl
  have hnone : worstCause ((((u.my.queue qa.toNat).forOpa qa.toNat).causes ++
      ((u.my.queue qb.toNat).forOpa qb.toNat).causes).filter (·.1 == 0x0E)) = none := by
    rw [hqueue, hqueue, List.filter_append, Queue.forOpa_unreserved fun ad => (hres ad).1,
      Queue.forOpa_unreserved fun ad => (hres ad).2]
    rfl
  subst hh
  exact ⟨_, _, by unfold opOpa; simp only [hpart', Bool.false_eq_true, if_false, hnone]; rfl⟩

end

/-- Settles O42: every one of these operations answers with the over-capacity trap whatever its rows hold, and that trap saves the
context. -/
theorem missingHalfTraps : Obligations.MissingHalfTraps := by
  unfold Obligations.MissingHalfTraps
  intro s m h d r sd qa qb n o c my beyond hmiss hm hst hp
  refine ⟨fun hh => ⟨?gclr, ?gtrn, ?gdirty, ?opz, ?opa⟩, fun hd hr => ⟨?gmovTo, ?gmovFrom⟩, fun hd hr => ?gmovBoth,
    fun hfit hptr hlo hhi => ⟨?gsave, ?gload⟩⟩
  case gclr => exact State.runs_half_missing hmiss hm hst hp rfl fun u _ => hh ▸ ⟨_, _, rfl⟩
  case gtrn => exact State.runs_half_missing hmiss hm hst hp rfl fun u _ => hh ▸ ⟨_, _, rfl⟩
  case gdirty => exact State.gdirty_missing hmiss hm hst hp sd hh
  case opz => exact State.opz_missing hmiss hm hst hp hh
  case opa => exact State.opa_missing hmiss hm hst hp n o hh
  case gmovTo => exact State.gmov_missing hmiss hm hst hp (.inl rfl) hd (fun _ => le_rfl) (fun e => absurd e hr)
  case gmovFrom => exact State.gmov_missing hmiss hm hst hp (.inr rfl) hd (fun e => absurd e hr) (fun _ => le_rfl)
  case gmovBoth =>
    exact State.gmov_missing hmiss hm hst hp (by omega) (by omega) (fun _ => min_le_left _ _) (fun _ => min_le_right _ _)
  case gsave => exact State.slotGate_missing hmiss hm hst hp (store := true) rfl (fun _ => ⟨_, rfl⟩) hfit hptr hlo hhi
  case gload => exact State.slotGate_missing hmiss hm hst hp (store := false) rfl (fun _ => ⟨_, rfl⟩) hfit hptr hlo hhi

end Sys2Proof.Machine
end

section
/-! SUPPORT. Retirement, the evacuator, saving faults, power and resets (R51 to R59, R365). For O59. -/

namespace Sys2Proof.Machine

/-- An agent's step at a core of the package is its meaning. -/
theorem exec_onCore {i : Instr} {s t : State} {k : Nat} {f : State → State} (hk : k < 1536)
    (hexec : exec i s = .next (s.onCore k f)) (hf : f s = t) : exec i s = .next t := by
  rw [hexec, State.onCore, if_pos hk, hf]

/-- An agent's step at a compute die is its meaning. -/
theorem exec_onDie {i : Instr} {s t : State} {d : Nat} {f : State → State} (hd : d < 16)
    (hexec : exec i s = .next (s.onDie d f)) (hf : f s = t) : exec i s = .next t := by
  rw [hexec, State.onDie, if_pos hd, hf]

/-- A half of a core's grid retired while no hart holds it (R51). -/
theorem gridHalfRetirement_step {s : State} {core n : Nat} (hcore : core < 1536) (hn : n < 2)
    (hgone : (s.core core).gridGone.getLsbD n = false) (hact : (s.core core).active = false) :
    Claim.DoesCore (.gridHalfRetirement core n) s core fun c => { c with gridGone := c.gridGone ||| BitVec.twoPow 2 n } := by
  refine exec_onCore hcore rfl ?_
  simp [State.retireHalf, hgone, Nat.not_le.2 hn, State.modCore, State.setCore, hact]

/-- A die cache bank retired (R58). -/
theorem dieCacheBankRetirement_step {s : State} {die n : Nat} (hdie : die < 16) (hn : n < 256)
    (hgone : (s.die die).cacheGone.contains n = false) :
    Claim.Does (.dieCacheBankRetirement die n) s
      { s with dies := s.dies.mod die fun v => { v with cacheGone := v.cacheGone ++ [n] } } := by
  refine exec_onDie hdie rfl ?_
  simp only [State.retireCacheBank, hgone, Nat.not_le.2 hn, Bool.false_eq_true, or_self, if_false]
  rfl

/-- Some keys of a table put to values of their own. -/
theorem Tbl.getD_foldl_put {α : Type} (g : Nat → α) (d : α) {l : Nat} {ls : List Nat} (h : l ∈ ls) (t : Tbl α) :
    Tbl.getD (ls.foldl (fun b l => Tbl.put b l (g l)) t) l d = g l := by
  induction ls using List.reverseRecOn with
  | nil => exact absurd h List.not_mem_nil
  | append_singleton ls x ih =>
    rw [List.foldl_append]
    by_cases hx : l = x
    · subst hx
      exact Tbl.getD_put_same ..
    · rw [List.foldl_cons, List.foldl_nil, Tbl.getD_put_ne _ _ _ hx]
      exact ih (by simpa [hx] using h)

/-- The bank map after a retirement has no entry at or above the new count (R53). -/
theorem Core.remap_segValid (c : Core) (n alloc bank : Nat) {l : Nat} (hn : n ≤ l) (hl : l < 128) :
    (c.remap n alloc bank).segValid l = false := by
  have hmem : l ∈ (List.range 128).filter fun l => decide (n ≤ l) := by simp [hn, hl]
  have hbank : ∃ p, (c.remap n alloc bank).bankEnt l = BitVec.ofNat 9 (p % 128) :=
    ⟨_, Tbl.getD_foldl_put (fun l => BitVec.ofNat 9 (Core.pseg _ l)) _ hmem _⟩
  obtain ⟨p, hp⟩ := hbank
  rw [Core.segValid, hp, BitVec.getLsbD_ofNat, Nat.testBit_lt_two_pow (i := 7) (Nat.mod_lt p (by decide))]
  simp

/-- A remapping changes the bank map and the evacuator's words, and nothing else of a core. -/
theorem Core.remap_eq (c : Core) (n alloc bank : Nat) :
    c.remap n alloc bank = { c with bank := (c.remap n alloc bank).bank, evac := (c.remap n alloc bank).evac
                                    evacuating := (c.remap n alloc bank).evacuating } := by
  have hplan : ∀ (plan : List (Nat × Nat)) (f : Core → Nat × Nat → Core) (c : Core),
      (∀ c p, f c p = { c with bank := (f c p).bank, evac := (f c p).evac }) →
      plan.foldl f c = { c with bank := (plan.foldl f c).bank, evac := (plan.foldl f c).evac } := by
    intro plan f c hf
    refine List.foldlRecOn (motive := fun d => d = { c with bank := d.bank, evac := d.evac }) plan f ?_ ?_
    · rfl
    · intro d hd p _
      rw [hf d p, hd]
  unfold Core.remap
  dsimp only
  rw [hplan _ _ _ fun c p => by split <;> rfl]

/-- A scratchpad bank retired without a resident context (R53). -/
theorem scratchBankRetirement_step {s : State} {core n : Nat} (hcore : core < 1536) (hn : n < 16)
    (hgone : (s.core core).retired.getLsbD n = false) (hres : (s.core core).resident = none) :
    Happens (.scratchBankRetirement core n) s fun t =>
      (t.core core).retired = (s.core core).retired ||| BitVec.twoPow 16 n ∧ (t.core core).scr = (s.core core).scr ∧
      t.mem = s.mem ∧ ∀ l, (t.core core).nseg ≤ l → l < 128 → (t.core core).segValid l = false := by
  let c : Core := { s.core core with retired := (s.core core).retired ||| BitVec.twoPow 16 n }
  refine ⟨(s.modCore core fun c => { c with retired := c.retired ||| BitVec.twoPow 16 n }).modCore core
    fun d => d.remap c.nseg 0 n, exec_onCore hcore rfl ?_, ?_⟩
  · simp only [State.retireBank, hgone, Nat.not_le.2 hn, Bool.false_eq_true, or_self, if_false, State.core_modCore_same, hres,
      Option.map_none, Option.getD_none, List.range_zero, List.reverse_nil, List.filter_nil, List.foldl_nil,
      Nat.not_lt_zero, false_and]
    rfl
  · beta_reduce
    rw [State.core_modCore_same, State.core_modCore_same]
    change (c.remap c.nseg 0 n).retired = _ ∧ (c.remap c.nseg 0 n).scr = _ ∧ _ ∧ ∀ l, (c.remap c.nseg 0 n).nseg ≤ l → _
    have heq := c.remap_eq c.nseg 0 n
    refine ⟨by rw [heq], by rw [heq], rfl, fun l hnl hl => Core.remap_segValid _ _ _ _ ?_ hl⟩
    rw [heq] at hnl
    exact hnl

/-- No directory lies on a die: its words make no difference to the ranges (R30). -/
theorem State.allRanges_modDie (s : State) (d : Nat) (f : Die → Die) : (s.modDie d f).allRanges = s.allRanges := rfl

/-- An HBM region retired in which no range lies (R51). -/
theorem hbmRegionRetirement_step {s : State} {die n : Nat} (hdie : die < 16) (hn : n < 192)
    (hgone : (s.die die).hbmGone.contains n = false) (hmoves : s.ranges.moves = [])
    (hfree : ∀ r ∈ s.allRanges, r.2.2.2.residentIn (die * 0xC00000000 + n * 0x10000000)
      (die * 0xC00000000 + n * 0x10000000 + 0x10000000) = false) :
    Happens (.hbmRegionRetirement die n) s fun t =>
      (t.die die).hbmGone = (s.die die).hbmGone ++ [n] ∧ t.mem = s.mem ∧ t.cores = s.cores := by
  let u := s.modDie die fun v => { v with hbmGone := v.hbmGone ++ [n] }
  let lo := hbmBase die + n * 0x10000000
  have habandon : u.abandonMoves lo (lo + 0x10000000) = u := by
    have hu : u.ranges.moves = [] := hmoves
    rw [State.abandonMoves, hu]
    rfl
  have hnone : (u.allRanges.filter fun r => r.2.2.2.residentIn lo (lo + 0x10000000) &&
      !u.ranges.moves.any fun m => m.owner == r.1 && m.desc.base == r.2.2.2.base && !m.back && m.src == r.2.2.2.pa) = [] := by
    rw [List.filter_eq_nil_iff, State.allRanges_modDie]
    intro r hr
    rw [show r.2.2.2.residentIn lo (lo + 0x10000000) = false from hfree r hr]
    exact Bool.false_ne_true
  have hstep : s.retireRegion die n = u := by
    unfold State.retireRegion
    rw [if_neg (by simpa [Nat.not_le.2 hn, Nat.not_le.2 hdie] using hgone)]
    change ((u.abandonMoves lo (lo + 0x10000000)).allRanges.filter _).foldl _ (u.abandonMoves lo (lo + 0x10000000)) = u
    rw [habandon, hnone]
    rfl
  exact ⟨u, exec_onDie hdie rfl hstep, by rw [State.die_modDie_same], rfl, rfl⟩

section
variable {s : State} {core : Nat} (hcore : core < 1536) {e : Evac} {rest : List Evac} (hevac : (s.core core).evac = e :: rest)
include hcore hevac

/-- The evacuator takes up a segment (R55). -/
theorem evacuatorSegmentMove_step (hst : e.started = false) :
    Claim.DoesCore (.evacuatorSegmentMove core) s core fun c =>
      { c with evac := { e with started := true, lines := 0 } :: rest
               bank := c.bank.put e.seg (BitVec.ofNat 9 (c.pseg e.seg + 384)) } := by
  refine exec_onCore hcore rfl ?_
  simp [State.evacStart, hevac, hst, State.modCore, State.setCore]

/-- The evacuator copies a line (R55). -/
theorem evacuatorLineReadReturn_step (hst : e.started = true) (hlines : e.lines < 16) (hmarks : (s.core core).scrMarks = []) :
    Happens (.evacuatorLineReadReturn core) s fun t =>
      (t.core core).evac = { e with lines := e.lines + 1 } :: rest ∧ t.mem = s.mem ∧
      (t.core core).scr = cellsWrite (s.core core).scr (e.dst * 4096 + 256 * e.lines) 256
        (cellsRead (s.core core).scr ((s.core core).pseg e.seg * 4096 + 256 * e.lines) 256) := by
  refine ⟨_, exec_onCore hcore rfl (f := fun s => s.evacLine core) rfl, ?_⟩
  simp [State.evacLine, hevac, hst, Nat.not_le.2 hlines, hmarks, Core.copyLine]

/-- A segment that the evacuator has copied has its new place (R55). -/
theorem evacuatorSegmentDone_step (hst : e.started = true) (hlines : 16 ≤ e.lines) :
    Happens (.evacuatorSegmentDone core) s fun t => (t.core core).evac = rest ∧
      (t.core core).bank = (s.core core).bank.put e.seg (BitVec.ofNat 9 (e.dst + 128)) ∧ t.hart core = s.hart core ∧
      t.mem = s.mem := by
  refine ⟨_, exec_onCore hcore rfl (f := fun s => s.evacDone core) rfl, ?_⟩
  simp [State.evacDone, hevac, hst, Nat.not_lt.2 hlines, State.hart]

end

/-- The bundle at issue left for a save: the hart waits for nothing, and the memory and the staging slot are as they were
(R184). -/
theorem State.leaveBundle_core (s : State) (k : Nat) :
    (s.leaveBundle k).mem = s.mem ∧ (s.leaveBundle k).hart k = (s.hart k).fresh ∧
      ((s.leaveBundle k).core k).staging = (s.core k).staging := by
  unfold State.leaveBundle
  dsimp only
  split
  · refine ⟨rfl, ?_, ?_⟩
    · rw [State.hart_modCore_same]
      rfl
    · rw [State.core_modCore_same]
      rfl
  · have hask : (s.forgetAsk k).core k = { s.core k with hart := { s.hart k with passed := none } } :=
      State.core_modHart_same s k fun h => { h with passed := none }
    refine ⟨rfl, ?_, ?_⟩
    · rw [State.hart_modCore_same, hask]
      rfl
    · rw [State.core_modCore_same, hask]
      rfl

/-- A saving trap taken at a boundary, where the staging slot is empty (R178, R184). -/
theorem State.trapSaving_core {s : State} {k : Nat} (h : (s.core k).staging = none) (cause : Nat) (addr : Word) :
    (s.trapSaving k cause addr).mem = s.mem ∧
      (s.trapSaving k cause addr).hart k = { ({ (s.hart k).fresh.stopLong with
        pc := (s.hart k).pc, grid := { (s.hart k).stopLong.grid with dirty := 0 } } : Hart).enter
          { cause := cause, addr := addr, slot := none, pc := (s.hart k).pc, save := true } true with inval := none } ∧
      ∃ g, ((s.trapSaving k cause addr).core k).staging = some g ∧ g.area = (s.hart k).sup.saveptr.toNat := by
  obtain ⟨hmem, hhart, hstaging⟩ := s.leaveBundle_core k
  let tr : Trap := { cause := cause, addr := addr, slot := none, pc := (s.hart k).pc, save := true }
  have hsaving : s.trapSaving k cause addr = ((s.leaveBundle k).trap k tr).modCore k
      fun c => { c.unblock with hart := { c.hart with inval := none } } := by
    simp [State.trapSaving, State.drain_none h, h, tr]
  obtain ⟨honly, htrap, -, g, hg, harea, -⟩ := State.trap_saves_hart (s := s.leaveBundle k) (t := tr) (hstaging.trans h) rfl
  rw [hhart] at htrap harea
  rw [hsaving, State.hart_modCore_same, State.core_modCore_same]
  exact ⟨honly.mem.trans hmem, congrArg (fun h : Hart => { h with inval := none }) htrap, g, hg, harea⟩

/-- A saving fault that is due, taken at its boundary (R59, R162, R180). -/
theorem takeCause_saves {s : State} {k cause : Nat} {a : Word} (hcause : cause = 0x10 ∨ cause = 0x11)
    (hact : (s.core k).active = true) (hdue : (s.hart k).due = [{ cause := cause, addr := a }])
    (hst : (s.core k).staging = none) :
    let t := s.takeCause k cause
    (t.hart k).sup.trapcause.toNat = cause + 2 ^ 8 * levelCode (s.hart k).level + 2 ^ 10 ∧ (t.hart k).sup.trapaddr = a ∧
      (t.hart k).sup.trappc = (s.hart k).pc ∧ (t.hart k).sup.trapslot = 0 ∧ (t.hart k).pc = (s.hart k).sup.trapvec ∧
      (t.hart k).level = .s ∧ (t.hart k).handler = true ∧ (t.hart k).due = [] ∧ t.mem = s.mem ∧
      ∃ g, (t.core k).staging = some g ∧ g.area = (s.hart k).sup.saveptr.toNat := by
  let clear : Core → Core := fun c => { c.unblock with
    wfi := false, hart := { c.hart with due := c.hart.due.filter (· != { cause := cause, addr := a }) } }
  have hsaving : savingCause cause = true := by obtain rfl | rfl := hcause <;> rfl
  have hstep : s.takeCause k cause = (s.modCore k clear).trapSaving k cause a := by
    have hfind : (s.core k).hart.due.find? (·.cause == cause) = some { cause := cause, addr := a } := by
      rw [show (s.core k).hart.due = _ from hdue]
      simp
    simp [State.takeCause, hfind, hact, State.takeDue, hsaving, State.drain_none hst, hst, clear]
  have hclear : (s.modCore k clear).hart k = { s.hart k with due := [] } := by
    rw [State.hart_modCore_same]
    simp [clear, show (s.core k).hart.due = _ from hdue, State.hart]
  obtain ⟨hmem, hhart, hstaged⟩ := State.trapSaving_core (s := s.modCore k clear) (k := k)
    (by rw [State.core_modCore_same]; exact hst) cause a
  rw [hclear] at hhart hstaged
  intro t
  simp only [t, hstep, hhart]
  refine ⟨?_, rfl, rfl, rfl, rfl, rfl, rfl, rfl, hmem, hstaged⟩
  have hlt : cause < 256 := by omega
  exact Hart.enter_trapcause (show _ from hlt) true

/-! ### Power and resets -/

/-- A core after a module reset: its scratchpad's cells stay, and its hart, if it has one, is as after reset (R366). -/
theorem State.moduleReset_core (s : State) (k : Nat) :
    ∃ (on : Bool) (lvl : Level), s.moduleReset.core k =
      { scr := (s.core k).scr, scrMarks := (s.core k).scrMarks, active := on, hart := { level := lvl } } := by
  have hkeep : Tbl.get (s.cores.map fun p => (p.1, ({ scr := p.2.scr, scrMarks := p.2.scrMarks } : Core))) k =
      { scr := (s.core k).scr, scrMarks := (s.core k).scrMarks } :=
    Tbl.get_map (g := fun _ c => ({ scr := c.scr, scrMarks := c.scrMarks } : Core)) s.cores (fun _ => rfl) k
  by_cases hup : (Config.bootVerifies 0 && Config.bootVerifies 1) = true
  · have hcore : s.moduleReset.core k = Tbl.get (Tbl.mod
        (s.cores.map fun p => (p.1, ({ scr := p.2.scr, scrMarks := p.2.scrMarks } : Core))) 0
        fun c => { c with active := true, hart := { level := .f } }) k := by
      simp only [State.core, State.moduleReset, if_pos hup]
    by_cases hk : k = 0
    · subst hk
      exact ⟨true, .f, by rw [hcore, Tbl.get_mod_same, hkeep]⟩
    · exact ⟨_, _, by rw [hcore, Tbl.get_mod_ne _ _ hk, hkeep]⟩
  · exact ⟨_, _, by simp only [State.core, State.moduleReset, if_neg hup]; exact hkeep⟩

/-- A trip is a module reset that leaves no hart running (R365). -/
theorem State.trip_facts (s : State) :
    s.trip.down = true ∧ s.trip.link.tripped = true ∧ s.trip.mem = s.mem ∧ s.trip.flights = [] ∧
      (∀ k, (s.trip.core k).active = false) ∧ ∀ d, (s.trip.die d).mhz = 1800 := by
  refine ⟨rfl, rfl, rfl, rfl, fun k => ?_, fun _ => rfl⟩
  exact congrArg Core.active
    (State.core_of_map (s := s.moduleReset) (g := fun _ c => { c with active := false }) rfl (fun _ => rfl) k)

end Sys2Proof.Machine
end

section
/-! SUPPORT. What a fence leaves alone (R63, R170): the master clock, and which other dies are in service. For O59. -/

namespace Sys2Proof.Machine

/-- The master clock is as it was, and so is which dies are in service. -/
structure SameService (s t : State) : Prop where
  master : t.master = s.master
  inService : ∀ d, (t.die d).inService = (s.die d).inService

namespace SameService

theorem refl (s : State) : SameService s s := ⟨rfl, fun _ => rfl⟩

theorem trans {s t u : State} (h : SameService s t) (g : SameService t u) : SameService s u :=
  ⟨g.master.trans h.master, fun d => (g.inService d).trans (h.inService d)⟩

theorem foldl {α : Type} {f : State → α → State} (hf : ∀ t a, SameService t (f t a)) (l : List α) (s : State) :
    SameService s (l.foldl f s) :=
  List.foldlRecOn (motive := SameService s) l f (refl s) fun t ht a _ => ht.trans (hf t a)

theorem modDie (s : State) (d : Nat) {f : Die → Die} (hf : ∀ v, (f v).inService = v.inService) : SameService s (s.modDie d f) :=
  ⟨rfl, (OnlyCounted.modDie s d hf).2⟩

theorem modCore (s : State) (k : Nat) (f : Core → Core) : SameService s (s.modCore k f) := ⟨rfl, fun _ => rfl⟩

theorem modSlot (s : State) (d i : Nat) (f : Slot → Slot) : SameService s (s.modSlot d i f) := modDie s d fun _ => rfl

theorem modHarbour (s : State) (f : Harbour → Harbour) : SameService s (s.modHarbour f) := ⟨rfl, fun _ => rfl⟩

theorem modRanges (s : State) (f : Ranges → Ranges) : SameService s (s.modRanges f) := ⟨rfl, fun _ => rfl⟩

end SameService

theorem OnlyStored.sameService {s t : State} (h : OnlyStored s t) : SameService s t :=
  ⟨by rw [h.1], fun d => by unfold State.die; rw [h.dies]⟩

/-! ### Slots and entries -/

theorem State.freeSlot_sameService (s : State) (d i : Nat) : SameService s (s.freeSlot d i) := by
  unfold State.freeSlot
  dsimp only
  split
  · exact .modSlot ..
  · exact .refl s

theorem State.decrement_sameService (s : State) (h : Word) : SameService s (s.decrement h) := by
  unfold State.decrement
  split
  · split
    · exact .modDie s _ fun _ => rfl
    · exact .modSlot ..
  · exact .modDie s _ fun _ => rfl

theorem State.finishSlice_sameService (s : State) (d i : Nat) : SameService s (s.finishSlice d i) :=
  ((SameService.foldl State.decrement_sameService _ s).trans (.modSlot ..)).trans (State.freeSlot_sameService ..)

theorem State.leaveSlice_sameService (s : State) (e : QEntry) (finished : Bool) : SameService s (s.leaveSlice e finished) := by
  unfold State.leaveSlice
  split
  · exact .refl s
  · dsimp only
    split
    · exact (SameService.modSlot ..).trans (State.finishSlice_sameService ..)
    · exact (SameService.modSlot ..).trans (State.freeSlot_sameService ..)

theorem State.disown_sameService (s : State) (owner area : Nat) : SameService s (s.disown owner area) := by
  refine ⟨rfl, fun d => ?_⟩
  have hdie : (s.disown owner area).die d = { s.die d with held := (s.die d).held.map (·.disown owner area) } :=
    Tbl.get_map (g := fun _ (v : Die) => { v with held := v.held.map (·.disown owner area) }) s.dies (fun _ => rfl) d
  rw [hdie]

theorem State.dropEntry_sameService (s : State) (k : Nat) (e : QEntry) : SameService s (s.dropEntry k e) := by
  unfold State.dropEntry
  dsimp only
  refine SameService.trans ?_ (State.disown_sameService ..)
  exact ⟨rfl, fun _ => rfl⟩

/-! ### Saves -/

theorem State.areaPut_sameService {s t : State} {area owner off len val : Nat} (h : s.areaPut area owner off len val = .ok t) :
    SameService s t := by
  unfold State.areaPut at h
  refine List.foldlRecOn (motive := fun r : Except Nat State => ∀ t, r = .ok t → SameService s t) _ _ ?_ ?_ t h
  · rintro _ ⟨⟩
    exact .refl s
  · intro r hr b _ t ht
    cases r with
    | error e => cases ht
    | ok u => exact (hr u rfl).trans (State.physWrite_onlyStored ht).sameService

theorem State.drainBlocks_sameService (area owner : Nat) (c : Nat × Nat × Nat) (bs : List Nat) (s : State) :
    SameService s (s.drainBlocks area owner c bs).1 := by
  induction bs generalizing s with
  | nil => exact .refl s
  | cons b bs ih =>
    unfold State.drainBlocks
    dsimp only
    split
    · next h => exact (State.areaPut_sameService h).trans (ih _)
    · exact .refl s

theorem State.drainChunks_sameService (area owner : Nat) (cs : List (Nat × Nat × Nat)) (s : State) :
    SameService s (s.drainChunks area owner cs).1 := by
  induction cs generalizing s with
  | nil => exact .refl s
  | cons c cs ih =>
    have hblocks := State.drainBlocks_sameService area owner c (areaBlocks c.1 c.2.1) s
    unfold State.drainChunks
    split
    · next h =>
      rw [h] at hblocks
      exact hblocks.trans (ih _)
    · next h =>
      rw [h] at hblocks
      exact hblocks

theorem State.drainStops_sameService (s : State) (k : Nat) (g : Staging) (cause off mark : Nat) (rest : List (Nat × Nat × Nat)) :
    SameService s (s.drainStops k g cause off mark rest) := by
  unfold State.drainStops
  dsimp only
  refine SameService.trans ?_ (.modDie _ _ fun v => v.log_inService _)
  split
  · next h => exact (SameService.modCore ..).trans (State.areaPut_sameService h)
  · exact .modCore ..

theorem State.drain_sameService (s : State) (k : Nat) : SameService s (s.drain k) := by
  unfold State.drain
  split
  · exact .refl s
  · next g _ =>
    have hchunks := State.drainChunks_sameService g.area g.owner g.chunks s
    split
    · exact .refl s
    · split
      · next h =>
        rw [h] at hchunks
        split
        · exact hchunks.trans (.modCore ..)
        · split
          · next hput => exact (hchunks.trans (State.areaPut_sameService hput)).trans (.modCore ..)
          · exact hchunks.trans (State.drainStops_sameService ..)
      · next h =>
        rw [h] at hchunks
        exact hchunks.trans (State.drainStops_sameService ..)

theorem State.saveContext_sameService {s u : State} {k : Nat} {pc : Word} (h : s.saveContext k pc = some u) :
    SameService s u := by
  have hlog : SameService (s.drain k) ((s.drain k).logBadCells k) := .foldl (fun t _ => .modCore t ..) ..
  unfold State.saveContext at h
  dsimp only at h
  split at h
  · cases h
  · obtain rfl := Option.some.inj h
    exact ((State.drain_sameService s k).trans hlog).trans ⟨rfl, fun _ => rfl⟩

theorem State.trap_sameService (s : State) (k : Nat) (t : Trap) : SameService s (s.trap k t) := by
  unfold State.trap
  split
  · split
    · exact .refl s
    · next h => exact (State.saveContext_sameService h).trans (.modCore ..)
  · exact .modCore ..

/-! ### Instances and slices that a die takes with it -/

theorem State.orphanTrap_sameService (s : State) (k g : Nat) : SameService s (s.orphanTrap k g) := by
  have hdrain := State.drain_sameService s k
  unfold State.orphanTrap
  dsimp only
  split
  · exact hdrain
  · exact (hdrain.trans (State.trap_sameService ..)).trans (.modCore ..)

theorem State.failSlice_sameService (s : State) (h : Word) : SameService s (s.failSlice h) := by
  unfold State.failSlice
  split
  · exact .refl s
  · dsimp only
    refine SameService.trans (SameService.trans ?_ (.modHarbour ..)) (State.freeSlot_sameService ..)
    refine SameService.trans ?_ (.foldl (fun t p => .foldl (fun t e => ?_) ..) ..)
    · split
      · refine SameService.trans (.modSlot ..) (.foldl (fun t p => ?_) ..)
        split
        · exact State.orphanTrap_sameService ..
        · exact .refl t
      · exact .modSlot ..
    · split
      · exact (State.dropEntry_sameService ..).trans (State.leaveSlice_sameService ..)
      · exact .refl t

theorem State.dropMembers_sameService (s : State) (h : Word) : SameService s (s.dropMembers h) :=
  .foldl (fun t p => .foldl (fun t e => by split; exacts [State.dropEntry_sameService .., .refl t]) _ t) ..

theorem State.loseInstance_sameService (s : State) (k : Nat) (e : QEntry) : SameService s (s.loseInstance k e) := by
  have hdrop := State.dropEntry_sameService s k e
  unfold State.loseInstance
  split
  · exact hdrop
  · split
    · exact hdrop.trans (State.leaveSlice_sameService ..)
    · split
      · exact hdrop.trans (State.leaveSlice_sameService ..)
      · split
        · split
          · exact (State.dropMembers_sameService ..).trans (.modSlot ..)
          · exact hdrop.trans (.modSlot ..)
        · exact (hdrop.trans (State.leaveSlice_sameService ..)).trans (State.failSlice_sameService ..)

theorem State.loseDie_sameService (s : State) (d : Nat) : SameService s (s.loseDie d) := by
  unfold State.loseDie
  refine SameService.trans (.foldl (fun t p => ?_) ..) (.foldl (fun t a => ?_) ..)
  · split
    · refine .foldl (fun t e => ?_) ..
      split
      · exact State.loseInstance_sameService ..
      · exact .refl t
    · exact .refl t
  · split
    · exact State.loseInstance_sameService ..
    · exact .refl t

theorem State.failStranded_sameService (s : State) : SameService s s.failStranded := by
  unfold State.failStranded
  refine .foldl (fun t p => .foldl (fun t q => ?_) _ t) ..
  split
  · exact State.failSlice_sameService ..
  · exact .refl t

theorem State.moveSlots_sameService (s : State) (d : Nat) : SameService s (s.moveSlots d) := by
  unfold State.moveSlots
  refine .foldl (fun t q => ?_) ..
  split
  · exact .refl t
  · split
    · exact .refl t
    · exact (SameService.modSlot ..).trans (.modSlot ..)

/-! ### Moves -/

theorem State.endWait_sameService (s : State) (id : Nat) (w : Wait) : SameService s (s.endWait id w) := ⟨rfl, fun _ => rfl⟩

theorem State.dropHeld_sameService (s : State) (agent owner lo hi : Nat) : SameService s (s.dropHeld agent owner lo hi) := by
  unfold State.dropHeld
  dsimp only
  split
  · exact ⟨rfl, fun _ => rfl⟩
  · refine SameService.trans ?_ (.modDie _ agent ?_)
    · exact ⟨rfl, fun _ => rfl⟩
    · exact fun _ => rfl

theorem State.unlock_sameService (s : State) (dirbase : Nat) : SameService s (s.unlock dirbase) :=
  (State.unlock_onlyStored s dirbase).sameService

/-- The accesses to a range follow it to the place that its move has brought it to, and the move ends (R41, R43). -/
theorem State.rehome_sameService {s u : State} (h : SameService s u) (fs : List Flight) (f : Ranges → Ranges)
    (dirbase id : Nat) (w : Wait) :
    SameService s (((({ u with flights := fs } : State).modRanges f).unlock dirbase).endWait id w) := by
  have hu : SameService s (({ u with flights := fs } : State).modRanges f) := ⟨h.master, h.inService⟩
  exact (hu.trans (State.unlock_sameService ..)).trans (State.endWait_sameService ..)

theorem State.endMoves_sameService (s : State) (d : Nat) : SameService s (s.endMoves d) := by
  unfold State.endMoves
  refine .foldl (fun t m => ?_) ..
  split
  · split
    · exact .modRanges ..
    · exact .refl t
  · split
    · dsimp only
      split
      · exact ((State.unlock_sameService ..).trans (.modRanges ..)).trans (State.endWait_sameService ..)
      · exact (State.unlock_sameService ..).trans (.modRanges ..)
    · split
      · exact .refl t
      · split
        · split
          · exact .refl t
          · exact .modRanges ..
        · split
          · exact .refl t
          · refine State.rehome_sameService ?_ ..
            exact .foldl (fun u a => State.dropHeld_sameService ..) ..

end Sys2Proof.Machine
end
section
/-! SUPPORT. The cores of a fenced die (R63): they hold nothing, and the moves that are planned anew after the fence touch none of
them. For O59. -/

namespace Sys2Proof.Machine

/-- No core of a die that the machine lists has a hart, is in service or has an entry. -/
def FencedOff (s : State) (d : Nat) : Prop :=
  ∀ p ∈ s.cores, p.1 / 96 = d → p.2.active = false ∧ p.2.inService = false ∧ p.2.queue = []

theorem Tbl.mem_put {α : Type} {t : Tbl α} {k : Nat} {v : α} {p : Nat × α} (h : p ∈ t.put k v) : p = (k, v) ∨ p ∈ t := by
  induction t with
  | nil => exact .inl (List.mem_singleton.1 h)
  | cons q t ih =>
    obtain ⟨j, w⟩ := q
    unfold Tbl.put at h
    split at h
    · exact (List.mem_cons.1 h).imp_right (List.mem_cons_of_mem _)
    · split at h
      · exact List.mem_cons.1 h
      · obtain rfl | h := List.mem_cons.1 h
        · exact .inr List.mem_cons_self
        · exact (ih h).imp_right (List.mem_cons_of_mem _)

theorem FencedOff.setCore {s : State} {d k : Nat} {c : Core} (h : FencedOff s d)
    (hc : k / 96 = d → c.active = false ∧ c.inService = false ∧ c.queue = []) : FencedOff (s.setCore k c) d := by
  intro p hp hd
  obtain rfl | hp := Tbl.mem_put hp
  · exact hc hd
  · exact h p hp hd

/-- A block of a scratchpad that nothing has ever written reads zero. -/
theorem Core.scrRead_default {off : Nat} {b : BitVec 512} (h : (default : Core).scrRead off = .ok b) : b.toNat = 0 := by
  obtain ⟨-, -, rfl⟩ := (Core.scrRead_ok_iff _ off b).1 h
  rw [cellsRead_none (by rintro x ⟨⟩)]
  exact BitVec.toNat_zero

/-- A header that reads zero is no directory's (R20). -/
theorem State.entryAt_of_zero {s : State} {dirbase va : Nat} (h : ∀ b, s.physRead (dirbase / 64 * 64) 0 0 = .ok b → b.toNat = 0) :
    s.entryAt dirbase va = none := by
  have hcount : ∃ e, s.dirCount dirbase = .error e := by
    unfold State.dirCount
    cases hr : s.physRead (dirbase / 64 * 64) 0 0 with
    | error e => exact ⟨_, rfl⟩
    | ok b =>
      have hword : (blkWord b 0).toNat = 0 := by
        rw [blkWord, h b hr, Nat.zero_div, BitVec.toNat_ofNat, Nat.zero_mod]
      exact ⟨(0x07, false), if_pos (.inr (.inl (by rw [hword]; decide)))⟩
  obtain ⟨⟨e, x⟩, he⟩ := hcount
  unfold State.entryAt State.search
  rw [he]
  cases x <;> simp

/-- A LOCK word written where a directory stands: a core that is not listed holds none (R20, R29). -/
theorem FencedOff.lock {s : State} {d dirbase va : Nat} {r : Nat × Desc} (h : FencedOff s d) (hal : dirbase % 64 = 0)
    (hent : s.entryAt dirbase va = some r) (w : Word) : FencedOff (s.physPutWord (dirbase + 8) w) d := by
  unfold State.physPutWord
  dsimp only
  split
  · next t ht =>
    obtain ⟨_, _, -, -, rfl⟩ | ⟨k, off, c, hseat, hw, rfl⟩ := State.physWrite_ok ht
    · exact h
    · refine h.setCore fun hk => ?_
      obtain ⟨old, -, rfl⟩ := Core.scrWrite_ok hw
      refine h (k, s.core k) (Tbl.mem_of_get_ne_default fun hdef => ?_) hk
      have hzero : s.entryAt dirbase va = none := State.entryAt_of_zero fun b hb => by
        rw [show dirbase / 64 * 64 = (dirbase + 8) / 64 * 64 by omega, State.physRead_eq, hseat] at hb
        change (s.core k).scrRead off = .ok b at hb
        rw [show s.core k = default from hdef] at hb
        exact Core.scrRead_default hb
      rw [hzero] at hent
      cases hent
  · exact h

/-- The owner table names directories at multiples of 64 (R158). -/
theorem State.ownEnt_dirbase {s : State} {owner : Nat} {o : OwnEnt} (h : s.ownEnt owner = some o) : o.dirbase.toNat % 64 = 0 := by
  unfold State.ownEnt at h
  split at h
  · cases h
  · dsimp only at h
    split at h
    · next hok =>
      obtain ⟨-, -, -, -, hal, -⟩ := hok
      obtain rfl := Option.some.inj h
      exact hal
    · cases h

/-- The entry that a dispatcher runs stands in its core's queue (R59). -/
theorem State.dispatcher_mem {s : State} {owner k : Nat} {e : QEntry} (h : s.dispatcher owner = some (k, e)) :
    ∃ c, (k, c) ∈ s.cores ∧ e ∈ c.queue := by
  refine List.foldlRecOn (motive := fun b : Option (Nat × QEntry) =>
    ∀ k e, b = some (k, e) → ∃ c, (k, c) ∈ s.cores ∧ e ∈ c.queue) _ _ ?_ ?_ k e h
  · rintro k e ⟨⟩
  · intro b hb x hx k e hbx
    have hx' : ∃ c, (x.1, c) ∈ s.cores ∧ x.2 ∈ c.queue := by
      obtain ⟨p, hp, hxp⟩ := List.mem_flatMap.1 hx
      obtain ⟨y, hy, rfl⟩ := List.mem_map.1 hxp
      exact ⟨p.2, hp, (List.mem_filter.1 hy).1⟩
    cases b with
    | none =>
      cases hbx
      exact hx'
    | some y =>
      dsimp only at hbx
      split at hbx
      · cases hbx
        exact hx'
      · cases hbx
        exact hb _ _ rfl

theorem FencedOff.placementFault {s : State} {d : Nat} (h : FencedOff s d) (owner va : Nat) :
    FencedOff (s.placementFault owner va) d := by
  unfold State.placementFault
  split
  · exact h
  · next k e hdisp =>
    have hk : k / 96 ≠ d := fun hk => by
      obtain ⟨c, hc, he⟩ := State.dispatcher_mem hdisp
      obtain ⟨-, -, hqueue⟩ := h _ hc hk
      exact absurd (hqueue ▸ he) List.not_mem_nil
    unfold State.dueFor
    split
    · exact h.setCore fun e => absurd e hk
    · exact h.setCore fun e => absurd e hk

theorem State.placementFault_sameService (s : State) (owner va : Nat) : SameService s (s.placementFault owner va) := by
  unfold State.placementFault State.dueFor
  split
  · exact .refl s
  · split <;> exact .modCore ..

/-- A dredger's move waits for LOCK, takes it, or goes with its range (R38). -/
theorem State.dredgerLockRetry_fenced {s : State} {d k : Nat} (h : FencedOff s d)
    (hal : ∀ m, s.ranges.moves[k]? = some m → m.dirbase % 64 = 0) :
    FencedOff (s.dredgerLockRetry k) d ∧ SameService s (s.dredgerLockRetry k) := by
  unfold State.dredgerLockRetry
  split
  · exact ⟨h, .refl s⟩
  · next m hm =>
    split
    · exact ⟨h, .refl s⟩
    · split
      · exact ⟨h, .refl s⟩
      · next t ht =>
        split
        · next hent =>
          split
          · refine ⟨?_, (State.tryLock_onlyStored ht).sameService.trans (.modRanges ..)⟩
            unfold State.tryLock at ht
            split at ht <;> cases ht
            exact h.lock (hal m hm) hent _
          · exact ⟨h, .modRanges ..⟩
        · exact ⟨h, .modRanges ..⟩

theorem State.dredgerMove_fenced {s : State} {d : Nat} (h : FencedOff s d) (owner va pa home : Nat) :
    FencedOff (s.dredgerMove owner va pa home) d ∧ SameService s (s.dredgerMove owner va pa home) := by
  unfold State.dredgerMove
  split
  · exact ⟨h, .refl s⟩
  · next o ho =>
    split
    · exact ⟨h, .refl s⟩
    · next i e _ =>
      split
      · exact ⟨h, .refl s⟩
      · let m := newMove s.uid owner o.dirbase.toNat i e pa home true none
        have hadd : FencedOff (s.addMove m) d := h
        obtain ⟨hfenced, hserv⟩ := State.dredgerLockRetry_fenced (k := (s.addMove m).ranges.moves.length - 1) hadd fun n hn => by
          have hlast : (s.ranges.moves ++ [m])[(s.ranges.moves ++ [m]).length - 1]? = some n := hn
          simp only [List.length_append, List.length_singleton, Nat.add_sub_cancel, List.getElem?_concat_length] at hlast
          cases hlast
          exact State.ownEnt_dirbase ho
        exact ⟨hfenced, hserv.master, hserv.inService⟩

/-- A range's place is looked for first. Stated of the function, so that the kernel compares the two sides as they stand and does
not search for the place. -/
theorem State.clearRange_def : State.clearRange = fun s d r =>
    match s.newPlace (d :: s.roomiest.filter (· != d)) r.2.2.2.size with
    | some (pa, home) => s.dredgerMove r.1 r.2.2.2.base.toNat pa home
    | none => s.placementFault r.1 r.2.2.2.base.toNat := by
  delta State.clearRange
  rfl

theorem State.clearRange_fenced {s : State} {d : Nat} (h : FencedOff s d) (die : Nat) (r : Nat × Nat × Nat × Desc) :
    FencedOff (s.clearRange die r) d ∧ SameService s (s.clearRange die r) := by
  rw [State.clearRange_def]
  beta_reduce
  generalize s.newPlace _ _ = place
  cases place with
  | none => exact ⟨h.placementFault _ _, State.placementFault_sameService ..⟩
  | some p => exact State.dredgerMove_fenced h ..

/-- A move planned anew touches no core of a fenced die (R41, R51). -/
theorem State.replan_fenced {s : State} {d : Nat} (h : FencedOff s d) (m : Move) :
    FencedOff (s.replan m) d ∧ SameService s (s.replan m) := by
  unfold State.replan
  split
  · exact ⟨h, .refl s⟩
  · dsimp only
    split
    · exact State.clearRange_fenced h ..
    · exact ⟨h, .refl s⟩

/-- The cores of a die as a fence leaves them (R63). -/
theorem FencedOff.of_lost {s t : State} {d : Nat}
    (h : t.cores = s.cores.map fun p => if dieOf p.1 = d then (p.1, p.2.lost) else p) : FencedOff t d := by
  intro p hp hd
  rw [h] at hp
  obtain ⟨q, -, rfl⟩ := List.mem_map.1 hp
  by_cases hq : dieOf q.1 = d
  · rw [if_pos hq]
    exact ⟨rfl, rfl, rfl⟩
  · rw [if_neg hq] at hd
    exact absurd hd hq

/-- A fence (R63, R169, R170): the die is out of service, its cores hold nothing, and the others are in service as before. -/
theorem State.fence_fences {s : State} {die : Nat} (hin : (s.die die).inService = true) :
    let t := s.fence die
    (t.die die).inService = false ∧ t.master = s.master ∧ (∀ d, d ≠ die → (t.die d).inService = (s.die d).inService) ∧
      FencedOff t die := by
  let u := (s.endMoves die).modDie die fun v => { v with inService := false }
  have hmoves := State.endMoves_sameService s die
  have hdie : (u.die die).inService = false := by rw [State.die_modDie_same]
  have hothers : ∀ d, d ≠ die → (u.die d).inService = (s.die d).inService := fun d hd => by
    rw [State.die_modDie_ne _ _ hd]
    exact hmoves.inService d
  obtain ⟨v, hv, hfenced, moves, hfence⟩ : ∃ v, SameService u v ∧ FencedOff v die ∧ ∃ moves : List Move,
      s.fence die = moves.foldl State.replan v := by
    unfold State.fence
    rw [if_neg (by rw [hin]; decide)]
    refine ⟨_, ?_, ?_, _, rfl⟩
    · refine SameService.trans (SameService.trans ?_ (.modDie _ _ ?_)) (.modRanges ..)
      · have hlose : ∀ w, SameService u w → SameService u (((w.loseDie die).failStranded).moveSlots die) := fun w hw =>
          ((hw.trans (State.loseDie_sameService ..)).trans (State.failStranded_sameService _)).trans
            (State.moveSlots_sameService ..)
        have hw := hlose ((u.modHarbour fun h => h.without die u.diesIn).modLink fun l => l.freeDie die) ⟨rfl, fun _ => rfl⟩
        exact ⟨hw.master, hw.inService⟩
      · exact fun _ => rfl
    · exact FencedOff.of_lost rfl
  have hreplan : FencedOff (moves.foldl State.replan v) die ∧ SameService v (moves.foldl State.replan v) :=
    List.foldlRecOn (motive := fun t => FencedOff t die ∧ SameService v t) moves State.replan ⟨hfenced, .refl v⟩
      fun t ⟨ht, hvt⟩ m _ => ⟨(State.replan_fenced ht m).1, hvt.trans (State.replan_fenced ht m).2⟩
  obtain ⟨hoff, hsame⟩ := hreplan
  have hall := hv.trans hsame
  intro t
  simp only [t, hfence]
  exact ⟨(hall.inService die).trans hdie, hall.master.trans hmoves.master,
    fun d hd => (hall.inService d).trans (hothers d hd), hoff⟩

end Sys2Proof.Machine
end

section
/-! SUPPORT. The steps of time, storage, power and boot units, put together. Settles O59. -/

namespace Sys2Proof.Machine

/-- Settles O59: one lemma for each unit's step. -/
theorem unitSteps : Obligations.UnitSteps := by
  unfold Obligations.UnitSteps
  intro s core die n c h saves hcore hdie
  refine ⟨?half, ?bank, ?cache, ?region, ?evacuator, ?capacity, ?budget, ?fence, ?power, ?thermal, ?release, ?trip, ?reset⟩
  case half => exact gridHalfRetirement_step hcore
  case bank => exact scratchBankRetirement_step hcore
  case cache => exact dieCacheBankRetirement_step hdie
  case region => exact hbmRegionRetirement_step hdie
  case evacuator =>
    exact fun e rest hevac => ⟨evacuatorSegmentMove_step hcore hevac, evacuatorLineReadReturn_step hcore hevac,
      evacuatorSegmentDone_step hcore hevac⟩
  case capacity => exact fun a hact hdue hst => ⟨_, exec_onCore hcore rfl rfl, takeCause_saves (.inl rfl) hact hdue hst⟩
  case budget => exact fun a hact hdue hst => ⟨_, exec_onCore hcore rfl rfl, takeCause_saves (.inr rfl) hact hdue hst⟩
  case fence =>
    rintro i (rfl | rfl) hin
    · exact ⟨_, exec_onDie hdie rfl rfl, State.fence_fences hin⟩
    · exact ⟨_, exec_onDie hdie rfl rfl, State.fence_fences hin⟩
  case power => exact exec_onDie hdie rfl rfl
  case thermal => exact exec_onDie hdie rfl rfl
  case release => exact exec_onDie hdie rfl rfl
  case trip =>
    rintro i (⟨rfl, hmhz⟩ | rfl)
    · exact ⟨_, exec_onDie hdie rfl (if_pos hmhz), s.trip_facts⟩
    · exact ⟨_, rfl, s.trip_facts⟩
  case reset =>
    refine ⟨_, rfl, rfl, rfl, rfl, rfl, fun k => ?_⟩
    obtain ⟨on, lvl, hk⟩ := s.moduleReset_core k
    rw [State.hart, hk]
    exact ⟨rfl, rfl, rfl, rfl⟩

end Sys2Proof.Machine
end

section
/-! SUPPORT. The steps of an OPA and their end (R303 to R306), and the end of a long vector operation (R134, R176). For O56. -/

namespace Sys2Proof.Machine

/-! ### A step of an OPA -/

/-- An OPA on formats without scales takes none (R305). -/
theorem State.takeScales_unscaled {s : State} {k : Nat} {o : OpaRun} (ha : fmtScaled o.fa = false) (hb : fmtScaled o.fb = false)
    (held : List Nat × List Nat) (ps : List Nat) : s.takeScales k o held ps = .ok (ps.map fun _ => ([], []), s) := by
  induction ps generalizing held with
  | nil => rfl
  | cons p ps ih => simp [State.takeScales, State.blockScales, ha, hb, ih]

/-- The K positions of a step: at least one while steps are left (R303). -/
theorem OpaRun.positions_pos {o : OpaRun} {float : Bool} {r : Nat} (hkind : opaKind o.fa o.fb = some (float, r))
    (hstep : o.step < o.steps) : 0 < min r (tshpK o.tshp - r * o.step) := by
  have hr : 0 < r := by
    rcases Nat.eq_zero_or_pos r with rfl | hr
    · simp [OpaRun.steps, hkind] at hstep
    · exact hr
  have hsteps : o.step < (tshpK o.tshp + r - 1) / r := by simpa [OpaRun.steps, hkind] using hstep
  have hle : (o.step + 1) * r ≤ tshpK o.tshp + r - 1 := (Nat.le_div_iff_mul_le hr).1 hsteps
  rw [Nat.add_mul, Nat.mul_comm] at hle
  omega

/-- A step changes only rows of its tile (R303). -/
theorem opaTile_rows {o : OpaRun} {float : Bool} {src g : Grid} {as bs : List (List Num)} {f : FState} {n : Nat}
    (h : n < 64 * o.half ∨ 64 * o.half + as.length ≤ n) : (opaTile o float src g as bs f).1.rows.get n = g.rows.get n := by
  refine List.foldlRecOn (motive := fun r : Grid × FState => r.1.rows.get n = g.rows.get n) _ _ ?_ ?_
  · rfl
  · intro r hr p hp
    have hlt : p.2 < as.length := List.mem_range.1 (List.of_mem_zip hp).2
    have hne : n ≠ 64 * o.half + p.2 := by omega
    dsimp only
    rw [Grid.mend_rows, Grid.setRow, Tbl.get_put_ne _ _ hne, hr]

theorem length_transposeVals (m : Nat) (vs : List (List Num)) : (transposeVals m vs).length = m := by
  simp [transposeVals]

/-- A queue changed, and the others. -/
theorem Hart.queue_modQueue_same (h : Hart) (q : Nat) (f : Queue → Queue) : (h.modQueue q f).queue q = f (h.queue q) :=
  Tbl.get_mod_same ..

theorem Hart.queue_modQueue_ne (h : Hart) {q j : Nat} (f : Queue → Queue) (hj : j ≠ q) : (h.modQueue q f).queue j = h.queue j :=
  Tbl.get_mod_ne _ f hj

/-- Two queues popped, and their claims ended after the last step: their entries (R301, R306). -/
theorem Hart.popped_entries {h : Hart} {i j : Nat} (hij : i ≠ j) (last : Bool) :
    let p := (h.modQueue i Queue.pop).modQueue j Queue.pop
    let u := if last then (p.modQueue i fun q => { q with claim := false }).modQueue j fun q => { q with claim := false } else p
    (u.queue i).entries = (h.queue i).entries.drop 1 ∧ (u.queue j).entries = (h.queue j).entries.drop 1 ∧ u.opas = h.opas ∧
      u.grid = h.grid := by
  cases last <;>
    simp [Hart.queue_modQueue_same, Hart.queue_modQueue_ne _ _ hij, Hart.queue_modQueue_ne _ _ hij.symm, Queue.pop]

/-- The rows of a long operation that lie elsewhere do not hold a half up (R130). -/
theorem Hart.longOn_halfRows {h : Hart} {m : Nat} (hl : ∀ l, h.long = some l → ∀ n ∈ l.touches, n / 64 ≠ m) :
    h.longOn (halfRows m) = false := by
  unfold Hart.longOn
  split
  · next l hlong =>
    rw [List.any_eq_false]
    intro n hn hmem
    obtain ⟨i, hi, hrow⟩ := List.mem_map.1 (List.contains_iff_mem.1 hmem)
    have := List.mem_range.1 hi
    exact hl l hlong n hn (by omega)
  · rfl

/-- The hart after a step of an OPA: its tile and flags, the OPA a step on, both queues popped (R303, R306). -/
def Hart.opaStepped (h : Hart) (o next : OpaRun) (g : Grid) (flags : BitVec 6) (last : Bool) : Hart :=
  let p := (({ h with grid := g, opas := h.opas.map fun x => if x == o then next else x } : Hart).modQueue o.qa Queue.pop).modQueue
    o.qb Queue.pop
  (if last then (p.modQueue o.qa fun q => { q with claim := false }).modQueue o.qb fun q => { q with claim := false }
    else p).modCtl fun c => c.orFlags flags

/-- One step of an OPA on formats without scales is a change of its hart, and of the format-error count (R79, R303). -/
theorem State.opaRunStep_eq {s : State} {k : Nat} {o : OpaRun} {float : Bool} {r : Nat} (ea eb : QWord)
    (hstep : o.step < o.steps) (hkind : opaKind o.fa o.fb = some (float, r)) (ha : fmtScaled o.fa = false)
    (hb : fmtScaled o.fb = false) :
    ∃ errs g flags last, s.opaRunStep k o float r ea eb =
        (s.formatErrors k errs).modHart k (·.opaStepped o { o with step := o.step + 1, heldA := [], heldB := [] } g flags last) ∧
      ∀ n, n < 64 * o.half ∨ 64 * o.half + tshpM o.tshp ≤ n → g.rows.get n = (s.hart k).grid.rows.get n := by
  let ks := (List.range (min r (tshpK o.tshp - r * o.step))).map (r * o.step + ·)
  have hks : ks ≠ [] := by
    have := OpaRun.positions_pos hkind hstep
    simp only [ks, ne_eq, List.map_eq_nil_iff, List.range_eq_nil]
    omega
  have hheld : ((ks.map fun _ => (([], []) : List Nat × List Nat)).getLast?).getD (o.heldA, o.heldB) = ([], []) := by
    rw [List.getLast?_map, List.getLast?_eq_some_getLast hks]
    rfl
  have hhart : ∀ n, (s.formatErrors k n).hart k = s.hart k := fun n => State.hart_modCore_same ..
  unfold State.opaRunStep
  dsimp only
  rw [State.takeScales_unscaled ha hb]
  dsimp only
  rw [show ((ks.map fun _ => (([], []) : List Nat × List Nat)).getLast?).getD (o.heldA, o.heldB) = ([], []) from hheld]
  refine ⟨_, _, _, _, rfl, fun n hn => ?_⟩
  rw [hhart, opaTile_rows (by rwa [length_transposeVals])]

/-- One step of an OPA on formats without scales, its entries ready (R303, R306). -/
theorem State.opaRunStep_unscaled {s : State} {k : Nat} {o : OpaRun} {float : Bool} {r : Nat} (ea eb : QWord)
    (hopas : (s.hart k).opas = [o]) (hstep : o.step < o.steps) (hkind : opaKind o.fa o.fb = some (float, r))
    (ha : fmtScaled o.fa = false) (hb : fmtScaled o.fb = false) (hq : o.qa ≠ o.qb) :
    let t := s.opaRunStep k o float r ea eb
    (t.hart k).opas = [{ o with step := o.step + 1, heldA := [], heldB := [] }] ∧ t.mem = s.mem ∧ t.flights = s.flights ∧
      ((t.hart k).queue o.qa).entries = ((s.hart k).queue o.qa).entries.drop 1 ∧
      ((t.hart k).queue o.qb).entries = ((s.hart k).queue o.qb).entries.drop 1 ∧
      (∀ n, n < 64 * o.half ∨ 64 * o.half + tshpM o.tshp ≤ n → (t.hart k).grid.rows.get n = (s.hart k).grid.rows.get n) ∧
      ∀ j, j ≠ k → t.core j = s.core j := by
  obtain ⟨errs, g, flags, last, heq, hrows⟩ := State.opaRunStep_eq (s := s) (k := k) ea eb hstep hkind ha hb
  let next : OpaRun := { o with step := o.step + 1, heldA := [], heldB := [] }
  let h : Hart := { s.hart k with grid := g, opas := (s.hart k).opas.map fun x => if x == o then next else x }
  obtain ⟨hqa, hqb, hopas', hgrid⟩ := Hart.popped_entries (h := h) hq last
  have hhart : ((s.formatErrors k errs).modHart k (·.opaStepped o next g flags last)).hart k =
      (s.hart k).opaStepped o next g flags last := by
    rw [State.hart_modHart_same]
    exact congrArg (Hart.opaStepped · o next g flags last) (State.hart_modCore_same ..)
  intro t
  simp only [t, heq]
  refine ⟨?_, rfl, rfl, ?_, ?_, fun n hn => ?_, fun j hj => ?_⟩
  · rw [hhart]
    refine hopas'.trans ?_
    simp [h, hopas, next]
  · rw [hhart]
    exact hqa
  · rw [hhart]
    exact hqb
  · rw [hhart]
    exact (congrArg (fun x : Grid => x.rows.get n) hgrid).trans (hrows n hn)
  · exact (State.core_modHart_ne _ _ hj).trans (State.core_modCore_ne _ _ hj)

/-- The step of an OPA (R303, R306). -/
theorem opaStep_step {s : State} {core : Nat} {o : OpaRun} {float : Bool} {r : Nat} {ea eb : QWord} {ra rb : List QWord}
    (hcore : core < 1536) (hopas : (s.hart core).opas = [o]) (hstep : o.step < o.steps)
    (hkind : opaKind o.fa o.fb = some (float, r)) (ha : fmtScaled o.fa = false) (hb : fmtScaled o.fb = false) (hq : o.qa ≠ o.qb)
    (hlong : ∀ l, (s.hart core).long = some l → ∀ n ∈ l.touches, n / 64 ≠ o.half)
    (hea : ((s.hart core).queue o.qa).entries = ea :: ra) (heb : ((s.hart core).queue o.qb).entries = eb :: rb) :
    Happens (.opaStep core) s fun t =>
      (t.hart core).opas = [{ o with step := o.step + 1, heldA := [], heldB := [] }] ∧ t.mem = s.mem ∧ t.flights = s.flights ∧
      ((t.hart core).queue o.qa).entries = ra ∧ ((t.hart core).queue o.qb).entries = rb ∧
      (∀ n, n < 64 * o.half ∨ 64 * o.half + tshpM o.tshp ≤ n →
        (t.hart core).grid.rows.get n = (s.hart core).grid.rows.get n) ∧ ∀ j, j ≠ core → t.core j = s.core j := by
  refine ⟨s.opaRunStep core o float r ea eb, exec_onCore hcore rfl ?_, ?_⟩
  · simp [State.opaStep, hopas, hstep, Hart.longOn_halfRows hlong, hkind, hq, hea, heb]
  · have hrun := State.opaRunStep_unscaled (s := s) (k := core) ea eb hopas hstep hkind ha hb hq
    rw [hea, heb] at hrun
    exact hrun

/-- A bit of a half's bits (R134). -/
theorem getLsbD_halfBits {n m : Nat} (hn : n < 128) : (halfBits m).getLsbD n = decide (n / 64 = m) := by
  rw [halfBits, BitVec.getLsbD_ofNat, Nat.testBit_mul_two_pow, Nat.testBit_two_pow_sub_one, ← Bool.decide_and, ← Bool.decide_and,
    decide_eq_decide]
  omega

/-- The end of an OPA: its half's busy bits clear (R134, R306). -/
theorem opaComplete_step {s : State} {core : Nat} {o : OpaRun} (hcore : core < 1536) (hopas : (s.hart core).opas = [o])
    (hdone : o.steps ≤ o.step) :
    Happens (.opaComplete core o.half) s fun t => (t.hart core).opas = [] ∧
      (∀ n, n < 128 → (t.hart core).grid.busy.getLsbD n = ((s.hart core).grid.busy.getLsbD n && !decide (n / 64 = o.half))) ∧
      (t.hart core).grid.rows = (s.hart core).grid.rows := by
  refine ⟨s.modHart core fun h =>
      { h with opas := h.opas.filter (· != o), grid := { h.grid with busy := h.grid.busy &&& ~~~(halfBits o.half) } },
    exec_onCore hcore rfl (by simp [State.opaComplete, hopas, hdone]), ?_⟩
  beta_reduce
  rw [State.hart_modHart_same]
  refine ⟨by simp [hopas], fun n hn => ?_, rfl⟩
  rw [BitVec.getLsbD_and, BitVec.getLsbD_not, getLsbD_halfBits hn]
  simp [hn]

/-! ### The end of a long vector operation -/

theorem nodup_eraseDups (l : List Nat) : l.eraseDups.Nodup := by
  induction hl : l.length using Nat.strong_induction_on generalizing l with
  | _ n ih =>
    cases l with
    | nil => exact List.nodup_nil
    | cons a l =>
      rw [List.eraseDups_cons, List.nodup_cons, List.mem_eraseDups]
      refine ⟨by simp, ih _ ?_ _ rfl⟩
      have := List.length_filter_le (fun b => !b == a) l
      rw [List.length_cons] at hl
      omega

/-- The bits of some rows (R191). -/
theorem getLsbD_rowBits (rows : List Nat) {n : Nat} (hn : n < 128) : (rowBits rows).getLsbD n = decide (n ∈ rows) := by
  have hsum : (rows.eraseDups.map fun r => 2 ^ r).sum = ∑ r ∈ rows.eraseDups.toFinset, 2 ^ r :=
    (List.sum_toFinset _ (nodup_eraseDups rows)).symm
  have hbit : (∑ r ∈ rows.eraseDups.toFinset, 2 ^ r).testBit n = decide (n ∈ rows) := by
    rw [Bool.eq_iff_iff, ← Nat.mem_bitIndices, ← List.mem_toFinset, Finset.toFinset_bitIndices_sum_two_pow, List.mem_toFinset,
      List.mem_eraseDups, decide_eq_true_iff]
  rw [rowBits, BitVec.getLsbD_ofNat, hsum, hbit]
  simp [hn]

section
variable {s : State} {core : Nat} {l : LongOp} {p : VPlan} (hcore : core < 1536) (hlong : (s.hart core).long = some l)
  (hplan : l.instr.bind planOf = some p)
include hcore hlong hplan

/-- A long vector operation waits for the arrival groups that it reads (R135). -/
theorem longOperationComplete_waits (hneeds : l.needs ≠ []) : Claim.Does (.longOperationComplete core) s s := by
  have hrow : s.longRow core = s := by simp [State.longRow, hlong, hplan, hneeds]
  refine exec_onCore hcore rfl ?_
  exact List.foldlRecOn (motive := fun t => t = s) _ _ rfl fun t ht _ _ => by rw [ht, hrow]

/-- The last row of a long vector operation, and its end (R134, R176). -/
theorem longOperationComplete_ends (hneeds : l.needs = []) (hlast : l.cap.vl ≤ l.start + max 1 l.cap.vlmax) :
    Happens (.longOperationComplete core) s fun t => (t.hart core).long = none ∧ t.mem = s.mem ∧
      (t.hart core).grid.rows =
        (p.run l.cap l.src ((p.visits l.cap l.src l.start).filter (· < l.start + max 1 l.cap.vlmax)) (s.hart core).grid
          { seed := l.cap.seed }).1.rows ∧
      ∀ n ∈ l.rows, (t.hart core).grid.busy.getLsbD n = false := by
  let r := p.run l.cap l.src ((p.visits l.cap l.src l.start).filter (· < l.start + max 1 l.cap.vlmax)) (s.hart core).grid
    { seed := l.cap.seed }
  have hfirst : s.longRow core = s.modHart core fun h =>
      { h with grid := { r.1 with busy := r.1.busy &&& ~~~(rowBits l.rows) }, long := none }.modCtl fun w =>
        w.orFlags r.2.flags := by
    simp [State.longRow, hlong, hplan, hneeds, hlast, r]
  have hnone : ((s.longRow core).hart core).long = none := by rw [hfirst, State.hart_modHart_same]; rfl
  have hrest : (s.longRow core).longRow core = s.longRow core := by rw [State.longRow, hnone]
  have hall : s.finishLong core = s.longRow core := by
    rw [State.finishLong, show List.range 64 = 0 :: (List.range 63).map Nat.succ from List.range_succ_eq_map,
      List.foldl_cons]
    exact List.foldlRecOn (motive := fun t => t = s.longRow core) _ _ rfl fun t ht _ _ => by rw [ht, hrest]
  refine ⟨s.longRow core, exec_onCore hcore rfl hall, hnone, by rw [hfirst]; rfl, ?_, fun n hn => ?_⟩
  · rw [hfirst, State.hart_modHart_same]
    rfl
  · rw [hfirst, State.hart_modHart_same]
    show (r.1.busy &&& ~~~(rowBits l.rows)).getLsbD n = false
    by_cases hlt : n < 128
    · simp [getLsbD_rowBits _ hlt, hn]
    · exact BitVec.getLsbD_of_ge _ _ (by omega)

end


end Sys2Proof.Machine
end
section
/-! SUPPORT. The ends of waits (R131, R146, R242, R284, R297). For O56. -/

namespace Sys2Proof.Machine

section
variable {s : State} {core : Nat} (hcore : core < 1536)
include hcore

/-- The lighter's acknowledgement (R284). -/
theorem cpyxAck_step {k i : Nat} (hwait : (s.hart core).ewait = .cpyx k i) (hst : ((s.core k).copies.get i).st = .ended) :
    Happens (.cpyxAck core) s fun t =>
      t.hart core = { s.hart core with ewait := .cpyxDone ((s.core k).copies.get i).status } ∧ t.mem = s.mem := by
  refine ⟨s.modHart core fun h => { h with ewait := .cpyxDone ((s.core k).copies.get i).status },
    exec_onCore hcore rfl ?_, State.hart_modHart_same .., rfl⟩
  simp [State.cpyxAck, hwait, hst]

/-- A watched word reported (R297). -/
theorem waitaReport_step {l : Loc} {o : Nat} {w : Word} (hwait : (s.hart core).ewait = .watch l o w)
    (hrep : s.reports core l o w = true) : Claim.Does (.waitaReport core) s (s.scanWatches.turn core) := by
  have hreported : (s.scanWatches.hart core).ewait = .reported := by
    have hscan := State.core_of_map (s := s) (t := s.scanWatches) (g := fun k c => { c with
      hart := match c.hart.ewait with
        | .watch l o w => if s.reports k l o w then { c.hart with ewait := .reported } else c.hart
        | _ => c.hart
      queue := c.queue.map fun e => match e.watch with
        | some (l, o, w) => if s.reports k l o w then { e with watch := none } else e
        | none => e }) rfl (fun _ => rfl) core
    rw [State.hart, hscan]
    simp [show (s.core core).hart.ewait = _ from hwait, hrep]
  refine exec_onCore hcore rfl ?_
  simp [State.waitaReport, hreported]

/-- A blocked bundle of a kind issues again (R131, R146). -/
theorem wakeTurn_step {i : Instr} {p : Nat → Bool} (hexec : exec i s = .next (s.onCore core fun s => s.wakeTurn core p))
    (h : p (s.blockKind core) = true) : Claim.Does i s (s.turn core) :=
  exec_onCore hcore hexec (if_pos h)

/-- WFI ends (R242). -/
theorem wfiWake_step (h : (s.hart core).notices ≠ [] ∨ (s.core core).preempt = true ∨ (s.core core).evict = true ∨
    4096 ≤ (s.core core).waited) : Claim.DoesCore (.wfiWake core) s core fun c => { c with wfi := false } := by
  refine exec_onCore hcore rfl ?_
  have hwake : (!(s.core core).hart.notices.isEmpty || (s.core core).preempt || (s.core core).evict ||
      decide (4096 ≤ (s.core core).waited)) = true := by
    simpa [State.hart, or_assoc] using h
  show s.setCore core (if _ then _ else _) = _
  rw [if_pos hwake]
  rfl

end

end Sys2Proof.Machine
end

section
/-! SUPPORT. The stream unit: an entry fetched, arriving, written (R269, R270). For O56. -/

namespace Sys2Proof.Machine

/-! ### A fetch -/

/-- What a stream unit's fetch leaves alone: the memory, its core's hart, whether the core has one, and the choice in hand. -/
structure HartStands (s t : State) (k : Nat) : Prop where
  mem : t.mem = s.mem
  hart : t.hart k = s.hart k
  active : (t.core k).active = (s.core k).active
  pick : t.pick = s.pick

namespace HartStands

theorem refl (s : State) (k : Nat) : HartStands s s k := ⟨rfl, rfl, rfl, rfl⟩

theorem trans {s t u : State} {k : Nat} (h : HartStands s t k) (g : HartStands t u k) : HartStands s u k :=
  ⟨g.mem.trans h.mem, g.hart.trans h.hart, g.active.trans h.active, g.pick.trans h.pick⟩

theorem of_cores {s t : State} {k : Nat} (hmem : t.mem = s.mem) (hcores : t.cores = s.cores) (hpick : t.pick = s.pick) :
    HartStands s t k := by
  have hcore : t.core k = s.core k := by rw [State.core, hcores, State.core]
  exact ⟨hmem, congrArg Core.hart hcore, congrArg Core.active hcore, hpick⟩

theorem modCore (s : State) (k : Nat) {f : Core → Core} (hhart : ∀ c, (f c).hart = c.hart) (hact : ∀ c, (f c).active = c.active) :
    HartStands s (s.modCore k f) k :=
  ⟨rfl, (State.hart_modCore_same ..).trans (hhart _), (congrArg Core.active (State.core_modCore_same ..)).trans (hact _), rfl⟩

theorem present {s t : State} {k : Nat} (h : HartStands s t k) (area : Nat) (lvl : Level) :
    t.present k area lvl = s.present k area lvl := by
  have hhart : (t.core k).hart = (s.core k).hart := h.hart
  simp only [State.present, h.active, hhart]

end HartStands

theorem State.recordFill_stands (s : State) (f : TdRec) (k : Nat) : HartStands s (s.recordFill f) k := by
  unfold State.recordFill
  dsimp only
  split
  · split <;> exact .of_cores rfl rfl rfl
  · exact .of_cores rfl rfl rfl

theorem State.sendFill_stands (s : State) (e : RcEnt) (d k : Nat) : HartStands s (s.sendFill e d) k := by
  unfold State.sendFill
  dsimp only
  split
  · exact .of_cores rfl rfl rfl
  · exact State.recordFill_stands ..

/-- The entries that an access has used go to the core's range cache (R23). -/
theorem State.useEntries_stands (s : State) (k : Nat) (es : List RcEnt) : HartStands s (s.useEntries k es) k := by
  refine List.foldlRecOn (motive := fun t => HartStands s t k) _ _ (.refl s k) fun t ht e _ => ht.trans ?_
  have hcache := HartStands.modCore t k (f := fun c => { c with cache := cacheUse 32 c.cache e }) (fun _ => rfl) fun _ => rfl
  unfold State.useEntry
  dsimp only
  split
  · exact hcache
  · exact hcache.trans (State.sendFill_stands ..)

/-- Reads change no state; the access keeps its core, area and level. -/
theorem State.performList_read {f : Flight} (ps : List Piece) (h : f.act = .read) (s : State) :
    ∃ g, s.performList f ps = (g, s) ∧ g.core = f.core ∧ g.area = f.area ∧ g.lvl = f.lvl := by
  induction ps generalizing f with
  | nil => exact ⟨f, rfl, rfl, rfl, rfl⟩
  | cons p ps ih =>
    obtain ⟨g, hg, hgact, hcore, harea, hlvl⟩ : ∃ g, s.performPiece f p = (g, s) ∧ g.act = .read ∧ g.core = f.core ∧
        g.area = f.area ∧ g.lvl = f.lvl := by
      unfold State.performPiece
      simp only [h]
      split
      · exact ⟨_, rfl, rfl, rfl, rfl, rfl⟩
      · exact ⟨_, rfl, rfl, rfl, rfl, rfl⟩
    obtain ⟨u, hu, hucore, huarea, hulvl⟩ := ih hgact
    exact ⟨u, by rw [State.performList, hg]; exact hu, hucore.trans hcore, huarea.trans harea, hulvl.trans hlvl⟩

/-- A report of a context that stands on its core leaves the memory alone (R28, R69). -/
theorem State.report_mem {s : State} {f : Flight} (h : s.present f.core f.area f.lvl = true) : (s.report f).mem = s.mem := by
  unfold State.report
  split
  · rfl
  · next e _ =>
    have hlog : ∀ (c : Core) x, (c.log x).hart = c.hart ∧ (c.log x).active = c.active := fun c x => by
      unfold Core.log
      split <;> exact ⟨rfl, rfl⟩
    have hpresent := (HartStands.modCore s f.core (f := fun c =>
      c.log (logEntry s f.core e.addr e.cause f.slot f.space f.kind f.owner f.pc)) (fun c => (hlog c _).1)
      fun c => (hlog c _).2).present f.area f.lvl
    dsimp only
    rw [State.homeOf, if_pos (hpresent.trans h)]
    rfl

/-- A stream unit's access performs whole, but for a scratchpad's where the fabric breaks it up (R45). -/
theorem State.performLines_read {f : Flight} (h : f.act = .read) {s : State} (hpick : s.pick = none ∨ (f.space ≠ 1 ∧ f.space ≠ 2)) :
    ∃ g, s.performLines f = (g, s) ∧ g.pieces = [] ∧ g.core = f.core ∧ g.area = f.area ∧ g.lvl = f.lvl := by
  have hwhole : (s.pick.isSome && (f.space == 1 || f.space == 2)) = false := by
    obtain hpick | ⟨h1, h2⟩ := hpick
    · rw [hpick]
      rfl
    · simp [h1, h2]
  obtain ⟨g, hg, hcore, harea, hlvl⟩ := State.performList_read (f := { f with pieces := [] }) f.pieces h s
  refine ⟨{ g with pieces := [] }, ?_, rfl, hcore, harea, hlvl⟩
  unfold State.performLines
  simp only [hwhole, Bool.false_eq_true, if_false, hg]

/-- The queue with its format settled for the strip that is fetched next (R90). -/
def State.settledQueue (s : State) (w : Who) (q : Queue) (f : Nat) : Queue :=
  let g := tensorGeom q.rcd (s.rangeFor w (recSpace q.rcd) (recBase q.rcd))
  { q with fmt := some f, blen := g.1, bdim := g.2 }

/-- The blocks that a fetch reads: its strip's, and those of the scales of a window that begins (R85, R269). -/
def State.fetchReqs (s : State) (w : Who) (q : Queue) (f : Nat) (es : List (Option TElem)) : List Req :=
  (es.filterMap id).flatMap (·.reqs f) ++ (s.nextScales w (s.settledQueue w q f) f).flatMap (·.reqs f)

section
variable {s : State} {w : Who} {q : Queue} {f : Nat} {x : Xls} {es : List (Option TElem)}
  (hexamine : s.examine w q false (q.win, q.pos) (s.fetchReqs w q) = .ready f x es)
  (hstep : s.inStep w.core x.pieces = true) (hfence : s.behindFence w clsQR x.pieces = false)
  (hstrict : s.strictError (streamFlight w q .read clsQR x) = none) (hport : s.portTaken (streamFlight w q .read clsQR x) = false)
  (hpart : q.part = none) (hpick : s.pick = none ∨ (recSpace q.rcd ≠ 1 ∧ recSpace q.rcd ≠ 2))
  (hpresent : s.present w.core w.area w.lvl = true)
include hexamine hstep hfence hstrict hport hpart hpick hpresent

/-- A fetch that nothing holds up: the queue with its next entry (R269). -/
theorem State.fetchEntry_ready (late : Bool) :
    ∃ r t e, s.fetchEntry w q late = some (r, t) ∧ t.mem = s.mem ∧ r.fmt = some f ∧ r.rcd = q.rcd ∧
      (r.win, r.pos) = nextPlace q.rcd f (q.win, q.pos) ∧
      r.scales.length = q.scales.length + (s.nextScales w (s.settledQueue w q f) f).length ∧ e.win = q.win ∧ e.pos = q.pos ∧
      (late = false → r.entries = q.entries ++ [e] ∧ r.inbound = q.inbound) ∧
      (late = true → r.inbound = q.inbound ++ [e] ∧ r.entries = q.entries) := by
  have huse := s.useEntries_stands w.core x.used
  obtain ⟨g, hg, hpieces, hcore, harea, hlvl⟩ := State.performLines_read (f := streamFlight w q .read clsQR x) rfl
    (s := s.useEntries w.core x.used) (by rw [huse.pick]; exact hpick)
  have hreport : ((s.useEntries w.core x.used).report g).mem = s.mem := by
    rw [State.report_mem, huse.mem]
    rw [hcore, harea, hlvl]
    exact (huse.present ..).trans hpresent
  unfold State.fetchEntry
  dsimp only
  split
  · next h => cases hexamine.symm.trans h
  · next h => cases hexamine.symm.trans h
  · next h =>
    cases hexamine.symm.trans h
    simp only [hpart, Option.getD_none, hstep, hfence, hport, Bool.not_true, Bool.or_self, Bool.false_eq_true, if_false,
      Option.isNone_none, if_true, hstrict, hg, hpieces, List.isEmpty_nil]
    have hsettled : ({ s.settledQueue w q f with part := none } : Queue) = s.settledQueue w q f := by
      rw [← hpart]
      rfl
    rw [← hsettled]
    refine ⟨_, _, ({ win := q.win, pos := q.pos, data := stripData q f es g.got } : QWord), rfl, hreport, ?_⟩
    cases late <;> simp [State.settledQueue]

end

/-- A context that runs outside a saving handler stands on its core. -/
theorem State.present_streamWho {s : State} {core : Nat} (hact : (s.core core).active = true)
    (hsaved : (s.hart core).handler = true → (s.hart core).saved = false) :
    s.present (s.streamWho core).core (s.streamWho core).area (s.streamWho core).lvl = true := by
  have hhandler : ((s.core core).hart.handler && (s.core core).hart.saved) = false := by
    cases hh : (s.core core).hart.handler with
    | false => rfl
    | true => exact hsaved hh
  simp [State.present, State.streamWho, State.who, State.hart, hact, hhandler]

section
variable {s : State} {core q : Nat} (hcore : core < 1536)
include hcore

section
variable (hbind : ((s.hart core).queue q).bind = 1) (hfault : ((s.hart core).queue q).fault = none)
  (hwalk : walkDone ((s.hart core).queue q).rcd ((s.hart core).queue q).win = false)
  (hroom : ((s.hart core).queue q).entries.length + ((s.hart core).queue q).inbound.length < 16)
  (hpartner : ((s.hart core).queue q).partner = none) (hsaved : (s.hart core).handler = true → (s.hart core).saved = false)
  (hact : (s.core core).active = true) (hleft : (s.core core).left = [])
include hbind hfault hwalk hroom hpartner hsaved hact hleft

/-- The stream unit's prefetch where nothing holds it up (R269, R123). -/
theorem streamPrefetch_of_fetch {r : Queue} {t : State} {P : State → Prop}
    (hfetch : s.fetchEntry (s.streamWho core) ((s.hart core).queue q) s.delay = some (r, t))
    (hP : P (t.modHart core fun h => h.modQueue q fun _ => r)) : Happens (.streamPrefetch core q) s P := by
  have hfetches : s.fetches ((s.hart core).queue q) = true := by
    simp [State.fetches, State.ringReady, State.partnerEnd, hbind, hfault, hwalk, hroom, hpartner]
  have hhandler : ((s.hart core).handler && (s.hart core).saved) = false := by
    cases hh : (s.hart core).handler with
    | false => rfl
    | true => exact hsaved hh
  refine ⟨_, exec_onCore hcore rfl ?_, hP⟩
  simp [State.prefetch, hfetches, hhandler, hact, State.leftFirst, hleft, hfetch]

end

/-- A prefetched entry arrives (R269). -/
theorem streamEntryArrival_step {e : QWord} {rest : List QWord} (hin : ((s.hart core).queue q).inbound = e :: rest) :
    Happens (.streamEntryArrival core q) s fun t =>
      (t.hart core).queue q = { (s.hart core).queue q with entries := ((s.hart core).queue q).entries ++ [e], inbound := rest } ∧
      t.mem = s.mem ∧ ∀ j, j ≠ q → (t.hart core).queue j = (s.hart core).queue j := by
  refine ⟨_, exec_onCore hcore rfl (f := fun s => s.entryArrives core q) rfl, ?_, rfl, fun j hj => ?_⟩
  · rw [State.entryArrives, State.hart_modHart_same, Hart.queue_modQueue_same, hin]
  · rw [State.entryArrives, State.hart_modHart_same, Hart.queue_modQueue_ne _ _ hj]

section
variable {e : QWord} {rest : List QWord} {u : State} (hleft : (s.core core).left = [])
  (hbind : ((s.hart core).queue q).bind = 2) (hentries : ((s.hart core).queue q).entries = e :: rest)
  (hqueue : (u.hart core).queue q = (s.hart core).queue q)
include hleft hbind hentries hqueue

/-- The oldest pushed entry of a queue written, whole or by a line (R45, R270). -/
theorem streamEntryWrite_of_lines {g : Flight}
    (hlines : s.writeLines (s.streamWho core) ((s.hart core).queue q) e = some (g, u)) :
    Happens (.streamEntryWrite core q) s fun t =>
      (t.hart core).queue q = (if g.pieces.isEmpty then { (s.hart core).queue q with entries := rest, part := none }
        else { (s.hart core).queue q with part := some g }) ∧ t.mem = u.mem := by
  refine ⟨u.modHart core fun h => h.modQueue q fun b =>
    if g.pieces.isEmpty then { b with entries := rest, part := none } else { b with part := some g },
    exec_onCore hcore rfl ?_, ?_, rfl⟩
  · simp [State.writeEntry, hleft, hbind, hentries, hlines]
  · rw [State.hart_modHart_same, Hart.queue_modQueue_same, hqueue]

/-- A pushed entry written whole (R270). -/
theorem streamEntryWrite_whole (hword : s.writeWord (s.streamWho core) ((s.hart core).queue q) e = some u) :
    Happens (.streamEntryWrite core q) s fun t =>
      (t.hart core).queue q = { (s.hart core).queue q with entries := rest, part := none } ∧ t.mem = u.mem := by
  unfold State.writeWord at hword
  split at hword
  · next g t hlines =>
    split at hword
    · next hempty =>
      cases hword
      have hwrite := streamEntryWrite_of_lines hcore hleft hbind hentries hqueue hlines
      rwa [if_pos hempty] at hwrite
    · cases hword
  · cases hword

/-- A line of a pushed entry written (R45). -/
theorem streamEntryWrite_line {g : Flight}
    (hlines : s.writeLines (s.streamWho core) ((s.hart core).queue q) e = some (g, u)) (hpieces : g.pieces ≠ []) :
    Happens (.streamEntryWrite core q) s fun t =>
      (t.hart core).queue q = { (s.hart core).queue q with part := some g } ∧ t.mem = u.mem := by
  have hwrite := streamEntryWrite_of_lines hcore hleft hbind hentries hqueue hlines
  rwa [if_neg (by simpa using hpieces)] at hwrite

end

end

end Sys2Proof.Machine
end
section
/-! SUPPORT. The lighters: a copy's start and its end (R278, R281, R284). For O56. -/

namespace Sys2Proof.Machine

@[simp] theorem State.copies_modCopy (s : State) (core slot : Nat) (f : Copy → Copy) :
    ((s.modCopy core slot f).core core).copies.get slot = f ((s.core core).copies.get slot) := by
  rw [State.modCopy, State.core_modCore_same]
  exact Tbl.get_mod_same ..

/-- A lighter takes the next copy, and finds nothing wrong (R278). -/
theorem copyStart_step {s u : State} {core slot : Nat} {y : Copy} {src dst : List Word} {f g : Nat} (hcore : core < 1536)
    (hidle : s.copiesOf (core / 96) .running = [])
    (hfirst : firstCopy ((s.copiesOf (core / 96) .waiting).filter fun x =>
      !x.2.2.stopping && decide (x.2.2.notBefore ≤ (s.die (core / 96)).atime.toNat)) = some (core, slot, y))
    (hopen : s.openCopy core { y with lighter := 0 } = .ok src dst f g u) :
    Happens (.copyStart (core / 96)) s fun t => (t.core core).copies.get slot =
      { y with lighter := 0, st := .running, src := src, dst := dst, sfmt := f, dfmt := g } ∧ t.mem = u.mem := by
  refine ⟨u.modCopy core slot fun _ =>
      { y with lighter := 0, st := .running, src := src, dst := dst, sfmt := f, dfmt := g },
    exec_onDie (by omega) rfl ?_, State.copies_modCopy .., rfl⟩
  have hlighter : (List.range 3).find? (fun l => !(([] : List Nat).contains l)) = some 0 := rfl
  simp only [State.copyStart, hidle, List.map_nil, hlighter, hfirst, hopen]

/-- What the end of a copy leaves (R281, R282). -/
theorem State.finishCopy_some {s u : State} {core slot : Nat} {y : Copy} {code : Nat} {sat : Bool} {n : Nat}
    (h : s.finishCopy core slot y code sat n = some u) :
    ((u.core core).copies.get slot).st = .ended ∧ ((u.core core).copies.get slot).code = code ∧
      ((u.core core).copies.get slot).written = n := by
  obtain ⟨t, -, rfl⟩ := Option.map_eq_some_iff.1 h
  rw [State.copies_modCopy]
  exact ⟨rfl, rfl, rfl⟩

section
variable {s : State} {core slot : Nat} (hcore : core < 1536)
include hcore

/-- A waiting copy that is stopped ends (R284). -/
theorem copyEnd_waiting (hst : ((s.core core).copies.get slot).st = .waiting)
    (hstop : ((s.core core).copies.get slot).stopping = true)
    (hfinish : s.finishCopy core slot ((s.core core).copies.get slot) 0x0A false 0 ≠ none) :
    Happens (.copyEnd core slot) s fun t => ((t.core core).copies.get slot).st = .ended ∧
      ((t.core core).copies.get slot).code = 0x0A := by
  obtain ⟨u, hu⟩ := Option.ne_none_iff_exists'.1 hfinish
  obtain ⟨hended, hcode, -⟩ := State.finishCopy_some hu
  exact ⟨u, exec_onCore hcore rfl (by simp [State.copyEnd, hst, hstop, hu]), hended, hcode⟩

/-- A copy that runs moves its elements and ends (R280, R281). -/
theorem copyEnd_running {u : State} {r : CopyRun} {code : Nat} (hst : ((s.core core).copies.get slot).st = .running)
    (hcode : ((s.core core).copies.get slot).code = 0)
    (hr : s.moveCopy core ((s.core core).copies.get slot)
      (if ((s.core core).copies.get slot).stopping then some (s.pick.getD 0) else none) = r)
    (hc : r.stop.getD (if ((s.core core).copies.get slot).stopping then 0x0A else if r.failed then 0x02 else 0x01) = code)
    (hwait : r.wait = false)
    (hfinish : ((r.s.formatErrors core r.f.fmtErrs).sendCopied core ((s.core core).copies.get slot) r.whole).finishCopy core slot
      ((s.core core).copies.get slot) code r.sat r.n = some u) :
    Happens (.copyEnd core slot) s fun t => t.mem = u.mem ∧ ((t.core core).copies.get slot).st = .ended ∧
      ((t.core core).copies.get slot).code = code ∧ ((t.core core).copies.get slot).written = r.n := by
  subst hc
  refine ⟨u, exec_onCore hcore rfl ?_, rfl, State.finishCopy_some hfinish⟩
  unfold State.copyEnd
  simp only [hst, hcode, ne_eq, not_true_eq_false, if_false, hr, hwait, Bool.false_eq_true, hfinish, Option.getD_some]

end

end Sys2Proof.Machine
end
section
/-! SUPPORT. The steps of long operations, streams and copies, and the ends of waits, put together. Settles O56. -/

namespace Sys2Proof.Machine

/-- Settles O56: one lemma for each step. -/
theorem operationSteps : Obligations.OperationSteps := by
  unfold Obligations.OperationSteps
  intro s core q c h b hcore
  refine ⟨?opaStep, ?opaEnd, ?long, ?prefetch, ?arrival, ?write, ?line, ?copyStart, ?copyStopped, ?copyMoved, ?cpyx, ?waita,
    ⟨?twait, ?gbar, ?blockEnd⟩, ?wfi⟩
  case opaStep =>
    exact fun o float r ea ra eb rb hopas hstep hkind ha hb hq hlong hea heb =>
      opaStep_step hcore hopas hstep hkind ha hb hq hlong hea heb
  case opaEnd => exact fun o hopas hdone _ => opaComplete_step hcore hopas hdone
  case long =>
    exact fun l p hlong hplan => ⟨longOperationComplete_waits hcore hlong hplan, longOperationComplete_ends hcore hlong hplan⟩
  case prefetch =>
    intro hbind hfault hwalk hroom hpartner hsaved hact hleft hpart hpick w settle f x es hexamine hstep hfence hstrict hport
    obtain ⟨r, t, e, hfetch, hmem, hfmt, hrcd, hplace, hscales, hwin, hpos, hnow, hlate⟩ :=
      State.fetchEntry_ready hexamine hstep hfence hstrict hport hpart hpick (State.present_streamWho hact hsaved) s.delay
    refine streamPrefetch_of_fetch hcore hbind hfault hwalk hroom hpartner hsaved hact hleft hfetch ?_
    rw [State.hart_modHart_same, Hart.queue_modQueue_same]
    exact ⟨hmem, hfmt, hrcd, hplace, hscales, e, hwin, hpos, hnow, hlate⟩
  case arrival => exact fun e rest hin => streamEntryArrival_step hcore hin
  case write =>
    exact fun e rest u hleft hbind hentries hword hqueue => streamEntryWrite_whole hcore hleft hbind hentries hqueue hword
  case line =>
    exact fun e rest g u hleft hbind hentries hlines hpieces hqueue =>
      streamEntryWrite_line hcore hleft hbind hentries hqueue hlines hpieces
  case copyStart =>
    rintro d slot y src dst f g u rfl hidle hfirst hopen
    exact copyStart_step hcore hidle hfirst hopen
  case copyStopped => exact fun slot hst hstop hfinish => copyEnd_waiting hcore hst hstop hfinish
  case copyMoved =>
    intro slot u y r code hst hcode hwait hfinish
    exact copyEnd_running hcore hst hcode rfl rfl hwait hfinish
  case cpyx => exact fun k i hwait hst => cpyxAck_step hcore hwait hst
  case waita => exact fun l o w hwait hrep => waitaReport_step hcore hwait hrep
  case twait => exact fun hkind => wakeTurn_step hcore rfl (by simp [hkind])
  case gbar => exact fun hkind => wakeTurn_step hcore rfl (by simp [hkind])
  case blockEnd => exact fun hkind => wakeTurn_step hcore rfl (by simpa using hkind)
  case wfi => exact wfiWake_step hcore

end Sys2Proof.Machine
end

section
/-! SUPPORT. Fields of grid rows (R132, R191): what writing some of them does to every bit of the grid. For O18. -/

namespace Sys2Proof.Machine

/-- A field put into a row, bit by bit. -/
theorem getLsbD_putBits (v : BitVec 2048) {lo w : Nat} (x b : Nat) (hfit : lo + w ≤ 2048) :
    (putBits v lo w x).getLsbD b = if lo ≤ b ∧ b < lo + w then x.testBit (b - lo) else v.getLsbD b := by
  simp only [putBits, BitVec.getLsbD_or, BitVec.getLsbD_and, BitVec.getLsbD_not, BitVec.getLsbD_ofNat,
    Nat.testBit_mul_two_pow, Nat.testBit_mod_two_pow, Nat.testBit_two_pow_sub_one]
  by_cases hlo : lo ≤ b
  · by_cases hhi : b < lo + w
    · have hb : b < 2048 := by omega
      have hw : b - lo < w := by omega
      simp [hlo, hhi, hb, hw]
    · have hw : ¬b - lo < w := by omega
      simp only [hlo, hhi, hw, decide_true, decide_false, Bool.false_and, Bool.and_false, Bool.not_false, Bool.or_false,
        and_false, if_false, Bool.and_true]
      by_cases hb : b < 2048
      · simp [hb]
      · simp [BitVec.getLsbD_of_ge v b (by omega)]
  · simp only [hlo, decide_false, Bool.false_and, Bool.and_false, Bool.not_false, Bool.or_false, false_and, if_false,
      Bool.and_true]
    by_cases hb : b < 2048
    · simp [hb]
    · simp [BitVec.getLsbD_of_ge v b (by omega)]

/-- A field whose bits are those of a number is that number. -/
theorem field_eq_of_bits {v : BitVec 2048} {lo w x : Nat} (hx : x < 2 ^ w)
    (h : ∀ b, b < w → v.getLsbD (lo + b) = x.testBit b) : v.toNat / 2 ^ lo % 2 ^ w = x := by
  refine Nat.eq_of_testBit_eq fun b => ?_
  rw [Nat.testBit_mod_two_pow, Nat.testBit_div_two_pow, Nat.add_comm b lo, BitVec.testBit_toNat]
  by_cases hb : b < w
  · simp [hb, h b hb]
  · simp [hb, Nat.testBit_lt_two_pow (lt_of_lt_of_le hx (Nat.pow_le_pow_right two_pos (Nat.le_of_not_lt hb)))]

/-- The field of a write holds a bit of a row. -/
def RowWrite.Covers (x : RowWrite) (n b : Nat) : Prop := n = x.1 ∧ x.2.1 ≤ b ∧ b < x.2.1 + x.2.2.1

/-- The field of a write lies in a row. -/
def RowWrite.Fits (x : RowWrite) : Prop := x.1 < 128 ∧ x.2.1 + x.2.2.1 ≤ 2048

theorem Grid.rows_writeBits (g : Grid) (x : RowWrite) (n : Nat) : (g.writeBits x).rows.get n =
    if n = x.1 then putBits (g.rows.get x.1) x.2.1 x.2.2.1 x.2.2.2 else g.rows.get n := by
  rw [Grid.writeBits, Grid.mend_rows, Grid.setRow]
  split
  · next h => rw [h, Tbl.get_put_same]
  · next h => exact Tbl.get_put_ne _ _ h

theorem Grid.bit_writeBits_covered (g : Grid) {x : RowWrite} {n b : Nat} (hfit : RowWrite.Fits x) (h : RowWrite.Covers x n b) :
    ((g.writeBits x).rows.get n).getLsbD b = x.2.2.2.testBit (b - x.2.1) := by
  rw [Grid.rows_writeBits, if_pos h.1, getLsbD_putBits _ _ _ hfit.2, if_pos h.2]

theorem Grid.bit_writeBits_other (g : Grid) {x : RowWrite} {n b : Nat} (hfit : RowWrite.Fits x) (h : ¬RowWrite.Covers x n b) :
    ((g.writeBits x).rows.get n).getLsbD b = (g.rows.get n).getLsbD b := by
  rw [Grid.rows_writeBits]
  split
  · next hn => rw [getLsbD_putBits _ _ _ hfit.2, if_neg fun hb => h ⟨hn, hb⟩, hn]
  · rfl

theorem Grid.dirty_writeBits (g : Grid) (x : RowWrite) (n : Nat) :
    (g.writeBits x).dirty.getLsbD n = true ↔ g.dirty.getLsbD n = true ∨ n < 128 ∧ n = x.1 := by
  show (g.dirty ||| (1#128 <<< x.1)).getLsbD n = true ↔ _
  simp only [BitVec.getLsbD_or, Bool.or_eq_true, BitVec.getLsbD_shiftLeft, BitVec.getLsbD_one, Bool.and_eq_true,
    decide_eq_true_iff, Bool.not_eq_true', decide_eq_false_iff_not]
  exact or_congr_right (by omega)

@[simp] theorem Grid.writeAll_masks (g : Grid) (xs : List RowWrite) : (g.writeAll xs).masks = g.masks :=
  List.foldlRecOn (motive := fun k : Grid => k.masks = g.masks) xs _ rfl fun _ h _ _ => h
@[simp] theorem Grid.writeAll_missing (g : Grid) (xs : List RowWrite) : (g.writeAll xs).missing = g.missing :=
  List.foldlRecOn (motive := fun k : Grid => k.missing = g.missing) xs _ rfl fun _ h _ _ => h
@[simp] theorem Grid.writeAll_busy (g : Grid) (xs : List RowWrite) : (g.writeAll xs).busy = g.busy :=
  List.foldlRecOn (motive := fun k : Grid => k.busy = g.busy) xs _ rfl fun _ h _ _ => h

/-- A row becomes dirty where a write names it, and no row becomes clean (R191). -/
theorem Grid.dirty_writeAll (xs : List RowWrite) (g : Grid) (n : Nat) :
    (g.writeAll xs).dirty.getLsbD n = true ↔ g.dirty.getLsbD n = true ∨ n < 128 ∧ ∃ x ∈ xs, n = x.1 := by
  induction xs generalizing g with
  | nil => simp [Grid.writeAll]
  | cons x xs ih =>
    show ((g.writeBits x).writeAll xs).dirty.getLsbD n = true ↔ _
    rw [ih, Grid.dirty_writeBits, List.exists_mem_cons_iff]
    tauto

/-- A bit in no field written is as it was. -/
theorem Grid.bit_writeAll_other {xs : List RowWrite} {n b : Nat} (hfit : ∀ x ∈ xs, RowWrite.Fits x)
    (h : ∀ x ∈ xs, ¬RowWrite.Covers x n b) (g : Grid) : ((g.writeAll xs).rows.get n).getLsbD b = (g.rows.get n).getLsbD b :=
  List.foldlRecOn (motive := fun k : Grid => (k.rows.get n).getLsbD b = (g.rows.get n).getLsbD b) xs _ rfl
    fun k hk x hx => (k.bit_writeBits_other (hfit x hx) (h x hx)).trans hk

/-- Of fields that do not overlap each holds its own bits. -/
theorem Grid.bit_writeAll_covered {xs : List RowWrite} (hfit : ∀ x ∈ xs, RowWrite.Fits x)
    (hdis : xs.Pairwise fun x y => ∀ n b, RowWrite.Covers x n b → ¬RowWrite.Covers y n b) (g : Grid) {x : RowWrite}
    (hx : x ∈ xs) {n b : Nat}
    (h : RowWrite.Covers x n b) : ((g.writeAll xs).rows.get n).getLsbD b = x.2.2.2.testBit (b - x.2.1) := by
  induction xs generalizing g with
  | nil => simp at hx
  | cons y ys ih =>
    obtain ⟨hy, hys⟩ := List.pairwise_cons.1 hdis
    have hfits : ∀ z ∈ ys, RowWrite.Fits z := fun z hz => hfit z (List.mem_cons_of_mem _ hz)
    rcases List.mem_cons.1 hx with rfl | hx
    · exact (Grid.bit_writeAll_other hfits (fun z hz => hy z hz n b h) _).trans
        (g.bit_writeBits_covered (hfit x List.mem_cons_self) h)
    · exact ih hfits hys (g.writeBits y) hx

/-- Of fields that do not overlap each holds its value. -/
theorem Grid.field_writeAll {xs : List RowWrite} (hfit : ∀ x ∈ xs, RowWrite.Fits x)
    (hdis : xs.Pairwise fun x y => ∀ n b, RowWrite.Covers x n b → ¬RowWrite.Covers y n b) (g : Grid) {x : RowWrite}
    (hx : x ∈ xs) (hval : x.2.2.2 < 2 ^ x.2.2.1) :
    ((g.writeAll xs).rows.get x.1).toNat / 2 ^ x.2.1 % 2 ^ x.2.2.1 = x.2.2.2 := by
  refine field_eq_of_bits hval fun b hb => ?_
  rw [Grid.bit_writeAll_covered hfit hdis g hx ⟨rfl, by omega, by omega⟩, Nat.add_sub_cancel_left]

end Sys2Proof.Machine
end

section
/-! SUPPORT. The elements of a vector operand (R132, R138): where they lie, and that no two of them share a bit. For O18. -/

namespace Sys2Proof.Machine

/-- The gate of an operation on legal operands leaves room for every element: at least one to a row, and no more than a row
holds (R136, R137). -/
theorem row_bounds {h : Hart} (hs : Claim.Shape h) :
    2 ^ (h.ctl.vtype.toNat % 8 + 1) ≤ h.sup.vlcap.toNat ∧ h.sup.vlcap.toNat ≤ 2048 := by
  obtain ⟨hsew, hcap, -⟩ := hs
  have hw : 2 ^ (h.ctl.vtype.toNat % 8 + 1) ≤ 2 ^ 5 := Nat.pow_le_pow_right two_pos (by omega)
  simp only [List.mem_cons, List.not_mem_nil, or_false] at hcap
  omega

/-- A legal row operand ends with the grid (R138). -/
theorem group_fits (vt : BitVec 5) (r : GReg) (hl : r.toNat % 2 ^ (vt.toNat / 8) = 0) : r.toNat + 2 ^ (vt.toNat / 8) ≤ 128 := by
  have hr : r.toNat < 128 := r.isLt
  have hg : vt.toNat / 8 < 4 := by have := vt.isLt; omega
  generalize r.toNat = n at *
  generalize vt.toNat / 8 = k at *
  interval_cases k <;> omega

section
variable {h : Hart} {v : View} {r : GReg} {i : Nat} (hs : Claim.Shape h) (hl : Claim.Legal h v r) (hi : i < h.ctl.vl)
include hs hl hi

omit hl in
/-- The index of an element in its row, and the row's in its group (R132). -/
theorem row_index : 0 < h.sup.vlcap.toNat / 2 ^ (h.ctl.vtype.toNat % 8 + 1) ∧
    i / (h.sup.vlcap.toNat / 2 ^ (h.ctl.vtype.toNat % 8 + 1)) < 2 ^ (h.ctl.vtype.toNat / 8) := by
  have hper := Nat.div_pos (row_bounds hs).1 (Nat.two_pow_pos _)
  exact ⟨hper, (Nat.div_lt_iff_lt_mul hper).2 (lt_of_lt_of_le hi hs.2.2)⟩

/-- A column or a diagonal has at most 64 elements of 32 bits (R138). -/
theorem column_index (hv : v ≠ .row) : h.ctl.vtype.toNat = 4 ∧ i < 64 := by
  have hvt : h.ctl.vtype.toNat = 4 := by
    cases v with
    | row => exact absurd rfl hv
    | col => exact hl
    | diag => exact hl
  have hvl : h.ctl.vl ≤ 2 ^ (h.ctl.vtype.toNat / 8) * (h.sup.vlcap.toNat / 2 ^ (h.ctl.vtype.toNat % 8 + 1)) := hs.2.2
  have hcap := (row_bounds hs).2
  rw [hvt, show 2 ^ (4 / 8) * (h.sup.vlcap.toNat / 2 ^ (4 % 8 + 1)) = 1 * (h.sup.vlcap.toNat / 32) from rfl] at hvl
  exact ⟨hvt, by omega⟩

/-- The place of an element lies in the grid (R132). -/
theorem place_fits : (Claim.at h v r i).1 < 128 ∧ (Claim.at h v r i).2 + 2 ^ (h.ctl.vtype.toNat % 8 + 1) ≤ 2048 := by
  have hr : r.toNat < 128 := r.isLt
  cases v with
  | row =>
    obtain ⟨hper, hrow⟩ := row_index hs hi
    have hend := group_fits h.ctl.vtype r hl
    refine ⟨by simp only [Claim.at]; omega, ?_⟩
    calc 2 ^ (h.ctl.vtype.toNat % 8 + 1) * (i % _) + 2 ^ (h.ctl.vtype.toNat % 8 + 1)
      _ = 2 ^ (h.ctl.vtype.toNat % 8 + 1) * (i % _ + 1) := (Nat.mul_succ _ _).symm
      _ ≤ 2 ^ (h.ctl.vtype.toNat % 8 + 1) * (h.sup.vlcap.toNat / 2 ^ (h.ctl.vtype.toNat % 8 + 1)) :=
          Nat.mul_le_mul_left _ (Nat.mod_lt i hper)
      _ ≤ h.sup.vlcap.toNat := Nat.mul_div_le _ _
      _ ≤ 2048 := (row_bounds hs).2
  | col =>
    obtain ⟨hvt, hlt⟩ := column_index hs hl hi (by decide)
    rw [hvt, show 2 ^ (4 % 8 + 1) = 32 from rfl]
    simp only [Claim.at]
    omega
  | diag =>
    obtain ⟨hvt, hlt⟩ := column_index hs hl hi (by decide)
    rw [hvt, show 2 ^ (4 % 8 + 1) = 32 from rfl]
    simp only [Claim.at]
    omega

end

/-- Elements in one row do not overlap (R132). -/
theorem place_disjoint {h : Hart} {v : View} {r : GReg} {i j : Nat} (hij : i ≠ j)
    (hrow : (Claim.at h v r i).1 = (Claim.at h v r j).1) :
    (Claim.at h v r i).2 + 2 ^ (h.ctl.vtype.toNat % 8 + 1) ≤ (Claim.at h v r j).2 ∨
      (Claim.at h v r j).2 + 2 ^ (h.ctl.vtype.toNat % 8 + 1) ≤ (Claim.at h v r i).2 := by
  cases v with
  | row =>
    simp only [Claim.at] at hrow ⊢
    generalize h.sup.vlcap.toNat / 2 ^ (h.ctl.vtype.toNat % 8 + 1) = per at *
    have hmod : i % per ≠ j % per := fun hmod => hij (by
      rw [← Nat.div_add_mod i per, ← Nat.div_add_mod j per, hmod, show i / per = j / per by omega])
    rw [← Nat.mul_succ, ← Nat.mul_succ]
    exact (Nat.lt_or_gt_of_ne hmod).imp (Nat.mul_le_mul_left _) (Nat.mul_le_mul_left _)
  | col => simp only [Claim.at] at hrow; omega
  | diag => simp only [Claim.at] at hrow; omega

/-- The rows that the model names for an operand are the operand's (R138). -/
theorem mem_operandRows {h : Hart} {v : View} {r : GReg} {n : Nat} (hn : n ∈ operandRows v (groupOf h.ctl.vtype) r) :
    Claim.inRows h v r n := by
  cases v <;> obtain ⟨k, hk, rfl⟩ := List.mem_map.1 hn <;> have hk := List.mem_range.1 hk
  · exact ⟨Nat.le_add_right _ _, Nat.add_lt_add_left hk _⟩
  · exact ⟨Nat.le_add_right _ _, Nat.add_lt_add_left hk _⟩
  · exact ⟨Nat.le_add_right _ _, Nat.add_lt_add_left hk _⟩

theorem operandBad_legal {h : Hart} {v : View} {r : GReg} (hl : Claim.Legal h v r) : operandBad v h.ctl.vtype r = false := by
  cases v with
  | row => exact bne_eq_false_iff_eq.2 hl
  | col => have hvt : h.ctl.vtype.toNat = 4 := hl; simp [operandBad, sewOf, groupOf, hvt]
  | diag => have hvt : h.ctl.vtype.toNat = 4 := hl; simp [operandBad, sewOf, groupOf, hvt]

/-! ### Operands that are ready -/

theorem Hart.rowWaits_free {h : Hart} {rows : List Nat} (hfree : ∀ n ∈ rows, Claim.Free h n) : h.rowWaits rows = false := by
  simp only [Hart.rowWaits, Hart.rowBusy, Bool.or_eq_false_iff, List.any_eq_false, bne_iff_ne, Bool.not_eq_true, ne_eq,
    not_not]
  exact ⟨fun n hn => (hfree n hn).1, fun n hn => (hfree n hn).2⟩

theorem Hart.rowBusy_free {h : Hart} {rows : List Nat} (hfree : ∀ n ∈ rows, Claim.Free h n) : h.rowBusy rows = false :=
  (Bool.or_eq_false_iff.1 (Hart.rowWaits_free hfree)).1

/-- Rows all of whose arrival groups are there have none missing (R135). -/
theorem missingGroups_free {h : Hart} {rows : List Nat} (hfree : ∀ n ∈ rows, Claim.Free h n) :
    h.grid.missingGroups rows = [] := by
  refine List.flatMap_eq_nil_iff.2 fun n hn => ?_
  rw [(hfree n (List.mem_eraseDups.1 hn)).2]
  rfl

/-- A hart with both halves present does not trap for one (R51). -/
theorem Hart.capTrap_present {h : Hart} (hm : h.missingHalf = none) (rows : List Nat) (k : Res) : h.capTrap rows k = k := by
  simp [Hart.capTrap, hm]

section
variable {s : State} {v : View} {regs qs : List GReg} (hready : Claim.Ready s v regs) (hsub : ∀ q ∈ qs, q ∈ regs)
include hready hsub

theorem ready_free : ∀ n ∈ qs.flatMap (operandRows v (groupOf s.my.ctl.vtype)), Claim.Free s.my n := by
  obtain ⟨-, -, -, -, -, -, hregs⟩ := hready
  intro n hn
  obtain ⟨q, hq, hn⟩ := List.mem_flatMap.1 hn
  exact ((hregs q (hsub q hq)).2 n (mem_operandRows hn)).1

/-- What is read holds no error (R67). -/
theorem ready_badRow : s.my.badRow (qs.flatMap (operandRows v (groupOf s.my.ctl.vtype))) = none := by
  obtain ⟨-, -, -, -, -, -, hregs⟩ := hready
  refine Hart.badRow_none fun c hc hn => ?_
  obtain ⟨q, hq, hn⟩ := List.mem_flatMap.1 hn
  exact ((hregs q (hsub q hq)).2 _ (mem_operandRows hn)).2 c hc rfl

/-- Ready operands pass the gate (R174). -/
theorem ready_vecGate (k : Res) (long : Bool) : vecGate s v qs false false k long = k := by
  have hfree := ready_free hready hsub
  obtain ⟨-, -, hmiss, hlong, -, -, hregs⟩ := hready
  have hlegal : qs.any (operandBad v s.my.ctl.vtype) = false :=
    List.any_eq_false.2 fun q hq => by rw [operandBad_legal (hregs q (hsub q hq)).1]; exact Bool.false_ne_true
  simp only [vecGate, rowGate, hlegal, Bool.or_false, Bool.false_eq_true, if_false, Hart.capTrap_present hmiss, hlong,
    Option.isSome_none, Hart.rowWaits_free hfree, Hart.rowBusy_free hfree, ite_self]

end

end Sys2Proof.Machine
end

section
/-! SUPPORT. Element-wise vector operations (R139, R319, R320): a plan whose elements are values of their indices writes just those,
and raises the flags of all of them, whether it is long or short. For O18. -/

namespace Sys2Proof.Machine

theorem FState.raise_zero (f : FState) : f.raise 0 = f := by simp [FState.raise]

theorem FState.raise_raise (f : FState) (a b : BitVec 6) : (f.raise a).raise b = f.raise (a ||| b) := by
  simp [FState.raise, BitVec.or_assoc]

/-- The flags of some elements, ORed (R319). -/
def allFlags (fl : Nat → BitVec 6) : List Nat → BitVec 6
  | [] => 0
  | i :: is => fl i ||| allFlags fl is

theorem getLsbD_allFlags (fl : Nat → BitVec 6) (is : List Nat) (b : Nat) :
    (allFlags fl is).getLsbD b = true ↔ ∃ i ∈ is, (fl i).getLsbD b = true := by
  induction is with
  | nil => simp [allFlags]
  | cons i is ih => rw [allFlags, BitVec.getLsbD_or, Bool.or_eq_true, ih, List.exists_mem_cons_iff]

/-- A plan writes at each element a value of the index alone, and raises flags that depend on it alone. -/
def VPlan.Gives (p : VPlan) (c : VCap) (src : Grid) (val : Nat → Nat × BitVec 6) : Prop :=
  ∀ i f, p.elem c src i f = (c.put p.view p.dst i (val i).1, f.raise (val i).2)

theorem VPlan.Gives.run_eq {p : VPlan} {c : VCap} {src : Grid} {val : Nat → Nat × BitVec 6} (h : p.Gives c src val)
    (is : List Nat) (d : Grid) (f : FState) :
    p.run c src is d f =
      (d.writeAll (is.flatMap fun i => c.put p.view p.dst i (val i).1), f.raise (allFlags (fun i => (val i).2) is)) := by
  induction is generalizing d f with
  | nil => rw [allFlags, FState.raise_zero]; rfl
  | cons i is ih =>
    rw [VPlan.run, h i f]
    dsimp only
    rw [ih, FState.raise_raise, List.flatMap_cons, Grid.writeAll, Grid.writeAll, Grid.writeAll, List.foldl_append]
    rfl


/-! ### The operation -/

/-- A hart is changed in what the change makes of it. -/
theorem State.modMy_congr {t : State} {f g : Hart → Hart} (h : f t.my = g t.my) : t.modMy f = t.modMy g :=
  congrArg (fun a => t.setCore t.cur { t.me with hart := a }) h

theorem State.modMy_modMy (t : State) (f g : Hart → Hart) : (t.modMy f).modMy g = t.modMy fun h => g (f h) := by
  have hc : (t.modMy f).core t.cur = { t.core t.cur with hart := f (t.hart t.cur) } := State.core_modHart_same t t.cur f
  show (t.setCore t.cur _).setCore t.cur { (t.modMy f).core t.cur with hart := g ((t.modMy f).core t.cur).hart } = _
  rw [State.setCore_setCore, hc]
  rfl

/-- The modes that an operation captures (R99). -/
def VUse.cap (u : VUse) (s : State) : VCap :=
  s.my.capture u.mask (s.my.ctl.rounding u.rm) ((u.scalar.map s.my.rx).getD 0)

/-- The elements that an operation visits are the active ones (R139). -/
theorem mem_visits {s : State} {u : VUse} {p : VPlan} (hmasked : p.masked = true) {i : Nat} :
    i ∈ p.visits (u.cap s) s.my.grid 0 ↔ Claim.Active s.my u.mask i := by
  rw [VPlan.visits, hmasked, if_pos rfl, VCap.actives, List.mem_filter, List.mem_range, VCap.active, VUse.cap, Hart.capture]
  cases u.mask <;> simp [Hart.maskReg, Claim.Active, Grid.mask, Hart.mask]

/-- The field that an element of a vector operand is (R132, R138), written with a value. -/
def elemWrite (h : Hart) (v : View) (r : GReg) (j x : Nat) : RowWrite :=
  ((Claim.at h v r j).1, (Claim.at h v r j).2, 2 ^ (h.ctl.vtype.toNat % 8 + 1), x)

theorem put_cap (s : State) (u : VUse) (v : View) (r : GReg) (j x : Nat) :
    (u.cap s).put v r j x = [elemWrite s.my v r j x] := by
  cases v <;> rfl

theorem elem_cap (s : State) (u : VUse) (v : View) (r : GReg) (i : Nat) :
    (u.cap s).elem s.my.grid v r i = Claim.elem s.my s.my.grid v r i := by
  cases v <;> rfl

/-- The fields that an operation of one plan writes in a state, and the flags that it raises. -/
def VPlan.writes (p : VPlan) (u : VUse) (s : State) (val : Nat → Nat × BitVec 6) : List RowWrite :=
  (p.visits (u.cap s) s.my.grid 0).map fun j => elemWrite s.my p.view p.dst j (val j).1
def VPlan.flags (p : VPlan) (u : VUse) (s : State) (val : Nat → Nat × BitVec 6) : BitVec 6 :=
  allFlags (fun i => (val i).2) (p.visits (u.cap s) s.my.grid 0)

/-- What it does to a state when its bundle commits. -/
def VPlan.lands (p : VPlan) (u : VUse) (s : State) (val : Nat → Nat × BitVec 6) (t : State) : State :=
  (t.modMy fun h => { h with grid := h.grid.writeAll (p.writes u s val) }).raise (p.flags u s val)

/-- An active element of its destination holds a bit of a row. -/
def VPlan.holds (p : VPlan) (u : VUse) (s : State) (n b : Nat) : Prop :=
  ∃ j, Claim.Active s.my u.mask j ∧ n = (Claim.at s.my p.view p.dst j).1 ∧ (Claim.at s.my p.view p.dst j).2 ≤ b ∧
    b < (Claim.at s.my p.view p.dst j).2 + 2 ^ (s.my.ctl.vtype.toNat % 8 + 1)

/-- An instruction is the operation of a plan on some registers, and nothing of it is refused in a state (R67, R174). -/
structure IsPlan (s : State) (i : Instr) (u : VUse) (p : VPlan) (regs : List GReg) : Prop where
  runs : exec i s = s.runOne i (planOp u p)
  rows : rowSrc s i = p.srcs.flatMap (operandRows p.view (groupOf s.my.ctl.vtype))
  masked : p.masked = true
  legal : u.illegal s = false
  known : u.reserved s = false
  regs : ∀ q ∈ p.dst :: p.srcs, q ∈ regs

section
variable {s : State} {u : VUse} {p : VPlan} {regs : List GReg} {val : Nat → Nat × BitVec 6}
  (hready : Claim.Ready s p.view regs) (hregs : ∀ q ∈ p.dst :: p.srcs, q ∈ regs) (hgives : p.Gives (u.cap s) s.my.grid val)
include hgives

theorem VPlan.Gives.runPlan_eq (t : State) (seed : Word) : t.runPlan p (u.cap s) s.my.grid 0 seed =
    ({ seed := seed, flags := p.flags u s val },
      t.modMy fun h => { h with grid := h.grid.writeAll (p.writes u s val) }) := by
  rw [State.runPlan, hgives.run_eq]
  simp only [put_cap, ← List.map_eq_flatMap]
  refine congrArg₂ Prod.mk ?_ ?_
  · simp [FState.raise, VPlan.flags]
  · exact State.modMy_congr rfl

omit hgives in
theorem keepsRest_writeAll (xs : List RowWrite) : KeepsRest fun h => { h with grid := h.grid.writeAll xs } := fun _ => rfl

/-- A short operation (R320). -/
theorem VPlan.Gives.planShort_eq : planShort s p (u.cap s) = commits (p.lands u s val) := by
  refine congrArg commits (funext fun t => ?_)
  rw [hgives.runPlan_eq]
  dsimp only
  rw [State.modMy_modMy]
  exact congrArg (fun t : State => t.raise _) (State.modMy_congr rfl)

include hready hregs

/-- A long operation none of whose rows waits, where the model delays nothing (R135, R320). -/
theorem VPlan.Gives.planLong_eq (i : Instr) (oc : OpCtx) (hdraw : (p.rounds (u.cap s) && (u.cap s).rm == 6) = false) :
    planLong s i oc p (u.cap s) = commits (p.lands u s val) := by
  have hneeds : s.my.grid.missingGroups (p.rows (groupOf (u.cap s).vtype)) = [] := missingGroups_free (ready_free hready hregs)
  obtain ⟨-, hdelay, -⟩ := hready
  refine congrArg commits (funext fun t => ?_)
  simp only [hdraw, hneeds, hdelay, Bool.false_eq_true, if_false, List.isEmpty_nil, Bool.not_true, Bool.or_false]
  rw [hgives.runPlan_eq]
  rfl

/-- A vector operation on ready operands that is not refused and draws nothing commits its elements (R99, R319, R320). -/
theorem VPlan.Gives.planOp_eq (hill : u.illegal s = false) (hres : u.reserved s = false)
    (hdraw : (p.rounds (u.cap s) && (u.cap s).rm == 6) = false) (oc : OpCtx) : planOp u p oc s = commits (p.lands u s val) := by
  have hholds : s.my.holdsPartial = false := by
    obtain ⟨-, -, -, -, hpopa, hpvec, -⟩ := hready
    simp [Hart.holdsPartial, hpopa, hpvec]
  rw [planOp]
  simp only [hill, hres, hholds, Bool.and_false, Bool.or_false]
  rw [ready_vecGate hready hregs]
  split
  · exact hgives.planLong_eq hready hregs u.instr oc hdraw
  · exact hgives.planShort_eq

omit hready hregs hgives

theorem mem_writes (hmasked : p.masked = true) {x : RowWrite} : x ∈ p.writes u s val ↔
    ∃ j, Claim.Active s.my u.mask j ∧ elemWrite s.my p.view p.dst j (val j).1 = x := by
  simp only [VPlan.writes, List.mem_map, mem_visits hmasked]

/-- The fields written lie in the grid, and no two of them overlap. -/
theorem writes_fit (hready : Claim.Ready s p.view regs) (hdst : p.dst ∈ regs) (hmasked : p.masked = true) :
    (∀ x ∈ p.writes u s val, RowWrite.Fits x) ∧
      (p.writes u s val).Pairwise fun x y => ∀ n b, RowWrite.Covers x n b → ¬RowWrite.Covers y n b := by
  obtain ⟨hshape, -, -, -, -, -, hlegal⟩ := hready
  refine ⟨fun x hx => ?_, ?_⟩
  · obtain ⟨j, hj, rfl⟩ := (mem_writes hmasked).1 hx
    exact place_fits hshape (hlegal _ hdst).1 hj.1
  · have hnodup : (p.visits (u.cap s) s.my.grid 0).Nodup := List.nodup_range.filter _
    refine List.pairwise_map.2 (hnodup.imp fun {i j} hij n b hi hj => ?_)
    have := place_disjoint hij (hi.1.symm.trans hj.1)
    simp only [RowWrite.Covers, elemWrite] at hi hj
    omega

/-- Writing the active elements changes their bits alone (R139, R191). -/
theorem writes_keep (hready : Claim.Ready s p.view regs) (hdst : p.dst ∈ regs) (hmasked : p.masked = true) :
    Claim.GridKept s.my.grid (s.my.grid.writeAll (p.writes u s val)) (p.holds u s) := by
  have hcovers : ∀ x ∈ p.writes u s val, ∀ n b, RowWrite.Covers x n b → p.holds u s n b := by
    intro x hx n b hb
    obtain ⟨j, hj, rfl⟩ := (mem_writes hmasked).1 hx
    exact ⟨j, hj, hb⟩
  have hdirty := Grid.dirty_writeAll (p.writes u s val) s.my.grid
  refine ⟨fun n b hn => ?_, fun n hn => ?_, fun n hn => (hdirty n).2 (.inl hn), by simp, by simp, by simp⟩
  · exact Grid.bit_writeAll_other (writes_fit hready hdst hmasked).1 (fun x hx hb => hn (hcovers x hx n b hb)) _
  · refine Bool.eq_iff_iff.2 ((hdirty n).trans (or_iff_left ?_))
    rintro ⟨-, x, hx, rfl⟩
    obtain ⟨j, -, rfl⟩ := (mem_writes hmasked).1 hx
    exact hn _ (hcovers _ hx _ _ ⟨rfl, le_rfl, Nat.lt_add_of_pos_right (Nat.two_pow_pos _)⟩)

/-- Such an operation leaves at each active element of its destination that element's value, and nothing else (R139, R191, R240,
R319). -/
theorem VPlan.Gives.results {i : Instr} (hgives : p.Gives (u.cap s) s.my.grid val) (hplan : IsPlan s i u p regs)
    (hready : Claim.Ready s p.view regs) (hdraw : (p.rounds (u.cap s) && (u.cap s).rm == 6) = false)
    (hval : ∀ j, (val j).1 < 2 ^ 2 ^ (s.my.ctl.vtype.toNat % 8 + 1)) :
    Claim.Results i s (Claim.Active s.my u.mask) (Claim.at s.my p.view p.dst) (2 ^ (s.my.ctl.vtype.toNat % 8 + 1)) val := by
  obtain ⟨hexec, hrows, hmasked, hill, hres, hregs⟩ := hplan
  have hdst := hregs p.dst List.mem_cons_self
  have hbad : s.my.badRow (rowSrc s i) = none :=
    hrows ▸ ready_badRow hready fun q hq => hregs q (List.mem_cons_of_mem _ hq)
  intro hd
  obtain ⟨t, ht, hpast, hx, hgrid, hseed⟩ :=
    runs_modMy hexec hbad (hgives.planOp_eq hready hregs hill hres hdraw _) (keepsRest_writeAll _) hd
  obtain ⟨hfit, hdis⟩ := writes_fit (u := u) (val := val) hready hdst hmasked
  refine ⟨t, ht, Hart.rx_congr hx, hseed, ⟨_, hpast, fun b => ?_⟩, fun j hj => ?_, ?_⟩
  · simp only [VPlan.flags, getLsbD_allFlags, mem_visits hmasked]
  · have hmem := (mem_writes (val := val) hmasked).2 ⟨j, hj, rfl⟩
    rw [hgrid]
    exact ⟨Grid.field_writeAll hfit hdis _ hmem (hval j),
      (Grid.dirty_writeAll _ _ _).2 (.inr ⟨(hfit _ hmem).1, _, hmem, rfl⟩)⟩
  · rw [hgrid]
    exact writes_keep hready hdst hmasked

end

end Sys2Proof.Machine
end

section
/-! SUPPORT. Numeric operations in a rounding mode that draws nothing (R74 to R77): their values and flags depend on the operands
alone, and a rounded value fits its format. For O18. -/

namespace Sys2Proof.Machine

/-- A computation that draws nothing and counts nothing: its value is one, and the flags that it raises are added to those
before. -/
def Steady {α : Type} (k : FState → α × FState) : Prop :=
  ∀ f, k f = ((k { seed := 0 }).1, f.raise (k { seed := 0 }).2.flags)

theorem steady_of_raise {α : Type} {k : FState → α × FState} {x : α} {fl : BitVec 6} (h : ∀ f, k f = (x, f.raise fl)) :
    Steady k := by
  intro f
  rw [h f, h { seed := 0 }]
  simp [FState.raise]

theorem steady_pure {α : Type} {x : α} : Steady fun f => (x, f) := steady_of_raise (fl := 0) fun f => by rw [FState.raise_zero]

theorem steady_raise {α : Type} {x : α} {fl : BitVec 6} : Steady fun f => (x, f.raise fl) := steady_of_raise fun _ => rfl

theorem steady_raiseIf {α : Type} {x : α} {c : Bool} {fl : BitVec 6} : Steady fun f => (x, f.raiseIf c fl) := by
  cases c
  · exact steady_pure
  · exact steady_raise

/-- One such computation after another. -/
theorem Steady.bind {α β : Type} {k : FState → α × FState} {g : α → FState → β × FState} (hk : Steady k)
    (hg : ∀ x, Steady (g x)) : Steady fun f => g (k f).1 (k f).2 := by
  refine steady_of_raise (x := (g (k { seed := 0 }).1 { seed := 0 }).1)
    (fl := (k { seed := 0 }).2.flags ||| (g (k { seed := 0 }).1 { seed := 0 }).2.flags) fun f => ?_
  rw [hk f, hg _ (f.raise _), FState.raise_raise]

/-- One such computation or another. -/
theorem Steady.ite {α : Type} {k g : FState → α × FState} (c : Prop) [Decidable c] (hk : Steady k) (hg : Steady g) :
    Steady fun f => if c then k f else g f := by
  by_cases h : c
  · simpa only [if_pos h] using hk
  · simpa only [if_neg h] using hg

/-! ### Exact values -/

theorem Num.mul_steady (a b : Num) : Steady (a.mul b) := by
  cases a with
  | nan p => cases b <;> exact steady_raiseIf
  | inf p =>
    cases b with
    | nan q => exact steady_raiseIf
    | inf q => exact steady_pure
    | fin q m e => exact .ite _ steady_raise steady_pure
  | fin p m e =>
    cases b with
    | nan q => exact steady_raiseIf
    | inf q => exact .ite _ steady_raise steady_pure
    | fin q n k => exact steady_pure

theorem Num.div_steady (a b : Num) : Steady (a.div b) := by
  cases a with
  | nan p => cases b <;> exact steady_raiseIf
  | inf p =>
    cases b with
    | nan q => exact steady_raiseIf
    | inf q => exact steady_raise
    | fin q m e => exact steady_pure
  | fin p m e =>
    cases b with
    | nan q => exact steady_raiseIf
    | inf q => exact steady_pure
    | fin q n k =>
      exact .ite _ (.ite _ steady_raise steady_raise) (.ite _ steady_pure steady_pure)

theorem sumNums_steady (rm : Nat) (ts : List Num) : Steady (sumNums rm ts) :=
  .ite _ steady_raiseIf (.ite _ steady_raise (.ite _ steady_pure (.ite _ steady_pure
    (.ite _ steady_pure steady_pure))))

theorem Num.add_steady (rm : Nat) (a b : Num) : Steady (a.add rm b) := sumNums_steady rm [a, b]

theorem Num.fma_steady (rm : Nat) (a b c : Num) : Steady (Num.fma rm a b c) :=
  (Num.mul_steady a b).bind fun p => sumNums_steady rm [p, c]

theorem numMin_steady (greater : Bool) (a b : Num) : Steady (numMin greater a b) :=
  .ite _ steady_raiseIf (.ite _ steady_raiseIf steady_raiseIf)

/-! ### Rounding -/

theorem FState.raiseIf_eq (f : FState) (c : Bool) (b : BitVec 6) : f.raiseIf c b = f.raise (if c then b else 0) := by
  cases c
  · exact (FState.raise_zero f).symm
  · rfl

/-- The magnitude to which a finite value rounds without a draw, before it overflows (R75), and its flags (R77). -/
def Fp.roundMag (p : Fp) (rm : Nat) (neg : Bool) (m : Nat) (e : Int) : Nat × BitVec 6 :=
  let q : Int := max ((m.log2 : Int) + e) (1 - (p.bias : Int)) - p.mbits
  let c := cut m e q
  let b := p.pack (if roundsUp rm neg (c.1 % 2 == 1) c.2.1 c.2.2 0 then c.1 + 1 else c.1) q
  (b, (if c.2.1 != 0 then flagNX else 0) ||| if c.2.1 != 0 && decide (b < 2 ^ p.mbits) then flagUF else 0)

/-- A finite value rounded in a mode that draws nothing. -/
theorem Fp.round_fin (p : Fp) {rm : Nat} (hrm : rm ≠ 6) (sat neg : Bool) {m : Nat} (hm : m ≠ 0) (e : Int) (f : FState) :
    p.round rm sat (.fin neg m e) f = if p.maxBits < (p.roundMag rm neg m e).1
      then (p.overflow rm sat neg, f.raise (flagOF ||| flagNX))
      else ((p.roundMag rm neg m e).1 + neg.toNat * p.sign, f.raise (p.roundMag rm neg m e).2) := by
  simp only [Fp.round, if_neg hm, hrm, false_and, if_false, FState.raiseIf_eq, FState.raise_raise]
  rfl

theorem Fp.round_steady (p : Fp) {rm : Nat} (hrm : rm ≠ 6) (sat : Bool) (x : Num) : Steady (p.round rm sat x) := by
  cases x with
  | nan sig => exact steady_raiseIf
  | inf neg => exact .ite _ steady_raise steady_pure
  | fin neg m e =>
    by_cases hm : m = 0
    · subst hm
      exact steady_pure (x := neg.toNat * p.sign)
    · rw [funext (p.round_fin hrm sat neg hm e)]
      exact .ite _ steady_raise steady_raise

/-- An exact value that is computed without a draw and rounded without one (R75, R77). -/
theorem rounded_eq (p : Fp) {rm : Nat} (hrm : rm ≠ 6) (sat : Bool) {k : FState → Num × FState} (hk : Steady k) (f : FState) :
    p.round rm sat (k f).1 (k f).2 = ((Claim.rounded p rm sat (k { seed := 0 })).1,
      f.raise (Claim.rounded p rm sat (k { seed := 0 })).2) :=
  hk.bind (fun x => p.round_steady hrm sat x) f

/-- A magnitude below the sign bit, with a sign, fits the format (R72). -/
theorem Fp.signed_lt (p : Fp) (neg : Bool) {b : Nat} (hb : b < p.sign) : b + neg.toNat * p.sign < 2 ^ (p.ebits + p.mbits + 1) := by
  rw [show 2 ^ (p.ebits + p.mbits + 1) = 2 * p.sign from pow_succ' _ _]
  cases neg <;> simp only [Bool.toNat_false, Bool.toNat_true] <;> omega

section
variable {p : Fp} (hp : p.e4m3 = false) (hm : 0 < p.mbits)

include hm in
/-- The canonical NaN, the infinity and the largest finite value lie below the sign bit (R72). -/
theorem Fp.nanMag_lt : p.emax * 2 ^ p.mbits + 2 ^ (p.mbits - 1) < p.sign := by
  have hhalf : 2 ^ (p.mbits - 1) < 2 ^ p.mbits := Nat.pow_lt_pow_right one_lt_two (by omega)
  have he : 0 < 2 ^ p.ebits := Nat.two_pow_pos _
  calc p.emax * 2 ^ p.mbits + 2 ^ (p.mbits - 1)
    _ < p.emax * 2 ^ p.mbits + 2 ^ p.mbits := Nat.add_lt_add_left hhalf _
    _ = (p.emax + 1) * 2 ^ p.mbits := (Nat.succ_mul _ _).symm
    _ = p.sign := by rw [Fp.sign, pow_add, Fp.emax, Nat.sub_add_cancel he]

include hm in
theorem Fp.infMag_lt : p.emax * 2 ^ p.mbits < p.sign :=
  lt_of_le_of_lt (Nat.le_add_right _ _) (Fp.nanMag_lt hm)

include hp hm

theorem Fp.maxBits_lt : p.maxBits < p.sign := by
  have hinf := Fp.infMag_lt hm
  simp only [Fp.maxBits, hp, Bool.false_eq_true, if_false]
  omega

theorem Fp.nanBits_lt : p.nanBits < p.sign := by
  simpa [Fp.nanBits, hp] using Fp.nanMag_lt hm

theorem Fp.overflow_lt (rm : Nat) (sat neg : Bool) : p.overflow rm sat neg < 2 ^ (p.ebits + p.mbits + 1) := by
  have hinf := Fp.infMag_lt hm
  have hmax := Fp.maxBits_lt hp hm
  refine p.signed_lt neg ?_
  simp only [hp, Bool.false_eq_true, if_false]
  split
  · exact hmax
  · split
    · exact hmax
    · split <;> assumption
    · split <;> assumption
    · exact hinf

/-- A rounded value fits its format (R75). -/
theorem Fp.round_lt {rm : Nat} (hrm : rm ≠ 6) (sat : Bool) (x : Num) (f : FState) :
    (p.round rm sat x f).1 < 2 ^ (p.ebits + p.mbits + 1) := by
  cases x with
  | nan sig =>
    show p.nanBits < _
    simpa using p.signed_lt false (Fp.nanBits_lt hp hm)
  | inf neg =>
    simp only [Fp.round, hp, Bool.false_eq_true, if_false]
    exact p.signed_lt neg (Fp.infMag_lt hm)
  | fin neg m e =>
    by_cases h0 : m = 0
    · subst h0
      show neg.toNat * p.sign < _
      simpa using p.signed_lt neg (b := 0) (Nat.two_pow_pos _)
    · rw [Fp.round_fin p hrm sat neg h0]
      split
      · exact Fp.overflow_lt hp hm rm sat neg
      · next hb => exact p.signed_lt neg (lt_of_le_of_lt (Nat.le_of_not_lt hb) (Fp.maxBits_lt hp hm))

end

end Sys2Proof.Machine
end

section
/-! SUPPORT. Vector operations of float kind (R318, R319, R321): each active element is rounded once. Settles O18. -/

namespace Sys2Proof.Machine

/-- The float format of an element width code: BF16 at 3, FP32 at 4 (R318). -/
theorem elemFp_width (n : Nat) : elemFp (2 ^ (n + 1)) = if n = 3 then bf16 else fp32 := by
  have h : 2 ^ (n + 1) = 16 ↔ n = 3 := by
    rw [show 16 = 2 ^ 4 from rfl, (Nat.pow_right_injective le_rfl).eq_iff]
    omega
  simp only [elemFp, h]

/-! ### The plans' elements -/

section
variable {s : State} {u : VUse} (v : View) (d a b : GReg) (rounds : VCap → Bool)

theorem gives_planVV {k : VCap → Nat → Nat → FState → Nat × FState} {val : Nat → Nat → Nat × BitVec 6}
    (hk : ∀ x y f, k (u.cap s) x y f = ((val x y).1, f.raise (val x y).2)) :
    (planVV rounds k v d a b).Gives (u.cap s) s.my.grid fun j =>
      val (Claim.elem s.my s.my.grid v a j) (Claim.elem s.my s.my.grid v b j) := by
  intro i f
  simp only [planVV, hk, elem_cap]

theorem gives_planVVV {k : VCap → Nat → Nat → Nat → FState → Nat × FState} {val : Nat → Nat → Nat → Nat × BitVec 6}
    (hk : ∀ x y z f, k (u.cap s) x y z f = ((val x y z).1, f.raise (val x y z).2)) :
    (planVVV rounds k v d a b).Gives (u.cap s) s.my.grid fun j =>
      val (Claim.elem s.my s.my.grid v a j) (Claim.elem s.my s.my.grid v b j) (Claim.elem s.my s.my.grid v d j) := by
  intro i f
  simp only [planVVV, hk, elem_cap]

theorem gives_planVU {k : VCap → Nat → FState → Nat × FState} {val : Nat → Nat × BitVec 6}
    (hk : ∀ x f, k (u.cap s) x f = ((val x).1, f.raise (val x).2)) :
    (planVU k v d a).Gives (u.cap s) s.my.grid fun j => val (Claim.elem s.my s.my.grid v a j) := by
  intro i f
  simp only [planVU, hk, elem_cap]

theorem gives_planVS {k : VCap → Nat → Nat → FState → Nat × FState} {val : Nat → Nat → Nat × BitVec 6}
    (hk : ∀ x y f, k (u.cap s) x y f = ((val x y).1, f.raise (val x y).2)) :
    (planVS rounds k v d a).Gives (u.cap s) s.my.grid fun j =>
      val (Claim.elem s.my s.my.grid v a j) (u.cap s).x := by
  intro i f
  simp only [planVS, hk, elem_cap]

end

/-! ### Elements of float kind -/

/-- An operation on the values of two elements, rounded once. -/
def floatElem2 (ff : Nat → Num → Num → FState → Num × FState) (p : Fp) (rm x y : Nat) : Nat × BitVec 6 :=
  Claim.rounded p rm false (ff rm (p.decode x) (p.decode y) { seed := 0 })

/-- A multiply-add form of three elements, rounded once. -/
def floatElem3 (neg : Bool) (p : Fp) (rm x y z : Nat) : Nat × BitVec 6 :=
  Claim.rounded p rm false
    (Num.fma rm (if neg then (p.decode x).negate else p.decode x) (p.decode y) (p.decode z) { seed := 0 })

/-- An element with another sign bit, a NaN made canonical, `k` being its bits otherwise. -/
def signedElem (p : Fp) (x k : Nat) : Nat × BitVec 6 :=
  if (p.decode x).isNan then (p.nanBits, if (p.decode x).isSig then flagNV else 0) else (k, 0)

section
variable {c : VCap} (hw : 16 ≤ c.width)
include hw

section
variable (hrm : c.rm.toNat ≠ 6)
include hrm

theorem numeric2_float {ff : Nat → Num → Num → FState → Num × FState} (fi : Int → Int → Int)
    (hff : ∀ r x y, Steady (ff r x y)) (a b : Nat) (f : FState) : numeric2 ff fi c a b f =
      ((floatElem2 ff (elemFp c.width) c.rm.toNat a b).1, f.raise (floatElem2 ff (elemFp c.width) c.rm.toNat a b).2) := by
  rw [numeric2, if_pos hw]
  exact rounded_eq _ hrm false (hff _ _ _) f

theorem numeric3_float (neg : Bool) (a b d : Nat) (f : FState) : numeric3 neg c a b d f =
      ((floatElem3 neg (elemFp c.width) c.rm.toNat a b d).1,
        f.raise (floatElem3 neg (elemFp c.width) c.rm.toNat a b d).2) := by
  rw [numeric3, if_pos hw]
  exact rounded_eq _ hrm false (Num.fma_steady _ _ _ _) f

end

theorem signElem_float (neg : Bool) (a : Nat) (f : FState) :
    let r := signedElem (elemFp c.width) a (if neg then a ^^^ 2 ^ (c.width - 1) else a % 2 ^ (c.width - 1))
    signElem neg c a f = (r.1, f.raise r.2) := by
  simp only [signElem, if_pos hw, signedElem]
  cases (elemFp c.width).decode a with
  | nan sig => exact congrArg (Prod.mk _) (f.raiseIf_eq sig flagNV)
  | inf n => exact congrArg (Prod.mk _) f.raise_zero.symm
  | fin n m e => exact congrArg (Prod.mk _) f.raise_zero.symm

end

/-! ### The operations -/

/-- FRM is the mode of an operation without a rounding code of its own (R75, R99). -/
theorem rm_cap (s : State) {u : VUse} (hu : u.rm = 0) : (u.cap s).rm = s.my.ctl.frm := by
  simp [VUse.cap, Hart.capture, Ctl.rounding, hu]

section
variable {s : State} {i : Instr} {u : VUse} {v : View} {d a b : GReg} {regs : List GReg}
  (hsew : 3 ≤ s.my.ctl.vtype.toNat % 8) (hrm : s.my.ctl.frm.toNat ≠ 6) (hu : u.rm = 0)

include hsew in
theorem width_float : 16 ≤ (u.cap s).width :=
  Nat.pow_le_pow_right (n := 2) two_pos (show 4 ≤ s.my.ctl.vtype.toNat % 8 + 1 by omega)

include hsew in
/-- The element format is as wide as the element (R318). -/
theorem elemFp_fits (hshape : Claim.Shape s.my) :
    let p := elemFp (2 ^ (s.my.ctl.vtype.toNat % 8 + 1))
    p.e4m3 = false ∧ 0 < p.mbits ∧ p.ebits + p.mbits + 1 = 2 ^ (s.my.ctl.vtype.toNat % 8 + 1) := by
  have hle : s.my.ctl.vtype.toNat % 8 ≤ 4 := hshape.1
  generalize s.my.ctl.vtype.toNat % 8 = n at *
  rcases (show n = 3 ∨ n = 4 by omega) with rfl | rfl <;> decide

include hrm hu

theorem draws_nothing (p : VPlan) : (p.rounds (u.cap s) && (u.cap s).rm == 6) = false := by
  have hne : (u.cap s).rm ≠ 6 := fun h => hrm (by rw [← rm_cap s hu, h]; rfl)
  rw [beq_eq_false_iff_ne.2 hne, Bool.and_false]

include hsew

/-- An operation whose elements are rounded to the element format (R318, R319). -/
theorem results_rounded {p : VPlan} {val : Nat → Num × FState} (hplan : IsPlan s i u p regs)
    (hgives : p.Gives (u.cap s) s.my.grid fun j =>
      Claim.rounded (elemFp (2 ^ (s.my.ctl.vtype.toNat % 8 + 1))) s.my.ctl.frm.toNat false (val j))
    (hready : Claim.Ready s p.view regs) :
    Claim.Results i s (Claim.Active s.my u.mask) (Claim.at s.my p.view p.dst) (2 ^ (s.my.ctl.vtype.toNat % 8 + 1)) fun j =>
      Claim.rounded (elemFp (2 ^ (s.my.ctl.vtype.toNat % 8 + 1))) s.my.ctl.frm.toNat false (val j) := by
  obtain ⟨hplain, hm, hwidth⟩ := elemFp_fits hsew hready.1
  exact hgives.results hplan hready (draws_nothing hrm hu p) fun j =>
    lt_of_lt_of_eq (Fp.round_lt hplain hm hrm false _ _) (congrArg (2 ^ ·) hwidth)

theorem results_numeric2 {ff : Nat → Num → Num → FState → Num × FState} {fi : Int → Int → Int} {rounds : VCap → Bool}
    {k : VCap → Nat → Nat → FState → Nat × FState} (hk : k (u.cap s) = numeric2 ff fi (u.cap s))
    (hff : ∀ r x y, Steady (ff r x y)) (hplan : IsPlan s i u (planVV rounds k v d a b) regs) (hready : Claim.Ready s v regs) :
    Claim.Results i s (Claim.Active s.my u.mask) (Claim.at s.my v d) (2 ^ (s.my.ctl.vtype.toNat % 8 + 1)) fun j =>
      floatElem2 ff (elemFp (2 ^ (s.my.ctl.vtype.toNat % 8 + 1))) s.my.ctl.frm.toNat (Claim.elem s.my s.my.grid v a j)
        (Claim.elem s.my s.my.grid v b j) := by
  refine results_rounded hsew hrm hu hplan (gives_planVV v d a b rounds (val := floatElem2 ff _ _) fun x y f => ?_) hready
  rw [hk, ← rm_cap s hu]
  exact numeric2_float (width_float hsew) (rm_cap s hu ▸ hrm) fi hff x y f

theorem results_numeric2_scalar {ff : Nat → Num → Num → FState → Num × FState} {fi : Int → Int → Int} {rounds : VCap → Bool}
    (hff : ∀ r x y, Steady (ff r x y)) (hplan : IsPlan s i u (planVS rounds (numeric2 ff fi) v d a) regs)
    (hready : Claim.Ready s v regs) :
    Claim.Results i s (Claim.Active s.my u.mask) (Claim.at s.my v d) (2 ^ (s.my.ctl.vtype.toNat % 8 + 1)) fun j =>
      floatElem2 ff (elemFp (2 ^ (s.my.ctl.vtype.toNat % 8 + 1))) s.my.ctl.frm.toNat (Claim.elem s.my s.my.grid v a j)
        (u.cap s).x := by
  refine results_rounded hsew hrm hu hplan (gives_planVS v d a rounds (val := floatElem2 ff _ _) fun x y f => ?_) hready
  rw [← rm_cap s hu]
  exact numeric2_float (width_float hsew) (rm_cap s hu ▸ hrm) fi hff x y f

theorem results_numeric3 {neg : Bool} {rounds : VCap → Bool}
    (hplan : IsPlan s i u (planVVV rounds (numeric3 neg) v d a b) regs) (hready : Claim.Ready s v regs) :
    Claim.Results i s (Claim.Active s.my u.mask) (Claim.at s.my v d) (2 ^ (s.my.ctl.vtype.toNat % 8 + 1)) fun j =>
      floatElem3 neg (elemFp (2 ^ (s.my.ctl.vtype.toNat % 8 + 1))) s.my.ctl.frm.toNat (Claim.elem s.my s.my.grid v a j)
        (Claim.elem s.my s.my.grid v b j) (Claim.elem s.my s.my.grid v d j) := by
  refine results_rounded hsew hrm hu hplan (gives_planVVV v d a b rounds (val := floatElem3 neg _ _) fun x y z f => ?_) hready
  rw [← rm_cap s hu]
  exact numeric3_float (width_float hsew) (rm_cap s hu ▸ hrm) neg x y z f

theorem results_numeric3_scalar {rounds : VCap → Bool}
    (hplan : IsPlan s i u (planVVV rounds (fun c x _ z f => numeric3 false c x c.x z f) v d a a) regs)
    (hready : Claim.Ready s v regs) :
    Claim.Results i s (Claim.Active s.my u.mask) (Claim.at s.my v d) (2 ^ (s.my.ctl.vtype.toNat % 8 + 1)) fun j =>
      floatElem3 false (elemFp (2 ^ (s.my.ctl.vtype.toNat % 8 + 1))) s.my.ctl.frm.toNat (Claim.elem s.my s.my.grid v a j)
        (u.cap s).x (Claim.elem s.my s.my.grid v d j) := by
  refine results_rounded hsew hrm hu hplan (gives_planVVV v d a a rounds
    (val := fun x _ z => floatElem3 false _ _ x (u.cap s).x z) fun x _ z f => ?_) hready
  rw [← rm_cap s hu]
  exact numeric3_float (width_float hsew) (rm_cap s hu ▸ hrm) false x _ z f

theorem results_sign {neg : Bool} (hplan : IsPlan s i u (planVU (signElem neg) v d a) regs) (hready : Claim.Ready s v regs) :
    Claim.Results i s (Claim.Active s.my u.mask) (Claim.at s.my v d) (2 ^ (s.my.ctl.vtype.toNat % 8 + 1)) fun j =>
      let w := 2 ^ (s.my.ctl.vtype.toNat % 8 + 1)
      let x := Claim.elem s.my s.my.grid v a j
      signedElem (elemFp w) x (if neg then x ^^^ 2 ^ (w - 1) else x % 2 ^ (w - 1)) := by
  refine (gives_planVU v d a (val := fun x => signedElem _ x _) fun x f => signElem_float (width_float hsew) neg x f).results
    hplan hready (draws_nothing hrm hu _) fun j => ?_
  obtain ⟨hplain, hm, hwidth⟩ := elemFp_fits hsew hready.1
  have hx : Claim.elem s.my s.my.grid v a j < 2 ^ 2 ^ (s.my.ctl.vtype.toNat % 8 + 1) := Nat.mod_lt _ (Nat.two_pow_pos _)
  have hnan := Fp.signed_lt _ false (Fp.nanBits_lt hplain hm)
  have hhalf : 2 ^ (2 ^ (s.my.ctl.vtype.toNat % 8 + 1) - 1) < 2 ^ 2 ^ (s.my.ctl.vtype.toNat % 8 + 1) :=
    Nat.pow_lt_pow_right one_lt_two (Nat.sub_lt (Nat.two_pow_pos _) one_pos)
  simp only [signedElem]
  split
  · show (elemFp (2 ^ (s.my.ctl.vtype.toNat % 8 + 1))).nanBits < _
    simpa [hwidth] using hnan
  · split
    · exact Nat.xor_lt_two_pow hx hhalf
    · exact lt_of_le_of_lt (Nat.mod_le _ _) hx

end

/-- Settles O18: each form is a plan of one of four shapes, and computes its elements without a draw. -/
theorem vectorFloatForms : Obligations.VectorFloatForms := by
  intro s v d a b r m
  simp only [← elemFp_width]
  intro hsew hrm
  refine ⟨?_, ?_, ?_, ?_, ?_, ?_, ?_, ?_, ?_, ?_, ?_, ?_, ?_⟩
  · exact results_numeric2 (ff := fun rm x y f => x.add rm y f)
      (u := { instr := .vadd v d a b m, mask := m }) hsew hrm rfl rfl (fun _ => Num.add_steady _)
      ⟨rfl, List.append_nil _, rfl, rfl, rfl, fun _ hq => hq⟩
  · exact results_numeric2 (ff := fun rm x y f => x.add rm y.negate f)
      (u := { instr := .vsub v d a b m, mask := m }) hsew hrm rfl rfl
      (fun rm x y => Num.add_steady rm x y.negate) ⟨rfl, List.append_nil _, rfl, rfl, rfl, fun _ hq => hq⟩
  · exact results_numeric2 (ff := fun _ x y f => x.mul y f)
      (u := { instr := .vmul v d a b m, mask := m }) hsew hrm rfl rfl (fun _ => Num.mul_steady)
      ⟨rfl, List.append_nil _, rfl, rfl, rfl, fun _ hq => hq⟩
  · exact results_numeric3 (neg := false) (u := { instr := .vfma v d a b m, mask := m }) hsew hrm rfl
      ⟨rfl, List.append_nil _, rfl, rfl, rfl, by simp [planVVV]⟩
  · exact results_numeric3 (neg := true) (u := { instr := .vfms v d a b m, mask := m }) hsew hrm rfl
      ⟨rfl, List.append_nil _, rfl, rfl, rfl, by simp [planVVV]⟩
  · exact results_numeric2 (ff := fun _ x y f => numMin false x y f)
      (u := { instr := .vmin v d a b m, mask := m }) hsew hrm rfl rfl (fun _ => numMin_steady false)
      ⟨rfl, List.append_nil _, rfl, rfl, rfl, fun _ hq => hq⟩
  · exact results_numeric2 (ff := fun _ x y f => numMin true x y f)
      (u := { instr := .vmax v d a b m, mask := m }) hsew hrm rfl rfl (fun _ => numMin_steady true)
      ⟨rfl, List.append_nil _, rfl, rfl, rfl, fun _ hq => hq⟩
  · exact results_numeric2 (ff := fun _ x y f => x.div y f) (k := divElem)
      (u := { instr := .vdiv v d a b m, mask := m }) hsew hrm rfl rfl (fun _ => Num.div_steady)
      ⟨rfl, List.append_nil _, rfl, rfl, rfl, fun _ hq => hq⟩
  · exact results_numeric2_scalar (ff := fun rm x y f => x.add rm y f)
      (u := { instr := .vadds v d a r m, mask := m, scalar := some r }) hsew hrm rfl
      (fun _ => Num.add_steady _) ⟨rfl, List.append_nil _, rfl, rfl, rfl, fun _ hq => hq⟩
  · exact results_numeric2_scalar (ff := fun _ x y f => x.mul y f)
      (u := { instr := .vmuls v d a r m, mask := m, scalar := some r }) hsew hrm rfl
      (fun _ => Num.mul_steady) ⟨rfl, List.append_nil _, rfl, rfl, rfl, fun _ hq => hq⟩
  · exact results_numeric3_scalar (u := { instr := .vfmas v d a r m, mask := m, scalar := some r }) hsew hrm rfl
      ⟨rfl, List.append_nil _, rfl, rfl, rfl, by simp [planVVV]⟩
  · exact results_sign (neg := false) (u := { instr := .vabs v d a m, mask := m }) hsew hrm rfl
      ⟨rfl, List.append_nil _, rfl, rfl, rfl, fun _ hq => hq⟩
  · exact results_sign (neg := true) (u := { instr := .vneg v d a m, mask := m }) hsew hrm rfl
      ⟨rfl, List.append_nil _, rfl, rfl, rfl, fun _ hq => hq⟩

end Sys2Proof.Machine
end

section
/-! SUPPORT. A read of blocks at their homes (R5, R67, R105): the blocks that translation finds, what a read of them gathers, and
the words that it gives. For O26. -/

namespace Sys2Proof.Machine

/-! ### Bytes and words -/

/-- The number that some bytes of a number stand for (R5). -/
theorem value_of_bytes {f : Nat → Nat} {x n : Nat} (h : ∀ k, k < n → f k = x / 256 ^ k % 256) :
    Claim.value f n = x % 256 ^ n := by
  induction n with
  | zero => exact (Nat.mod_one x).symm
  | succ n ih =>
    rw [Claim.value, ih fun k hk => h k (by omega), h n (by omega), Nat.mod_pow_succ, Nat.mul_comm]

/-- A mask of the bytes from one position to another. -/
theorem getLsbD_byteMask {lo hi i : Nat} (hhi : hi ≤ 64) :
    (byteMask lo hi).getLsbD i = (decide (8 * lo ≤ i) && decide (i < 8 * hi)) := by
  simp only [byteMask, BitVec.getLsbD_ofNat, Nat.testBit_mul_two_pow, Nat.testBit_div_two_pow, Nat.testBit_two_pow_sub_one]
  by_cases hlo : 8 * lo ≤ i
  · rw [Nat.sub_add_cancel hlo]
    by_cases h : i < 8 * hi
    · simp [hlo, h, show i < 512 by omega]
    · simp [h]
  · simp [hlo]

/-- A field of two numbers that agree on its bits. -/
theorem field_congr {a b : BitVec 512} {lo w : Nat} (h : ∀ i, i < w → a.getLsbD (lo + i) = b.getLsbD (lo + i)) :
    a.toNat / 2 ^ lo % 2 ^ w = b.toNat / 2 ^ lo % 2 ^ w := by
  refine Nat.eq_of_testBit_eq fun i => ?_
  simp only [Nat.testBit_mod_two_pow, Nat.testBit_div_two_pow, Nat.add_comm i lo, BitVec.testBit_toNat]
  by_cases hi : i < w
  · simp [hi, h i hi]
  · simp [hi]

/-! ### Translated blocks -/

/-- Nothing kept translation from finding every block of an access. -/
def Xls.Whole (x : Xls) : Prop := x.moving = false ∧ x.held = none ∧ x.nonres = none ∧ x.fails = []

/-- What a block is asked for with. -/
def Req.key (q : Req) : Nat × Nat × BitVec 512 := (q.blk, q.lo, q.mask)
def Piece.key (p : Piece) : Nat × Nat × BitVec 512 := (p.blk, p.lo, p.mask)

/-- An access whose blocks are all found has one for each that it asked for (R27). -/
theorem State.xlAll_whole {s : State} {w : Who} {cache : List RcEnt} {space : Nat} {n : Need} {qs : List Req} {x : Xls}
    (h : (s.xlAll w cache space n qs x).Whole) :
    x.Whole ∧ (s.xlAll w cache space n qs x).pieces.map Piece.key = x.pieces.map Piece.key ++ qs.map Req.key := by
  induction qs generalizing x with
  | nil => exact ⟨h, (List.append_nil _).symm⟩
  | cons q qs ih =>
    obtain ⟨⟨hmoving, hheld, hnonres, hfails⟩, hpieces⟩ := ih h
    have hlower : ∀ a : Option Nat, lower a q.lo ≠ none := by intro a; cases a <;> simp [lower]
    rw [State.xlAll, hpieces]
    cases hxl : s.xl w (x.used ++ cache) space n q.blk with
    | ok loc st u =>
      simp only [hxl] at hmoving hheld hnonres hfails ⊢
      exact ⟨⟨hmoving, hheld, hnonres, hfails⟩, by simp [Piece.key, Req.key]⟩
    | fail c st u => simp [hxl] at hfails
    | data c st => simp [hxl] at hfails
    | nonresident => simp [hxl, hlower] at hnonres
    | held => simp [hxl, hlower] at hheld
    | moving => simp [hxl] at hmoving

/-! ### Blocks that are read -/

theorem Tbl.find?_put_same {α : Type} (t : Tbl α) (k : Nat) (v : α) : (t.put k v).find? (fun p => p.1 == k) = some (k, v) := by
  induction t with
  | nil => simp [Tbl.put]
  | cons p rest ih =>
    obtain ⟨j, w⟩ := p
    unfold Tbl.put
    split
    · simp
    · split
      · simp
      · next hj _ => rw [List.find?_cons_of_neg (by simpa using hj), ih]

/-- The blocks gathered hold the bits of a block that an access touches. -/
def Flight.Has (f : Flight) (p : Piece) (b : BitVec 512) : Prop :=
  ∃ c, f.got.find? (fun e => e.1 == p.blk) = some (p.blk, c) ∧ ∀ i, p.bits.getLsbD i = true → c.getLsbD i = b.getLsbD i

theorem Flight.read_has (f : Flight) (p : Piece) (b : BitVec 512) : (f.read p b).Has p b :=
  ⟨_, Tbl.find?_put_same _ _ _, fun i hi => by simp [hi]⟩

/-- Blocks that all answer are read without a failure, and each is gathered (R105). -/
theorem State.performList_has {s : State} {ps : List Piece} {f : Flight} (hact : f.act = .read)
    (hok : ∀ p ∈ ps, ∃ b, s.homeRead f.plain p.loc = .ok b) (hdis : (ps.map Piece.blk).Nodup) :
    (s.performList f ps).1.fails = f.fails ∧
      (∀ p ∈ ps, ∀ b, s.homeRead f.plain p.loc = .ok b → (s.performList f ps).1.Has p b) ∧
      ∀ k, k ∉ ps.map Piece.blk →
        (s.performList f ps).1.got.find? (fun e => e.1 == k) = f.got.find? (fun e => e.1 == k) := by
  induction ps generalizing f with
  | nil => exact ⟨rfl, fun p hp => absurd hp List.not_mem_nil, fun _ _ => rfl⟩
  | cons p ps ih =>
    obtain ⟨b, hb⟩ := hok p List.mem_cons_self
    obtain ⟨hp, hps⟩ := List.nodup_cons.1 hdis
    have hstep : s.performList f (p :: ps) = s.performList { f.read p b with done := f.done ++ [p.blk] } ps := by
      rw [State.performList, State.performPiece_read hact hb]
    obtain ⟨hfails, hhas, hother⟩ := ih (f := { f.read p b with done := f.done ++ [p.blk] }) hact
      (fun q hq => hok q (List.mem_cons_of_mem _ hq)) hps
    rw [hstep]
    refine ⟨hfails, fun q hq c hc => ?_, fun k hk => ?_⟩
    · rcases List.mem_cons.1 hq with rfl | hq
      · obtain rfl : b = c := by simpa [hb] using hc
        obtain ⟨d, hd, hbits⟩ := f.read_has q b
        exact ⟨d, (hother _ hp).trans hd, hbits⟩
      · exact hhas q hq c hc
    · rw [List.map_cons, List.mem_cons, not_or] at hk
      exact (hother k hk.2).trans (Tbl.find?_put_ne _ _ hk.1)

/-- An aligned word lies in one block (R5). -/
theorem gather_word {got : Tbl (BitVec 512)} {a : Nat} {b : BitVec 512} (ha : a % 8 = 0)
    (hgot : got.find? (fun e => e.1 == a / 64 * 64 % 2 ^ 64) = some (a / 64 * 64 % 2 ^ 64, b)) :
    gather got a 8 = some (b.toNat / 2 ^ (8 * (a % 64)) % 2 ^ 64) := by
  have hone : (a + 8 - 1) / 64 - a / 64 + 1 = 1 := by omega
  have hmax : max a (a / 64 * 64) = a := by omega
  have hlo : a % 2 ^ 64 - a / 64 * 64 % 2 ^ 64 = a % 64 := by omega
  have hmin : min 64 (a % 64 + 8) - a % 64 = 8 := by omega
  simp only [gather, spanReqs, hone, List.range_one, List.map_cons, List.map_nil, List.foldr_cons, List.foldr_nil,
    Nat.add_zero, hmax, hgot, hlo, if_true, hmin, OfNat.ofNat_ne_zero, if_false, Option.map_some]
  simp

/-! ### Structures -/

/-- The blocks of contiguous bytes, fewer than the address space holds, are apart (R247). -/
theorem spanReqs_nodup {ea n : Nat} (hn : n ≤ 2 ^ 32) : ((spanReqs ea n).map Req.blk).Nodup := by
  unfold spanReqs
  split
  · exact List.nodup_nil
  · rw [List.map_map]
    refine List.Nodup.map_on (fun i hi j hj hij => ?_) List.nodup_range
    rw [List.mem_range] at hi hj
    simp only [Function.comp_apply] at hij
    omega

/-- A byte of a span lies in one of its blocks, among the bytes asked for. -/
theorem mem_spanReqs {ea n a : Nat} (hlo : ea ≤ a) (hhi : a < ea + n) :
    ∃ q ∈ spanReqs ea n, q.blk = a / 64 * 64 % 2 ^ 64 ∧
      q.mask = byteMask (max ea (a / 64 * 64) - a / 64 * 64) (min (ea + n) (a / 64 * 64 + 64) - a / 64 * 64) := by
  rw [spanReqs, if_neg (by omega)]
  refine ⟨_, List.mem_map.2 ⟨a / 64 - ea / 64, List.mem_range.2 (by omega), rfl⟩, ?_⟩
  rw [show ea / 64 + (a / 64 - ea / 64) = a / 64 by omega]
  exact ⟨rfl, rfl⟩

/-- A block of a span holds one of its bytes. -/
theorem exists_byte_of_mem_spanReqs {ea n : Nat} {q : Req} (h : q ∈ spanReqs ea n) :
    ∃ k, k < n ∧ q.blk = (ea + k) / 64 * 64 % 2 ^ 64 := by
  unfold spanReqs at h
  split at h
  · simp at h
  · obtain ⟨i, hi, rfl⟩ := List.mem_map.1 h
    rw [List.mem_range] at hi
    refine ⟨max ea ((ea / 64 + i) * 64) - ea, by omega, ?_⟩
    dsimp only
    omega

section
variable {s : State} {ea : Word} {m : Nat} {words : List Word} (h : Claim.Structure s ea m words) (hal : ea.toNat % 8 = 0)
  (hm : 8 * m ≤ 2 ^ 32)
include h

/-- The blocks of a structure are those asked for (R268). -/
theorem structure_keys : (s.translate 0 .load (spanReqs ea.toNat (8 * m))).pieces.map Piece.key =
    (spanReqs ea.toNat (8 * m)).map Req.key := by
  obtain ⟨-, -, hmoving, hheld, hnonres, hfails, -⟩ := h
  exact (State.xlAll_whole (x := {}) ⟨hmoving, hheld, hnonres, hfails⟩).2.trans (List.nil_append _)

include hm

theorem structure_nodup : ((s.translate 0 .load (spanReqs ea.toNat (8 * m))).pieces.map Piece.blk).Nodup := by
  have hblk := congrArg (List.map Prod.fst) (structure_keys h)
  rw [List.map_map, List.map_map] at hblk
  exact (show List.map Piece.blk _ = List.map Req.blk _ from hblk) ▸ spanReqs_nodup hm

/-- Every byte of a structure stands in the block of it that is found (R268). -/
theorem structure_byte : ∃ bytes : Nat → Nat,
    (words = (List.range m).map fun j => BitVec.ofNat 64 (Claim.value (fun k => bytes (8 * j + k)) 8)) ∧
    ∀ p ∈ (s.translate 0 .load (spanReqs ea.toNat (8 * m))).pieces, ∀ k, k < 8 * m →
      p.blk = (ea.toNat + k) / 64 * 64 % 2 ^ 64 → ∃ b, s.homeRead true p.loc = .ok b ∧
        bytes k = b.toNat / 2 ^ (8 * ((ea.toNat + k) % 64)) % 256 := by
  have hnodup := structure_nodup h hm
  obtain ⟨-, -, -, -, -, -, -, bytes, hbytes, hwords⟩ := h
  refine ⟨bytes, hwords, fun p hp k hk hblk => ?_⟩
  obtain ⟨q, hq, b, hqblk, hread, hval⟩ := hbytes k hk
  have hqp : q = p := List.inj_on_of_nodup_map hnodup hq hp (by omega)
  subst hqp
  exact ⟨b, hread, by rw [hval, show (ea.toNat + k) % 2 ^ 64 % 64 = (ea.toNat + k) % 64 by omega]⟩

theorem structure_reads : ∀ p ∈ (s.translate 0 .load (spanReqs ea.toNat (8 * m))).pieces,
    ∃ b, s.homeRead true p.loc = .ok b := by
  intro p hp
  obtain ⟨q, hq, hkey⟩ := List.mem_map.1 (structure_keys h ▸ List.mem_map.2 ⟨p, hp, rfl⟩)
  obtain ⟨k, hk, hblk⟩ := exists_byte_of_mem_spanReqs hq
  obtain ⟨_, -, hbyte⟩ := structure_byte h hm
  obtain ⟨b, hb, -⟩ := hbyte p hp k hk (by rw [← hblk]; exact (congrArg Prod.fst hkey).symm)
  exact ⟨b, hb⟩

include hal

/-- A word of a structure is gathered from the blocks read (R5, R268). -/
theorem structure_words {f : Flight} (hf : ∀ p ∈ (s.translate 0 .load (spanReqs ea.toNat (8 * m))).pieces, ∀ b,
      s.homeRead true p.loc = .ok b → f.Has p b) :
    (List.range m).map (fun j => BitVec.ofNat 64 ((gather f.got (ea.toNat + 8 * j) 8).getD 0)) = words := by
  obtain ⟨bytes, hwords, hbyte⟩ := structure_byte h hm
  rw [hwords]
  refine List.map_congr_left fun j hj => ?_
  rw [List.mem_range] at hj
  obtain ⟨q, hq, hblk, hmask⟩ := mem_spanReqs (ea := ea.toNat) (n := 8 * m) (a := ea.toNat + 8 * j) (by omega) (by omega)
  obtain ⟨p, hp, hkey⟩ := List.mem_map.1 ((structure_keys h).symm ▸ List.mem_map.2 ⟨q, hq, rfl⟩)
  simp only [Piece.key, Req.key, Prod.mk.injEq] at hkey
  obtain ⟨hpblk, -, hpmask⟩ := hkey
  obtain ⟨b, hb⟩ := structure_reads h hm p hp
  obtain ⟨c, hgot, hbits⟩ := hf p hp b hb
  rw [hpblk, hblk] at hgot
  rw [gather_word (by omega) hgot]
  have hsame : c.toNat / 2 ^ (8 * ((ea.toNat + 8 * j) % 64)) % 2 ^ 64 =
      b.toNat / 2 ^ (8 * ((ea.toNat + 8 * j) % 64)) % 2 ^ 64 := by
    refine field_congr fun i hi => hbits _ ?_
    unfold Piece.bits
    split
    · show (~~~(0#512)).getLsbD _ = true
      rw [BitVec.getLsbD_not, BitVec.getLsbD_zero, decide_eq_true (by omega)]
      rfl
    · rw [hpmask, hmask, getLsbD_byteMask (by omega), Bool.and_eq_true, decide_eq_true_iff, decide_eq_true_iff]
      omega
  have hvalue : Claim.value (fun k => bytes (8 * j + k)) 8 =
      b.toNat / 2 ^ (8 * ((ea.toNat + 8 * j) % 64)) % 256 ^ 8 := by
    refine value_of_bytes fun k hk => ?_
    obtain ⟨b', hb', hval⟩ := hbyte p hp (8 * j + k) (by omega) (by rw [hpblk, hblk]; omega)
    obtain rfl : b = b' := by simpa [hb] using hb'
    rw [hval, Nat.div_div_eq_div_mul, show (256 : Nat) ^ k = 2 ^ (8 * k) by rw [pow_mul]; rfl, ← pow_add,
      show (ea.toNat + (8 * j + k)) % 64 = (ea.toNat + 8 * j) % 64 + k by omega, Nat.mul_add]
  rw [hvalue, Option.getD_some, hsame]
  rfl

end

end Sys2Proof.Machine
end

section
/-! SUPPORT. SBIND (R269): the record read, the range cache filled, the queue bound and paired in its ring. Settles O26. -/

namespace Sys2Proof.Machine

/-! ### The read of a structure -/

/-- What an operation answers on the words of a structure that it has read: a commit fills the range cache first (R24, R268). -/
def Res.reading (r : Res) (words : List Word) (used : List RcEnt) : Res :=
  match r with
  | .commit c => .commit { c with run := fun t => c.run (t.useEntries t.cur used)
                                  found := fun p => { c.found p with words := words, used := used } }
  | r => r

/-- The access by which a structure is read, before any block of it is done (R268). -/
def structFlight (s : State) (oc : OpCtx) : Flight := { newFlight s oc clsSR false 0 0 .read with pieces := [] }

theorem State.perform_struct (s : State) (oc : OpCtx) (ps : List Piece) :
    s.perform { newFlight s oc clsSR false 0 0 .read with pieces := ps, fails := [] } = s.performList (structFlight s oc) ps := rfl

/-- A structure whose blocks all answer is read at once (R268). -/
theorem State.structRead_eq {s : State} {ea : Word} {m : Nat} {words : List Word} (h : Claim.Structure s ea m words)
    (hal : ea.toNat % 8 = 0) (hm : 8 * m ≤ 2 ^ 32) (oc : OpCtx) (k : List Word → Res) :
    s.structRead oc ea.toNat (8 * m) k =
      (k words).reading words (s.translate 0 .load (spanReqs ea.toNat (8 * m))).used := by
  obtain ⟨hfails, hhas, -⟩ := State.performList_has (s := s) (f := structFlight s oc) rfl (structure_reads h hm)
    (structure_nodup h hm)
  have hwords := structure_words h hal hm hhas
  have hnone : lowestFail (structFlight s oc).fails = none := rfl
  obtain ⟨hpassed, hflights, hmoving, hheld, hnonres, hnofail, hview, -⟩ := h
  have howes : s.owesAccess = false := by simp [State.owesAccess, hflights]
  have hseen := List.all_eq_true.2 hview
  unfold State.structRead
  simp only [hpassed, howes, hmoving, hheld, hnonres, hnofail, hseen, Option.getD_none, List.isEmpty_nil, Bool.not_true,
    Bool.false_eq_true, if_false, Bool.or_false, List.filter_nil, State.perform_struct, hfails, hnone, hwords,
    Nat.mul_div_cancel_left m (by decide : 0 < 8)]
  cases k words <;> rfl

/-! ### Filling the range cache -/

/-- Using entries of the range cache changes that cache and what the range agents have recorded and sent of it, and nothing else
(R24, R37). -/
structure Fills (s t : State) (k : Nat) : Prop where
  rest : t = { s with
    cores := t.cores
    ranges := { s.ranges with records := t.ranges.records, fills := t.ranges.fills, invals := t.ranges.invals }
    uid := t.uid }
  core : t.core k = { s.core k with cache := (t.core k).cache }
  others : ∀ j, j ≠ k → t.core j = s.core j

theorem Fills.refl (s : State) (k : Nat) : Fills s s k := ⟨rfl, rfl, fun _ _ => rfl⟩

theorem Fills.trans {s t u : State} {k : Nat} (h : Fills s t k) (g : Fills t u k) : Fills s u k := by
  refine ⟨?_, ?_, fun j hj => (g.others j hj).trans (h.others j hj)⟩
  · rw [g.rest, h.rest]
  · rw [g.core, h.core]

theorem Fills.of_ranges {s t : State} (k : Nat) (ht : t = { s with ranges := t.ranges, uid := t.uid })
    (hr : t.ranges = { s.ranges with
      records := t.ranges.records, fills := t.ranges.fills, invals := t.ranges.invals }) : Fills s t k := by
  have hcore : ∀ j, t.core j = s.core j := fun j => by rw [ht]; rfl
  refine ⟨?_, by rw [hcore k], fun j _ => hcore j⟩
  rw [← hr, show t.cores = s.cores by rw [ht]]
  exact ht

theorem Ranges.record_eq (r : Ranges) (f : TdRec) :
    r.record f = { r with records := (r.record f).records, invals := (r.record f).invals } := by
  unfold Ranges.record
  dsimp only
  split <;> rfl

theorem State.recordFill_fills (s : State) (f : TdRec) (k : Nat) : Fills s (s.recordFill f) k := by
  have hrecord : Fills s (s.modRanges (·.record f)) k := by
    refine .of_ranges k rfl ?_
    dsimp only [State.modRanges]
    rw [Ranges.record_eq]
  unfold State.recordFill
  dsimp only
  split
  · split
    · exact hrecord
    · refine .of_ranges k rfl ?_
      dsimp only [State.modRanges]
      rw [Ranges.record_eq]
  · exact hrecord

theorem State.sendFill_fills (s : State) (e : RcEnt) (d k : Nat) : Fills s (s.sendFill e d) k := by
  unfold State.sendFill
  dsimp only
  split
  · exact .of_ranges k rfl rfl
  · exact State.recordFill_fills ..

theorem State.useEntries_fills (s : State) (k : Nat) (es : List RcEnt) : Fills s (s.useEntries k es) k := by
  refine List.foldlRecOn (motive := fun t => Fills s t k) _ _ (.refl s k) fun t ht e _ => ht.trans ?_
  have hcache : Fills t (t.modCore k fun c => { c with cache := cacheUse 32 c.cache e }) k :=
    ⟨rfl, by rw [State.core_modCore_same], fun j hj => State.core_modCore_ne _ _ hj⟩
  unfold State.useEntry
  dsimp only
  split
  · exact hcache
  · exact hcache.trans (State.sendFill_fills ..)

/-! ### The end of the bundle -/

/-- A bundle of one operation that transfers no control commits: its effect, and then the end of the bundle (R172, R233). -/
theorem runs_commit {s : State} {i : Instr} {op : Op} {c : Commit} {u : State} (hexec : exec i s = s.runOne i op)
    (hrows : s.my.badRow (rowSrc s i) = none) (hop : op ⟨s.my.pc, 0⟩ s = .commit c) (hnext : c.next = none)
    (hafter : c.after = id) (hu : c.run { s with raised := 0 } = u) :
    Runs i s fun t => ∃ n v, t = { u.setCore s.cur { (u.core s.cur).unblock with
      hart := { (((u.hart s.cur).modCtl (·.orFlags u.raised)).advance s.my.pc none).1 with
        wait := .none, ewait := .none, passed := none, interval := n } } with uid := v, raised := 0 } := by
  intro hd
  refine ⟨_, hexec.trans (State.runOne_commit hd hrows hop), ?_⟩
  rw [State.commitAll_one, hnext, hafter, hu]
  exact State.finishBundle_eq u s.cur s.my.pc none c.cut

/-! ### A ring's ends -/

/-- A queue of the hart in hand learns of a partner or of none, and nothing else of the queue or of the registers changes (R276). -/
def Pairs (s t : State) (i : Nat) : Prop :=
  t.cur = s.cur ∧ t.my.x = s.my.x ∧ ∃ p c, t.my.queue i = { s.my.queue i with partner := p, cluster := c } ∧
    (c = (s.my.queue i).cluster ∨ c = 32)

theorem Pairs.of_my {s t : State} {i : Nat} (hcur : t.cur = s.cur) (hmy : t.my = s.my) : Pairs s t i :=
  ⟨hcur, by rw [hmy], _, _, by rw [hmy], .inl rfl⟩

theorem OnlyStored.my {s t : State} (h : OnlyStored s t) : t.my = s.my := by
  have hcur : t.cur = s.cur := by rw [h.1]
  show (t.core t.cur).hart = s.my
  rw [hcur, h.2 s.cur]
  rfl

theorem State.areaPut_onlyStored {s t : State} {area owner off len val : Nat} (h : s.areaPut area owner off len val = .ok t) :
    OnlyStored s t := by
  unfold State.areaPut at h
  refine List.foldlRecOn (motive := fun r : Except Nat State => ∀ t, r = .ok t → OnlyStored s t) _ _ ?_ ?_ t h
  · rintro _ ⟨⟩
    exact .refl s
  · intro r hr b _ t ht
    cases r with
    | error e => cases ht
    | ok u => exact (hr u rfl).trans (State.physWrite_onlyStored ht)

theorem State.ctxPut_my (s : State) (area owner off len val : Nat) :
    (s.ctxPut area owner off len val).cur = s.cur ∧ (s.ctxPut area owner off len val).my = s.my := by
  unfold State.ctxPut
  split
  · next k g c _ =>
    refine ⟨rfl, ?_⟩
    show (State.core _ s.cur).hart = s.my
    by_cases hk : s.cur = k
    · rw [← hk, State.core_modCore_same]
      rfl
    · rw [State.core_modCore_ne _ _ hk]
      rfl
  · split
    · next t ht =>
      have hst := State.areaPut_onlyStored ht
      exact ⟨by rw [hst.1], hst.my⟩
    · exact ⟨rfl, rfl⟩

end Sys2Proof.Machine
end

section
/-! SUPPORT. SBIND (R269, R276): a ring's ends paired, and the queue bound afresh. Settles O26. -/

namespace Sys2Proof.Machine

/-! ### A ring's ends paired (R276) -/

theorem Pairs.trans {s t u : State} {i : Nat} (h : Pairs s t i) (g : Pairs t u i) : Pairs s u i := by
  obtain ⟨hcur, hx, p, c, hq, hc⟩ := h
  obtain ⟨gcur, gx, p', c', gq, gc⟩ := g
  refine ⟨gcur.trans hcur, gx.trans hx, p', c', by rw [gq, hq], ?_⟩
  rw [hq] at gc
  exact gc.elim (· ▸ hc) .inr

/-- A change of one queue's partner and cluster in the hart in hand pairs that queue, and leaves another as it is. -/
theorem Pairs.modMy (s : State) (i j : Nat) (f : Queue → Queue)
    (hf : ∀ r, ∃ p c, f r = { r with partner := p, cluster := c } ∧ (c = r.cluster ∨ c = 32)) :
    Pairs s (s.modMy fun h => h.modQueue j f) i := by
  refine ⟨rfl, by rw [State.my_modMy]; rfl, ?_⟩
  rw [State.my_modMy]
  by_cases hij : i = j
  · rw [← hij, Hart.queue_modQueue_same]
    exact hf _
  · rw [Hart.queue_modQueue_ne _ _ hij]
    exact ⟨_, _, rfl, .inl rfl⟩

theorem Pairs.modHart (s : State) (k i j : Nat) (p : Option (Nat × Nat × Word)) :
    Pairs s (s.modHart k fun h => h.modQueue j fun r => { r with partner := p }) i := by
  by_cases hk : s.cur = k
  · exact hk ▸ .modMy s i j _ fun r => ⟨p, r.cluster, rfl, .inl rfl⟩
  · exact .of_my rfl (congrArg Core.hart (State.core_modHart_ne s _ hk))

theorem State.setPartner_pairs (s : State) (handle : Word) (idx j i : Nat) (p : Option (Nat × Nat × Word)) :
    Pairs s (s.setPartner handle idx j p) i := by
  unfold State.setPartner
  split
  · exact .modHart ..
  · next e _ _ =>
    obtain ⟨hcur, hmy⟩ := State.ctxPut_my s e.area e.owner (24192 + 128 * j + 120) 8 ((p.map fun x => x.2.2.toNat).getD 0)
    exact .of_my hcur hmy
  · exact .of_my rfl rfl

theorem State.pairRing_pairs (s : State) (i : Nat) : Pairs s (s.pairRing i) i := by
  unfold State.pairRing
  dsimp only
  split
  · split
    · exact .trans (.modMy s i i _ fun r => ⟨_, r.cluster, rfl, .inl rfl⟩) (State.setPartner_pairs ..)
    · split
      · exact .of_my rfl rfl
      · exact .modMy s i i _ fun r => ⟨r.partner, 32, rfl, .inr rfl⟩
  · exact .of_my rfl rfl

theorem State.pairRing_of_not_ring {s : State} {i : Nat} (h : recRing (s.my.queue i).rcd = false) : s.pairRing i = s := by
  simp [State.pairRing, h]

/-! ### SBIND's traps and its effect -/

theorem opSbind_refused {a : SReg} {r : BitVec 1} {q : QReg} {s : State} {oc : OpCtx}
    (h : (s.my.queue q.toNat).bind ≠ 0 ∨ (s.my.rx a).toNat % 32 ≠ 0) : opSbind a r q oc s = .trap 0x03 0 :=
  if_pos h

/-- What SBIND does once it has read an acceptable record: the queue bound afresh, and paired in its ring (R269, R276). -/
def sbindEffect (s : State) (r : BitVec 1) (q : QReg) (oc : OpCtx) (rcd : List Word) (t : State) : State :=
  (t.modMy fun h => h.modQueue q.toNat fun _ =>
    { bind := r.toNat + 1, rcd := rcd, fill := s.my.ctl.fill, pc := oc.pc, slot := oc.slot,
      cluster := clusterOf t.cur }).pairRing q.toNat

/-- SBIND's answer on the record that it has read (R269). -/
def sbindAnswer (s : State) (r : BitVec 1) (q : QReg) (ea : Word) (oc : OpCtx) (rcd : List Word) : Res :=
  if recInvalid rcd then .trap 0x0B ea
  else if fmtReserved (recFmt rcd) then .trap 0x0E ea
  else commits (sbindEffect s r q oc rcd)

section
variable {s : State} {r : BitVec 1} {q : QReg} {ea : Word} {oc : OpCtx} {rcd : List Word}

theorem sbindAnswer_invalid (h : recInvalid rcd = true) : sbindAnswer s r q ea oc rcd = .trap 0x0B ea :=
  if_pos h

theorem sbindAnswer_reserved (h : recInvalid rcd = false) (hfmt : fmtReserved (recFmt rcd) = true) :
    sbindAnswer s r q ea oc rcd = .trap 0x0E ea := by
  simp [sbindAnswer, h, hfmt]

theorem sbindAnswer_accepted (h : recInvalid rcd = false) (hfmt : fmtReserved (recFmt rcd) = false) :
    sbindAnswer s r q ea oc rcd = commits (sbindEffect s r q oc rcd) := by
  simp [sbindAnswer, h, hfmt]

end

theorem opSbind_read {a : SReg} {r : BitVec 1} {q : QReg} {s : State} {rcd : List Word} (oc : OpCtx)
    (hfree : (s.my.queue q.toNat).bind = 0) (hal : (s.my.rx a).toNat % 32 = 0) (h : Claim.Structure s (s.my.rx a) 12 rcd) :
    opSbind a r q oc s = (sbindAnswer s r q (s.my.rx a) oc rcd).reading rcd
      (s.translate 0 .load (spanReqs (s.my.rx a).toNat 96)).used := by
  have hread := State.structRead_eq h (by omega) (by decide) oc (sbindAnswer s r q (s.my.rx a) oc)
  exact (if_neg (by simp [hfree, hal])).trans hread

/-- The queue that SBIND binds (R269). -/
def freshQueue (s : State) (r : BitVec 1) (rcd : List Word) : Queue :=
  { bind := r.toNat + 1, rcd := rcd, fill := s.my.ctl.fill, pc := s.my.pc, slot := 0, cluster := clusterOf s.cur }

/-- The machine with the range cache filled and the queue bound, before it is paired in its ring (R269). -/
def State.bound (s : State) (q : Nat) (b : Queue) (used : List RcEnt) : State :=
  (({ s with raised := 0 } : State).useEntries s.cur used).modMy fun h => h.modQueue q fun _ => b

theorem Fills.cur {s t : State} {k : Nat} (h : Fills s t k) : t.cur = s.cur := by rw [h.rest]

theorem Fills.my {s t : State} (h : Fills s t s.cur) : t.my = s.my := by
  show (t.core t.cur).hart = _
  rw [h.cur, h.core]
  rfl

theorem State.bound_cur (s : State) (q : Nat) (b : Queue) (used : List RcEnt) : (s.bound q b used).cur = s.cur :=
  (State.useEntries_fills { s with raised := 0 } s.cur used).cur

theorem State.bound_my (s : State) (q : Nat) (b : Queue) (used : List RcEnt) :
    (s.bound q b used).my = s.my.modQueue q fun _ => b := by
  unfold State.bound
  rw [State.my_modMy, (State.useEntries_fills { s with raised := 0 } s.cur used).my]
  rfl

/-- The effect on a machine whose range cache has been filled first. -/
theorem sbindEffect_useEntries (s : State) (r : BitVec 1) (q : QReg) (rcd : List Word) (used : List RcEnt) :
    sbindEffect s r q ⟨s.my.pc, 0⟩ rcd (({ s with raised := 0 } : State).useEntries s.cur used) =
      (s.bound q.toNat (freshQueue s r rcd) used).pairRing q.toNat := by
  unfold sbindEffect State.bound freshQueue
  rw [(State.useEntries_fills { s with raised := 0 } s.cur used).cur]

/-! ### What SBIND leaves -/

theorem sbind_exec (a : SReg) (r : BitVec 1) (q : QReg) (s : State) :
    exec (.sbind a r q) s = s.runOne (.sbind a r q) (opSbind a r q) := rfl

theorem sbind_rows (a : SReg) (r : BitVec 1) (q : QReg) (s : State) : s.my.badRow (rowSrc s (.sbind a r q)) = none :=
  Hart.badRow_nil _

/-- SBIND of an acceptable record commits: the queue bound, its ring's ends paired, and then the end of the bundle. -/
theorem sbind_runs {a : SReg} {r : BitVec 1} {q : QReg} {s : State} {rcd : List Word}
    (hfree : (s.my.queue q.toNat).bind = 0) (hal : (s.my.rx a).toNat % 32 = 0) (h : Claim.Structure s (s.my.rx a) 12 rcd)
    (hvalid : recInvalid rcd = false) (hfmt : fmtReserved (recFmt rcd) = false) :
    ∃ used u, u = (s.bound q.toNat (freshQueue s r rcd) used).pairRing q.toNat ∧ Runs (.sbind a r q) s fun t =>
      ∃ n v, t = { u.setCore s.cur { (u.core s.cur).unblock with
        hart := { (((u.hart s.cur).modCtl (·.orFlags u.raised)).advance s.my.pc none).1 with
          wait := .none, ewait := .none, passed := none, interval := n } } with uid := v, raised := 0 } := by
  let used := (s.translate 0 .load (spanReqs (s.my.rx a).toNat 96)).used
  have hop := (opSbind_read (r := r) ⟨s.my.pc, 0⟩ hfree hal h).trans
    (congrArg (Res.reading · rcd used) (sbindAnswer_accepted hvalid hfmt))
  exact ⟨used, _, rfl, runs_commit (sbind_exec a r q s) (sbind_rows a r q s) hop rfl rfl
    (sbindEffect_useEntries s r q rcd used)⟩

theorem runs_mono {i : Instr} {s : State} {P Q : State → Prop} (h : Runs i s P) (hpq : ∀ t, P t → Q t) : Runs i s Q := by
  intro hd
  obtain ⟨t, ht, hp⟩ := h hd
  exact ⟨t, ht, hpq t hp⟩

/-- The machine at the end of a bundle: its core in hand, and of that the registers and the queues (R172, R233). -/
theorem bundleEnd_my {u t : State} {k n v : Nat} {pc : Word} (hcur : u.cur = k)
    (ht : t = { u.setCore k { (u.core k).unblock with
      hart := { (((u.hart k).modCtl (·.orFlags u.raised)).advance pc none).1 with
        wait := .none, ewait := .none, passed := none, interval := n } } with uid := v, raised := 0 }) :
    t.my = { (((u.my).modCtl (·.orFlags u.raised)).advance pc none).1 with
      wait := .none, ewait := .none, passed := none, interval := n } := by
  subst hcur ht
  exact congrArg Core.hart (State.core_setCore_same ..)

theorem bundleEnd_kept (h : Hart) (f : BitVec 6) (pc : Word) :
    ((h.modCtl (·.orFlags f)).advance pc none).1.x = h.x ∧ ((h.modCtl (·.orFlags f)).advance pc none).1.queues = h.queues := by
  rw [advance_kept]
  exact ⟨rfl, rfl⟩

/-- The registers are kept, and the queue is bound afresh, with what it learns of a ring's other end (R269, R276). -/
theorem sbind_binds {a : SReg} {r : BitVec 1} {q : QReg} {s : State} {rcd : List Word}
    (hfree : (s.my.queue q.toNat).bind = 0) (hal : (s.my.rx a).toNat % 32 = 0) (h : Claim.Structure s (s.my.rx a) 12 rcd)
    (hvalid : recInvalid rcd = false) (hfmt : fmtReserved (recFmt rcd) = false) :
    Runs (.sbind a r q) s fun t => RegsKept s.my t.my ∧
      t.my.queue q.toNat =
        { freshQueue s r rcd with partner := (t.my.queue q.toNat).partner, cluster := (t.my.queue q.toNat).cluster } ∧
      ((t.my.queue q.toNat).cluster = clusterOf s.cur ∨ (t.my.queue q.toNat).cluster = 32) := by
  obtain ⟨used, u, hu, hruns⟩ := sbind_runs hfree hal h hvalid hfmt
  refine runs_mono hruns fun t ⟨n, v, ht⟩ => ?_
  obtain ⟨hcur, hx, p, c, hqueue, hc⟩ := hu ▸ State.pairRing_pairs (s.bound q.toNat (freshQueue s r rcd) used) q.toNat
  rw [State.bound_cur] at hcur
  rw [State.bound_my] at hx hqueue hc
  rw [Hart.queue_modQueue_same] at hqueue hc
  have hmy := bundleEnd_my hcur ht
  obtain ⟨hregs, hqueues⟩ := bundleEnd_kept u.my u.raised s.my.pc
  have hq : t.my.queue q.toNat = { freshQueue s r rcd with partner := p, cluster := c } := by
    rw [← hqueue, hmy]
    exact congrArg (fun b => b.get q.toNat) hqueues
  refine ⟨fun i => Hart.rx_congr ?_ i, ?_, ?_⟩
  · rw [hmy]
    exact hregs.trans hx
  · rw [hq]
  · rw [hq]
    exact hc

/-! ### A bundle that has filled the range cache -/

/-- Of all but its cores, only what the range agents have recorded and sent of the range cache has changed (R24, R37). -/
theorem around_of_eq {s t : State} {records fills : List TdRec} {invals : List Inval} (ht : t = { s with
      cores := t.cores
      ranges := { s.ranges with records := records, fills := fills, invals := invals }
      uid := t.uid, raised := t.raised })
    (hcore : CoreKept { s.me with cache := t.me.cache, scr := t.me.scr, scrMarks := t.me.scrMarks } t.me)
    (hothers : ∀ k, k ≠ s.cur → t.core k = { s.core k with scr := (t.core k).scr, scrMarks := (t.core k).scrMarks }) :
    Claim.Around s t := by
  refine ⟨?_, ?_, ?_, ?_, ?_, ?_, ?_, ?_, ?_, ?_, ?_, ?_, ?_, hcore, hothers⟩ <;> rw [ht]

theorem State.core_modMy_cur {s : State} {k : Nat} (f : Hart → Hart) (hk : s.cur = k) :
    (s.modMy f).core k = { s.core k with hart := f s.my } := by
  subst hk
  exact State.core_modHart_same s s.cur f

/-- A bundle that fills the range cache, and then changes its hart (R24, R172). -/
theorem changesWith_of_fills {i : Instr} {s : State} {f : Hart → Hart}
    (h : Runs i s fun t => ∃ v, Fills { s with raised := 0 } v s.cur ∧ ∃ n m, t = { (v.modMy f).setCore s.cur
      { ((v.modMy f).core s.cur).unblock with
        hart := { ((((v.modMy f).hart s.cur).modCtl (·.orFlags (v.modMy f).raised)).advance s.my.pc none).1 with
          wait := .none, ewait := .none, passed := none, interval := n } } with uid := m, raised := 0 }) :
    Claim.ChangesWith i s f := by
  refine runs_mono h fun t ⟨v, hv, n, m, ht⟩ => ?_
  have hcur : v.cur = s.cur := hv.cur
  have hraised : v.raised = 0 := congrArg State.raised hv.rest
  have hmod : (v.modMy f).core s.cur = { s.me with cache := (v.core s.cur).cache, hart := f s.my } := by
    rw [State.core_modMy_cur f hcur, hv.my, hv.core]
    rfl
  have hhart : (v.modMy f).hart s.cur = f s.my := congrArg Core.hart hmod
  have hflags : (v.modMy f).raised = 0 := hraised
  rw [hhart, hflags, Hart.modCtl_orFlags_zero, hmod] at ht
  have htcur : t.cur = s.cur := by rw [ht]; exact hcur
  have hmine : t.core s.cur = { Core.unblock { s.me with cache := (v.core s.cur).cache, hart := f s.my } with
      hart := { ((f s.my).advance s.my.pc none).1 with wait := .none, ewait := .none, passed := none, interval := n } } := by
    subst ht
    exact State.core_setCore_same ..
  have hme : t.me = _ := (congrArg t.core htcur).trans hmine
  have hothers : ∀ k, k ≠ s.cur → t.core k = s.core k := by
    intro k hk
    subst ht
    exact (State.core_setCore_ne _ _ hk).trans ((State.core_modHart_ne v f (hcur ▸ hk)).trans (hv.others k hk))
  have hfields : t = { v with cores := t.cores, uid := t.uid, raised := t.raised } := by
    subst ht
    rfl
  have hkept := hfields.trans
    (congrArg (fun w : State => { w with cores := t.cores, uid := t.uid, raised := t.raised }) hv.rest)
  refine ⟨around_of_eq hkept ?_ fun k hk => by rw [hothers k hk], ⟨by rw [hkept], fun k => ?_⟩, ?_⟩
  · rw [hme]
    exact ⟨rfl, unblock_queue _⟩
  · by_cases hk : k = s.cur
    · rw [hk, hmine]
      exact ⟨rfl, rfl⟩
    · rw [hothers k hk]
      exact ⟨rfl, rfl⟩
  · rw [State.my, hme]

/-- A queue bound outside a ring: all else but the range cache is as it was (R269). -/
theorem sbind_changes {a : SReg} {r : BitVec 1} {q : QReg} {s : State} {rcd : List Word}
    (hfree : (s.my.queue q.toNat).bind = 0) (hal : (s.my.rx a).toNat % 32 = 0) (h : Claim.Structure s (s.my.rx a) 12 rcd)
    (hvalid : recInvalid rcd = false) (hfmt : fmtReserved (recFmt rcd) = false) (hring : recRing rcd = false) :
    Claim.ChangesWith (.sbind a r q) s (·.modQueue q.toNat fun _ => freshQueue s r rcd) := by
  obtain ⟨used, u, hu, hruns⟩ := sbind_runs hfree hal h hvalid hfmt
  have hbound : ((s.bound q.toNat (freshQueue s r rcd) used).my.queue q.toNat).rcd = rcd := by
    rw [State.bound_my, Hart.queue_modQueue_same]
    rfl
  rw [State.pairRing_of_not_ring (hbound.symm ▸ hring)] at hu
  subst hu
  exact changesWith_of_fills (runs_mono hruns fun t ht => ⟨_, State.useEntries_fills _ s.cur used, ht⟩)

/-- Settles O26: the traps come before the queue is bound, and the queue is bound to the record that `State.structRead_eq` reads;
pairing it in its ring tells it its partner, or that it has none, and changes nothing else of it. -/
theorem streamBinding : Obligations.StreamBinding := by
  unfold Obligations.StreamBinding
  intro s a r q rcd
  dsimp only
  refine ⟨fun h => ?_, fun hfree hal h => ⟨fun hinv => ?_, fun hvalid hfmt => ?_,
    fun hvalid hfmt => ⟨?_, fun hring => ?_⟩⟩⟩
  · exact traps_of_trap (sbind_exec a r q s) (sbind_rows a r q s) (opSbind_refused h) (by decide) (by decide)
  · refine traps_of_trap (sbind_exec a r q s) (sbind_rows a r q s) ?_ (by decide) (by decide)
    rw [opSbind_read _ hfree hal h, sbindAnswer_invalid hinv]
    rfl
  · refine traps_of_trap (sbind_exec a r q s) (sbind_rows a r q s) ?_ (by decide) (by decide)
    rw [opSbind_read _ hfree hal h, sbindAnswer_reserved hvalid hfmt]
    rfl
  · exact sbind_binds hfree hal h hvalid hfmt
  · exact sbind_changes hfree hal h hvalid hfmt hring

end Sys2Proof.Machine
end

section
/-! SUPPORT. The passing of time (R100, R102): each die's copy of ATIME after a step. Settles O52. -/

namespace Sys2Proof.Machine

/-- A table of which some keys have been changed, each by a function of its own. -/
theorem Tbl.get_foldl_mod {α : Type} [Inhabited α] (g : Nat → α → α) {ks : List Nat} (hks : ks.Nodup) (t : Tbl α) (k : Nat) :
    (ks.foldl (fun t j => t.mod j (g j)) t).get k = if k ∈ ks then g k (t.get k) else t.get k := by
  induction ks generalizing t with
  | nil => simp
  | cons j ks ih =>
    obtain ⟨hj, hks⟩ := List.nodup_cons.1 hks
    rw [List.foldl_cons, ih hks, Tbl.get_mod]
    by_cases hk : k = j
    · subst hk
      simp [hj]
    · simp [hk]

/-- A die's copy of ATIME is between the master count and 8 ticks ahead of it (R100, R102). -/
theorem Die.pace_atime_bounds (v : Die) {master : Nat} (skew : Nat) (h : master + 8 < 2 ^ 64) :
    master ≤ (v.pace master skew).atime.toNat ∧ (v.pace master skew).atime.toNat ≤ master + 8 := by
  have htoNat : (v.pace master skew).atime.toNat = min (master + 8) (max v.atime.toNat (master + skew % 9)) :=
    Nat.mod_eq_of_lt (by omega)
  omega

/-- As time passes, every die's copy of ATIME follows the master count (R100). -/
theorem State.die_pass (s : State) {d : Nat} (hd : d < 16) :
    s.pass.die d = (s.die d).pace s.pass.master (Config.dieSkew d s.count) := by
  unfold State.die State.pass
  dsimp only
  rw [Tbl.get_foldl_mod (fun d (v : Die) => v.pace (s.master + (Config.ticks s.count).toNat) (Config.dieSkew d s.count)) List.nodup_range,
    if_pos (List.mem_range.2 hd)]

/-- A step ends with time passing. -/
theorem pass_of_step {s t : State} (h : step s = .next t) : ∃ u : State, t = u.pass := by
  unfold step at h
  split at h
  · cases h
  · exact ⟨_, (Host.Outcome.next.inj h).symm⟩

/-- Settles O52: the passing of time, with which a step ends, sets the copies of all dies, whatever they were before. -/
theorem timeSkew : Obligations.TimeSkew := by
  unfold Obligations.TimeSkew
  intro s t hstep hmaster
  obtain ⟨u, rfl⟩ := pass_of_step hstep
  have hbounds : ∀ d, d < 16 → u.pass.master ≤ (u.pass.die d).atime.toNat ∧ (u.pass.die d).atime.toNat ≤ u.pass.master + 8 := by
    intro d hd
    rw [u.die_pass hd]
    exact Die.pace_atime_bounds _ _ hmaster
  refine ⟨fun d e hd he => ?_, fun j k hjk => ?_⟩
  · obtain ⟨hlo, -⟩ := hbounds e he
    obtain ⟨hdlo, hdhi⟩ := hbounds d hd
    exact ⟨hdlo, by omega⟩
  · unfold State.atime dieOf
    rw [hjk]

end Sys2Proof.Machine
end

section
/-! SUPPORT. Time messages (R101, R103): the estimate of a disciplined count, and the forward step of an idle package. For O60. -/

namespace Sys2Proof.Machine

/-! ### The discipline -/

/-- The discipline after an estimate that makes no step: sixteen within the limit lock it (R101). -/
def Ptp.tracked (p : Ptp) (o : Int) : Ptp :=
  let near := if -400 ≤ o ∧ o ≤ 400 then p.inLimit + 1 else 0
  { p with offset := o, inLimit := near, state := if 16 ≤ near then 2 else 1, twoStep := false }

/-- An estimate once the count has been stepped (R101). -/
theorem State.ptpEstimate_stepped {s : State} (hstate : s.ptp.state = 1) (hstepped : s.ptp.stepped = true)
    (htwo : s.ptp.twoStep = false) (o : Int) : s.ptpEstimate o = { s with ptp := s.ptp.tracked o } := by
  unfold State.ptpEstimate Ptp.tracked
  simp only [hstate, hstepped, htwo, Bool.not_true, Bool.false_eq_true, false_and, and_false, if_false, Bool.true_or, true_and]

/-- What a Sync message leaves of a discipline that is not in holdover (R101, R103). -/
theorem Ptp.heard_eq {p : Ptp} (h : p.state ≠ 3) : p.heard = { p with age := 0 } := if_neg h

theorem ptpSync_oneStep {s : State} (hstate : s.ptp.state = 1) (hstepped : s.ptp.stepped = true) (o : Int) :
    Claim.Does (.ptpSync false o) s { s with ptp := { s.ptp.tracked o with age := 0 } } := by
  refine congrArg Host.Outcome.next ?_
  unfold State.ptpSync
  rw [if_neg (by omega), Ptp.heard_eq (by omega)]
  exact State.ptpEstimate_stepped (s := { s with ptp := { s.ptp with age := 0, twoStep := false } }) hstate hstepped rfl o

theorem ptpSync_twoStep {s : State} (hstate : s.ptp.state = 1) (o : Int) :
    Claim.Does (.ptpSync true o) s { s with ptp := { s.ptp with age := 0, twoStep := true } } := by
  refine congrArg Host.Outcome.next ?_
  unfold State.ptpSync
  rw [if_neg (by omega), Ptp.heard_eq (by omega)]
  rfl

theorem ptpFollowUp_step {s : State} (hstate : s.ptp.state = 1) (hstepped : s.ptp.stepped = true)
    (htwo : s.ptp.twoStep = true) (o : Int) : Claim.Does (.ptpFollowUp o) s { s with ptp := s.ptp.tracked o } := by
  refine congrArg Host.Outcome.next ?_
  unfold State.ptpFollowUp
  rw [if_neg (by simp [hstate, htwo])]
  exact State.ptpEstimate_stepped (s := { s with ptp := { s.ptp with twoStep := false } }) hstate hstepped rfl o

theorem ptpDelayResp_step {s : State} (hstate : s.ptp.state = 1) (o : Int) :
    Claim.Does (.ptpDelayResp o) s { s with ptp := { s.ptp with delay := o } } :=
  congrArg Host.Outcome.next (if_neg (by omega))

/-- A locked discipline goes into holdover with the eighth interval (R101, R103). -/
theorem syncTimeout_step {s : State} (hstate : s.ptp.state = 2) :
    Claim.Does .syncTimeout s { s with ptp := { s.ptp with age := max 8 s.ptp.age, inLimit := 0, state := 3 } } := by
  have hlapse : ({ s.ptp with age := max 8 s.ptp.age } : Ptp).lapse =
      { s.ptp with age := max 8 s.ptp.age, inLimit := 0, state := 3 } := by
    unfold Ptp.lapse
    rw [if_neg (by simp [hstate])]
    simp only [hstate, if_true]
  refine congrArg Host.Outcome.next ?_
  unfold State.ptpTimeout
  rw [if_neg (by omega), hlapse]

/-! ### The forward step -/

/-- A state whose counts of ATIME have moved on by some ticks, the master count and every die's copy (R101). -/
def State.forward (s : State) (n : Nat) : State :=
  { s with
    master := s.master + n
    dies := (List.range 16).foldl (fun t d => t.mod d fun v => { v with atime := v.atime + BitVec.ofNat 64 n }) s.dies }

@[simp] theorem State.forward_flights (s : State) (n : Nat) : (s.forward n).flights = s.flights := by unfold State.forward; rfl
@[simp] theorem State.forward_mem (s : State) (n : Nat) : (s.forward n).mem = s.mem := by unfold State.forward; rfl
@[simp] theorem State.forward_ptp (s : State) (n : Nat) : (s.forward n).ptp = s.ptp := by unfold State.forward; rfl
@[simp] theorem State.forward_master (s : State) (n : Nat) : (s.forward n).master = s.master + n := by unfold State.forward; rfl

theorem State.die_forward (s : State) (n d : Nat) : (s.forward n).die d =
    if d < 16 then { s.die d with atime := (s.die d).atime + BitVec.ofNat 64 n } else s.die d := by
  unfold State.die State.forward
  dsimp only
  rw [Tbl.get_foldl_mod (fun _ (v : Die) => { v with atime := v.atime + BitVec.ofNat 64 n }) List.nodup_range]
  simp only [List.mem_range]

theorem State.foldl_modDie (ks : List Nat) (g : Nat → Die → Die) (s : State) :
    ks.foldl (fun t d => t.modDie d (g d)) s = { s with dies := ks.foldl (fun t d => t.mod d (g d)) s.dies } := by
  induction ks generalizing s with
  | nil => rfl
  | cons k ks ih => rw [List.foldl_cons, ih]; rfl

/-- No timed access waits at a die, nor is one on its way. -/
theorem State.timedDueAll_idle {s : State} {d : Nat} (hflights : s.flights = []) (hheld : (s.die d).held = []) :
    s.timedDueAll d = s := by
  unfold State.timedDueAll
  rw [hflights, hheld]
  rfl

theorem State.map_flights_none {s : State} (h : s.flights = []) (f : Flight → Flight) :
    { s with flights := s.flights.map f } = s := by
  rw [h, List.map_nil, ← h]

/-- With no access held or on its way, the forward step moves the counts and nothing else (R101). -/
theorem State.stepTime_idle {s : State} (hflights : s.flights = []) (hheld : ∀ d, (s.die d).held = []) (n : Nat) :
    s.stepTime n = s.forward n := by
  have hnone : (s.forward n).flights = [] := (s.forward_flights n).trans hflights
  have hidle : ∀ d, (s.forward n).timedDueAll d = s.forward n := by
    intro d
    refine State.timedDueAll_idle hnone ?_
    rw [State.die_forward]
    split <;> exact hheld d
  have hmoved : (List.range 16).foldl (fun t d => t.modDie d fun v => { v with atime := v.atime + BitVec.ofNat 64 n })
      { s with master := s.master + n } = s.forward n := by
    rw [State.foldl_modDie _ fun _ (v : Die) => { v with atime := v.atime + BitVec.ofNat 64 n }]
    rfl
  unfold State.stepTime
  dsimp only
  rw [hmoved, State.map_flights_none hnone, List.foldl_fixed' hidle]

/-- The first estimate of a count that is far behind steps it forward (R101). -/
theorem State.ptpEstimate_forward {s : State} {o : Int} (hstate : s.ptp.state = 1) (hstepped : s.ptp.stepped = false)
    (ho : o < -4000000) (hflights : s.flights = []) (hheld : ∀ d, (s.die d).held = []) :
    s.ptpEstimate o = State.forward { s with ptp := { s.ptp with offset := 0, stepped := true, inLimit := 0 } } o.natAbs := by
  have hfar : s.ptp.state = 1 ∧ (!s.ptp.stepped) = true ∧ o < -4000000 := ⟨hstate, by rw [hstepped]; rfl, ho⟩
  unfold State.ptpEstimate
  dsimp only
  rw [if_pos hfar]
  exact State.stepTime_idle (s := { s with ptp := { s.ptp with offset := 0, stepped := true, inLimit := 0 } }) hflights hheld _

theorem ptpSync_forward {s : State} {o : Int} (hstate : s.ptp.state = 1) (hstepped : s.ptp.stepped = false) (ho : o < -4000000)
    (hflights : s.flights = []) (hheld : ∀ d, (s.die d).held = []) :
    Happens (.ptpSync false o) s fun t => t.ptp.stepped = true ∧ t.ptp.offset = 0 ∧ t.master = s.master + o.natAbs ∧
      t.mem = s.mem ∧ ∀ d, d < 16 → (t.die d).atime = (s.die d).atime + BitVec.ofNat 64 o.natAbs := by
  have hstep := State.ptpEstimate_forward (s := { s with ptp := { s.ptp with age := 0, twoStep := false } }) hstate hstepped ho
    hflights hheld
  have hsync : s.ptpSync false o = State.ptpEstimate { s with ptp := { s.ptp with age := 0, twoStep := false } } o := by
    unfold State.ptpSync
    rw [if_neg (by omega), Ptp.heard_eq (by omega)]
    rfl
  refine happens_of_eq rfl (hsync.trans hstep) ⟨?_, ?_, State.forward_master _ _, State.forward_mem _ _, fun d hd => ?_⟩
  · rw [State.forward_ptp]
  · rw [State.forward_ptp]
  · rw [State.die_forward, if_pos hd]
    rfl

end Sys2Proof.Machine
end

section
/-! SUPPORT. Host and peer accesses (R125, R357, R358): what a window, a peer entry and BAR0 answer. For O60. -/

namespace Sys2Proof.Machine

/-- A module that is up is neither tripped nor in recovery (R362, R365). -/
theorem State.down_eq_false {s : State} (h : s.down = false) : s.link.tripped = false ∧ s.link.recovery = false :=
  Bool.or_eq_false_iff.1 h

/-! ### Host writes -/

section
variable {s : State} {off : Nat} {data : List Byte} (hup : s.down = false) (hdata : data ≠ [])
include hup hdata

/-- A write that is not relaxed, inside a window, follows those that are held (R125). -/
theorem State.hostWrite_inside {va owner : Nat} (hwin : s.windowAt off data.length = some (va, owner)) :
    s.hostWrite off data false =
      let w : HostWr := ⟨BitVec.ofNat 64 va, owner, data⟩
      if s.delay then s.modLink fun l => { l with held := l.held ++ [w] } else s.hostFlush (s.link.held ++ [w]) := by
  have hgo : (s.down || data.isEmpty) = false := by simp [hup, hdata]
  unfold State.hostWrite
  simp only [hgo, hwin, Bool.false_and, Bool.false_eq_true, if_false]

/-- While the fabric answers later, a host write is held (R125). -/
theorem hostWrite_holds {va owner : Nat} (hwin : s.windowAt off data.length = some (va, owner)) (hdelay : s.delay = true) :
    Claim.Does (.hostWrite off data false) s
      { s with link := { s.link with held := s.link.held ++ [⟨BitVec.ofNat 64 va, owner, data⟩] } } :=
  congrArg Host.Outcome.next ((State.hostWrite_inside hup hdata hwin).trans (if_pos hdelay))

/-- A host write that does not fail performs (R125, R357). -/
theorem hostWrite_performs {va owner : Nat} (hwin : s.windowAt off data.length = some (va, owner)) (hdelay : s.delay = false)
    (hheld : s.link.held = []) {f : Flight} {absent : Bool} {t : State}
    (hacc : s.hostAccess owner (va % 2 ^ 64) .write (storeReqs (va % 2 ^ 64) data.length (ofBytes data)) = .done f absent t)
    (hfails : f.fails = []) : Happens (.hostWrite off data false) s fun u => u.mem = t.mem ∧ u.link.held = [] := by
  have hput : s.hostPut ⟨BitVec.ofNat 64 va, owner, data⟩ = some t := by
    unfold State.hostPut
    rw [BitVec.toNat_ofNat, hacc]
    dsimp only
    rw [State.hostLog, hfails]
    rfl
  have hstep : s.hostWrite off data false = t.modLink fun l => { l with held := [] } := by
    rw [State.hostWrite_inside hup hdata hwin, hdelay, hheld]
    dsimp only [List.nil_append]
    rw [if_neg Bool.false_ne_true, State.hostFlush, hput]
    rfl
  exact happens_of_eq rfl hstep ⟨rfl, rfl⟩

/-- A host write outside every window is logged, and stores nothing (R357). -/
theorem hostWrite_outside (hwin : s.windowAt off data.length = none) :
    Happens (.hostWrite off data false) s fun t => t.mem = s.mem ∧ t.cores = s.cores ∧ t.link = s.link := by
  have hgo : (s.down || data.isEmpty) = false := by simp [hup, hdata]
  have hstep : s.hostWrite off data false = s.modDie routingDie fun v => v.log (outsideEntry s off 0x02 1 0) := by
    unfold State.hostWrite
    simp only [hgo, hwin, Bool.false_eq_true, if_false]
  exact happens_of_eq rfl hstep ⟨rfl, rfl, rfl⟩

end

/-! ### Host reads -/

theorem State.useHost_mem (s : State) (es : List RcEnt) : (s.useHost es).mem = s.mem := by
  refine List.foldlRecOn (motive := fun t : State => t.mem = s.mem) es _ rfl fun t ht e _ => ?_
  have hfill (u : State) : (u.sendFill e 16).mem = u.mem := by rw [(u.sendFill_fills e 16 0).rest]
  dsimp only
  split
  · exact ht
  · exact (hfill _).trans ht

/-- A read by the host changes no memory (R357). -/
theorem State.hostAccess_read_mem {s t : State} {owner va : Nat} {reqs : List Req} {f : Flight} {absent : Bool}
    (h : s.hostAccess owner va .read reqs = .done f absent t) : t.mem = s.mem := by
  unfold State.hostAccess at h
  split at h
  · obtain ⟨-, -, rfl⟩ := HostEnd.done.inj h
    rfl
  · next w _ =>
    simp only [if_true] at h
    split at h
    · cases h
    · obtain ⟨g, hg, -⟩ := State.performList_read (f := hostFlight owner .read [])
        (s.xlAll w s.link.cache 0 .load reqs {}).pieces rfl (s.useHost (s.xlAll w s.link.cache 0 .load reqs {}).used)
      rw [hg] at h
      obtain ⟨-, -, rfl⟩ := HostEnd.done.inj h
      exact State.useHost_mem ..

/-- With no write held there is nothing to perform first (R125). -/
theorem State.hostFlush_nil {s : State} (h : s.link.held = []) : s.hostFlush [] = s := by
  have hlink : { s.link with held := [] } = s.link := by rw [← h]
  rw [State.hostFlush, State.modLink, hlink]

section
variable {s : State} {off n : Nat} (hup : s.down = false)
include hup

theorem hostRead_outside (hoff : off < 2 ^ 40) (hwin : s.windowAt off n = none) :
    Claim.Does (.hostRead off n) s { s with link := { s.link with reply := some (List.replicate n 0xFF) } } := by
  obtain ⟨htripped, hrecovery⟩ := State.down_eq_false hup
  have hstep : s.hostRead off n = s.modLink fun l => { l with reply := some (List.replicate n 0xFF) } := by
    unfold State.hostRead
    simp only [htripped, hrecovery, hwin, Nat.not_le.2 hoff, Bool.false_eq_true, if_false]
  exact congrArg Host.Outcome.next hstep

/-- A read at BAR0 gives bytes of the management registers (R356, R361). -/
theorem hostRead_registers (hn : off + n ≤ 2 ^ 30) :
    Claim.Does (.hostRead (2 ^ 40 + off) n) s { s with link := { s.link with reply := some (s.regBytes off n) } } := by
  obtain ⟨htripped, hrecovery⟩ := State.down_eq_false hup
  have hstep : s.hostRead (2 ^ 40 + off) n = s.modLink fun l => { l with reply := some (s.regBytes off n) } := by
    unfold State.hostRead State.bar0Read
    simp only [htripped, hrecovery, hn, Nat.le_add_right, Nat.add_sub_cancel_left, Bool.false_and, Bool.false_eq_true, if_false,
      if_true]
  exact congrArg Host.Outcome.next hstep

/-- A host read that does not fail gives the bytes that it gathers (R357). -/
theorem hostRead_performs (hoff : off < 2 ^ 40) (hheld : s.link.held = []) {va owner w : Nat} {f : Flight} {t : State}
    (hwin : s.windowAt off n = some (va, owner)) (hacc : s.hostAccess owner va .read (spanReqs va n) = .done f false t)
    (hfails : f.fails = []) (hgot : gather f.got va n = some w) :
    Happens (.hostRead off n) s fun u => u.link.reply = some (bytesOf w n) ∧ u.mem = s.mem := by
  obtain ⟨htripped, hrecovery⟩ := State.down_eq_false hup
  have hstep : s.hostRead off n = t.modLink fun l => { l with reply := some (bytesOf w n) } := by
    unfold State.hostRead
    simp only [htripped, hrecovery, hwin, Nat.not_le.2 hoff, Bool.false_eq_true, if_false, hheld, State.hostFlush_nil hheld,
      List.isEmpty_nil, if_true, hacc, hfails, hgot, Bool.not_false, Bool.and_self]
  exact happens_of_eq rfl hstep ⟨rfl, (State.modLink_mem ..).trans (State.hostAccess_read_mem hacc)⟩

end

/-! ### Peers -/

/-- A peer access that no entry accepts gets an error response (R358). -/
theorem peerAccess_refused {s : State} {part pa n : Nat} {data : List Byte} (hup : s.down = false)
    (h : s.peerEntry part pa (if data.isEmpty then n else data.length) = none) :
    Happens (.peerInboundAccess part pa n data) s fun t => t.mem = s.mem ∧ t.cores = s.cores ∧ t.link.reply = none := by
  have hstep : s.peerAccess part pa n data = (s.modDie 0 fun v =>
      v.log (outsideEntry s pa 0x13 (if data.isEmpty then 0 else 1) 0)).modLink fun l => { l with reply := none } := by
    unfold State.peerAccess
    simp only [hup, h, Bool.false_eq_true, if_false]
  exact happens_of_eq rfl hstep ⟨rfl, rfl, rfl⟩

/-- An entry that accepts an access reaches no further than the HBM (R358). -/
theorem State.peerEntry_bound {s : State} {part pa n owner : Nat} (h : s.peerEntry part pa n = some owner) :
    pa + n ≤ 0xC000000000 := by
  obtain ⟨i, -, hi⟩ := List.exists_of_findSome?_eq_some h
  dsimp only at hi
  split at hi
  · next hc =>
    obtain ⟨-, -, -, -, -, hbound⟩ := hc
    exact hbound
  · cases hi

/-- The mask of all bytes of a block. -/
theorem byteMask_whole : byteMask 0 64 = BitVec.allOnes 512 := by
  refine BitVec.eq_of_getLsbD_eq fun i hi => ?_
  rw [getLsbD_byteMask (by omega), BitVec.getLsbD_allOnes]
  simp [hi]

/-- The span of one aligned block (R5). -/
theorem spanReqs_block {pa : Nat} (hal : pa % 64 = 0) (hpa : pa < 2 ^ 64) :
    spanReqs pa 64 = [{ blk := pa, lo := pa, mask := BitVec.allOnes 512 }] := by
  have hone : (pa + 64 - 1) / 64 - pa / 64 + 1 = 1 := by omega
  have hblk : pa / 64 * 64 = pa := by omega
  have hmask : byteMask (pa - pa) (pa + 64 - pa) = BitVec.allOnes 512 := by
    rw [Nat.sub_self, Nat.add_sub_cancel_left, byteMask_whole]
  simp only [spanReqs, hone, List.range_one, List.map_cons, List.map_nil, Nat.add_zero, hblk, Nat.max_self, Nat.min_self, hmask,
    Nat.mod_eq_of_lt hpa, OfNat.ofNat_ne_zero, if_false]

/-- One aligned block gathered is its number. -/
theorem gather_block {got : Tbl (BitVec 512)} {pa : Nat} {b : BitVec 512} (hal : pa % 64 = 0) (hpa : pa < 2 ^ 64)
    (hgot : got.find? (fun e => e.1 == pa) = some (pa, b)) : gather got pa 64 = some b.toNat := by
  have hbits : 8 * 64 = 512 := rfl
  unfold gather
  rw [spanReqs_block hal hpa]
  simp only [List.foldr_cons, List.foldr_nil, hgot, Nat.sub_self, Nat.zero_add, Nat.mod_eq_of_lt hpa, if_true, Nat.min_self,
    Nat.sub_zero, Nat.mul_zero, Nat.pow_zero, Nat.div_one, Nat.zero_mul, Nat.add_zero, Option.map_some, hbits, Nat.mod_mod]
  exact congrArg some b.toNat_mod_cancel

/-- An access of a whole block touches all its bits. -/
theorem Piece.bits_whole {p : Piece} (h : p.mask = BitVec.allOnes 512) : p.bits = BitVec.allOnes 512 := by
  unfold Piece.bits
  split
  · exact BitVec.not_zero
  · exact h

/-- A whole block that answers a read is gathered, and nothing else happens (R105). -/
theorem State.performList_block {s : State} {f : Flight} {p : Piece} {b : BitVec 512} (hact : f.act = .read)
    (hmask : p.mask = BitVec.allOnes 512) (hread : s.homeRead f.plain p.loc = .ok b) :
    ∃ g, s.performList f [p] = (g, s) ∧ g.fails = f.fails ∧ g.got.find? (fun e => e.1 == p.blk) = some (p.blk, b) := by
  obtain ⟨g, hg, -⟩ := State.performList_read [p] hact s
  obtain ⟨hfails, hhas, -⟩ := State.performList_has (s := s) (ps := [p]) hact
    (fun q hq => ⟨b, List.mem_singleton.1 hq ▸ hread⟩) (List.nodup_singleton _)
  rw [hg] at hfails hhas
  obtain ⟨c, hfind, hbits⟩ := hhas p List.mem_cons_self b hread
  obtain rfl : c = b := BitVec.eq_of_getLsbD_eq fun i hi => hbits i (by
    rw [Piece.bits_whole hmask, BitVec.getLsbD_allOnes, decide_eq_true hi])
  exact ⟨g, hg, hfails, hfind⟩

/-- A peer reads one block under owner 0's name (R358). -/
theorem peerAccess_reads {s : State} {part pa : Nat} {blk : BitVec 512} (hup : s.down = false) (hal : pa % 64 = 0)
    (hentry : s.peerEntry part pa 64 = some 0) (hread : s.physRead pa 0 0 = .ok blk) (hreg : ∀ x, s.region pa ≠ .mmio x)
    (hstill : s.incoming pa = false) :
    Happens (.peerInboundAccess part pa 64 []) s fun t => t.mem = s.mem ∧ t.link.reply = some (bytesOf blk.toNat 64) := by
  have hpa : pa < 2 ^ 64 := by
    have := State.peerEntry_bound hentry
    omega
  let p : Piece := { blk := pa, lo := pa, loc := .mem pa (pa / 0xC00000000) none, mask := BitVec.allOnes 512 }
  have hhome : s.homeRead true p.loc = .ok blk := by
    unfold State.homeRead
    dsimp only [p]
    split
    · next x e => exact absurd e (hreg x)
    · exact hread
  obtain ⟨g, hg, hfails, hfind⟩ := State.performList_block (f := hostFlight 0 .read []) (p := p) rfl rfl hhome
  have hstep : s.peerAccess part pa 64 [] = s.modLink fun l => { l with reply := some (bytesOf blk.toNat 64) } := by
    unfold State.peerAccess
    simp only [hup, Bool.false_eq_true, if_false, List.isEmpty_nil, if_true, hentry, spanReqs_block hal hpa, List.any_cons,
      List.any_nil, hstill, Bool.or_false, List.map_cons, List.map_nil]
    rw [hg]
    dsimp only
    rw [hfails, gather_block hal hpa hfind]
    rfl
  exact happens_of_eq rfl hstep ⟨rfl, rfl⟩

end Sys2Proof.Machine
end

section
/-! SUPPORT. Register writes, circuits, routes, reports and keys (R359 to R361, R363, R364). For O60. -/

namespace Sys2Proof.Machine

/-! ### Registers -/

section
variable {s : State} (htripped : s.link.tripped = false) (hrecovery : s.link.recovery = false)
include htripped hrecovery

/-- A module that is up takes a register write (R361, R362). -/
theorem State.writeReg_up (lvl : Option Level) (off : Nat) (v : Word) :
    s.writeReg lvl off v = s.regWrite lvl (off / 8 * 8) v := by
  unfold State.writeReg
  simp only [htripped, hrecovery, Bool.false_and, Bool.or_self, Bool.false_eq_true, if_false]

/-- The supervisor names the owner of a window (R357). -/
theorem hostWindowWrite_owner {off : Nat} {v : Word} (hoff : off < 0x200) (hal : off % 8 = 0) (howner : off / 8 % 4 = 2)
    (hv : v.toNat < 4096) :
    Claim.Does (.hostWindowWrite .s off v) s { s with link := { s.link with windows := s.link.windows.put (off / 8) v } } := by
  have hreg : s.regWrite (some .s) (0x20002000 + off) v = s.windowWrite ((0x20002000 + off - 0x20002000) / 8) v := by
    unfold State.regWrite
    dsimp only
    rw [if_neg (by decide), if_neg (by omega), if_neg (by omega), if_neg (by decide), if_neg (by omega), if_neg (by omega),
      if_neg (by omega), if_pos (by omega)]
  have hwindow : s.windowWrite (off / 8) v = s.modLink fun l => { l with windows := l.windows.put (off / 8) v } := by
    unfold State.windowWrite
    simp only [howner, hv, decide_true, if_true]
  have hstep : s.writeWindow .s off v = s.modLink fun l => { l with windows := l.windows.put (off / 8) v } := by
    unfold State.writeWindow
    rw [if_pos ⟨hoff, hal⟩, State.writeReg_up htripped hrecovery, show (0x20002000 + off) / 8 * 8 = 0x20002000 + off by omega,
      hreg, Nat.add_sub_cancel_left, hwindow]
  exact congrArg Host.Outcome.next hstep

/-- At U no register is written (R361). -/
theorem registerWrite_user (off : Nat) (v : Word) : Claim.Does (.registerWrite (some .u) off v) s s :=
  congrArg Host.Outcome.next (State.writeReg_up htripped hrecovery ..)

/-- Firmware writes OWNTAB (R361). -/
theorem registerWrite_owntab (v : Word) :
    Claim.Does (.registerWrite (some .f) 0x20005000 v) s { s with link := { s.link with owntab := v } } :=
  congrArg Host.Outcome.next (State.writeReg_up htripped hrecovery ..)

/-- The host does not write OWNTAB (R361). -/
theorem registerWrite_host (v : Word) : Claim.Does (.registerWrite none 0x20005000 v) s s :=
  congrArg Host.Outcome.next (State.writeReg_up htripped hrecovery ..)

/-- The host writes a word of the mailbox (R361, R363). -/
theorem registerWrite_mailbox (v : Word) : Claim.Does (.registerWrite none 0x20004008 v) s
    { s with link := { s.link with mailbox := s.link.mailbox.put 1 v, report := [] } } :=
  congrArg Host.Outcome.next (State.writeReg_up htripped hrecovery ..)

end

/-! ### Entries of the connection table -/

theorem Link.entry_put_same (l : Link) (n : Nat) (v : Word) : Link.entry { l with conn := l.conn.put n v } n = v :=
  Tbl.getD_put_same ..

theorem Link.entry_put_ne (l : Link) {n j : Nat} (v : Word) (h : j ≠ n) :
    Link.entry { l with conn := l.conn.put n v } j = l.entry j :=
  Tbl.getD_put_ne _ _ _ h

/-- An entry with another STATE has that STATE (R359). -/
theorem connState_connSetState (w : Word) {st : Nat} (h : st < 4) : connState (connSetState w st) = st := by
  have hw := w.isLt
  unfold connState connSetState
  rw [BitVec.toNat_ofNat]
  omega

/-- An entry with other WAVES has those WAVES (R359). -/
theorem connWaves_connSetWaves (w : Word) {n : Nat} (h : n < 128) : connWaves (connSetWaves w n) = n := by
  have hw := w.isLt
  unfold connWaves connSetWaves
  rw [BitVec.toNat_ofNat]
  omega

section
variable {s : State} {n : Nat} (hlo : 24 ≤ n) (hhi : n < 88)
include hlo hhi

/-- A request for a circuit between two dies in service that have none (R359). -/
theorem circuitRequest_step {v : Word} (hstate : connState v = 1) (hfree : connState (s.link.entry n) = 0)
    (hdies : connSrc v ≠ connDst v) (hone : 1 ≤ connWaves v) (hmax : connWaves v ≤ 64) (htop : v.toNat / 2 ^ 18 = 0)
    (hgap : v.toNat / 2 ^ 15 % 2 = 0) (hpair : s.link.paired (connSrc v) (connDst v) = false)
    (hsrc : (s.die (connSrc v)).inService = true) (hdst : (s.die (connDst v)).inService = true) :
    Claim.Does (.circuitRequest n v) s { s with link := { s.link with conn := s.link.conn.put n v } } := by
  have hstep : s.requestCircuit n v = s.modLink fun l => { l with conn := l.conn.put n v } := by
    unfold State.requestCircuit State.connWrite
    dsimp only
    rw [if_pos ⟨hlo, hstate⟩, if_neg (by omega), if_pos hhi,
      if_pos ⟨hstate, hfree, hdies, hone, hmax, htop, hgap, by rw [hpair]; rfl, hsrc, hdst⟩]
  exact congrArg Host.Outcome.next hstep

/-- An active circuit is torn down: it drains, and the route of its pair changes (R359, R360). -/
theorem circuitTeardown_step (hactive : connState (s.link.entry n) = 2) :
    Happens (.circuitTeardown n) s fun t => connState (t.link.entry n) = 3 ∧
      t.link.routes = s.link.routes ++ s.newRoutes (connSrc (s.link.entry n)) (connDst (s.link.entry n)) ∧ t.mem = s.mem ∧
      ∀ j, j ≠ n → t.link.entry j = s.link.entry j := by
  have hdrains : connState (connSetState (s.link.entry n) 3) = 3 := connState_connSetState _ (by decide)
  have hstep : s.teardown n = s.modLink fun l => { l with
      conn := l.conn.put n (connSetState (s.link.entry n) 3)
      routes := l.routes ++ s.newRoutes (connSrc (s.link.entry n)) (connDst (s.link.entry n)) } := by
    unfold State.teardown State.connWrite
    dsimp only
    rw [if_pos hlo, if_neg (by omega), if_pos hhi, if_neg (by omega), if_pos ⟨rfl, hactive⟩]
    rfl
  refine happens_of_eq rfl hstep ⟨?_, rfl, rfl, fun j hj => Link.entry_put_ne s.link _ hj⟩
  exact (congrArg connState (Link.entry_put_same s.link ..)).trans hdrains

/-- A requested circuit whose wavelengths are free becomes active, and the route of its pair changes (R360). -/
theorem circuitActivation_step (hrequested : connState (s.link.entry n) = 1)
    (hsrc : connWaves (s.link.entry n) ≤ s.link.freeWaves (connSrc (s.link.entry n)))
    (hdst : connWaves (s.link.entry n) ≤ s.link.freeWaves (connDst (s.link.entry n))) :
    Happens (.circuitActivation n) s fun t => connState (t.link.entry n) = 2 ∧ t.mem = s.mem ∧
      t.link.routes = s.link.routes ++ s.newRoutes (connSrc (s.link.entry n)) (connDst (s.link.entry n)) := by
  refine happens_of_eq rfl (if_pos ⟨hlo, hhi, hrequested, hsrc, hdst⟩) ⟨?_, rfl, rfl⟩
  exact (congrArg connState (Link.entry_put_same s.link ..)).trans (connState_connSetState _ (by decide))

/-- A draining circuit with no route left to acknowledge gives its wavelengths back (R360). -/
theorem circuitDrainComplete_step (hdrains : connState (s.link.entry n) = 3) (hroutes : s.link.routes = []) :
    Claim.Does (.circuitDrainComplete n) s { s with link := { s.link with conn := s.link.conn.put n 0 } } := by
  have hquiet (a b : Nat) : s.link.rerouting a b = false := by
    unfold Link.rerouting
    rw [hroutes]
    rfl
  have hstep : s.drainCircuit n = s.modLink fun l => { l with conn := l.conn.put n 0 } := by
    unfold State.drainCircuit
    dsimp only
    rw [if_neg (by omega), if_pos ⟨hhi, hdrains, by rw [hquiet]; rfl⟩]
  exact congrArg Host.Outcome.next hstep

end

/-- A mesh entry shrinks, and keeps its wavelengths until its drain completes (R359, R360). -/
theorem meshResize_shrinks {s : State} {n w : Nat} (hn : n < 24) (hactive : connState (s.link.entry n) = 2) (hw : 2 ≤ w)
    (hless : w < connWaves (s.link.entry n)) (hmax : connWaves (s.link.entry n) ≤ 64) :
    Happens (.meshResize n w) s fun t => connWaves (t.link.entry n) = w ∧
      t.link.resizing.getD n 0 = max (connWaves (s.link.entry n)) (s.link.resizing.getD n 0) ∧
      ∀ j, j ≠ n → t.link.entry j = s.link.entry j := by
  have hwaves : connWaves (connSetWaves (s.link.entry n) w) = w := connWaves_connSetWaves _ (by omega)
  have hheld : s.link.heldWaves n = max (connWaves (s.link.entry n)) (s.link.resizing.getD n 0) := if_pos (by omega)
  have hstep : s.resize n w = s.modLink fun l => { l with
      conn := l.conn.put n (connSetWaves (s.link.entry n) w), resizing := l.resizing.put n (s.link.heldWaves n) } := by
    unfold State.resize State.connWrite
    dsimp only
    rw [if_pos ⟨hn, by omega⟩, if_pos hn, hwaves, if_pos ⟨hactive, rfl, hw, by omega, .inl (by omega)⟩]
    simp only [hless, if_true]
    rfl
  refine happens_of_eq rfl hstep ⟨?_, ?_, fun j hj => Link.entry_put_ne s.link _ hj⟩
  · exact (congrArg connWaves (Link.entry_put_same s.link ..)).trans hwaves
  · exact (Tbl.getD_put_same ..).trans hheld

/-! ### Routes -/

/-- A message of an access from one die to another that was sent on the old route and has still to arrive (R360). -/
def State.LateOn (s : State) (a b before : Nat) (f : Flight) : Prop :=
  f.bound a b = true ∧ f.sent < before ∧ f.accepted = false ∧ s.arrived f = false

section
variable {s : State} {a b : Nat} {r : Nat × Nat × Nat} (hr : s.link.routes.find? (fun r => r.1 == a && r.2.1 == b) = some r)
include hr

/-- A route change is acknowledged when no message sent on the old route has still to arrive (R360). -/
theorem State.routeAck_eq : s.routeAck a b =
    if s.flights.any (fun f => f.bound a b && decide (f.sent < r.2.2) && !f.accepted && !s.arrived f) then s else
    { s with
      link := { s.link with routes := s.link.routes.filter fun r => r.1 != a || r.2.1 != b }
      flights := s.flights.map fun f => if f.bound a b then { f with sent := max f.sent (s.die a).atime.toNat } else f } := by
  unfold State.routeAck
  rw [hr]
  rfl

theorem routeChangeAck_done (hnone : ∀ f ∈ s.flights, ¬s.LateOn a b r.2.2 f) :
    Happens (.routeChangeAck a b) s fun t => t.mem = s.mem ∧ t.cores = s.cores ∧
      (∀ x, x ∈ t.link.routes ↔ x ∈ s.link.routes ∧ ¬(x.1 = a ∧ x.2.1 = b)) ∧
      t.flights = s.flights.map fun f =>
        if f.bound a b then { f with sent := max f.sent (s.die a).atime.toNat } else f := by
  have hstep := (State.routeAck_eq hr).trans (if_neg (by simpa [State.LateOn, and_assoc] using hnone))
  refine happens_of_eq rfl hstep ⟨rfl, rfl, fun x => ?_, rfl⟩
  rw [List.mem_filter, Bool.or_eq_true, bne_iff_ne, bne_iff_ne, not_and_or]

theorem routeChangeAck_waits (hsome : ∃ f ∈ s.flights, s.LateOn a b r.2.2 f) : Claim.Does (.routeChangeAck a b) s s :=
  congrArg Host.Outcome.next ((State.routeAck_eq hr).trans (if_pos (by simpa [State.LateOn, and_assoc] using hsome)))

end

/-! ### Reports and keys -/

theorem attestationRequest_step {s : State} (h : s.link.tripped = false) (nonce : Nat) :
    Claim.Does (.attestationRequest nonce) s { s with link := { s.link with report := s.signedReport nonce } } :=
  congrArg Host.Outcome.next (if_neg (by simp [h]))

theorem spdmRequest_step {s : State} (h : s.down = false) (nonce : Nat) :
    Claim.Does (.spdmRequest nonce) s { s with link := { s.link with reply := some (s.signedReport nonce) } } :=
  congrArg Host.Outcome.next (if_neg (by simp [h]))

/-- An owner other than 0 is given a key (R364). -/
theorem State.giveKey_eq (s : State) {owner : Nat} (h0 : owner ≠ 0) (hmax : owner ≤ 4095) (wrapped : Option Nat) :
    s.giveKey owner wrapped = s.modLink fun l => { l with keys := l.keys.put owner (match wrapped with
      | none => Config.freshKey s.count
      | some w => Config.unwrapKey w) } := if_neg (by omega)

section
variable {s : State} {owner : Nat} (h0 : owner ≠ 0) (hmax : owner ≤ 4095)
include h0 hmax

theorem ownerKeyInstall_wrapped (w : Nat) : Claim.Does (.ownerKeyInstall owner (some w)) s
    { s with link := { s.link with keys := s.link.keys.put owner (Config.unwrapKey w) } } :=
  congrArg Host.Outcome.next (s.giveKey_eq h0 hmax (some w))

theorem ownerKeyInstall_fresh : Claim.Does (.ownerKeyInstall owner none) s
    { s with link := { s.link with keys := s.link.keys.put owner (Config.freshKey s.count) } } :=
  congrArg Host.Outcome.next (s.giveKey_eq h0 hmax none)

theorem ownerKeyRelease_step : Claim.Does (.ownerKeyRelease owner) s
    { s with link := { s.link with keys := s.link.keys.put owner (Config.freshKey s.count) } } :=
  congrArg Host.Outcome.next (s.giveKey_eq h0 hmax none)

end

end Sys2Proof.Machine
end

section
/-! SUPPORT. The steps of the outside, gathered. Settles O60. -/

namespace Sys2Proof.Machine

/-- Settles O60: each clause is the lemma of its step, in the order of the statement. -/
theorem outsideSteps : Obligations.OutsideSteps := by
  unfold Obligations.OutsideSteps
  intro s n off o v data
  dsimp only
  refine ⟨
    fun hsource => congrArg Host.Outcome.next (if_pos hsource),
    rfl,
    fun hstate hstepped => ⟨ptpSync_oneStep hstate hstepped o, ptpSync_twoStep hstate o,
      fun htwo => ptpFollowUp_step hstate hstepped htwo o, ptpDelayResp_step hstate o⟩,
    ptpSync_forward,
    syncTimeout_step,
    fun hup hdata va owner hwin => ⟨hostWrite_holds hup hdata hwin,
      fun hdelay hheld f absent t => hostWrite_performs hup hdata hwin hdelay hheld⟩,
    hostWrite_outside,
    hostRead_outside,
    hostRead_registers,
    fun hup hoff hheld va owner f t w => hostRead_performs hup hoff hheld,
    fun part pa hup => ⟨peerAccess_refused hup, ?_⟩,
    rfl,
    fun htripped hrecovery => hostWindowWrite_owner htripped hrecovery,
    fun hlo hhi => circuitRequest_step hlo hhi,
    circuitTeardown_step,
    fun w => meshResize_shrinks,
    circuitActivation_step,
    circuitDrainComplete_step,
    fun a b r hr => ⟨routeChangeAck_done hr, routeChangeAck_waits hr⟩,
    fun nonce => ⟨fun h => attestationRequest_step h nonce, fun h => spdmRequest_step h nonce⟩,
    fun w h0 hmax => ⟨ownerKeyInstall_wrapped h0 hmax w, ownerKeyInstall_fresh h0 hmax, ownerKeyRelease_step h0 hmax⟩,
    fun htripped hrecovery => ⟨registerWrite_user htripped hrecovery off v, registerWrite_owntab htripped hrecovery v,
      registerWrite_host htripped hrecovery v, registerWrite_mailbox htripped hrecovery v⟩⟩
  rintro blk rfl hal rfl hentry hread hreg hstill
  exact peerAccess_reads hup hal hentry hread hreg hstill

end Sys2Proof.Machine
end

section
/-! SUPPORT. The core in hand (R129) stays in hand through saves, traps, and the ends of instances and slices. For O50. -/

namespace Sys2Proof.Machine

/-- Steps that keep the core in hand keep it one after another. -/
theorem State.foldl_cur {α : Type} {f : State → α → State} (hf : ∀ t a, (f t a).cur = t.cur) (l : List α) (s : State) :
    (l.foldl f s).cur = s.cur :=
  List.foldlRecOn (motive := fun t => t.cur = s.cur) l f rfl fun t ht a _ => (hf t a).trans ht

theorem OnlyStored.cur {s t : State} (h : OnlyStored s t) : t.cur = s.cur := by rw [h.1]

@[simp] theorem State.useEntries_cur (s : State) (k : Nat) (es : List RcEnt) : (s.useEntries k es).cur = s.cur :=
  (s.useEntries_fills k es).cur

@[simp] theorem State.newInterval_cur (s : State) (k : Nat) : (s.newInterval k).cur = s.cur := rfl

@[simp] theorem State.foldFlags_cur (s : State) (k : Nat) : (s.foldFlags k).cur = s.cur := rfl

@[simp] theorem State.forgetAsk_cur (s : State) (k : Nat) : (s.forgetAsk k).cur = s.cur := rfl

@[simp] theorem State.disown_cur (s : State) (owner area : Nat) : (s.disown owner area).cur = s.cur := rfl

/-! ### Saves and traps -/

theorem State.areaPut_cur {s t : State} {area owner off len val : Nat} (h : s.areaPut area owner off len val = .ok t) :
    t.cur = s.cur :=
  (State.areaPut_onlyStored h).cur

theorem State.drainBlocks_cur (area owner : Nat) (c : Nat × Nat × Nat) (bs : List Nat) (s : State) :
    (s.drainBlocks area owner c bs).1.cur = s.cur := by
  induction bs generalizing s with
  | nil => rfl
  | cons b bs ih =>
    unfold State.drainBlocks
    dsimp only
    split
    · next h => exact (ih _).trans (State.areaPut_cur h)
    · rfl

theorem State.drainChunks_cur (area owner : Nat) (cs : List (Nat × Nat × Nat)) (s : State) :
    (s.drainChunks area owner cs).1.cur = s.cur := by
  induction cs generalizing s with
  | nil => rfl
  | cons c cs ih =>
    have hblocks := State.drainBlocks_cur area owner c (areaBlocks c.1 c.2.1) s
    unfold State.drainChunks
    split
    · next h => rw [h] at hblocks; exact (ih _).trans hblocks
    · next h => rw [h] at hblocks; exact hblocks

@[simp] theorem State.drainStops_cur (s : State) (k : Nat) (g : Staging) (cause off mark : Nat)
    (rest : List (Nat × Nat × Nat)) : (s.drainStops k g cause off mark rest).cur = s.cur := by
  unfold State.drainStops
  dsimp only
  split
  · next h => exact (State.areaPut_cur h).trans rfl
  · rfl

@[simp] theorem State.drain_cur (s : State) (k : Nat) : (s.drain k).cur = s.cur := by
  unfold State.drain
  split
  · rfl
  · next g _ =>
    have hchunks := State.drainChunks_cur g.area g.owner g.chunks s
    split
    · rfl
    · split
      · next h =>
        rw [h] at hchunks
        split
        · exact hchunks
        · split
          · next hput => exact (State.areaPut_cur hput).trans hchunks
          · exact (State.drainStops_cur ..).trans hchunks
      · next h =>
        rw [h] at hchunks
        exact (State.drainStops_cur ..).trans hchunks

theorem State.saveContext_cur {s u : State} {k : Nat} {pc : Word} (h : s.saveContext k pc = some u) : u.cur = s.cur := by
  unfold State.saveContext at h
  dsimp only at h
  split at h
  · cases h
  · obtain rfl := Option.some.inj h
    exact ((s.drain k).logBadCells_only k).1.cur.trans (s.drain_cur k)

@[simp] theorem State.trap_cur (s : State) (k : Nat) (t : Trap) : (s.trap k t).cur = s.cur := by
  unfold State.trap
  split
  · split
    · rfl
    · next h => exact (State.saveContext_cur h).trans rfl
  · rfl

/-! ### Instances and slices -/

@[simp] theorem State.freeSlot_cur (s : State) (d i : Nat) : (s.freeSlot d i).cur = s.cur := by
  unfold State.freeSlot
  dsimp only
  split <;> rfl

@[simp] theorem State.decrement_cur (s : State) (h : Word) : (s.decrement h).cur = s.cur := by
  unfold State.decrement
  split
  · split <;> rfl
  · rfl

@[simp] theorem State.finishSlice_cur (s : State) (d i : Nat) : (s.finishSlice d i).cur = s.cur :=
  (State.freeSlot_cur ..).trans (State.foldl_cur State.decrement_cur _ s)

@[simp] theorem State.leaveSlice_cur (s : State) (e : QEntry) (finished : Bool) : (s.leaveSlice e finished).cur = s.cur := by
  unfold State.leaveSlice
  split
  · rfl
  · dsimp only
    split
    · exact State.finishSlice_cur ..
    · exact State.freeSlot_cur ..

@[simp] theorem State.dropEntry_cur (s : State) (k : Nat) (e : QEntry) : (s.dropEntry k e).cur = s.cur := rfl

@[simp] theorem State.orphanTrap_cur (s : State) (k g : Nat) : (s.orphanTrap k g).cur = s.cur := by
  unfold State.orphanTrap
  dsimp only
  split
  · exact s.drain_cur k
  · exact (State.trap_cur ..).trans (s.drain_cur k)

@[simp] theorem State.failSlice_cur (s : State) (h : Word) : (s.failSlice h).cur = s.cur := by
  unfold State.failSlice
  split
  · rfl
  · dsimp only
    refine (State.freeSlot_cur ..).trans ((State.foldl_cur (fun t p => State.foldl_cur (fun u e => ?_) _ t) _ _).trans ?_)
    · split
      · exact State.leaveSlice_cur ..
      · rfl
    · split
      · exact State.foldl_cur (fun t p => by split; exacts [State.orphanTrap_cur .., rfl]) _ _
      · rfl

@[simp] theorem State.dropMembers_cur (s : State) (h : Word) : (s.dropMembers h).cur = s.cur :=
  State.foldl_cur (fun t p => State.foldl_cur (fun u e => by split <;> rfl) _ t) _ _

@[simp] theorem State.loseInstance_cur (s : State) (k : Nat) (e : QEntry) : (s.loseInstance k e).cur = s.cur := by
  unfold State.loseInstance
  split
  · rfl
  · split
    · exact State.leaveSlice_cur ..
    · split
      · exact State.leaveSlice_cur ..
      · split
        · split
          · exact State.dropMembers_cur ..
          · rfl
        · exact (State.failSlice_cur ..).trans (State.leaveSlice_cur ..)

@[simp] theorem State.endRunning_cur (s : State) (k : Nat) : (s.endRunning k).cur = s.cur := by
  unfold State.endRunning
  split
  · exact State.leaveSlice_cur ..
  · rfl

/-! ### Contexts and scratchpads -/

theorem OnlyStored.foldl {α : Type} {f : State → α → State} (hf : ∀ t a, OnlyStored t (f t a)) (l : List α) (s : State) :
    OnlyStored s (l.foldl f s) :=
  List.foldlRecOn (motive := OnlyStored s) l f (.refl s) fun t ht a _ => ht.trans (hf t a)

/-- A block of a core's segment stored in a swap region, from its scratchpad (R194, log 82). -/
def State.lineOut (s : State) (k a l i : Nat) : State :=
  let pa := a + 0x100000 + l * 0x1000 + 64 * i
  match (s.core k).scrRead (0x1000 * l + 64 * i) with
  | .ok b => match s.physWrite pa 0 0 b (~~~0) with
    | .ok u => u
    | .error _ => s
  | .error e => if e = 0x08 then s else { s with mem := { s.mem with marks := s.mem.marks.put (s.resolve pa / 64) 0x11 } }

/-- A block of a core's segment loaded from a swap region (R194). -/
def State.lineIn (s : State) (k a l i : Nat) : State :=
  match s.physRead (a + 0x100000 + l * 0x1000 + 64 * i) 0 0 with
  | .ok b => match (s.core k).scrWrite (0x1000 * l + 64 * i) b (~~~0) with
    | .ok c => s.setCore k c
    | .error _ => s
  | .error _ => s

/-- A context's segments moved block by block. -/
def State.segments (s : State) (line : State → Nat → Nat → State) (n : Nat) : State :=
  (List.range n).foldl (fun t l => (List.range 64).foldl (fun t i => line t l i) t) s

/-- The core's resident data changed for a context that is not resident there: the former one's segments go, and its own come unless
it is fresh (R194). -/
theorem State.swapScratch_eq {s : State} {k area : Nat} (hne : ∀ r, (s.core k).resident = some r → r.area ≠ area)
    (owner alloc : Nat) (fresh : Bool) :
    let out : State := match (s.core k).resident with
      | some r => s.segments (fun t l i => t.lineOut k r.area l i) r.alloc
      | none => s
    s.swapScratch k area owner alloc fresh =
      (if fresh then out else out.segments (fun t l i => t.lineIn k area l i) alloc).modCore k fun c =>
        { c with resident := some { area := area, owner := owner, alloc := alloc } } := by
  unfold State.swapScratch
  cases hr : (s.core k).resident with
  | none =>
    dsimp only
    simp only [hr]
    rfl
  | some r =>
    have hsame : ¬(r.area == area) = true := by simpa using hne r hr
    dsimp only
    simp only [hr, if_neg hsame]
    rfl

/-- A context that is resident already keeps its data (R194). -/
theorem State.swapScratch_same {s : State} {k : Nat} {r : Resident} (hr : (s.core k).resident = some r) (owner alloc : Nat)
    (fresh : Bool) : s.swapScratch k r.area owner alloc fresh =
      s.modCore k fun c => { c with resident := c.resident.map fun r => { r with alloc := alloc } } := by
  unfold State.swapScratch
  dsimp only
  rw [hr]
  dsimp only
  rw [if_pos (beq_self_eq_true r.area)]

theorem State.lineOut_onlyStored (s : State) (k a l i : Nat) : OnlyStored s (s.lineOut k a l i) := by
  unfold State.lineOut
  dsimp only
  split
  · split
    · next h => exact State.physWrite_onlyStored h
    · exact .refl s
  · split
    · exact .refl s
    · exact ⟨rfl, fun _ => rfl⟩

theorem State.lineIn_onlyStored (s : State) (k a l i : Nat) : OnlyStored s (s.lineIn k a l i) := by
  unfold State.lineIn
  split
  · split
    · next h => exact onlyStored_setCore h
    · exact .refl s
  · exact .refl s

theorem State.segments_onlyStored {line : State → Nat → Nat → State} (h : ∀ t l i, OnlyStored t (line t l i)) (s : State) (n : Nat) :
    OnlyStored s (s.segments line n) :=
  .foldl (fun t l => .foldl (fun u i => h u l i) _ t) _ s

/-- What a change of the resident data may do: bytes are stored, and the core's record of its resident context is set. -/
theorem State.swapScratch_stores (s : State) (k area owner alloc : Nat) (fresh : Bool) :
    ∃ u r, OnlyStored s u ∧ s.swapScratch k area owner alloc fresh = u.modCore k fun c => { c with resident := r } := by
  by_cases hne : ∀ r, (s.core k).resident = some r → r.area ≠ area
  · refine ⟨_, _, ?_, State.swapScratch_eq hne owner alloc fresh⟩
    have hout : OnlyStored s (match (s.core k).resident with
        | some r => s.segments (fun t l i => t.lineOut k r.area l i) r.alloc
        | none => s) := by
      split
      · exact State.segments_onlyStored (fun t l i => t.lineOut_onlyStored ..) ..
      · exact .refl s
    split
    · exact hout
    · exact hout.trans (State.segments_onlyStored (fun t l i => t.lineIn_onlyStored ..) ..)
  · push Not at hne
    obtain ⟨r, hr, rfl⟩ := hne
    exact ⟨s, _, .refl s, (State.swapScratch_same hr owner alloc fresh).trans rfl⟩

@[simp] theorem State.swapScratch_cur (s : State) (k area owner alloc : Nat) (fresh : Bool) :
    (s.swapScratch k area owner alloc fresh).cur = s.cur := by
  obtain ⟨u, r, hu, heq⟩ := s.swapScratch_stores k area owner alloc fresh
  rw [heq]
  exact hu.cur

@[simp] theorem State.evictScratch_cur (s : State) (k : Nat) : (s.evictScratch k).cur = s.cur :=
  s.swapScratch_cur ..

@[simp] theorem State.moveEntries_cur (s : State) (k : Nat) : (s.moveEntries k).cur = s.cur := by
  unfold State.moveEntries
  exact State.foldl_cur (fun t e => by split <;> rfl) _ _

@[simp] theorem State.halt_cur (s : State) (k : Nat) : (s.halt k).cur = s.cur := by
  have hlose : ∀ t : State, ((match (t.core k).running with
      | some e => if (s.hart k).handler && (s.hart k).saved then t else t.loseInstance k e
      | none => t) : State).cur = t.cur := by
    intro t
    split
    · split
      · rfl
      · exact State.loseInstance_cur ..
    · rfl
  unfold State.halt
  exact (State.moveEntries_cur ..).trans ((State.evictScratch_cur ..).trans ((State.drain_cur ..).trans (hlose _)))

@[simp] theorem State.recall_cur (s : State) (k area : Nat) (due : List DueTrap) : (s.recall k area due).cur = s.cur := by
  unfold State.recall
  rfl

@[simp] theorem State.resumeInterval_cur (s : State) (k owner area : Nat) : (s.resumeInterval k owner area).cur = s.cur := by
  unfold State.resumeInterval
  split <;> rfl

theorem State.loadContext_cur {s t : State} {k : Nat} {e : QEntry} {base : Hart} {level : Level}
    (h : s.loadContext k e base level = some t) : t.cur = s.cur := by
  unfold State.loadContext at h
  simp only [Option.ite_none_left_eq_some, Option.some.injEq] at h
  obtain ⟨-, rfl⟩ := h
  simp

theorem State.restoreContext_cur {s t : State} {k : Nat} {e : QEntry} (h : s.restoreContext k e = some t) : t.cur = s.cur := by
  unfold State.restoreContext at h
  dsimp only at h
  obtain ⟨u, hu, rfl⟩ := Option.map_eq_some_iff.1 h
  exact (State.loadContext_cur hu).trans rfl

@[simp] theorem State.leaveTrap_cur (s : State) (k : Nat) : (s.leaveTrap k).cur = s.cur := by
  unfold State.leaveTrap
  dsimp only
  split <;> simp

end Sys2Proof.Machine
end

section
/-! SUPPORT. What the operations of a bundle answer leaves the core in hand as it is, until the boundary (R129, R172). For O50. -/

namespace Sys2Proof.Machine

/-- An answer leaves the core in hand as it is: what a trap records, what a wait starts, and, where something follows the boundary
of a commit, that and the commit. -/
def Res.InHand : Res → Prop
  | .trap _ _ _ note _ => ∀ t, (note t).cur = t.cur
  | .stall => True
  | .wait _ _ f => ∀ t, (f t).cur = t.cur
  | .commit c => c.after = id ∨ (∀ t, (c.run t).cur = t.cur) ∧ ∀ t, (c.after t).cur = t.cur

@[simp] theorem Res.inHand_stall : Res.stall.InHand := trivial

@[simp] theorem Res.inHand_trap {c : Nat} {a : Word} {sv kp : Bool} {note : State → State} :
    (Res.trap c a sv note kp).InHand ↔ ∀ t, (note t).cur = t.cur := Iff.rfl

@[simp] theorem Res.inHand_wait {n : Nat} {b : Option (Nat × Word)} {f : State → State} :
    (Res.wait n b f).InHand ↔ ∀ t, (f t).cur = t.cur := Iff.rfl

/-- A commit that nothing follows. -/
@[simp] theorem Res.inHand_commit (run : State → State) (next : Option Word) (cut : Bool) (found : Passed → Passed) :
    (Res.commit { run := run, next := next, cut := cut, found := found }).InHand := .inl rfl

@[simp] theorem inHand_commits (f : State → State) : (commits f).InHand := .inl rfl

@[simp] theorem inHand_writes (d : SReg) (v : Word) : (writes d v).InHand := .inl rfl

/-- What follows the boundary of a bundle that does nothing before it. -/
theorem Res.inHand_after {f : State → State} (next : Option Word) (h : ∀ t, (f t).cur = t.cur) :
    (Res.commit { run := id, next := next, after := f }).InHand := .inr ⟨fun _ => rfl, h⟩

theorem Res.inHand_ite {p : Prop} [Decidable p] {r q : Res} (hr : r.InHand) (hq : q.InHand) : (if p then r else q).InHand := by
  split
  · exact hr
  · exact hq

/-! ### Scalar operations -/

theorem withRounding_inHand {s : State} {rm : BitVec 3} {f : Nat → Res} (h : ∀ n, (f n).InHand) : (withRounding s rm f).InHand := by
  unfold withRounding
  split <;> simp [h]

theorem fpArith_inHand (f : Nat → Num → Num → FState → Num × FState) (d a b : SReg) (rm : BitVec 3) (c : OpCtx) (s : State) :
    (fpArith f d a b rm c s).InHand := by
  unfold fpArith
  exact withRounding_inHand fun _ => inHand_commits _

theorem opFma_inHand (d a b : SReg) (rm : BitVec 3) (c : OpCtx) (s : State) : (opFma d a b rm c s).InHand := by
  unfold opFma
  exact withRounding_inHand fun _ => inHand_commits _

theorem opFsqrt_inHand (d a : SReg) (rm : BitVec 3) (c : OpCtx) (s : State) : (opFsqrt d a rm c s).InHand := by
  unfold opFsqrt
  exact withRounding_inHand fun _ => inHand_commits _

theorem opFcvtif_inHand (d a : SReg) (rm : BitVec 3) (c : OpCtx) (s : State) : (opFcvtif d a rm c s).InHand := by
  unfold opFcvtif
  exact withRounding_inHand fun _ => inHand_commits _

theorem opFcvtfi_inHand (d a : SReg) (rm : BitVec 3) (c : OpCtx) (s : State) : (opFcvtfi d a rm c s).InHand := by
  unfold opFcvtfi
  exact withRounding_inHand fun _ => inHand_commits _

theorem opFcvtbf_inHand (d a : SReg) (rm : BitVec 3) (c : OpCtx) (s : State) : (opFcvtbf d a rm c s).InHand := by
  unfold opFcvtbf
  exact withRounding_inHand fun _ => inHand_commits _

theorem branch_inHand (p : Word → Word → Bool) (a b : SReg) (o : BitVec 23) (c : OpCtx) (s : State) :
    (branch p a b o c s).InHand := by
  unfold branch transfer
  split <;> simp

theorem jump_inHand (d : SReg) (pc target : Word) : (jump d pc target).InHand := by
  unfold jump transfer
  split <;> simp

theorem opJalr_inHand (d a : SReg) (imm : BitVec 23) (c : OpCtx) (s : State) : (opJalr d a imm c s).InHand := by
  unfold opJalr
  split
  · simp
  · exact jump_inHand ..

theorem opLoop_inHand (a : SReg) (o : BitVec 23) (c : OpCtx) (s : State) : (opLoop a o c s).InHand := by
  unfold opLoop
  exact Res.inHand_ite (by simp) (Res.inHand_ite (by simp) (by simp))

theorem opVloop_inHand (a : SReg) (o : BitVec 23) (c : OpCtx) (s : State) : (opVloop a o c s).InHand := by
  unfold opVloop
  exact Res.inHand_ite (by simp) (Res.inHand_ite (by simp) (by simp))

theorem opSetvl_inHand (d a : SReg) (e : BitVec 3) (g : BitVec 2) (c : OpCtx) (s : State) : (opSetvl d a e g c s).InHand := by
  unfold opSetvl
  split <;> simp

theorem ctlGate_inHand {s : State} {n : Nat} {k : Res} (h : k.InHand) : (ctlGate s n k).InHand := by
  unfold ctlGate
  repeat' split
  · simp
  · exact h
  · simp
  · exact h

theorem opGetc_inHand (d : SReg) (n : BitVec 12) (c : OpCtx) (s : State) : (opGetc d n c s).InHand := by
  refine ctlGate_inHand ?_
  split <;> simp

theorem ctlStore_inHand (s : State) (n : Nat) (v : Word) : (ctlStore s n v).InHand := by
  refine ctlGate_inHand ?_
  repeat' split
  · simp
  · exact Res.inHand_after none fun _ => rfl
  · simp

/-! ### Accesses -/

theorem Xls.gate_inHand {x : Xls} {k : Res} (h : k.InHand) : (x.gate k).InHand := by
  unfold Xls.gate
  repeat' split
  all_goals simp [h]

theorem Flight.strictTrap_inHand {f : Flight} {k : Res} (h : k.InHand) : (f.strictTrap k).InHand := by
  unfold Flight.strictTrap
  split <;> simp [h]

@[simp] theorem State.askWait_inHand (s : State) : s.askWait.InHand := fun _ => rfl

@[simp] theorem State.asking_cur (s : State) : s.asking.cur = s.cur := rfl

theorem State.sendBefore_inHand (s : State) (x : Xls) (f : Flight) (post : Flight → State → State) :
    (s.sendBefore x f post).InHand := by
  unfold State.sendBefore
  repeat' split
  all_goals simp

theorem State.sendAsk_inHand (s : State) (x : Xls) (f : Flight) (post : Flight → State → State) : (s.sendAsk x f post).InHand :=
  s.sendBefore_inHand ..

theorem State.access_inHand (s : State) (f : Flight) (early : Bool) (n : Need) (reqs : List Req) (post : Flight → State → State) :
    (s.access f early n reqs post).InHand := by
  unfold State.access
  split
  · simp
  · exact Flight.strictTrap_inHand (by simp)
  · refine Xls.gate_inHand ?_
    split
    · exact s.sendAsk_inHand ..
    · simp

theorem loadOp_inHand (n : Nat) (signed : Bool) (p : Space) (d a : SReg) (imm : BitVec 20) (c : OpCtx) (s : State) :
    (loadOp n signed p d a imm c s).InHand := by
  unfold loadOp
  exact s.access_inHand ..

theorem storeOp_inHand (n : Nat) (p : Space) (b a : SReg) (imm : BitVec 20) (c : OpCtx) (s : State) :
    (storeOp n p b a imm c s).InHand := by
  unfold storeOp
  exact s.access_inHand ..

theorem opLdnb_inHand (d a t : SReg) (z : BitVec 2) (c : OpCtx) (s : State) : (opLdnb d a t z c s).InHand := by
  unfold opLdnb
  dsimp only
  split
  · simp
  · split
    · split <;> simp
    · exact Flight.strictTrap_inHand (by simp)
    · refine Xls.gate_inHand ?_
      split
      · simp
      · exact s.sendAsk_inHand ..

theorem State.timedStore_inHand (s : State) (f : Flight) (time : Word) (reqs : List Req) : (s.timedStore f time reqs).InHand := by
  unfold State.timedStore
  split
  · simp
  · simp
  · split
    · simp
    · refine Xls.gate_inHand ?_
      dsimp only
      split
      · simp
      · refine Flight.strictTrap_inHand ?_
        split <;> simp

theorem atomicOp_inHand (space : Nat) (d a : SReg) (wd : BitVec 1) (op : AmoOp) (ord : AmoOrd) (sc : Scope) (c : OpCtx) (s : State) :
    (atomicOp space d a wd op ord sc c s).InHand := by
  unfold atomicOp
  dsimp only
  split
  · simp
  · split
    · simp
    · exact s.access_inHand ..

theorem opFence_inHand (p q : BitVec 8) (sc : Scope) (c : OpCtx) (s : State) : (opFence p q sc c s).InHand := by
  unfold opFence
  split <;> simp

/-! ### Vector operations -/

theorem Hart.capTrap_inHand {h : Hart} {rows : List Nat} {k : Res} (hk : k.InHand) : (h.capTrap rows k).InHand := by
  unfold Hart.capTrap
  repeat' split
  all_goals simp [hk]

theorem rowGate_inHand {s : State} {rows : List Nat} {illegal reserved long : Bool} {k : Res} (h : k.InHand) :
    (rowGate s rows illegal reserved k long).InHand := by
  unfold rowGate
  dsimp only
  split
  · simp
  · split
    · simp
    · exact Hart.capTrap_inHand (Res.inHand_ite Res.inHand_stall h)

theorem vecGate_inHand {s : State} {v : View} {regs : List GReg} {illegal reserved long : Bool} {k : Res} (h : k.InHand) :
    (vecGate s v regs illegal reserved k long).InHand :=
  rowGate_inHand h

theorem planOp_inHand (u : VUse) (p : VPlan) (c : OpCtx) (s : State) : (planOp u p c s).InHand := by
  refine vecGate_inHand ?_
  split
  · exact inHand_commits _
  · exact inHand_commits _

theorem wholeOp_inHand (u : VUse) (v : View) (d : GReg) (f : VCap → Grid → FState → List RowWrite × FState) (c : OpCtx) (s : State) :
    (wholeOp u v d f c s).InHand :=
  vecGate_inHand (inHand_commits _)

theorem maskOp_inHand (f : BitVec 8192 → BitVec 8192 → BitVec 8192) (d a b : MReg) (c : OpCtx) (s : State) :
    (maskOp f d a b c s).InHand :=
  rowGate_inHand (inHand_commits _)

theorem redOp_inHand (r : Red) (w : View) (d : SReg) (a : GReg) (m : MaskUse) (c : OpCtx) (s : State) :
    (redOp r w d a m c s).InHand := by
  unfold redOp
  exact vecGate_inHand (inHand_commits _)

theorem opVqnt_inHand (w : View) (d a : GReg) (x : SReg) (m : MaskUse) (c : OpCtx) (s : State) : (opVqnt w d a x m c s).InHand := by
  unfold opVqnt
  dsimp only
  split
  · exact wholeOp_inHand ..
  · exact planOp_inHand ..

/-! ### Vector accesses -/

theorem vmemGate_inHand {s : State} {rows waits fills : List Nat} {illegal : Bool} {bad : List (Nat × Nat)} {k : Res} (h : k.InHand) :
    (vmemGate s rows waits illegal bad k fills).InHand := by
  unfold vmemGate
  dsimp only
  split
  · simp
  · split
    · simp
    · refine Hart.capTrap_inHand ?_
      repeat' split
      all_goals simp [h]

theorem vloadOp_inHand (p : Space) (v : GReg) (m : MaskUse) (rows : List Nat) (illegal : Bool) (ad : State → VAddr) (c : OpCtx)
    (s : State) : (vloadOp p v m rows illegal ad c s).InHand := by
  unfold vloadOp
  dsimp only
  split
  · simp
  · exact Flight.strictTrap_inHand (by simp)
  · refine vmemGate_inHand (Xls.gate_inHand ?_)
    split
    · exact s.sendAsk_inHand ..
    · simp

theorem vstoreOp_inHand (p : Space) (v : GReg) (m : MaskUse) (rows : List Nat) (illegal : Bool) (ad : State → VAddr) (c : OpCtx)
    (s : State) : (vstoreOp p v m rows illegal ad c s).InHand := by
  unfold vstoreOp
  dsimp only
  split
  · simp
  · exact Flight.strictTrap_inHand (by simp)
  · exact vmemGate_inHand (s.access_inHand ..)

/-- A vector store whose checks come before the wait for its answer. -/
theorem storeOnRows_inHand {s : State} {rows : List Nat} {illegal : Bool} {bad : List (Nat × Nat)} {store : Res}
    (h : store.InHand) : (if s.my.wait != .none then store else vmemGate s rows rows illegal bad store).InHand := by
  split
  · exact h
  · exact vmemGate_inHand h

theorem State.sizedLoad_inHand (s : State) (oc : OpCtx) (sp ea most seen row n : Nat) (land : Land) :
    (s.sizedLoad oc sp ea most seen row n land).InHand := by
  unfold State.sizedLoad
  dsimp only
  split
  · simp
  · split
    · simp
    · exact Flight.strictTrap_inHand (by simp)
  · split
    · simp
    · refine Xls.gate_inHand ?_
      repeat' split
      · simp
      · exact s.sendBefore_inHand ..
      · simp

theorem opVfill_inHand (p : Space) (v : GReg) (a : SReg) (g : BitVec 2) (c : OpCtx) (s : State) : (opVfill p v a g c s).InHand := by
  unfold opVfill
  exact vmemGate_inHand (s.sizedLoad_inHand ..)

theorem opVldc_inHand (p : Space) (v : GReg) (a b : SReg) (c : OpCtx) (s : State) : (opVldc p v a b c s).InHand := by
  unfold opVldc
  exact Res.inHand_ite Res.inHand_stall (vmemGate_inHand (s.sizedLoad_inHand ..))

/-! ### Streams and copies -/

theorem State.structRead_inHand {s : State} {oc : OpCtx} {ea n : Nat} {k : List Word → Res} (hk : ∀ ws, (k ws).InHand) :
    (s.structRead oc ea n k).InHand := by
  have hfinish : ∀ ws used, (match k ws with
      | .commit c => Res.commit { c with run := fun t => c.run (t.useEntries t.cur used)
                                         found := fun p => { c.found p with words := ws, used := used } }
      | r => r).InHand := by
    intro ws used
    have h := hk ws
    split
    · next heq =>
      rw [heq] at h
      obtain hid | ⟨hrun, hafter⟩ := h
      · exact .inl hid
      · exact .inr ⟨fun t => (hrun _).trans (State.useEntries_cur ..), hafter⟩
    · exact h
  unfold State.structRead
  dsimp only
  split
  · exact hfinish ..
  · split
    · simp
    · split
      · simp
      · split
        · simp
        · split
          · simp
          · split
            · simp
            · split
              · simp
              · exact hfinish ..

theorem opSbind_inHand (a : SReg) (r : BitVec 1) (q : QReg) (c : OpCtx) (s : State) : (opSbind a r q c s).InHand := by
  unfold opSbind
  refine Res.inHand_ite (by simp) (State.structRead_inHand fun ws => ?_)
  exact Res.inHand_ite (by simp) (Res.inHand_ite (by simp) (by simp))

theorem opSunbind_inHand (q : QReg) (c : OpCtx) (s : State) : (opSunbind q c s).InHand :=
  Res.inHand_ite Res.inHand_stall (inHand_commits _)

theorem opSskip_inHand (a : SReg) (q : QReg) (c : OpCtx) (s : State) : (opSskip a q c s).InHand := by
  unfold opSskip
  exact Res.inHand_ite (by simp) (Res.inHand_ite (by simp) (Res.inHand_ite (by simp) (by simp)))

theorem opSflush_inHand (q : QReg) (c : OpCtx) (s : State) : (opSflush q c s).InHand := by
  unfold opSflush
  exact Res.inHand_ite (by simp) (Res.inHand_ite (Res.inHand_ite (by simp) (by simp)) (by simp))

theorem faultTrap_inHand (k i : Nat) (f : Nat × Word) : (faultTrap k i f).InHand := fun _ => rfl

theorem State.popGate_inHand {s : State} {i : Nat} {k : QWord → Res} (hk : ∀ e, (k e).InHand) : (s.popGate i k).InHand := by
  unfold State.popGate
  dsimp only
  split
  · simp
  · split
    · simp
    · split
      · exact hk _
      · split
        · simp
        · split
          · exact faultTrap_inHand _ _ _
          · split <;> simp

theorem opVpop_inHand (w : View) (d : GReg) (q : QReg) (m : MaskUse) (c : OpCtx) (s : State) : (opVpop w d q m c s).InHand :=
  vecGate_inHand (State.popGate_inHand fun _ => inHand_commits _)

theorem opVpush_inHand (q : QReg) (a : GReg) (m : MaskUse) (c : OpCtx) (s : State) : (opVpush q a m c s).InHand := by
  unfold opVpush
  dsimp only
  split
  · simp
  · refine rowGate_inHand (Res.inHand_ite (by simp) (Res.inHand_ite (by simp) (Res.inHand_ite (by simp)
      (Res.inHand_ite (by simp) ?_))))
    repeat' split
    all_goals simp

theorem opCpy_inHand (d a : SReg) (c : OpCtx) (s : State) : (opCpy d a c s).InHand := by
  unfold opCpy
  exact Res.inHand_ite (by simp) (State.structRead_inHand fun _ => inHand_commits _)

theorem opCpyw_inHand (a : SReg) (c : OpCtx) (s : State) : (opCpyw a c s).InHand := by
  unfold opCpyw
  repeat' split
  all_goals simp

@[simp] theorem State.modCopy_cur (s : State) (k i : Nat) (f : Copy → Copy) : (s.modCopy k i f).cur = s.cur := rfl

theorem opCpyx_inHand (d a : SReg) (c : OpCtx) (s : State) : (opCpyx d a c s).InHand := by
  unfold opCpyx
  repeat' split
  all_goals simp

/-! ### The grid -/

theorem opTshape_inHand (d a : SReg) (c : OpCtx) (s : State) : (opTshape d a c s).InHand := by
  unfold opTshape
  exact Res.inHand_ite (by simp) (by simp)

theorem gridGate_inHand {s : State} {rows writes : List Nat} {illegal : Bool} {k : Res} (h : k.InHand) :
    (gridGate s rows writes illegal k).InHand := by
  unfold gridGate
  exact Res.inHand_ite (by simp) (Hart.capTrap_inHand (Res.inHand_ite (by simp) h))

theorem opOpz_inHand (h : BitVec 1) (c : OpCtx) (s : State) : (opOpz h c s).InHand := by
  unfold opOpz
  exact gridGate_inHand (inHand_commits _)

theorem opGclr_inHand (h : BitVec 1) (c : OpCtx) (s : State) : (opGclr h c s).InHand := by
  unfold opGclr
  exact gridGate_inHand (inHand_commits _)

theorem opGmov_inHand (d r : GReg) (c : OpCtx) (s : State) : (opGmov d r c s).InHand := by
  unfold opGmov
  exact gridGate_inHand (inHand_commits _)

theorem opGtrn_inHand (h : BitVec 1) (c : OpCtx) (s : State) : (opGtrn h c s).InHand := by
  unfold opGtrn
  exact gridGate_inHand (inHand_commits _)

@[simp] theorem State.takeFaults_cur (s : State) (is : List Nat) : (s.takeFaults is).cur = s.cur := rfl

theorem opOpa_inHand (h : BitVec 1) (qa qb : QReg) (n o : BitVec 1) (c : OpCtx) (s : State) : (opOpa h qa qb n o c s).InHand := by
  unfold opOpa
  dsimp only
  split
  · simp
  · refine gridGate_inHand (Res.inHand_ite (by simp) ?_)
    split <;> simp

theorem opGdirty_inHand (d : SReg) (h : BitVec 1) (c : OpCtx) (s : State) : (opGdirty d h c s).InHand :=
  Hart.capTrap_inHand (inHand_commits _)

theorem State.slotStrict_inHand {s : State} {fs : List Flight} {k : Res} (h : k.InHand) : (s.slotStrict fs k).InHand := by
  unfold State.slotStrict
  refine Res.inHand_ite h (Res.inHand_ite (by simp) ?_)
  split <;> simp [h]

theorem slotGate_inHand {s : State} {oc : OpCtx} {store : Bool} {f : GReg} {c : BitVec 7} {k : List Nat → Res}
    (h : ∀ rows, (k rows).InHand) : (slotGate s oc store f c k).InHand :=
  gridGate_inHand (State.slotStrict_inHand (h _))

/-! ### Ranges -/

@[simp] theorem State.startInval_cur (s : State) (owner lo hi : Nat) (what : InvalFor) : (s.startInval owner lo hi what).cur = s.cur :=
  rfl

@[simp] theorem State.addMove_cur (s : State) (m : Move) : (s.addMove m).cur = s.cur := rfl

theorem State.tryLock_cur {s t : State} {dirbase holder : Nat} (h : s.tryLock dirbase holder = some t) : t.cur = s.cur :=
  (State.tryLock_onlyStored h).cur

@[simp] theorem State.physPutWord_cur (s : State) (pa : Nat) (w : Word) : (s.physPutWord pa w).cur = s.cur :=
  (s.physPutWord_onlyStored pa w).cur

@[simp] theorem State.putCount_cur (s : State) (dirbase n : Nat) : (s.putCount dirbase n).cur = s.cur := s.physPutWord_cur ..

@[simp] theorem State.putEntry_cur (s : State) (dirbase i : Nat) (d : Desc) : (s.putEntry dirbase i d).cur = s.cur := by
  simp [State.putEntry]

@[simp] theorem State.putEntries_cur (s : State) (dirbase i : Nat) (ds : List Desc) : (s.putEntries dirbase i ds).cur = s.cur := by
  induction ds generalizing s i with
  | nil => rfl
  | cons d ds ih => exact (ih ..).trans (s.putEntry_cur ..)

/-- An edit leaves the core in hand as it is. -/
def Edit.InHand (s : State) : Edit → Prop
  | .no _ => True
  | .yes _ _ u => u.cur = s.cur

theorem State.splitAt_inHand (s : State) (core dirbase va : Nat) : (s.splitAt core dirbase va).InHand s := by
  unfold State.splitAt
  split
  · trivial
  · next t hlock =>
    have hcur : t.cur = s.cur := State.tryLock_cur hlock
    split
    · dsimp only
      repeat' split
      all_goals simp [Edit.InHand, hcur]
    · trivial

theorem State.mergeAt_inHand (s : State) (core dirbase va : Nat) : (s.mergeAt core dirbase va).InHand s := by
  unfold State.mergeAt
  split
  · trivial
  · next t hlock =>
    have hcur : t.cur = s.cur := State.tryLock_cur hlock
    split
    · repeat' split
      all_goals simp [Edit.InHand, hcur]
    · trivial

theorem editOp_inHand {d : SReg} {f : State → Edit} (hf : ∀ t, (f t).InHand t) (c : OpCtx) (s : State) :
    (editOp d f c s).InHand := by
  unfold editOp
  split
  · simp
  · simp
  · split
    · simp
    · rw [Res.inHand_wait]
      intro t
      have h := hf t
      split
      · rfl
      · next heq =>
        rw [heq] at h
        exact h

theorem opRgsplit_inHand (d a : SReg) (c : OpCtx) (s : State) : (opRgsplit d a c s).InHand := by
  unfold opRgsplit
  exact editOp_inHand (fun t => t.splitAt_inHand ..) ..

theorem opRgmerge_inHand (d a : SReg) (c : OpCtx) (s : State) : (opRgmerge d a c s).InHand := by
  unfold opRgmerge
  exact editOp_inHand (fun t => t.mergeAt_inHand ..) ..

theorem opRgmove_inHand (d a b : SReg) (x : BitVec 4) (c : OpCtx) (s : State) : (opRgmove d a b x c s).InHand := by
  unfold opRgmove
  dsimp only
  refine Res.inHand_ite (by simp) ?_
  split
  · simp
  · simp
  · split
    · simp
    · intro t
      dsimp only
      split
      · rfl
      · next hlock => simpa using State.tryLock_cur hlock

/-! ### Time and work -/

theorem opTwait_inHand (a : SReg) (c : OpCtx) (s : State) : (opTwait a c s).InHand := by
  unfold opTwait
  exact Res.inHand_ite (by simp) (by simp)

theorem gbarSlot_inHand (d : SReg) (die i : Nat) (t : Slot) (time : Nat) (s : State) : (gbarSlot d die i t time s).InHand := by
  unfold gbarSlot
  dsimp only
  split
  · split
    · exact Res.inHand_ite (by simp) (by simp)
    · split <;> simp
  · refine Res.inHand_ite (by simp) (Res.inHand_ite (by simp) ?_)
    split
    · exact Res.inHand_ite (by simp) (by simp)
    · split <;> simp

theorem opGbar_inHand (d a : SReg) (c : OpCtx) (s : State) : (opGbar d a c s).InHand := by
  unfold opGbar
  dsimp only
  refine Res.inHand_ite (by simp) ?_
  split
  · exact gbarSlot_inHand ..
  · split
    · exact Res.inHand_ite (by simp) (by simp)
    · exact Res.inHand_ite (by simp) (Res.inHand_ite (by simp) (Res.inHand_ite (by simp) (by simp)))

theorem State.successors_inHand {s : State} {oc : OpCtx} {r : List Word} {k : Option (List Word × List RcEnt) → Res}
    (hk : ∀ l, (k l).InHand) : (s.successors oc r k).InHand := by
  unfold State.successors
  dsimp only
  refine Res.inHand_ite (hk _) (Res.inHand_ite (hk _) (Res.inHand_ite (by simp) ?_))
  split
  · simp
  · simp
  · exact Res.inHand_ite (hk _) (hk _)

theorem opJpost_inHand (d a : SReg) (c : OpCtx) (s : State) : (opJpost d a c s).InHand := by
  unfold opJpost
  refine Res.inHand_ite (by simp) (Res.inHand_ite (by simp) (State.structRead_inHand fun r => ?_))
  split
  · simp
  · refine State.successors_inHand fun l => ?_
    split
    · simp
    · exact Res.inHand_ite (by simp) (Res.inHand_ite (by simp) (by simp))

@[simp] theorem State.parkRunning_cur (s : State) (k : Nat) : (s.parkRunning k).cur = s.cur := rfl

theorem opJdone_inHand (c : OpCtx) (s : State) : (opJdone c s).InHand := by
  unfold opJdone
  refine Res.inHand_ite (by simp) (Res.inHand_ite (by simp) (Res.inHand_after none fun t => ?_))
  split <;> simp

theorem opJwait_inHand (a : SReg) (c : OpCtx) (s : State) : (opJwait a c s).InHand := by
  unfold opJwait
  exact Res.inHand_ite (by simp) (by simp)

theorem opJdec_inHand (a : SReg) (c : OpCtx) (s : State) : (opJdec a c s).InHand := by
  unfold opJdec
  exact Res.inHand_ite (by simp) (by simp)

theorem opWaita_inHand (a b : SReg) (c : OpCtx) (s : State) : (opWaita a b c s).InHand := by
  unfold opWaita
  dsimp only
  refine Res.inHand_ite (by simp) ?_
  split
  · simp
  · simp
  · refine Res.inHand_ite (by simp) ?_
    split
    · simp
    · simp
    · split
      · simp
      · refine Res.inHand_ite (by simp) ?_
        split
        · simp
        · exact Res.inHand_ite (by simp) (by simp)

theorem opCapq_inHand (d a : SReg) (x : BitVec 8) (c : OpCtx) (s : State) : (opCapq d a x c s).InHand := by
  unfold opCapq
  exact Res.inHand_ite (by simp) (by simp)

theorem opCapr_inHand (d a : SReg) (x : BitVec 8) (c : OpCtx) (s : State) : (opCapr d a x c s).InHand := by
  unfold opCapr
  exact Res.inHand_ite (by simp) (by simp)

/-! ### The system -/

theorem opSvc_inHand (n : BitVec 16) (c : OpCtx) (s : State) : (opSvc n c s).InHand :=
  Res.inHand_after none fun t => t.trap_cur ..

theorem opWfi_inHand (c : OpCtx) (s : State) : (opWfi c s).InHand := Res.inHand_after none fun _ => rfl

theorem opJyield_inHand (c : OpCtx) (s : State) : (opJyield c s).InHand := Res.inHand_after none fun _ => rfl

theorem opKeysel_inHand (a b : SReg) (c : OpCtx) (s : State) : (opKeysel a b c s).InHand := by
  unfold opKeysel
  exact Res.inHand_ite (by simp) (Res.inHand_ite (by simp) (by simp))

theorem opErrlog_inHand (d a : SReg) (c : OpCtx) (s : State) : (opErrlog d a c s).InHand := by
  unfold opErrlog
  exact Res.inHand_ite (by simp) (by simp)

theorem opHalt_inHand (c : OpCtx) (s : State) : (opHalt c s).InHand := by
  unfold opHalt
  exact Res.inHand_ite (by simp) (Res.inHand_after none fun t => t.halt_cur _)

/-- What an ERET with SAVED = 1 answers of a context that may be restored (R182, R193). -/
theorem restoring_inHand {s : State} {busy : Bool} {bad : Option (Nat × Word)} {f : State → Option State} {next : Option Word}
    (hf : ∀ t u, f t = some u → u.cur = t.cur) :
    (if busy then Res.stall else match bad with
      | some (c, a) => Res.trap c a false id true
      | none => if (f s).isNone then .stall else .commit { run := id, next := next, after := fun t => (f t).getD t }).InHand := by
  refine Res.inHand_ite (by simp) ?_
  split
  · simp
  · refine Res.inHand_ite (by simp) (Res.inHand_after _ fun t => ?_)
    cases h : f t with
    | none => rfl
    | some u => exact hf t u h

theorem eretSaved_inHand (oc : OpCtx) (s : State) : (eretSaved oc s).InHand := by
  unfold eretSaved
  dsimp only
  split
  · next e _ => exact restoring_inHand (f := (·.restoreContext s.cur e)) fun t u h => State.restoreContext_cur h
  · next e _ =>
    exact restoring_inHand
      (f := fun t => (t.modCore s.cur fun c => c.modEntry (·.st == .running) fun x =>
        { x with area := s.my.sup.saveptr.toNat }).restoreContext s.cur { e with area := s.my.sup.saveptr.toNat })
      fun t u h => (State.restoreContext_cur h).trans rfl
  · exact restoring_inHand (f := (·.restoreContext s.cur (bareEntry s.my))) fun t u h => State.restoreContext_cur h
  · exact Res.inHand_after _ fun _ => rfl

theorem opEret_inHand (c : OpCtx) (s : State) : (opEret c s).InHand := by
  unfold opEret
  refine Res.inHand_ite (by simp) (Res.inHand_ite (eretSaved_inHand ..) (Res.inHand_ite (by simp) (Res.inHand_after _ fun t => ?_)))
  exact t.leaveTrap_cur _

/-- Every operation that a bundle can hold. -/
theorem opOf_inHand (i : Instr) (c : OpCtx) (s : State) : (opOf i c s).InHand := by
  cases i with
  | nop | fmin | fmax | feq | flt | fle | fcvtfb | sstat | cpyq | rgprobe | rginv | rgtouch | gstat | rcflush =>
    exact inHand_commits _
  | add | sub | and | or | xor | sll | srl | sra | slt | sltu | min | max | minu | maxu | csel | mul | mulh | mulhu | div
  | divu | rem | remu | add32 | clz | ctz | popc | fshl | fshr | bext | bins | sext | addi | andi | ori | xori | slli | srli
  | srai | slti | sltiu | lui | addpc | fclass | time | tstat => exact inHand_writes _ _
  | fadd | fsub | fmul | fdiv =>
    dsimp only [opOf, opFadd, opFsub, opFmul, opFdiv]
    exact fpArith_inHand ..
  | fsqrt => exact opFsqrt_inHand (c := c) (s := s) ..
  | fma => exact opFma_inHand (c := c) (s := s) ..
  | fcvtif => exact opFcvtif_inHand (c := c) (s := s) ..
  | fcvtfi => exact opFcvtfi_inHand (c := c) (s := s) ..
  | fcvtbf => exact opFcvtbf_inHand (c := c) (s := s) ..
  | beq | bne | blt | bltu => exact branch_inHand ..
  | bge => exact branch_inHand (fun a b => !a.slt b) ..
  | bgeu => exact branch_inHand (fun a b => !a.ult b) ..
  | jal => exact jump_inHand ..
  | jalr => exact opJalr_inHand (c := c) (s := s) ..
  | loop => exact opLoop_inHand (c := c) (s := s) ..
  | vloop => exact opVloop_inHand (c := c) (s := s) ..
  | setvl => exact opSetvl_inHand (c := c) (s := s) ..
  | getc => exact opGetc_inHand (c := c) (s := s) ..
  | setc | setci => exact ctlStore_inHand ..
  | ldb | ldbu | ldh | ldhu | ldw | ldwu | ldd => exact loadOp_inHand ..
  | stb | sth | stw | std => exact storeOp_inHand ..
  | ldnb => exact opLdnb_inHand (c := c) (s := s) ..
  | stva => exact s.timedStore_inHand ..
  | amo | amos => exact atomicOp_inHand ..
  | fence => exact opFence_inHand (c := c) (s := s) ..
  | vld | vlds | vldx => exact vloadOp_inHand ..
  | vst | vsts | vstx => exact vstoreOp_inHand ..
  | vstb | vspill => exact storeOnRows_inHand (s.access_inHand ..)
  | vldc => exact opVldc_inHand (c := c) (s := s) ..
  | vfill => exact opVfill_inHand (c := c) (s := s) ..
  | vstva => exact storeOnRows_inHand (s.timedStore_inHand ..)
  | sbind => exact opSbind_inHand (c := c) (s := s) ..
  | sunbind => exact opSunbind_inHand (c := c) (s := s) ..
  | sskip => exact opSskip_inHand (c := c) (s := s) ..
  | sflush => exact opSflush_inHand (c := c) (s := s) ..
  | cpy => exact opCpy_inHand (c := c) (s := s) ..
  | cpyw => exact opCpyw_inHand (c := c) (s := s) ..
  | cpyx => exact opCpyx_inHand (c := c) (s := s) ..
  | rgsplit => exact opRgsplit_inHand (c := c) (s := s) ..
  | rgmerge => exact opRgmerge_inHand (c := c) (s := s) ..
  | rgmove => exact opRgmove_inHand (c := c) (s := s) ..
  | twait => exact opTwait_inHand (c := c) (s := s) ..
  | gbar => exact opGbar_inHand (c := c) (s := s) ..
  | jpost => exact opJpost_inHand (c := c) (s := s) ..
  | jyield => exact opJyield_inHand (c := c) (s := s) ..
  | jdone => exact opJdone_inHand (c := c) (s := s) ..
  | jwait => exact opJwait_inHand (c := c) (s := s) ..
  | jdec => exact opJdec_inHand (c := c) (s := s) ..
  | waita => exact opWaita_inHand (c := c) (s := s) ..
  | capq => exact opCapq_inHand (c := c) (s := s) ..
  | capr => exact opCapr_inHand (c := c) (s := s) ..
  | tshape => exact opTshape_inHand (c := c) (s := s) ..
  | opa => exact opOpa_inHand (c := c) (s := s) ..
  | opz => exact opOpz_inHand (c := c) (s := s) ..
  | gmov => exact opGmov_inHand (c := c) (s := s) ..
  | gtrn => exact opGtrn_inHand (c := c) (s := s) ..
  | gsave | gload => exact slotGate_inHand fun _ => inHand_commits _
  | gdirty => exact opGdirty_inHand (c := c) (s := s) ..
  | gclr => exact opGclr_inHand (c := c) (s := s) ..
  | vadd | vsub | vmul | vfma | vfms | vmin | vmax | vabs | vneg | vdiv | vand | vor | vxor | vnot | vsll | vsrl | vsra
  | vfshl | vfshr | vsel | vmv | vbcast | vadds | vmuls | vfmas | vid | vcvt | vhad | vsfu | vslideup | vslidedn | vperm
  | vunpk | vpack | vlut | vnrw | vpopc | vshrr | vmulh | vclz => exact planOp_inHand ..
  | vcmp | vmfrom =>
    dsimp only [opOf, opVcmp, opVmfrom]
    exact vecGate_inHand (inHand_commits _)
  | vqnt => exact opVqnt_inHand (c := c) (s := s) ..
  | vredsum | vredmax | vredmin | vredamax => exact redOp_inHand (c := c) ..
  | vsegsum | vsegscan | vscan | vexpand | vcompress | vsparse | vmto =>
    dsimp only [opOf, opVsegsum, opVsegscan, opVscan, scanOp, opVexpand, opVcompress, opVsparse, opVmto]
    exact wholeOp_inHand ..
  | vpop => exact opVpop_inHand (c := c) (s := s) ..
  | vpush => exact opVpush_inHand (c := c) (s := s) ..
  | vmand | vmor | vmxor | vmnot =>
    dsimp only [opOf, opVmand, opVmor, opVmxor, opVmnot]
    exact maskOp_inHand ..
  | vmpopc | vmfirst =>
    dsimp only [opOf, opVmpopc, opVmfirst, maskGate]
    exact rowGate_inHand (inHand_writes _ _)
  | vext => exact vecGate_inHand (inHand_writes _ _)
  | svc n => exact opSvc_inHand n c s
  | brk => exact Res.inHand_trap.2 fun _ => rfl
  | eret => exact opEret_inHand (c := c) (s := s) ..
  | wfi => exact opWfi_inHand (c := c) (s := s) ..
  | keysel => exact opKeysel_inHand (c := c) (s := s) ..
  | halt => exact opHalt_inHand (c := c) (s := s) ..
  | errlog => exact opErrlog_inHand (c := c) (s := s) ..
  | _ => exact Res.inHand_stall

end Sys2Proof.Machine
end

section
/-! SUPPORT. A bundle of one operation (R129, R172, R197): its own fetch beside it, and what it leaves of the core in hand. For O50. -/

namespace Sys2Proof.Machine

/-! ### Operations leave the core in hand as it is -/

@[simp] theorem State.rowError_cur (s : State) (row : Nat) (oc : OpCtx) : (s.rowError row oc).cur = s.cur := rfl

/-- What the rows that an operation reads hold changes nothing of this (R67). -/
theorem onRows_inHand {i : Instr} {op : Op} (h : ∀ c t, (op c t).InHand) (c : OpCtx) (s : State) : (onRows i op c s).InHand := by
  unfold onRows
  split
  · exact h c s
  · next r _ =>
    have hop := h c (s.modMy fun h => { h with grid := h.readGrid })
    generalize op c (s.modMy fun h => { h with grid := h.readGrid }) = res at hop ⊢
    cases res with
    | trap c a sv f kp => exact hop
    | stall => trivial
    | wait n b f => exact Res.inHand_ite (by simp) hop
    | commit c' =>
      refine Res.inHand_ite (by simp) ?_
      obtain hid | ⟨hrun, hafter⟩ := hop
      · exact .inl hid
      · exact .inr ⟨fun t => (hrun _).trans (t.rowError_cur ..), hafter⟩

@[simp] theorem State.finishBundle_cur (s : State) (k : Nat) (pc : Word) (next : Option Word) (cut : Bool) :
    (s.finishBundle k pc next cut).cur = s.cur := by
  obtain ⟨n, u, heq⟩ := s.finishBundle_eq k pc next cut
  rw [heq]
  rfl

@[simp] theorem State.finishBundle_passed (s : State) (k : Nat) (pc : Word) (next : Option Word) (cut : Bool) :
    ((s.finishBundle k pc next cut).hart k).passed = none := by
  obtain ⟨n, u, heq⟩ := s.finishBundle_eq k pc next cut
  rw [heq]
  exact congrArg (fun c : Core => c.hart.passed) (State.core_setCore_same s k _)

theorem State.raiseTrap_cur {s : State} {t : Raised} (h : ∀ u, (t.note u).cur = u.cur) : (s.raiseTrap t).cur = s.cur := by
  unfold State.raiseTrap
  dsimp only
  split
  · rfl
  · split
    · exact (State.trap_cur ..).trans ((h _).trans (s.forgetAsk_cur _))
    · exact (State.trap_cur ..).trans (h _)

@[simp] theorem State.passChecks_cur (s : State) (cs : List Commit) : (s.passChecks cs).cur = s.cur := rfl

theorem State.waitOn_cur {s : State} {blk : Option (Nat × Word)} {f : State → State} (h : ∀ t, (f t).cur = t.cur) :
    (s.waitOn blk f).cur = s.cur := by
  unfold State.waitOn
  split
  · exact h s
  · exact h s

/-! ### A bundle of one operation -/

theorem orderedCommits_one (p : Part) (i : Nat) (r : Res) : orderedCommits [p] [(i, r)] = commitsOf [(i, r)] := by
  cases hf : p.first <;> cases hl : p.last <;> simp [orderedCommits, hf, hl, commitsOf]

/-- What becomes of a bundle of one operation is what the operation answers: its place in the order of the bundle says nothing. -/
theorem State.runOps_one (s : State) (p : Part) : s.runOps [p] =
    match p.op ⟨s.my.pc, p.slot⟩ s with
    | .trap c a sv f kp => s.raiseTrap ⟨p.slot, c, a, sv, f, kp⟩
    | .stall => s.modCore s.cur (·.unblock)
    | .wait n b f => if n ≤ 2 then (if n != 0 then s.passChecks [] else s).waitOn b f else s.commitAll []
    | .commit c => s.commitAll [c] := by
  unfold State.runOps
  simp only [State.answers, List.map_cons, List.map_nil, verdict_one, orderedCommits_one]
  cases p.op ⟨s.my.pc, p.slot⟩ s with
  | wait n b f => by_cases hn : n ≤ 2 <;> simp only [hn, if_true, if_false] <;> rfl
  | _ => rfl

/-- A bundle of one operation leaves the core in hand as it is, unless it has committed. -/
theorem State.runOps_one_inHand {s : State} {p : Part} (h : (p.op ⟨s.my.pc, p.slot⟩ s).InHand) :
    (s.runOps [p]).cur = s.cur ∨ ((s.runOps [p]).hart s.cur).passed = none := by
  rw [State.runOps_one]
  generalize p.op ⟨s.my.pc, p.slot⟩ s = res at h ⊢
  cases res with
  | trap c a sv f kp => exact .inl (State.raiseTrap_cur h)
  | stall => exact .inl rfl
  | wait n b f =>
    left
    dsimp only
    split
    · refine (State.waitOn_cur h).trans ?_
      split <;> rfl
    · unfold State.commitAll
      exact State.finishBundle_cur ..
  | commit c =>
    dsimp only
    rw [State.commitAll_one]
    obtain hid | ⟨hrun, hafter⟩ := h
    · rw [hid]
      exact .inr (State.finishBundle_passed ..)
    · exact .inl ((hafter _).trans ((State.finishBundle_cur ..).trans (hrun _)))

/-! ### The bundle's own fetch -/

/-- A fetch that fills nothing of the range cache leaves the bundle as it is (R24). -/
theorem State.runOps_fetch {s : State} {used : List RcEnt} (ps : List Part)
    (hused : ({ s with raised := 0 } : State).useEntries s.cur used = { s with raised := 0 }) :
    s.runOps (fetchPart used :: ps) = s.runOps ps := by
  have hcommits : orderedCommits (fetchPart used :: ps) (s.answers (fetchPart used :: ps)) =
      { run := fun t => t.useEntries t.cur used } :: orderedCommits ps (s.answers ps) := rfl
  have hall : ∀ cs, s.commitAll ({ run := fun t => t.useEntries t.cur used } :: cs) = s.commitAll cs := by
    intro cs
    unfold State.commitAll
    dsimp only [List.foldl_cons, List.findSome?_cons, List.any_cons, Bool.false_or, id]
    rw [hused, Bool.false_or]
  have hpass : s.passChecks (commitsOf (s.answers (fetchPart used :: ps))) = s.passChecks (commitsOf (s.answers ps)) := rfl
  have hverdict : verdict (s.answers (fetchPart used :: ps)) = verdict (s.answers ps) := rfl
  unfold State.runOps
  dsimp only
  rw [hverdict]
  split
  · rfl
  · rfl
  · rw [hpass]
  · rw [hcommits, hall]

/-- A bundle that has not sent an operation keeps no words (R173). -/
theorem State.keepBundle_none {s : State} {k : Nat} (h : (s.hart k).passed = none) (b : Nat) (used : List RcEnt) :
    s.keepBundle k b used = s := by
  unfold State.keepBundle
  rw [h]

/-- An operation is run as the only one of its bundle (R129). -/
theorem exec_eq_runOne {i : Instr} (h : i.isStep = false) (s : State) : exec i s = s.runOne i (opOf i) := by
  have hall : exec i s = if i.isStep then exec i s else s.runOne i (opOf i) := by cases i <;> rfl
  rw [hall, h]
  rfl

/-- A bundle of one operation issues as `exec` of it, and keeps its words where it has sent the operation (R129, R173). -/
theorem State.issueBundle_one {s t : State} {b : Nat} {used : List RcEnt} {i : Instr}
    (hp : s.my.passed = none) (hused : ({ s with raised := 0 } : State).useEntries s.cur used = { s with raised := 0 })
    (hdec : decodeBundle b = .ok ⟨false, [(0, i)]⟩) (hi : i.isStep = false) (hslot : brokenSlot s.my false [] [(0, i)] = none)
    (hexec : exec i s = .next t) : s.issueBundle b used = t.keepBundle s.cur b used := by
  have hrun : s.runOps (fetchPart used :: [partOf (0, i)]) = s.runOps [{ slot := 0, op := onRows i (opOf i) }] := by
    rw [State.runOps_fetch _ hused, State.runOps_one, State.runOps_one]
    rfl
  rw [exec_eq_runOne hi] at hexec
  obtain rfl : _ = t := Host.Outcome.next.inj hexec
  unfold State.issueBundle
  rw [hdec]
  dsimp only
  rw [show brokenSlot (s.hart s.cur) false [] [(0, i)] = none from hslot]
  dsimp only
  split
  · rw [State.keepBundle_none]
    exact (congrArg (fun c : Core => c.hart.passed) (s.core_modCore_same s.cur _)).trans hp
  · rw [List.map_cons, List.map_nil, hrun]
    rfl

/-- An operation run alone leaves its words to be kept only where it stays in hand. -/
theorem State.keepBundle_of_passed {s t : State} {b : Nat} {used : List RcEnt} {i : Instr}
    (hi : i.isStep = false) (hexec : exec i s = .next t) (ht : t.my.passed = none) : t.keepBundle s.cur b used = t := by
  have hcase : t.cur = s.cur ∨ (t.hart s.cur).passed = none := by
    rw [exec_eq_runOne hi] at hexec
    obtain rfl : _ = t := Host.Outcome.next.inj hexec
    split
    · exact .inl rfl
    · exact State.runOps_one_inHand (onRows_inHand (opOf_inHand i) _ _)
  refine State.keepBundle_none ?_ b used
  obtain hcur | hnone := hcase
  · rw [← hcur]
    exact ht
  · exact hnone

/-- With nothing on the agenda a step is the turn of the core in hand, and where its hart does not move on the action of another
agent. -/
theorem step_turn {s u : State} (hdown : s.down = false) (hagenda : s.agenda = []) (hsettle : s.settle = s)
    (hturn : s.turn s.cur = u) : step s = .next (if s.moved u then u else u.autoStep).pass := by
  unfold step State.advance
  rw [hsettle, hdown, hagenda]
  dsimp only
  rw [hturn]
  rfl

/-- Settles O50: the turn of the core in hand issues the bundle that is fetched, and a bundle of one operation runs as `exec` of
it. -/
theorem stepRunsTheOperation : Obligations.StepRunsTheOperation := by
  unfold Obligations.StepRunsTheOperation
  intro s t b used i hdown hagenda hsettle hact hbd hwfi hinval hp hfetch hused hdec _ hi hslot hexec
  have hturn : s.turn s.cur = t.keepBundle s.cur b used :=
    (State.turn_fetch hact hbd hwfi hinval hp hfetch).trans (State.issueBundle_one hp hused hdec hi hslot hexec)
  have hstep := step_turn hdown hagenda hsettle hturn
  refine ⟨fun ht => State.keepBundle_of_passed hi hexec ht, fun hmoved => ?_, fun hstays => ?_⟩
  · rw [hstep, hmoved]
    rfl
  · rw [hstep, hstays]
    rfl

end Sys2Proof.Machine
end

section
/-! SUPPORT. The rules of a bundle (R130, R172 to R174, R201, R370): traps in the slot that breaks a rule, and reads before writes.
For O51. -/

namespace Sys2Proof.Machine

/-! ### A precise trap in a slot -/

/-- A precise trap of the bundle in hand that does not save, with no address (R178, R370). -/
def plainTrap (s : State) (cause slot : Nat) : Trap :=
  { cause := cause, addr := 0, slot := some slot, pc := s.my.pc, save := false }

/-- The state after it. -/
def State.plainTrapped (s : State) (cause slot : Nat) : State :=
  (s.modHart s.cur (·.enter (plainTrap s cause slot) false)).modCore s.cur Core.unblock

theorem State.plainTrapped_me (s : State) (cause slot : Nat) :
    (s.plainTrapped cause slot).me = Core.unblock { s.me with hart := s.my.enter (plainTrap s cause slot) false } := by
  show State.core (State.modCore (State.modHart s s.cur _) s.cur _) s.cur = _
  rw [State.core_modCore_same, State.core_modHart_same]
  rfl

theorem State.plainTrapped_my (s : State) (cause slot : Nat) :
    (s.plainTrapped cause slot).my = s.my.enter (plainTrap s cause slot) false :=
  congrArg Core.hart (s.plainTrapped_me cause slot)

/-- What a trap in a slot says of it and keeps (R172, R178, R179, R370). -/
def SlotTrapped (s t : State) (cause slot : Nat) : Prop :=
  t.my.sup.trapcause.toNat = cause + 2 ^ 8 * levelCode s.my.level ∧ t.my.sup.trappc = s.my.pc ∧ t.my.sup.trapaddr = 0 ∧
  t.my.sup.trapslot.toNat = slot + 4 ∧ t.my.level = .s ∧ t.my.handler = true ∧ t.my.pc = s.my.sup.trapvec ∧
  RegsKept s.my t.my ∧ t.my.ctl = s.my.ctl ∧ t.my.grid = s.my.grid ∧ OutsideKept s t ∧ CoreKept s.me t.me

theorem State.plainTrapped_slotTrapped (s : State) {cause slot : Nat} (hc : cause < 256) (hslot : slot < 4) :
    SlotTrapped s (s.plainTrapped cause slot) cause slot := by
  have hlevel : levelCode s.my.level ≤ 2 := by cases s.my.level <;> simp [levelCode]
  have hcause : (s.my.enter (plainTrap s cause slot) false).sup.trapcause.toNat = cause + 2 ^ 8 * levelCode s.my.level := by
    simp only [Hart.enter, plainTrap, BitVec.toNat_ofNat, Bool.toNat_false]
    omega
  have hslotWord : (s.my.enter (plainTrap s cause slot) false).sup.trapslot.toNat = slot + 4 := by
    simp only [Hart.enter, plainTrap, BitVec.toNat_ofNat, Bool.toNat_false]
    omega
  have houtside : OutsideKept s (s.plainTrapped cause slot) :=
    ⟨rfl, rfl, rfl, rfl, rfl, rfl, rfl, rfl, rfl, rfl, rfl, rfl, rfl, rfl,
      fun k hk => (State.core_modCore_ne _ _ hk).trans (State.core_modHart_ne _ _ hk)⟩
  unfold SlotTrapped
  rw [s.plainTrapped_my, s.plainTrapped_me]
  exact ⟨hcause, rfl, rfl, hslotWord, rfl, rfl, rfl, fun _ => rfl, rfl, rfl, houtside, coreKept_unblock s.me _⟩

theorem State.trapBundle_plainTrapped (s : State) {cause : Nat} (slot : Nat) (hc : savingCause cause = false) :
    (s.trapBundle s.cur cause 0 (some slot)).modCore s.cur Core.unblock = s.plainTrapped cause slot := by
  unfold State.trapBundle
  rw [hc, State.trap_plain _ _ rfl]
  rfl

/-- An illegal encoding (R173, R201). -/
theorem State.issueBundle_error {s : State} {b : Nat} {used : List RcEnt} {e : BadSlot} (hdec : decodeBundle b = .error e) :
    s.issueBundle b used = s.plainTrapped 0x01 e.slot := by
  unfold State.issueBundle
  rw [hdec]
  exact s.trapBundle_plainTrapped e.slot rfl

/-- An illegal bundle (R130, R201). -/
theorem State.issueBundle_broken {s : State} {b : Nat} {used : List RcEnt} {d : Bundle} {k : Nat} (hdec : decodeBundle b = .ok d)
    (hslot : brokenSlot s.my d.header [] d.ops = some k) : s.issueBundle b used = s.plainTrapped 0x02 k := by
  unfold State.issueBundle
  rw [hdec]
  dsimp only
  rw [show brokenSlot (s.hart s.cur) d.header [] d.ops = some k from hslot]
  exact s.trapBundle_plainTrapped k rfl

/-- The bundle of which an operation finds a trap at decode (R172, R174). -/
theorem State.raiseTrap_plainTrapped {s : State} {cause slot : Nat} (hp : s.my.passed = none) (hwait : s.my.wait ≠ .ask)
    (hcause : cause ≠ 0x13) : s.raiseTrap ⟨slot, cause, 0, false, id, false⟩ = s.plainTrapped cause slot := by
  have hask : (s.my.wait == Wait.ask) = false := beq_eq_false_iff_ne.2 hwait
  have hname : slotOfTrap cause slot = some slot := if_neg hcause
  unfold State.raiseTrap
  dsimp only
  rw [hp, hask, hname]
  simp only [Option.isSome_none, Bool.false_and, Bool.false_eq_true, if_false, id]
  rw [State.trap_plain _ _ rfl]
  rfl

/-! ### A bundle of two scalar operations -/

/-- An operation of the class SA (R198). -/
theorem classOf_sa {i : Instr} (h : encodeWord i < 2 ^ 29) : classOf i = 0 := by
  unfold classOf
  rw [Nat.div_eq_of_lt h]
  rfl

theorem classOf_add (d a b : SReg) : classOf (.add d a b) = 0 := by
  have hword : encodeWord (.add d a b) = 0x00400000 + b.toNat * 2 ^ 7 + a.toNat * 2 ^ 12 + d.toNat * 2 ^ 17 := rfl
  have := d.isLt; have := a.isLt; have := b.isLt
  exact classOf_sa (by omega)

theorem classOf_sub (d a b : SReg) : classOf (.sub d a b) = 0 := by
  have hword : encodeWord (.sub d a b) = 0x00800000 + b.toNat * 2 ^ 7 + a.toNat * 2 ^ 12 + d.toNat * 2 ^ 17 := rfl
  have := d.isLt; have := a.isLt; have := b.isLt
  exact classOf_sa (by omega)

theorem classOf_fadd (d a b : SReg) (rm : BitVec 3) : classOf (.fadd d a b rm) = 0 := by
  have hword : encodeWord (.fadd d a b rm) =
      0x10000000 + rm.toNat * 2 ^ 0 + b.toNat * 2 ^ 7 + a.toNat * 2 ^ 12 + d.toNat * 2 ^ 17 := rfl
  have := d.isLt; have := a.isLt; have := b.isLt; have := rm.isLt
  exact classOf_sa (by omega)

/-- Two operations of the class SA make a legal bundle where they write different scalar registers, and the second nothing else
(R130, R201). -/
theorem brokenSlot_two {h : Hart} {i j : Instr} (hi : classOf i = 0) (hj : classOf j = 0)
    (hscalar : ∀ r ∈ scalarDst j, r ∉ scalarDst i) (hmask : maskDst j = []) (hword : wordDst j = [])
    (hrow : rowDst h j = []) : brokenSlot h false [] [(0, i), (1, j)] = none := by
  have hdst : (scalarDst j).any (scalarDst i).contains = false := by simpa using hscalar
  simp [brokenSlot, clashes, hi, hj, hdst, hmask, hword, hrow]

theorem scalarDst_ne {l m : List SReg} {c d : SReg} (hne : c ≠ d) (hl : l = [c].filter (· != 0)) (hm : m = [d].filter (· != 0)) :
    ∀ r ∈ m, r ∉ l := by
  subst hl hm
  intro r hd hc
  exact hne ((List.mem_singleton.1 (List.mem_of_mem_filter hc)).symm.trans (List.mem_singleton.1 (List.mem_of_mem_filter hd)))

/-- A legal bundle that no VLDC holds up issues its operations, and keeps its words where it has sent one of them (R129, R173,
R263). -/
theorem State.issueBundle_legal {s : State} {b : Nat} {used : List RcEnt} {i j : Instr}
    (hdec : decodeBundle b = .ok ⟨false, [(0, i), (1, j)]⟩) (hslot : brokenSlot s.my false [] [(0, i), (1, j)] = none)
    (hfree : s.awaitsDecode [i, j] = false) : s.issueBundle b used =
      let t := s.runOps [fetchPart used, partOf (0, i), partOf (1, j)]
      (if s.my.long.isNone then s.readsFirst t else t).keepBundle s.cur b used := by
  have hgo : s.mustDecode [(0, i), (1, j)] = false := by simp [State.mustDecode, hfree]
  unfold State.issueBundle
  rw [hdec]
  dsimp only
  rw [show brokenSlot (s.hart s.cur) false [] [(0, i), (1, j)] = none from hslot, hgo]
  simp

/-- Where no long operation has been issued none reads anything first (R130). -/
theorem State.readsFirst_none {s t : State} (h : t.my.long = none) : s.readsFirst t = t := by
  unfold State.readsFirst
  rw [h]

/-- A bundle that neither issues a long operation nor sends one is done with its operations. -/
theorem State.issueBundle_done {s : State} {b : Nat} {used : List RcEnt} {i j : Instr} {t : State}
    (hdec : decodeBundle b = .ok ⟨false, [(0, i), (1, j)]⟩) (hslot : brokenSlot s.my false [] [(0, i), (1, j)] = none)
    (hfree : s.awaitsDecode [i, j] = false) (ht : s.runOps [fetchPart used, partOf (0, i), partOf (1, j)] = t)
    (hcur : t.cur = s.cur) (hlong : t.my.long = s.my.long) (hp : t.my.passed = none) : s.issueBundle b used = t := by
  have hreads : (if s.my.long.isNone then s.readsFirst t else t) = t := by
    split
    · next h => exact State.readsFirst_none (hlong.trans (Option.isNone_iff_eq_none.1 h))
    · rfl
  rw [State.issueBundle_legal hdec hslot hfree]
  dsimp only
  rw [ht, hreads, ← hcur]
  exact State.keepBundle_none hp b used

/-- Operations that only change registers commit together (R172, R233). -/
theorem State.finishBundle_regs {s : State} {f : Hart → Hart} (hf : ∀ h, f h = { h with x := (f h).x }) :
    let t := (({ s with raised := 0 } : State).modMy f).finishBundle s.cur s.my.pc none false
    t.my.x = (f s.my).x ∧ t.my.pc = (s.my.advance s.my.pc none).1.pc ∧ t.my.long = s.my.long ∧ t.my.passed = none ∧
      t.cur = s.cur ∧ OutsideKept s t := by
  obtain ⟨n, v, heq⟩ := (({ s with raised := 0 } : State).modMy f).finishBundle_eq s.cur s.my.pc none false
  have hmy := bundleEnd_my (u := ({ s with raised := 0 } : State).modMy f) (k := s.cur) (n := n) (v := v) (pc := s.my.pc) rfl heq
  rw [State.my_modMy, advance_kept] at hmy
  have hpc : ((f s.my).advance s.my.pc none).1.pc = (s.my.advance s.my.pc none).1.pc :=
    (advance_rest s.my (f s.my) s.my.pc (by rw [hf s.my]) (by rw [hf s.my]) (by rw [hf s.my])).1
  have hlong : (f s.my).long = s.my.long := by rw [hf s.my]
  intro t
  refine ⟨?_, ?_, ?_, ?_, ?_, ?_⟩
  · rw [hmy]
    rfl
  · rw [hmy]
    exact hpc
  · rw [hmy]
    exact hlong
  · rw [hmy]
  · exact (State.finishBundle_cur ..).trans rfl
  · show OutsideKept s (State.finishBundle ..)
    rw [heq]
    refine ⟨rfl, rfl, rfl, rfl, rfl, rfl, rfl, rfl, rfl, rfl, rfl, rfl, rfl, rfl, fun k hk => ?_⟩
    exact (State.core_setCore_ne _ _ hk).trans (State.core_modHart_ne _ f hk)

/-- Two register writes. -/
def Hart.wx2 (c d : SReg) (v w : Word) (h : Hart) : Hart := (h.wx c v).wx d w

theorem Hart.wx2_eq (c d : SReg) (v w : Word) (h : Hart) : h.wx2 c d v w = { h with x := (h.wx2 c d v w).x } := by
  unfold Hart.wx2 Hart.wx
  split <;> split <;> rfl

/-- What two registers written read, and the others. -/
theorem Hart.rx_wx2 {c d : SReg} (v w : Word) (h : Hart) (hne : c ≠ d) (hc : c ≠ 0) (hd : d ≠ 0) :
    (h.wx2 c d v w).rx c = v ∧ (h.wx2 c d v w).rx d = w ∧ ∀ r, r ≠ c → r ≠ d → (h.wx2 c d v w).rx r = h.rx r := by
  unfold Hart.wx2
  refine ⟨?_, ?_, fun r hrc hrd => ?_⟩
  · rw [Hart.rx_wx_ne _ _ hne, Hart.rx_wx_same, if_neg hc]
  · rw [Hart.rx_wx_same, if_neg hd]
  · rw [Hart.rx_wx_ne _ _ hrd, Hart.rx_wx_ne _ _ hrc]

/-- A scalar operation of a bundle comes neither first nor last (R130), and no row that it reads holds an error (R67). -/
theorem State.answers_partOf {s : State} {i : Instr} (n : Nat) (hrows : rowSrc s i = []) :
    (partOf (n, i)).op ⟨s.my.pc, n⟩ s = opOf i ⟨s.my.pc, n⟩ s :=
  onRows_eq (by rw [hrows]; exact Hart.badRow_nil _)

/-- Two scalar operations commit in slot order (R172). -/
theorem State.runOps_two {s : State} {i j : Instr} {f g : Hart → Hart} (hi : classOf i = 0) (hj : classOf j = 0)
    (hfirst : (partOf (0, i)).first = false ∧ (partOf (1, j)).first = false) (hrows : rowSrc s i = [] ∧ rowSrc s j = [])
    (hf : opOf i ⟨s.my.pc, 0⟩ s = commits (·.modMy f)) (hg : opOf j ⟨s.my.pc, 1⟩ s = commits (·.modMy g)) :
    s.runOps [partOf (0, i), partOf (1, j)] =
      (({ s with raised := 0 } : State).modMy fun h => g (f h)).finishBundle s.cur s.my.pc none false := by
  have hlast : (partOf (0, i)).last = false ∧ (partOf (1, j)).last = false := by simp [partOf, hi, hj]
  have hanswers : s.answers [partOf (0, i), partOf (1, j)] = [(0, commits (·.modMy f)), (1, commits (·.modMy g))] := by
    rw [← hf, ← hg, ← State.answers_partOf 0 hrows.1, ← State.answers_partOf 1 hrows.2]
    rfl
  have horder : orderedCommits [partOf (0, i), partOf (1, j)] [(0, commits (·.modMy f)), (1, commits (·.modMy g))] =
      [{ run := (·.modMy f) }, { run := (·.modMy g) }] := by
    simp [orderedCommits, hfirst, hlast, commits, commitsOf]
  unfold State.runOps
  rw [hanswers, ← State.modMy_modMy]
  show s.commitAll (orderedCommits _ _) = _
  rw [horder]
  rfl

/-- A bundle in slot 1 of which an operation finds a trap at decode has no other effect (R172, R174). -/
theorem State.runOps_trapped {s : State} {i j : Instr} {run : State → State} {cause : Nat} (used : List RcEnt)
    (hp : s.my.passed = none) (hwait : s.my.wait ≠ .ask) (hrank : causeRank cause < 9) (hcause : cause ≠ 0x13)
    (hrows : rowSrc s i = [] ∧ rowSrc s j = []) (hi : opOf i ⟨s.my.pc, 0⟩ s = commits run)
    (hj : opOf j ⟨s.my.pc, 1⟩ s = .trap cause 0 false) :
    s.runOps [fetchPart used, partOf (0, i), partOf (1, j)] = s.plainTrapped cause 1 := by
  have hanswers : s.answers [fetchPart used, partOf (0, i), partOf (1, j)] =
      [(0, .commit { run := fun t => t.useEntries t.cur used }), (0, commits run), (1, .trap cause 0 false)] := by
    rw [← hi, ← hj, ← State.answers_partOf 0 hrows.1, ← State.answers_partOf 1 hrows.2]
    rfl
  have hverdict : verdict [(0, .commit { run := fun t => t.useEntries t.cur used }), (0, commits run), (1, .trap cause 0 false)] =
      .raise ⟨1, cause, 0, false, id, false⟩ := by
    simp [verdict, firstTrap, commits, hrank]
  unfold State.runOps
  rw [hanswers]
  dsimp only
  rw [hverdict]
  exact State.raiseTrap_plainTrapped hp hwait hcause

/-- Every operation reads its sources before any writes its result (R130). -/
theorem issueBundle_add_sub {s : State} {b : Nat} {ra rb rc rd y z : SReg} (hne : rc ≠ rd) (hc : rc ≠ 0) (hd : rd ≠ 0)
    (hdec : decodeBundle b = .ok ⟨false, [(0, .add rc ra rb), (1, .sub rd y z)]⟩)
    (hfree : s.awaitsDecode [.add rc ra rb, .sub rd y z] = false) :
    let t := s.issueBundle b []
    t.my.rx rc = s.my.rx ra + s.my.rx rb ∧ t.my.rx rd = s.my.rx y - s.my.rx z ∧ t.my.pc = (s.my.advance s.my.pc none).1.pc ∧
      (∀ r, r ≠ rc → r ≠ rd → t.my.rx r = s.my.rx r) ∧ OutsideKept s t := by
  have hrun : s.runOps [fetchPart [], partOf (0, .add rc ra rb), partOf (1, .sub rd y z)] =
      (({ s with raised := 0 } : State).modMy (·.wx2 rc rd (s.my.rx ra + s.my.rx rb) (s.my.rx y - s.my.rx z))).finishBundle
        s.cur s.my.pc none false := by
    rw [State.runOps_fetch _ rfl]
    exact State.runOps_two (f := (·.wx rc _)) (g := (·.wx rd _)) (classOf_add ..) (classOf_sub ..) ⟨rfl, rfl⟩ ⟨rfl, rfl⟩ rfl rfl
  have hslot := brokenSlot_two (h := s.my) (classOf_add rc ra rb) (classOf_sub rd y z) (scalarDst_ne hne rfl rfl) rfl rfl rfl
  obtain ⟨hx, hpc, hlong, hpassed, hcur, hout⟩ := State.finishBundle_regs (s := s) (Hart.wx2_eq rc rd _ _)
  obtain ⟨hrc, hrd, hother⟩ := Hart.rx_wx2 (s.my.rx ra + s.my.rx rb) (s.my.rx y - s.my.rx z) s.my hne hc hd
  rw [State.issueBundle_done hdec hslot hfree hrun hcur hlong hpassed]
  exact ⟨(Hart.rx_congr hx rc).trans hrc, (Hart.rx_congr hx rd).trans hrd, hpc,
    fun r hnc hnd => (Hart.rx_congr hx r).trans (hother r hnc hnd), hout⟩

/-- The rounding code 7 is found at decode, and the addition beside it does not happen (R172, R226). -/
theorem issueBundle_add_fadd {s : State} {b : Nat} {used : List RcEnt} {ra rb rc rd : SReg} (hne : rc ≠ rd)
    (hdec : decodeBundle b = .ok ⟨false, [(0, .add rc ra rb), (1, .fadd rd ra rb 7)]⟩) (hp : s.my.passed = none)
    (hwait : s.my.wait ≠ .ask) (hfree : s.awaitsDecode [.add rc ra rb, .fadd rd ra rb 7] = false) :
    s.issueBundle b used = s.plainTrapped 0x03 1 := by
  have hrun := State.runOps_trapped (s := s) (i := .add rc ra rb) (j := .fadd rd ra rb 7) (cause := 0x03) used hp hwait
    (by decide) (by decide) ⟨rfl, rfl⟩ rfl rfl
  have hslot := brokenSlot_two (h := s.my) (classOf_add rc ra rb) (classOf_fadd rd ra rb 7) (scalarDst_ne hne rfl rfl) rfl rfl rfl
  refine State.issueBundle_done hdec hslot hfree hrun rfl ?_ ?_
  · rw [State.plainTrapped_my]
    rfl
  · rw [State.plainTrapped_my]
    rfl

/-- Settles O51: an illegal encoding, an illegal bundle and a trap at decode each give the same state of a plain trap in their
slot, and two register writes commit together. -/
theorem bundleRules : Obligations.BundleRules := by
  unfold Obligations.BundleRules
  intro s b used
  refine ⟨fun e hdec hlt => ?_, fun d k hdec hslot hlt => ?_, fun ra rb rc rd y z hne hc hd hdec hused hfree => ?_,
    fun ra rb rc rd hne hdec hp hwait hfree => ?_⟩
  · rw [State.issueBundle_error hdec]
    exact s.plainTrapped_slotTrapped (by decide) hlt
  · rw [State.issueBundle_broken hdec hslot]
    exact s.plainTrapped_slotTrapped (by decide) hlt
  · rw [hused]
    exact issueBundle_add_sub hne hc hd hdec hfree
  · rw [issueBundle_add_fadd hne hdec hp hwait hfree]
    exact s.plainTrapped_slotTrapped (by decide) (by decide)

end Sys2Proof.Machine
end

section
/-! SUPPORT. VPOP and VPUSH (R142, R270, R271, R341, R342): what a queue gives and takes. For O28. -/

namespace Sys2Proof.Machine

/-! ### What a change of the hart keeps through the end of its bundle -/

/-- An operation whose whole effect is a change of its hart that leaves alone what the loop end looks at: the end of the bundle
adds only the next bundle, the loop stack, VL and STRIP (R233). -/
theorem Changes.keeps {i : Instr} {s : State} {f : Hart → Hart} (h : Changes i s f 0)
    (hf : f s.my = { s.my with queues := (f s.my).queues, grid := (f s.my).grid }) :
    Runs i s fun t => OutsideKept s t ∧ CoreKept s.me t.me ∧ BundleEnds s.my t.my 0 ∧ t.my.x = s.my.x ∧
      t.my.queues = (f s.my).queues ∧ t.my.grid = (f s.my).grid := by
  refine runs_mono h fun t ⟨hout, hcore, hmy⟩ => ⟨hout, hcore, ?_, ?_, ?_, ?_⟩
  · obtain ⟨hpc, hloops, hvl, hstrip⟩ := advance_rest s.my (f s.my) s.my.pc (by rw [hf]) (by rw [hf]) (by rw [hf])
    have hctl : (f s.my).ctl = s.my.ctl := by rw [hf]
    unfold BundleEnds
    rw [hmy, advance_kept]
    dsimp only
    rw [hpc, hloops, hvl, hstrip, hctl]
    exact ⟨rfl, rfl, rfl⟩
  · rw [hmy, advance_kept]
    dsimp only
    rw [hf]
  · rw [hmy, advance_kept]
  · rw [hmy, advance_kept]

/-- What an operation has found, for an operation beside it (R173), does not change what it commits. -/
theorem changes_of_found {i : Instr} {s : State} {op : Op} {f : Hart → Hart} {found : Passed → Passed}
    (he : exec i s = s.runOne i op) (hr : s.my.badRow (rowSrc s i) = none)
    (ho : op ⟨s.my.pc, 0⟩ s = .commit { run := fun t => t.modMy f, found := found }) : Changes i s f 0 := by
  intro hd
  have hexec : exec i s = s.runOne i fun _ _ => commits fun t => t.modMy f := by
    rw [he, State.runOne_commit hd hr ho, State.runOne_commit hd hr rfl, State.commitAll_one, State.commitAll_one]
  exact changes_of_commits hexec hr rfl hd

/-! ### Taking an entry of a queue -/

/-- What VPOP writes: the elements of an entry (R341). -/
def popPlan (w : View) (d : GReg) (e : QWord) : VPlan :=
  { view := w, dst := d
    elem := fun c _ i f => (c.put w d i (e.data.toNat / 2 ^ (c.width * i) % 2 ^ c.width), f) }

/-- How VPOP is run: it rounds nothing. -/
def popUse (w : View) (d : GReg) (q : QReg) (m : MaskUse) : VUse := { instr := .vpop w d q m, mask := m, rm := 1 }

/-- The value that an entry has for an element (R341). -/
def popValue (h : Hart) (e : QWord) (i : Nat) : Nat × BitVec 6 :=
  (e.data.toNat / 2 ^ (2 ^ (h.ctl.vtype.toNat % 8 + 1) * i) % 2 ^ 2 ^ (h.ctl.vtype.toNat % 8 + 1), 0)

/-- An entry taken, and its elements written (R142, R341). -/
def popHart (s : State) (w : View) (d : GReg) (q : QReg) (m : MaskUse) (e : QWord) (g : Hart) : Hart :=
  (g.modQueue q.toNat Queue.pop).modGrid (·.writeAll ((popPlan w d e).writes (popUse w d q m) s (popValue s.my e)))

theorem popGate_unbound {s : State} {i : Nat} {k : QWord → Res} (h : (s.my.queue i).bind ≠ 1) :
    s.popGate i k = .trap 0x15 (BitVec.ofNat 64 i) := by
  unfold State.popGate
  exact if_pos h

theorem popGate_claimed {s : State} {i : Nat} {k : QWord → Res} (hbind : (s.my.queue i).bind = 1)
    (hclaim : (s.my.queue i).claim = true) : s.popGate i k = .stall := by
  unfold State.popGate
  simp [hbind, hclaim]

theorem popGate_entry {s : State} {i : Nat} {k : QWord → Res} {e : QWord} {rest : List QWord} (hbind : (s.my.queue i).bind = 1)
    (hclaim : (s.my.queue i).claim = false) (hent : (s.my.queue i).entries = e :: rest) : s.popGate i k = k e := by
  unfold State.popGate
  simp [hbind, hclaim, hent]

section
variable {s : State} {w : View} {d : GReg} (q : QReg) (m : MaskUse) (hready : Claim.Ready s w [d])
  (hgroup : s.my.ctl.vtype.toNat / 8 = 0)
include hready hgroup

/-- VPOP on a destination that is ready is what its queue answers (R341). -/
theorem opVpop_ready (oc : OpCtx) : opVpop w d q m oc s = s.popGate q.toNat fun e => commits (·.modMy (popHart s w d q m e)) := by
  have hone : groupOf s.my.ctl.vtype = 1 := by rw [groupOf, hgroup]; rfl
  have hlegal : (groupOf (s.my.capture m 1 0).vtype != 1) = false := bne_eq_false_iff_eq.2 hone
  unfold opVpop
  dsimp only
  rw [hlegal, ready_vecGate hready fun _ hq => hq]
  have hwrites : ∀ e : QWord, (popPlan w d e).writes (popUse w d q m) s (popValue s.my e) =
      (((popUse w d q m).cap s).actives s.my.grid 0).flatMap fun i => ((popUse w d q m).cap s).put w d i (popValue s.my e i).1 := by
    intro e
    simp only [put_cap, ← List.map_eq_flatMap]
    rfl
  refine congrArg (s.popGate q.toNat) (funext fun e => congrArg commits (funext fun t => State.modMy_congr ?_))
  unfold popHart
  rw [hwrites]
  rfl

omit hgroup in
/-- An element of an operand lies in its rows (R132, R138). -/
theorem at_inRows {j : Nat} (hj : j < s.my.ctl.vl) : Claim.inRows s.my w d (Claim.at s.my w d j).1 := by
  obtain ⟨hshape, -, -, -, -, -, hregs⟩ := hready
  have hlegal := (hregs d (List.mem_singleton_self d)).1
  cases w with
  | row => exact ⟨Nat.le_add_right _ _, Nat.add_lt_add_left (row_index hshape hj).2 _⟩
  | col =>
    have hlt := (column_index hshape hlegal hj (by decide)).2
    exact ⟨Nat.le_add_right _ _, Nat.add_lt_add_left hlt _⟩
  | diag =>
    have hlt := (column_index hshape hlegal hj (by decide)).2
    exact ⟨Nat.le_add_right _ _, Nat.add_lt_add_left hlt _⟩

omit hready hgroup in
/-- What keeps the grid outside some bits keeps it outside more. -/
theorem GridKept.mono {g k : Grid} {p p' : Nat → Nat → Prop} (h : Claim.GridKept g k p) (hp : ∀ n b, p n b → p' n b) :
    Claim.GridKept g k p' := by
  obtain ⟨hbits, hclean, hdirty, hrest⟩ := h
  exact ⟨fun n b hn => hbits n b fun hb => hn (hp n b hb), fun n hn => hclean n fun b hb => hn b (hp n b hb), hdirty, hrest⟩

/-- VPOP of a queue that is not bound for reading (R271). -/
theorem vpop_unbound (h : (s.my.queue q.toNat).bind ≠ 1) : Traps (.vpop w d q m) s 0x15 (BitVec.ofNat 64 q.toNat) 4 :=
  traps_of_trap rfl (Hart.badRow_nil _) ((opVpop_ready q m hready hgroup _).trans (popGate_unbound h)) (by decide) (by decide)

/-- VPOP of a queue that an OPA has claimed (R142). -/
theorem vpop_claimed (hbind : (s.my.queue q.toNat).bind = 1) (hclaim : (s.my.queue q.toNat).claim = true) :
    Stalls (.vpop w d q m) s :=
  stalls_of_stall rfl (Hart.badRow_nil _) ((opVpop_ready q m hready hgroup _).trans (popGate_claimed hbind hclaim))

/-- VPOP of a queue with an entry (R142, R341). -/
theorem vpop_entry {e : QWord} {rest : List QWord} (hbind : (s.my.queue q.toNat).bind = 1)
    (hclaim : (s.my.queue q.toNat).claim = false) (hent : (s.my.queue q.toNat).entries = e :: rest) :
    Runs (.vpop w d q m) s fun t => RegsKept s.my t.my ∧ OutsideKept s t ∧ CoreKept s.me t.me ∧ BundleEnds s.my t.my 0 ∧
      t.my.queue q.toNat = { s.my.queue q.toNat with entries := rest, count := (s.my.queue q.toNat).count + 1 } ∧
      (∀ k, k ≠ q.toNat → t.my.queue k = s.my.queue k) ∧
      (∀ j, Claim.Active s.my m j → Claim.elem s.my t.my.grid w d j = (popValue s.my e j).1) ∧
      Claim.GridKept s.my.grid t.my.grid fun n _ => Claim.inRows s.my w d n := by
  have hop := (opVpop_ready q m hready hgroup ⟨s.my.pc, 0⟩).trans (popGate_entry hbind hclaim hent)
  have hdst : d ∈ [d] := List.mem_singleton_self d
  obtain ⟨hfit, hdis⟩ := writes_fit (u := popUse w d q m) (val := popValue s.my e) (p := popPlan w d e) hready hdst rfl
  have hkept := writes_keep (u := popUse w d q m) (val := popValue s.my e) (p := popPlan w d e) hready hdst rfl
  refine runs_mono (Changes.keeps (changes_of_commits rfl (Hart.badRow_nil _) hop) rfl)
    fun t ⟨hout, hcore, hends, hx, hqueues, hgrid⟩ => ?_
  have hqueue : ∀ k, t.my.queue k = (s.my.modQueue q.toNat Queue.pop).queue k :=
    fun k => congrArg (fun b : Tbl Queue => b.get k) hqueues
  refine ⟨fun r => Hart.rx_congr hx r, hout, hcore, hends, ?_, fun k hk => ?_, fun j hj => ?_, ?_⟩
  · rw [hqueue, Hart.queue_modQueue_same, Queue.pop, hent]
    rfl
  · rw [hqueue, Hart.queue_modQueue_ne _ _ hk]
  · have hmem := (mem_writes (u := popUse w d q m) (val := popValue s.my e) (p := popPlan w d e) rfl).2 ⟨j, hj, rfl⟩
    rw [hgrid]
    exact Grid.field_writeAll hfit hdis _ hmem (Nat.mod_lt _ (Nat.two_pow_pos _))
  · rw [hgrid]
    refine GridKept.mono hkept ?_
    rintro n b ⟨j, hj, rfl, -⟩
    exact at_inRows hready hj.1

end

/-! ### Putting an entry into a queue -/

/-- The row of VPUSH is where it may be read (R51, R67, R134, R135). -/
structure PushReady (s : State) (a : GReg) : Prop where
  present : s.my.missingHalf = none
  short : s.my.long = none
  free : Claim.Free s.my a.toNat
  sound : Claim.Sound s.my a.toNat

section
variable {s : State} {q : QReg} {a : GReg} {m : MaskUse} (hready : PushReady s a)
include hready

theorem PushReady.badRow (q : QReg) (m : MaskUse) : s.my.badRow (rowSrc s (.vpush q a m)) = none :=
  Hart.badRow_none fun c hc hn => hready.sound c hc (List.mem_singleton.1 hn)

/-- Such a row passes the gate (R174). -/
theorem PushReady.rowGate_eq (k : Res) : rowGate s [a.toNat] false false k = k := by
  have hwaits : s.my.rowWaits [a.toNat] = false :=
    Hart.rowWaits_free fun n hn => by rw [List.mem_singleton.1 hn]; exact hready.free
  unfold rowGate
  simp [Hart.capTrap_present hready.present, hready.short, hwaits]

/-- VPUSH takes no mask (R342). -/
theorem vpush_masked (h : m ≠ .off) : Traps (.vpush q a m) s 0x03 0 4 := by
  intro hp hwait
  have hop : opVpush q a m ⟨s.my.pc, 0⟩ s = .trap 0x03 0 false := by
    unfold opVpush
    simp [hp, rowGate, h]
    rfl
  exact traps_of_trap rfl (hready.badRow q m) hop (by decide) (by decide) hp hwait

/-- VPUSH of a queue that is not bound for writing (R271). -/
theorem vpush_unbound (h : (s.my.queue q.toNat).bind ≠ 2) : Traps (.vpush q a .off) s 0x15 (BitVec.ofNat 64 q.toNat) 4 := by
  intro hp hwait
  have hop : opVpush q a .off ⟨s.my.pc, 0⟩ s = .trap 0x15 (BitVec.ofNat 64 q.toNat) false := by
    unfold opVpush
    simp only [hp, Option.bind_none, bne_self_eq_false, hready.rowGate_eq]
    rw [if_pos h]
    rfl
  exact traps_of_trap rfl (hready.badRow q .off) hop (by decide) (by decide) hp hwait

/-- VPUSH of a queue that takes the entry (R342). -/
theorem vpush_entry {f : Nat} {x : Xls} {es : List (Option TElem)} (hp : s.my.passed = none) (hbind : (s.my.queue q.toNat).bind = 2)
    (hpartner : (s.my.queue q.toNat).partner = none) (hroom : (s.my.queue q.toNat).entries.length < 16)
    (hwalk : walkDone (s.my.queue q.toNat).rcd (s.my.queue q.toNat).win = false)
    (hexam : s.examine (s.streamWho s.cur) (s.my.queue q.toNat) true ((s.my.queue q.toNat).win, (s.my.queue q.toNat).pos)
      (writeReqs (s.my.grid.rows.get a.toNat)) = .ready f x es)
    (herr : s.strictError (streamFlight (s.streamWho s.cur) (s.my.queue q.toNat) .write clsQW x) = none) :
    Changes (.vpush q a .off) s (·.modQueue q.toNat (·.push f (s.my.grid.rows.get a.toNat))) 0 := by
  have hop : opVpush q a .off ⟨s.my.pc, 0⟩ s = .commit
      { run := fun t => t.modMy fun g => g.modQueue q.toNat (·.push f (s.my.grid.rows.get a.toNat))
        found := fun p => { p with fmt := some f } } := by
    have hahead : s.partnerOf (s.my.queue q.toNat) = none := by simp [State.partnerOf, State.partnerEnd, hpartner]
    unfold opVpush
    simp only [hp, Option.bind_none, bne_self_eq_false, hready.rowGate_eq, hbind, ne_eq, not_true_eq_false, if_false, hahead,
      Bool.false_eq_true, Nat.not_le.2 hroom, decide_false, hwalk, hexam, herr]
  exact changes_of_found rfl (hready.badRow q .off) hop

end

/-- Settles O28: VPOP is what its queue answers, and VPUSH appends an entry where nothing of its strip fails. -/
theorem queuePopAndPush : Obligations.QueuePopAndPush := by
  unfold Obligations.QueuePopAndPush
  intro s w d a q m
  refine ⟨fun hready hgroup => ⟨fun h => ?_, fun hbind hclaim => ?_, fun e rest hbind hclaim hent => ?_⟩,
    fun hmiss hlong hfree hsound => ?_⟩
  · exact vpop_unbound q m hready hgroup h
  · exact vpop_claimed q m hready hgroup hbind hclaim
  · exact vpop_entry q m hready hgroup hbind hclaim hent
  · have hready : PushReady s a := ⟨hmiss, hlong, hfree, hsound⟩
    exact ⟨vpush_masked hready, vpush_unbound hready, fun f x es hp hbind hpartner hroom hwalk hexam herr =>
      vpush_entry hready hp hbind hpartner hroom hwalk hexam herr⟩

end Sys2Proof.Machine
end

section
/-! SUPPORT. Shares, late slices, heartbeats and the registers of a save (R154 to R156, R168, R192, R361). For O58. -/

namespace Sys2Proof.Machine

/-- A pre-emption event changes nothing else of a core (R154). -/
theorem Core.rerank_eq (c : Core) : ∃ b, c.rerank = { c with preempt := b } := by
  unfold Core.rerank
  repeat' split
  · exact ⟨true, rfl⟩
  · exact ⟨c.preempt, rfl⟩
  · exact ⟨c.preempt, rfl⟩

section
variable {s : State} {core : Nat} (hcore : core < 1536)
include hcore

/-- A new window of the shares begins (R155). -/
theorem shareWindowStart_step (h : (s.core core).share.window ≠ s.atime core / 40000000) :
    Claim.DoesCore (.shareWindowStart core) s core fun c =>
      { c with share := { c.share with window := s.atime core / 40000000, elapsed := 0, bg := 0 } } := by
  refine exec_onCore hcore rfl ?_
  unfold State.shareWindow
  exact if_neg h

/-- A background entry that is owed gets a turn (R155). -/
theorem shareTurn_step {e : QEntry} (howed : (s.core core).owed = some e) (hturn : (s.core core).turn = none)
    (hfg : 5760 ≤ (s.core core).share.fg) : Happens (.shareTurn core) s fun t =>
      (t.core core).turn = some (e.handle, e.idx) ∧ (t.core core).share.fg = (s.core core).share.fg - 5760 ∧
        (t.core core).share.ran = 0 := by
  obtain ⟨b, hb⟩ := Core.rerank_eq { s.core core with
    turn := some (e.handle, e.idx), share := { (s.core core).share with fg := (s.core core).share.fg - 5760, ran := 0 } }
  refine ⟨_, exec_onCore hcore rfl rfl, ?_⟩
  have hcond : ((s.core core).turn.isNone && decide (5760 ≤ (s.core core).share.fg)) = true := by simp [hturn, hfg]
  simp only [State.shareTurn, howed, hcond, if_true, State.core_modCore_same, hb, and_self]

/-- A turn ends after 384 cycles (R155). -/
theorem shareTurnEnd_step {e : QEntry} (hrun : (s.core core).running = some e) (hturn : (s.core core).turn = some (e.handle, e.idx))
    (hran : 384 ≤ (s.core core).share.ran) :
    Happens (.shareTurnEnd core) s fun t => (t.core core).turn = none ∧ t.hart core = s.hart core := by
  refine ⟨_, exec_onCore hcore rfl rfl, ?_⟩
  simp only [State.shareTurnEnd, hturn, hrun, hran, and_self, if_true, State.core_modCore_same, State.hart]

/-- A write of a save's restart register lets the save go on (R192). -/
theorem saveRestart_step {g : Staging} (hst : (s.core core).staging = some g) (harea : g.area < 2 ^ 64) :
    Claim.DoesCore (.saveRestart core g.area) s core fun c => { c with staging := some { g with held := false } } := by
  refine exec_onCore hcore rfl ?_
  have hword : (BitVec.ofNat 64 g.area).toNat = g.area := Nat.mod_eq_of_lt harea
  unfold State.coreWrite State.coreRegWrite State.modCore
  simp only [hword, hst, if_true]
  rfl

end

/-! ### Late slices -/

/-- What a context is told does not change the dies (R181, R187). -/
theorem State.ctxPut_dies (s : State) (area owner off len val : Nat) : (s.ctxPut area owner off len val).dies = s.dies := by
  unfold State.ctxPut
  split
  · rfl
  · split
    · next h => exact (State.areaPut_onlyStored h).dies
    · rfl

theorem State.noticeTo_dies (s : State) (f : Flight) (n : Notice) : (s.noticeTo f n).dies = s.dies := by
  unfold State.noticeTo State.notify
  split
  · split <;> rfl
  · split
    · exact s.ctxPut_dies ..
    · rfl

/-- Steps that leave the dies as they are do so one after another. -/
theorem State.foldl_dies {α : Type} {f : State → α → State} (hf : ∀ t a, (f t a).dies = t.dies) (l : List α) (s : State) :
    (l.foldl f s).dies = s.dies :=
  List.foldlRecOn (motive := fun t => t.dies = s.dies) l f rfl fun t ht a _ => (hf t a).trans ht

/-- A class-1 slice whose deadline has passed (R156). -/
theorem sliceDeadlinePassed_step {s : State} {die slot : Nat} (hdie : die < 16) (hlive : ((s.die die).slots.get slot).live = true)
    (hfin : ((s.die die).slots.get slot).finished = false) (hfail : ((s.die die).slots.get slot).failed = false)
    (hlate : ((s.die die).slots.get slot).late = false) (hcls : ((s.die die).slots.get slot).cls = 1)
    (htime : (((s.die die).slots.get slot).rcd.getD 2 0).toNat ≤ (s.die die).atime.toNat) :
    Happens (.sliceDeadlinePassed die slot) s fun t => ((t.die die).slots.get slot).late = true ∧
      (t.die die).misses = (s.die die).misses + 1 := by
  refine ⟨_, exec_onDie hdie rfl rfl, ?_⟩
  have hdies : (s.deadlinePassed die slot).dies =
      ((s.modSlot die slot fun t => { t with late := true }).modDie die fun v => { v with misses := v.misses + 1 }).dies := by
    unfold State.deadlinePassed
    simp only [hlive, hfin, hfail, hlate, hcls, Nat.not_lt.2 htime, Bool.not_true, ne_eq, not_true_eq_false]
    refine State.foldl_dies (fun t p => State.foldl_dies (fun u e => ?_) _ t) _ _
    split
    · exact u.noticeTo_dies ..
    · rfl
  have hat : (s.deadlinePassed die slot).die die = ((s.modSlot die slot fun t => { t with late := true }).modDie die fun v =>
      { v with misses := v.misses + 1 }).die die := congrArg (Tbl.get · die) hdies
  beta_reduce
  rw [hat, State.die_modDie_same, State.modSlot, State.die_modDie_same]
  exact ⟨by simp, rfl⟩

/-! ### Heartbeats -/

/-- The harbourmaster's heartbeat reaches every die in service (R168). -/
theorem heartbeat_step {s : State} (h : s.harbour.beat ≠ s.master / 4000) : Happens .heartbeat s fun t =>
    t.harbour = { s.harbour with beat := s.master / 4000 } ∧ t.mem = s.mem ∧ t.cores = s.cores ∧
      ∀ d, d < 16 → (s.die d).inService = true → (t.die d).heartbeats = (s.die d).heartbeats + 1 := by
  let f : Die → Die := fun v => { v with heartbeats := v.heartbeats + 1 }
  have hstep : s.heartbeat = { s with
      harbour := { s.harbour with beat := s.master / 4000 }
      dies := s.diesIn.foldl (fun t d => t.mod d f) s.dies } := by
    unfold State.heartbeat
    rw [if_neg h]
    exact State.foldl_modDie _ (fun _ => f) _
  refine happens_of_eq rfl hstep ⟨rfl, rfl, rfl, fun d hd hin => ?_⟩
  have hmem : d ∈ s.diesIn := List.mem_filter.2 ⟨List.mem_range.2 hd, hin⟩
  have hnodup : s.diesIn.Nodup := List.nodup_range.filter _
  have hget := Tbl.get_foldl_mod (fun _ => f) hnodup s.dies d
  rw [if_pos hmem] at hget
  exact congrArg Die.heartbeats hget

/-- The deputy's takeover ends with its grace time (R169). -/
theorem deputyTakeoverComplete_does (s : State) :
    Claim.Does .deputyTakeoverComplete s { s with harbour := { s.harbour with takeover := false } } := rfl

end Sys2Proof.Machine
end

section
/-! SUPPORT. Switching out, staging, clearing of blocks and the end of a save's drain (R146, R154, R183 to R185, R188, R192). For O58. -/

namespace Sys2Proof.Machine

/-- A core whose running entries get another state runs nothing. -/
theorem Core.running_modEntry_none (c : Core) {f : QEntry → QEntry} (hf : ∀ e, (f e).st ≠ .running) :
    (c.modEntry (·.st == .running) f).running = none := by
  refine List.find?_eq_none.2 fun x hx => ?_
  obtain ⟨e, -, rfl⟩ := List.mem_map.1 hx
  split
  · simpa using hf e
  · next h => simpa using h

/-- The bundle at issue left for a save changes no other core (R184). -/
theorem State.leaveBundle_only (s : State) (k : Nat) : OnlyCore s (s.leaveBundle k) k := by
  unfold State.leaveBundle
  dsimp only
  split
  · exact ⟨rfl, rfl, rfl, fun _ hj => State.core_modCore_ne _ _ hj⟩
  · exact (OnlyCore.forgetAsk s k).trans (OnlyCore.modCore ..)

/-- What a switch-out leaves (R183, R185): the context in the staging slot, the core without a hart. -/
def SwitchedOut (s t : State) (k : Nat) : Prop :=
  (t.core k).active = false ∧ (t.core k).preempt = false ∧ t.mem = s.mem ∧
    (∃ g, (t.core k).staging = some g ∧ g.area = (s.hart k).sup.saveptr.toNat ∧ g.owner = (s.hart k).sup.owner.toNat) ∧
    (t.core k).running = none ∧ ∀ j, j ≠ k → t.core j = s.core j

/-- A switch-out where the staging slot is empty (R183, R185). -/
theorem State.switchOut_switchedOut {s : State} {k : Nat} (hst : (s.core k).staging = none) : SwitchedOut s (s.switchOut k) k := by
  obtain ⟨-, hhart, hstaging⟩ := s.leaveBundle_core k
  obtain ⟨u, hu, honly, -, -, hstaged⟩ := State.saveContext_saves (hstaging.trans hst) (s.hart k).pc
  rw [hhart] at hstaged
  have hall := (s.leaveBundle_only k).trans honly
  unfold State.switchOut
  rw [State.drain_none hst]
  simp only [hst, hu]
  refine ⟨?_, ?_, hall.mem, ?_, ?_, fun j hj => (State.core_modCore_ne _ _ hj).trans (hall.others j hj)⟩
  · rw [State.core_modCore_same]
  · rw [State.core_modCore_same]
  · rw [State.core_modCore_same]
    exact hstaged
  · rw [State.core_modCore_same]
    refine Core.running_modEntry_none _ fun e => ?_
    dsimp only
    split <;> decide

section
variable {s : State} {core : Nat} (hcore : core < 1536)
include hcore

/-- A pre-empted hart at a boundary is switched out (R183). -/
theorem switchOut_step (hact : (s.core core).active = true) (hpre : (s.core core).preempt = true)
    (hhandler : (s.hart core).handler = false) (hdue : (s.hart core).due = []) (hst : (s.core core).staging = none) :
    Happens (.switchOut core) s fun t => SwitchedOut s t core := by
  refine ⟨s.switchOut core, exec_onCore hcore rfl ?_, State.switchOut_switchedOut hst⟩
  have hdue' : (s.core core).hart.dueTrap = none := by simp [Hart.dueTrap, show (s.core core).hart.due = [] from hdue]
  simp [State.switchOutEvent, hact, hpre, show (s.core core).hart.handler = false from hhandler, hdue']

/-- A hart that has been blocked for more than 4,096 cycles is switched out (R146). -/
theorem blockSwitchOut_step {e : QEntry} (hact : (s.core core).active = true) (hwaited : 4096 < (s.core core).waited)
    (hrun : (s.core core).running = some e) (hblk : e.blk.kind ≠ 0) (hhandler : (s.hart core).handler = false)
    (hst : (s.core core).staging = none) : Happens (.blockSwitchOut core) s fun t => SwitchedOut s t core := by
  have hout := State.switchOut_switchedOut hst
  refine ⟨s.switchOut core, exec_onCore hcore rfl ?_, hout⟩
  obtain ⟨hoff, -⟩ := hout
  simp [State.blockSwitchOut, hact, hrun, hblk, hwaited, show (s.core core).hart.handler = false from hhandler, hoff]

/-- A switched-out context is staged for its switch-in (R183, R188). -/
theorem contextStaged_step {e : QEntry} (hnext : (s.core core).next = some e) (hout : e.st = .out) (hstaged : e.staged = false)
    (hbusy : s.areaBusy e.area e.owner = false) : Happens (.contextStaged core) s fun t => t.mem = s.mem ∧
      ∀ x, x ∈ (t.core core).queue ↔
        ∃ y ∈ (s.core core).queue, x = if y.area = e.area then { y with staged := true } else y := by
  obtain ⟨b, hb⟩ := Core.rerank_eq ((s.core core).modEntry (·.area == e.area) fun x => { x with staged := true })
  refine ⟨_, exec_onCore hcore rfl rfl, ?_⟩
  simp only [State.stage, hnext, hout, hstaged, hbusy, beq_self_eq_true, Bool.not_false, Bool.and_self, if_true,
    State.core_modCore_same, hb]
  refine ⟨rfl, fun x => ?_⟩
  simp only [Core.modEntry, List.mem_map, beq_iff_eq, eq_comm (a := x)]

/-- A wait for a time ends for a context that is switched out (R146). -/
theorem blockedCauseClear_step {e : QEntry} (hqueue : (s.core core).queue = [e]) (hwait : e.st = .waiting)
    (hkind : e.blk.kind = 7) (htime : e.blk.obj.toNat ≤ s.atime core) (hinvals : s.ranges.invals = [])
    (hbusy : s.areaBusy e.area e.owner = false) : Happens (.blockedCauseClear core e.area) s fun t =>
      (t.core core).queue = [{ e with st := .out, waited := 0, blk := { e.blk with kind := 0, obj := 0 } }] ∧ t.mem = s.mem := by
  let f : QEntry → QEntry := fun x => { x with st := .out, waited := 0, blk := { x.blk with kind := 0, obj := 0 } }
  obtain ⟨b, hb⟩ := Core.rerank_eq ((s.core core).modEntry (·.area == e.area) f)
  have hcause : s.causeCleared core e = true := by simp [State.causeCleared, hkind, htime]
  refine ⟨_, exec_onCore hcore rfl rfl, ?_⟩
  simp only [State.blockedClear, hqueue, List.find?_cons, hwait, beq_self_eq_true, Bool.and_self, hinvals, List.any_nil,
    hbusy, hcause, Bool.not_true, Bool.or_self, Bool.false_eq_true, if_false, State.core_modCore_same]
  refine ⟨?_, rfl⟩
  change ((s.core core).modEntry (·.area == e.area) f).rerank.queue = _
  rw [hb]
  simp [Core.modEntry, hqueue, f]

/-- A save that has been stored ends with SIP 0 and the full PROGRESS (R192). -/
theorem saveDrain_step {g : Staging} {u v : State} (hst : (s.core core).staging = some g) (hheld : g.held = false)
    (hchunks : s.drainChunks g.area g.owner g.chunks = (u, none)) (hsave : u.gsavePending g.area g.owner = false)
    (habsent : u.absentAt g.area = false)
    (hput : u.areaPut g.area g.owner 0 8 (1 + 57472 * 2 ^ 32 + (u.areaGet g.area g.owner 2 2 / 2 * 2) * 2 ^ 16) = .ok v) :
    Happens (.saveDrain core) s fun t => (t.core core).staging = none ∧ t.mem = v.mem := by
  refine ⟨v.modCore core fun c => { c with staging := none }, exec_onCore hcore rfl ?_, ?_, rfl⟩
  · simp only [State.drain, hst, hheld, hchunks, hsave, habsent, hput, Bool.false_eq_true, Bool.or_self, if_false]
  · rw [State.core_modCore_same]

end

/-- The absent bundle of an entry that has ended has nobody left (R184). -/
theorem absentBundleResolved_of_gone {s : State} {n : Nat} {a : Absent} (ha : s.absent[n]? = some a)
    (hans : a.hart.answered = true) (hgone : s.entryOf a.area = none) :
    Claim.Does (.absentBundleResolved n) s { s with absent := dropAt s.absent n } := by
  have hstep : s.resolveAbsent n = { s with absent := dropAt s.absent n } := by
    simp [State.resolveAbsent, ha, hans, hgone]
  exact congrArg Host.Outcome.next hstep

end Sys2Proof.Machine
end

section
/-! SUPPORT. Notices, resumable traps and evictions taken at a boundary (R175, R178, R179, R181, R183). For O58. -/

namespace Sys2Proof.Machine

/-- TRAPCAUSE as a trap writes it, for any cause (R179). -/
theorem Hart.enter_trapcause_mod (h : Hart) (t : Trap) (saved : Bool) :
    (h.enter t saved).sup.trapcause.toNat = t.cause % 2 ^ 8 + 2 ^ 8 * levelCode h.level + 2 ^ 10 * saved.toNat :=
  Hart.enter_trapcause (t := { t with cause := t.cause % 2 ^ 8 }) (Nat.mod_lt _ (by decide)) saved ▸ by
    simp [Hart.enter]

/-- The bundle at issue is abandoned, the core changed, and a trap taken that does not save (R178, R184): what it leaves. -/
theorem State.trap_abandoned (s : State) (k : Nat) (f : Core → Core) {t : Trap} (hsave : t.save = false) :
    (((s.forgetAsk k).modCore k f).trap k t).mem = s.mem ∧ (((s.forgetAsk k).modCore k f).trap k t).hart k =
      (f { s.core k with hart := { s.hart k with passed := none } }).hart.enter t t.kept := by
  have hask : (s.forgetAsk k).core k = { s.core k with hart := { s.hart k with passed := none } } :=
    State.core_modHart_same s k fun h => { h with passed := none }
  rw [State.trap_plain _ _ hsave, State.hart_modHart_same, State.hart_modCore_same, hask]
  exact ⟨rfl, rfl⟩

section
variable {s : State} {core : Nat} (hcore : core < 1536)
include hcore

/-- The oldest notice is taken at a boundary outside a handler (R181). -/
theorem noticeTaken_step {n : Notice} {rest : List Notice} (hact : (s.core core).active = true)
    (hnotices : (s.hart core).notices = n :: rest) (hhandler : (s.hart core).handler = false)
    (hdue : (s.hart core).dueTrap = none) (hwaits : s.noticeWaits core = false) :
    Happens (.noticeTaken core) s fun t => (t.hart core).notices = rest ∧ (t.hart core).pc = (s.hart core).sup.trapvec ∧
      (t.hart core).sup.trapcause.toNat = n.cause % 2 ^ 8 + 2 ^ 8 * levelCode (s.hart core).level ∧
      (t.hart core).sup.trapaddr = n.addr ∧ (t.hart core).sup.trappc = (s.hart core).pc ∧ (t.hart core).sup.trapslot = 0 ∧
      (t.hart core).handler = true ∧ (t.hart core).level = .s ∧ t.mem = s.mem := by
  refine ⟨s.takeNotice core n, exec_onCore hcore rfl ?_, ?_⟩
  · simp [State.noticeNow, show (s.core core).hart.notices = _ from hnotices, hact,
      show (s.core core).hart.handler = false from hhandler, show (s.core core).hart.dueTrap = none from hdue, hwaits]
  · obtain ⟨hmem, hhart⟩ : (s.takeNotice core n).mem = s.mem ∧ (s.takeNotice core n).hart core = _ :=
      State.trap_abandoned s core _ rfl
    simp only [hhart, hmem, Hart.enter_trapcause_mod]
    exact ⟨congrArg (List.drop 1) hnotices, rfl, rfl, rfl, rfl, rfl, rfl, rfl, trivial⟩

/-- A resumable trap that is due is taken at a boundary (R175). -/
theorem resumableTrap_step {d : DueTrap} (hact : (s.core core).active = true) (hdue : (s.hart core).due = [d])
    (hres : d.resumable = true) (hslot : d.slot = some 0) (hinval : (s.hart core).inval = none)
    (hway : s.underWay core = false) (hsaving : savingCause d.cause = false) :
    Happens (.resumableTrap core) s fun t => (t.hart core).due = [] ∧ (t.hart core).pc = (s.hart core).sup.trapvec ∧
      (t.hart core).sup.trapcause.toNat = d.cause % 2 ^ 8 + 2 ^ 8 * levelCode (s.hart core).level ∧
      (t.hart core).sup.trapslot = 12 ∧ (t.hart core).sup.trapaddr = d.addr ∧ t.mem = s.mem := by
  let tr : Trap := { cause := d.cause, addr := d.addr, slot := d.slot, resumable := d.resumable, pc := (s.hart core).pc
                     save := false }
  let clear : Core → Core := fun c =>
    { c.unblock with wfi := false, hart := { c.hart with due := c.hart.due.filter (· != d) } }
  have hstep : s.takeResumable core = ((s.forgetAsk core).modCore core clear).trap core tr := by
    simp [State.takeResumable, show (s.core core).hart.due = _ from hdue, hres, hact,
      show (s.core core).hart.inval = none from hinval, hway, State.takeDue, hsaving, clear, tr]
  refine ⟨_, exec_onCore hcore rfl hstep, ?_⟩
  obtain ⟨hmem, hhart⟩ := State.trap_abandoned s core clear (t := tr) rfl
  have hcleared : (s.hart core).due.filter (· != d) = [] := by simp [hdue]
  simp only [hhart, hmem, Hart.enter_trapcause_mod]
  refine ⟨hcleared, rfl, rfl, ?_, rfl, trivial⟩
  simp [Hart.enter, tr, hslot, hres]

end

/-! ### Evictions -/

/-- The register's write makes the eviction due (R183). -/
theorem State.coreRegWrite_evict {s : State} {k : Nat} (hact : (s.core k).active = true) :
    s.coreRegWrite false k 0x100 1 = s.modCore k fun c => { c with evict := true } := by
  simp [State.coreRegWrite, hact]

/-- The errors logged at a save leave an eviction due or not (R183). -/
theorem State.logBadCells_evict (s : State) (k : Nat) : ((s.logBadCells k).core k).evict = (s.core k).evict := by
  refine List.foldlRecOn (motive := fun t : State => (t.core k).evict = (s.core k).evict) _ _ rfl ?_
  intro t ht c _
  rw [State.core_modCore_same, ← ht]
  unfold Core.log
  split <;> rfl

/-- The bundle at issue left for a save leaves an eviction due or not (R183). -/
theorem State.leaveBundle_evict (s : State) (k : Nat) : ((s.leaveBundle k).core k).evict = (s.core k).evict := by
  have hask : (s.forgetAsk k).core k = { s.core k with hart := { s.hart k with passed := none } } :=
    State.core_modHart_same s k fun h => { h with passed := none }
  unfold State.leaveBundle
  dsimp only
  rw [State.core_modCore_same]
  split
  · rfl
  · rw [hask]
    rfl

/-- A save leaves an eviction due or not (R183). -/
theorem State.saveContext_evict {s t : State} {k : Nat} {pc : Word} (hst : (s.core k).staging = none)
    (h : s.saveContext k pc = some t) : (t.core k).evict = (s.core k).evict := by
  rw [State.saveContext, State.drain_none hst, hst] at h
  obtain rfl := Option.some.inj h
  refine Eq.trans ?_ (s.logBadCells_evict k)
  simp only [State.core, State.modCore, State.setCore, Tbl.get_put_same]

/-- A trap that saves leaves an eviction due or not (R183). -/
theorem State.trapSaving_evict {s : State} {k : Nat} (hst : (s.core k).staging = none) (cause : Nat) (addr : Word) :
    ((s.trapSaving k cause addr).core k).evict = (s.core k).evict := by
  obtain ⟨-, -, hstaging⟩ := s.leaveBundle_core k
  obtain ⟨u, hu, -⟩ := State.saveContext_saves (hstaging.trans hst) (s.hart k).pc
  unfold State.trapSaving State.trap
  simp only [State.drain_none hst, hst, hu, if_true, State.core_modCore_same, Core.unblock_evict]
  rw [State.core_modHart_same]
  exact (State.saveContext_evict (hstaging.trans hst) hu).trans (s.leaveBundle_evict k)

section
variable {s : State} {core : Nat} (hcore : core < 1536)
include hcore

/-- An eviction inside a handler waits (R183). -/
theorem eviction_waits (hact : (s.core core).active = true) (hhandler : (s.hart core).handler = true) :
    Claim.DoesCore (.eviction core) s core fun c => { c with evict := true } := by
  refine exec_onCore hcore rfl ?_
  simp only [State.evictNow, State.coreRegWrite_evict hact, State.core_modCore_same,
    show (s.core core).hart.handler = true from hhandler, Bool.not_true, Bool.and_false, Bool.false_and]
  rfl

/-- An eviction outside a handler saves the context (R183). -/
theorem eviction_saves (hact : (s.core core).active = true) (hhandler : (s.hart core).handler = false)
    (hdue : (s.hart core).due = []) (hst : (s.core core).staging = none) : Happens (.eviction core) s fun t =>
      (t.hart core).sup.trapcause.toNat = 0x14 + 2 ^ 8 * levelCode (s.hart core).level + 2 ^ 10 ∧
      (t.hart core).pc = (s.hart core).sup.trapvec ∧ (t.hart core).level = .s ∧ (t.core core).evict = false ∧ t.mem = s.mem ∧
      ∃ g, (t.core core).staging = some g ∧ g.area = (s.hart core).sup.saveptr.toNat := by
  let u := (s.modCore core fun c => { c with evict := true }).modCore core fun c => { c with evict := false, wfi := false }
  have hcoreu : u.core core = { s.core core with evict := false, wfi := false } := by
    simp only [u, State.core_modCore_same]
  have hhartu : u.hart core = s.hart core := by rw [State.hart, hcoreu]; rfl
  have hstu : (u.core core).staging = none := by rw [hcoreu]; exact hst
  have hnodue : (s.core core).hart.dueTrap = none := by simp [Hart.dueTrap, show (s.core core).hart.due = [] from hdue]
  have hstep : s.evictNow core = u.trapSaving core 0x14 0 := by
    have hdrain : (s.modCore core fun c => { c with evict := true }).drain core = s.modCore core fun c => { c with evict := true } :=
      State.drain_none (by rw [State.core_modCore_same]; exact hst)
    unfold State.evictNow
    rw [State.coreRegWrite_evict hact]
    simp [hact, show (s.core core).hart.handler = false from hhandler, hnodue,
      State.takeEviction, hdrain, hst, u]
  obtain ⟨hmem, hhart, hstaged⟩ := State.trapSaving_core hstu 0x14 0
  rw [hhartu] at hhart hstaged
  refine ⟨_, exec_onCore hcore rfl hstep, ?_⟩
  beta_reduce
  rw [hhart, State.trapSaving_evict hstu]
  have hcause : (0x14 : Nat) < 256 := by decide
  exact ⟨Hart.enter_trapcause (t := { cause := 0x14, addr := 0, slot := none, pc := (s.hart core).pc, save := true })
    hcause true, rfl, rfl, by rw [hcoreu], hmem, hstaged⟩

end

end Sys2Proof.Machine
end

section
/-! SUPPORT. Placement of instances and gangs, and the first run of an entry (R144, R157 to R160, R188, R194). For O58. -/

namespace Sys2Proof.Machine

/-! ### A new entry of a queue -/

/-- A change of the resident data changes no die, nothing of the harbourmaster, and of cores only data and the resident context. -/
theorem State.swapScratch_keeps (s : State) (k area owner alloc : Nat) (fresh : Bool) :
    let t := s.swapScratch k area owner alloc fresh
    t.dies = s.dies ∧ t.harbour = s.harbour ∧ (∀ j, (t.core j).queue = (s.core j).queue) ∧
      ∀ j, j ≠ k → (t.core j).resident = (s.core j).resident := by
  obtain ⟨u, r, hu, heq⟩ := s.swapScratch_stores k area owner alloc fresh
  intro t
  have hcore := hu.2
  refine ⟨?_, ?_, fun j => ?_, fun j hj => ?_⟩
  · exact (congrArg State.dies heq).trans hu.dies
  · exact (congrArg State.harbour heq).trans (by rw [State.modCore, State.setCore, hu.1])
  · by_cases hj : j = k
    · rw [show t = _ from heq, hj, State.core_modCore_same, hcore k]
    · rw [show t = _ from heq, State.core_modCore_ne _ _ hj, hcore j]
  · rw [show t = _ from heq, State.core_modCore_ne _ _ hj, hcore j]

/-- A fresh context takes a core on which none is resident: nothing is moved (R194). -/
theorem State.swapScratch_fresh {s : State} {k : Nat} (hres : (s.core k).resident = none) (area owner alloc : Nat) :
    s.swapScratch k area owner alloc true =
      s.modCore k fun c => { c with resident := some { area := area, owner := owner, alloc := alloc } } := by
  rw [State.swapScratch_eq (by simp [hres]), hres]
  rfl

/-- The core after an entry has joined its queue (R158). -/
theorem State.core_enqueue (s : State) (k : Nat) (e : QEntry) :
    ∃ b, (s.enqueue k e).core k = { s.core k with queue := (s.core k).queue ++ [e], preempt := b } := by
  obtain ⟨b, hb⟩ := Core.rerank_eq { s.core k with queue := (s.core k).queue ++ [e] }
  exact ⟨b, (State.core_modCore_same ..).trans hb⟩

theorem State.core_enqueue_ne (s : State) {k j : Nat} (e : QEntry) (hj : j ≠ k) : (s.enqueue k e).core j = s.core j :=
  State.core_modCore_ne _ _ hj

/-- What becomes of the state when an entry settles on a core (R158, R194). -/
structure Settled (s t : State) (k : Nat) (e : QEntry) : Prop where
  dies : t.dies = s.dies
  harbour : t.harbour = { s.harbour with pools := s.harbour.pools.mod e.owner (e.area :: ·) }
  queue : (t.core k).queue = (s.core k).queue ++ [e]
  others : ∀ j, j ≠ k → (t.core j).queue = (s.core j).queue ∧ (t.core j).resident = (s.core j).resident
  mem : (s.core k).resident = none → t.mem = s.mem

/-- An entry that joins a queue does not change whether its core is free. -/
theorem State.coreFree_enqueue (s : State) (k : Nat) (e : QEntry) : (s.enqueue k e).coreFree k = s.coreFree k := by
  obtain ⟨b, hb⟩ := s.core_enqueue k e
  unfold State.coreFree
  rw [hb]
  rfl

theorem State.settleOn_settled (s : State) (k : Nat) (e : QEntry) : Settled s (s.settleOn k e) k e := by
  obtain ⟨b, hb⟩ := s.core_enqueue k e
  have henq : Settled s (s.enqueue k e) k e :=
    ⟨rfl, rfl, by rw [hb], fun j hj => by rw [s.core_enqueue_ne e hj]; exact ⟨rfl, rfl⟩, fun _ => rfl⟩
  unfold State.settleOn
  dsimp only
  split
  · obtain ⟨hdies, hharbour, hqueue, hres⟩ := (s.enqueue k e).swapScratch_keeps k e.area e.owner e.alloc true
    refine ⟨hdies.trans henq.dies, hharbour.trans henq.harbour, (hqueue k).trans henq.queue, fun j hj => ?_, fun hnone => ?_⟩
    · exact ⟨(hqueue j).trans (henq.others j hj).1, (hres j hj).trans (henq.others j hj).2⟩
    · rw [State.swapScratch_fresh (by rw [hb]; exact hnone)]
      exact henq.mem hnone
  · exact henq

/-- On a free core the entry becomes resident at once (R194). -/
theorem State.settleOn_resident {s : State} {k : Nat} {e : QEntry} (hfree : s.coreFree k = true)
    (hne : ∀ r, (s.core k).resident = some r → r.area ≠ e.area) :
    ((s.settleOn k e).core k).resident = some { area := e.area, owner := e.owner, alloc := e.alloc } := by
  obtain ⟨b, hb⟩ := s.core_enqueue k e
  unfold State.settleOn
  simp only [State.coreFree_enqueue, hfree, if_true]
  rw [State.swapScratch_eq (by rw [hb]; exact hne), State.core_modCore_same]

/-! ### Placement -/

/-- A distributor places an entry on the best core (R157, R158, R160). -/
theorem placement_step {s : State} {die slot k a : Nat} {o : OwnEnt} {e : QEntry} (hdie : die < 16)
    (he : e = newEntry ((s.die die).slots.get slot) (((s.die die).slots.get slot).handle die slot)
      ((s.die die).slots.get slot).nextIdx a o)
    (hwaits : ((s.die die).slots.get slot).waits = true) (hgang : ((s.die die).slots.get slot).gang = false)
    (htake : s.harbour.takeover = false) (hfirst : s.firstToPlace die slot = true)
    (hown : s.ownEnt ((s.die die).slots.get slot).owner = some o)
    (harea : s.freeArea ((s.die die).slots.get slot).owner o = some a)
    (hbest : s.bestCore ((s.die die).slots.get slot) e allCores = some k) :
    Happens (.placement die slot) s fun t => (t.core k).queue = (s.core k).queue ++ [e] ∧
      a ∈ t.harbour.pools.get ((s.die die).slots.get slot).owner ∧
      ((t.die die).slots.get slot).running = ((s.die die).slots.get slot).running + 1 ∧
      ((s.core k).resident = none → t.mem = s.mem) ∧
      (s.coreFree k = true → (∀ r, (s.core k).resident = some r → r.area ≠ a) → (t.core k).resident =
        some { area := a, owner := ((s.die die).slots.get slot).owner, alloc := ((s.die die).slots.get slot).alloc }) := by
  have hset := s.settleOn_settled k e
  have hplace : s.place die slot = (s.settleOn k e).modSlot die slot Slot.handOut := by
    simp only [State.place, hwaits, hgang, htake, hfirst, hown, harea, ← he, hbest, Bool.not_true, Bool.or_self,
      Bool.false_eq_true, if_false]
  refine ⟨_, exec_onDie hdie rfl hplace, hset.queue, ?_, ?_, hset.mem, fun hfree hne => ?_⟩
  · have hpool : ((s.settleOn k e).modSlot die slot Slot.handOut).harbour.pools.get ((s.die die).slots.get slot).owner =
        a :: s.harbour.pools.get ((s.die die).slots.get slot).owner := by
      refine (congrArg (fun h : Harbour => h.pools.get _) hset.harbour).trans ?_
      rw [he]
      exact Tbl.get_mod_same ..
    rw [hpool]
    exact List.mem_cons_self
  · have hslot : (State.die (s.settleOn k e) die).slots = (s.die die).slots := by rw [State.die, hset.dies]; rfl
    rw [State.modSlot, State.die_modDie_same]
    simp only [hslot, Tbl.get_mod_same]
    unfold Slot.handOut
    split <;> rfl
  · refine (State.settleOn_resident hfree (by rw [he]; exact hne)).trans ?_
    rw [he]
    rfl

/-! ### Gangs -/

/-- What becomes of the state when the members of a gang settle on cores of their own. -/
structure GangSettled (s t : State) (ks : List Nat) : Prop where
  dies : t.dies = s.dies
  mem : t.mem = s.mem
  joined : ∀ k ∈ ks, (s.core k).queue.length < (t.core k).queue.length
  others : ∀ k, k ∉ ks → (t.core k).queue = (s.core k).queue

theorem State.enqueueGang_settled (u : Slot) (h : Word) (o : OwnEnt) (l : List (Nat × Nat)) (idx : Nat) {s : State}
    (hnodup : (l.map (·.1)).Nodup) (hres : ∀ k ∈ l.map (·.1), (s.core k).resident = none) :
    GangSettled s (s.enqueueGang u h o l idx) (l.map (·.1)) := by
  induction l generalizing s idx with
  | nil => exact ⟨rfl, rfl, fun _ hk => absurd hk List.not_mem_nil, fun _ _ => rfl⟩
  | cons p l ih =>
    obtain ⟨k, a⟩ := p
    obtain ⟨hk, hl⟩ := List.nodup_cons.1 hnodup
    have hset := s.settleOn_settled k (newEntry u h idx a o)
    have hne : ∀ j ∈ l.map (·.1), j ≠ k := fun j hj hjk => hk (hjk ▸ hj)
    have hrest := ih (idx + 1) (s := s.settleOn k (newEntry u h idx a o)) hl fun j hj =>
      ((hset.others j (hne j hj)).2).trans (hres j (List.mem_cons_of_mem _ hj))
    refine ⟨hrest.dies.trans hset.dies, hrest.mem.trans (hset.mem (hres k List.mem_cons_self)), fun j hj => ?_, fun j hj => ?_⟩
    · obtain rfl | hj := List.mem_cons.1 hj
      · change (s.core j).queue.length < (((s.settleOn j _).enqueueGang u h o l (idx + 1)).core j).queue.length
        rw [hrest.others j hk, hset.queue, List.length_append]
        exact Nat.lt_succ_self _
      · exact lt_of_eq_of_lt (congrArg List.length (hset.others j (hne j hj)).1).symm (hrest.joined j hj)
    · obtain ⟨hjk, hj⟩ := not_or.1 (mt List.mem_cons.2 hj)
      exact (hrest.others j hj).trans (hset.others j hjk).1

/-- The cores of a gang are different ones (R159). -/
theorem gangCores_nodup {ks l : List Nat} {w : Nat} (hks : ks.Nodup) (h : gangCores ks w = some l) : l.Nodup := by
  unfold gangCores at h
  dsimp only at h
  split at h
  · cases h
  · split at h
    · cases h
    · obtain rfl := Option.some.inj h
      exact (hks.filter _).sublist (List.take_sublist _ _)

/-- A gang is placed all at once, each member on a core of its own (R144, R159). -/
theorem gangPlacement_step {s : State} {die slot : Nat} {o : OwnEnt} {ks : List Nat} (hdie : die < 16)
    (hwaits : ((s.die die).slots.get slot).waits = true) (hgang : ((s.die die).slots.get slot).gang = true)
    (htake : s.harbour.takeover = false) (hfirst : s.firstToPlace die slot = true)
    (hown : s.ownEnt ((s.die die).slots.get slot).owner = some o)
    (hks : gangCores (s.eligibleCores ((s.die die).slots.get slot)) ((s.die die).slots.get slot).width = some ks)
    (hareas : ((s.die die).slots.get slot).width ≤ (s.freeAreas ((s.die die).slots.get slot).owner o).length)
    (hlen : ks.length = ((s.die die).slots.get slot).width) (hres : ∀ k, (s.core k).resident = none) :
    Happens (.gangPlacement die slot) s fun t => t.mem = s.mem ∧
      ((t.die die).slots.get slot).running = ((s.die die).slots.get slot).width ∧
      ((t.die die).slots.get slot).handedOut = ((s.die die).slots.get slot).width ∧
      ∀ k ∈ ks, (s.core k).queue.length < (t.core k).queue.length := by
  let areas := s.freeAreas ((s.die die).slots.get slot).owner o
  have hmap : (ks.zip areas).map (·.1) = ks := List.map_fst_zip (by rw [hlen]; exact hareas)
  have hnodup : ks.Nodup := gangCores_nodup (List.nodup_range.filter _) hks
  have hset := State.enqueueGang_settled ((s.die die).slots.get slot) (((s.die die).slots.get slot).handle die slot) o
    (ks.zip areas) 0 (s := s) (by rw [hmap]; exact hnodup) (fun k _ => hres k)
  rw [hmap] at hset
  have hplace : s.placeGang die slot = (s.enqueueGang ((s.die die).slots.get slot)
      (((s.die die).slots.get slot).handle die slot) o (ks.zip areas) 0).modSlot die slot fun t =>
        { t with running := t.width, handedOut := t.width } := by
    simp only [State.placeGang, hwaits, hgang, htake, hfirst, hown, hks, Nat.not_lt.2 hareas, Bool.not_true, Bool.or_self,
      Bool.false_eq_true, if_false, areas]
  have hslots := congrArg Die.slots (congrArg (Tbl.get · die) hset.dies)
  have hslot := congrArg (Tbl.get · slot) hslots
  refine ⟨_, exec_onDie hdie rfl hplace, hset.mem, ?_, ?_, hset.joined⟩
  all_goals
    rw [State.modSlot, State.die_modDie_same]
    simp only [Tbl.get_mod_same]
    exact congrArg Slot.width hslot

/-! ### The first run of an entry -/

/-- A new strip interval changes nothing else of its core (R109). -/
theorem State.core_newInterval (s : State) (k : Nat) :
    (s.newInterval k).core k = { s.core k with hart := { s.hart k with interval := s.uid } } :=
  State.core_modHart_same s k fun h => { h with interval := s.uid }

/-- A fresh entry starts on a free core (R154, R158, R188). -/
theorem switchIn_step {s : State} {core : Nat} {e : QEntry} (hcore : core < 1536) (hfree : s.coreFree core = true)
    (hnext : (s.core core).next = some e) (hfresh : e.st = .fresh) (hres : (s.core core).resident = none) :
    Happens (.switchIn core) s fun t => (t.core core).active = true ∧ (t.hart core).pc = e.entry ∧ t.mem = s.mem ∧
      (t.hart core).level = .u ∧ (∀ r, (t.hart core).rx r = 0) ∧ (t.hart core).ident.arg = e.arg ∧
      (t.hart core).ident.handle = e.handle ∧ (t.hart core).ident.gangidx = BitVec.ofNat 32 e.idx ∧
      (t.hart core).sup.saveptr = BitVec.ofNat 64 e.area ∧ (t.hart core).sup.owner = BitVec.ofNat 12 e.owner ∧
      (t.hart core).ctl.vtype = 4 ∧ (t.hart core).ctl.frm = 1 ∧ (t.hart core).loops = [] := by
  let u := s.modCore core fun c => { c with resident := some { area := e.area, owner := e.owner, alloc := e.alloc } }
  have hswap : s.swapScratch core e.area e.owner e.alloc true = u := State.swapScratch_fresh hres ..
  refine ⟨_, exec_onCore hcore rfl rfl, ?_⟩
  simp only [State.switchIn, hfree, hnext, hfresh, hswap, Bool.not_true, Bool.false_eq_true, if_false]
  have hown : (u.supOf (freshHart e).sup e).owner = BitVec.ofNat 12 e.owner := by
    unfold State.supOf
    split <;> rfl
  have hptr : (u.supOf (freshHart e).sup e).saveptr = BitVec.ofNat 64 e.area := by
    unfold State.supOf
    split <;> rfl
  simp only [State.hart, State.core_newInterval, State.core_modCore_same]
  exact ⟨trivial, rfl, rfl, rfl, fun _ => ite_self _, rfl, rfl, rfl, hptr, hown, rfl, rfl, rfl⟩

end Sys2Proof.Machine
end

section
/-! SUPPORT. The sheepdog's sample (R163, R165, R166). For O58. -/

namespace Sys2Proof.Machine

/-- A sample that finds no circle (R166). -/
theorem sheepdogSample_quiet {s : State} (hdue : s.harbour.sampled ≠ s.master / 4000000) (hnone : s.circlesNow = []) :
    Claim.Does .sheepdogSample s
      { s with harbour := { s.harbour with sample := [], sampled := s.master / 4000000, told := [] } } := by
  have hstep : s.sheepdog = { s with harbour := { s.harbour with sample := [], sampled := s.master / 4000000, told := [] } } := by
    unfold State.sheepdog
    rw [if_neg hdue, hnone]
    rfl
  exact congrArg Host.Outcome.next hstep

/-- The one entry with a handle and an index is the one that is found for it. -/
theorem State.findInstance {s : State} {k : Nat} {e : QEntry} {handle : Word} {idx : Nat} (he : e ∈ (s.core k).queue)
    (hhandle : e.handle = handle) (hidx : e.idx = idx)
    (hone : ∀ p ∈ s.cores, ∀ x ∈ p.2.queue, x.handle = handle → x.idx = idx → p.1 = k ∧ x = e) :
    (s.cores.findSome? fun p => (p.2.queue.find? fun e => e.handle == handle && e.idx == idx).map fun e => (p.1, e)) =
      some (k, e) := by
  have hcore : (k, s.core k) ∈ s.cores := Tbl.mem_of_get_ne_default fun hd => by
    rw [State.core, hd] at he
    exact List.not_mem_nil he
  cases hfind : s.cores.findSome? fun p => (p.2.queue.find? fun e => e.handle == handle && e.idx == idx).map fun e => (p.1, e) with
  | none =>
    have hno := List.find?_eq_none.1 (Option.map_eq_none_iff.1 (List.findSome?_eq_none_iff.1 hfind _ hcore)) e he
    simp [hhandle, hidx] at hno
  | some r =>
    obtain ⟨p, hp, hr⟩ := List.exists_of_findSome?_eq_some hfind
    obtain ⟨x, hx, rfl⟩ := Option.map_eq_some_iff.1 hr
    have hmatch := List.find?_some hx
    simp only [Bool.and_eq_true, beq_iff_eq] at hmatch
    obtain ⟨rfl, rfl⟩ := hone p hp x (List.mem_of_find?_eq_some hx) hmatch.1 hmatch.2
    rfl

/-- A trap due for a running entry outside a handler joins those of its hart (R166). -/
theorem State.dueFor_running {s : State} {k : Nat} {e : QEntry} (hst : e.st = .running) (hhandler : (s.hart k).handler = false)
    (d : DueTrap) : s.dueFor k e d = s.modHart k fun h => { h with due := h.due ++ [d] } := by
  simp [State.dueFor, hst, hhandler]

/-- A trap due for a blocked entry that is switched out makes it run again (R166). -/
theorem State.dueFor_waiting {s : State} {k : Nat} {e : QEntry} (hst : e.st = .waiting) (d : DueTrap) :
    s.dueFor k e d = s.modCore k fun c => c.modEntry (·.area == e.area) fun x =>
      { x with due := x.due ++ [d], st := if x.st == .waiting then .out else x.st } := by
  simp [State.dueFor, hst]

theorem State.dueFor_mem (s : State) (k : Nat) (e : QEntry) (d : DueTrap) : (s.dueFor k e d).mem = s.mem := by
  unfold State.dueFor
  split <;> rfl

theorem State.dueFor_harbour (s : State) (k : Nat) (e : QEntry) (d : DueTrap) : (s.dueFor k e d).harbour = s.harbour := by
  unfold State.dueFor
  split <;> rfl

/-- A circle that two samples have found is reported, and its lowest member takes the deadlock trap (R166). -/
theorem sheepdogSample_circle {s : State} {core : Nat} {m : Word × Nat × Nat} {rest : List (Word × Nat × Nat)} {e : QEntry}
    (hdue : s.harbour.sampled ≠ s.master / 4000000) (hnow : s.circlesNow = [m :: rest])
    (hsample : s.harbour.sample.contains (m :: rest) = true) (htold : s.harbour.told.contains (m :: rest) = false)
    (he : e ∈ (s.core core).queue) (hhandle : e.handle = m.1) (hidx : e.idx = m.2.1)
    (hone : ∀ p ∈ s.cores, ∀ x ∈ p.2.queue, x.handle = m.1 → x.idx = m.2.1 → p.1 = core ∧ x = e) :
    let d : DueTrap := { cause := 0x13, addr := BitVec.ofNat 64 ((rest.length + 1) % 65536) }
    Happens .sheepdogSample s fun t => t.mem = s.mem ∧ t.harbour = { s.harbour with
        sample := [m :: rest], told := [m :: rest], sampled := s.master / 4000000
        report := (m :: rest).map fun x => (x.1, x.2.1) } ∧
      (e.st = .running → (s.hart core).handler = false → (t.hart core).due = (s.hart core).due ++ [d]) ∧
      (e.st = .waiting → ∃ x ∈ (t.core core).queue, x.area = e.area ∧ x.st = .out ∧ x.due = e.due ++ [d]) := by
  intro d
  let u := s.modHarbour fun b => { b with
    sample := [m :: rest], told := [m :: rest], sampled := s.master / 4000000
    report := (m :: rest).map fun x => (x.1, x.2.1) }
  have hfind := State.findInstance he hhandle hidx hone
  have htrap : u.trapCircle (m :: rest) = u.dueFor core e d := by
    unfold State.trapCircle
    change (match s.cores.findSome? _ with
      | none => u
      | some (k, e) => u.dueFor k e d) = _
    rw [hfind]
  have hstep : s.sheepdog = u.dueFor core e d := by
    rw [← htrap]
    unfold State.sheepdog
    rw [if_neg hdue]
    simp only [State.modHarbour, hnow, List.filter_cons, List.filter_nil, hsample, htold, Bool.not_false, Bool.and_self, if_true,
      Bool.false_eq_true, if_false, List.nil_append, List.flatMap_cons, List.flatMap_nil, List.append_nil]
    rfl
  refine happens_of_eq rfl hstep ⟨u.dueFor_mem .., u.dueFor_harbour .., fun hst hhandler => ?_, fun hst => ?_⟩
  · rw [State.dueFor_running (s := u) hst hhandler, State.hart_modHart_same]
    rfl
  · rw [State.dueFor_waiting hst, State.core_modCore_same]
    refine ⟨{ e with due := e.due ++ [d], st := .out }, List.mem_map.2 ⟨e, he, ?_⟩, rfl, rfl, rfl⟩
    simp [hst]

end Sys2Proof.Machine
end

section
/-! SUPPORT. Relaunching and ending an entry, and the end of a failed slice (R167, R170, R195, R369). For O58. -/

namespace Sys2Proof.Machine

/-! ### Relaunching -/

@[simp] theorem Core.unreside_queue (c : Core) (area : Nat) : (c.unreside area).queue = c.queue := by
  unfold Core.unreside
  split
  · split <;> rfl
  · rfl

/-- An entry that does not run moves to another core, where its restore passes every check (R195). -/
theorem relaunch_step {s : State} {core area j : Nat} {e : QEntry} (hcore : core < 1536) (harea : area < 2 ^ 64)
    (hentry : s.entryOf area = some (j, e)) (hst : e.st ≠ .running) (hj : j ≠ core) (hin : (s.core core).inService = true)
    (hdie : (s.die (core / 96)).inService = true) (hallow : dieAllowed e.dies (core / 96) = true)
    (hroom : (s.core core).queue.length < 64) : Happens (.relaunch core area) s fun t =>
      (t.core core).relStatus = 0 ∧ t.mem = s.mem ∧ (∀ x ∈ (t.core j).queue, x.area ≠ area) ∧
        ∃ x ∈ (t.core core).queue, x.area = e.area ∧ x.relaunched = true := by
  let moved : QEntry := { e with st := if e.st == .waiting then .waiting else .out, relaunched := true, staged := false }
  let u : State := (s.modCore j fun c => { c with queue := c.queue.filter (fun x => x.area != area) }).modCore j (·.unreside area)
  have hrelaunch : s.relaunch core area = (u.modCore core fun c => { c with queue := c.queue ++ [moved] }, 0) := by
    simp only [State.relaunch, hentry, hin, show (s.die (dieOf core)).inService = true from hdie,
      show dieAllowed e.dies (dieOf core) = true from hallow, beq_eq_false_iff_ne.2 hst, if_neg hj, Nat.not_le.2 hroom,
      Bool.not_true, Bool.or_self, Bool.false_and, Bool.false_eq_true, if_false, and_false]
    rfl
  refine ⟨(u.modCore core fun c => { c with queue := c.queue ++ [moved] }).modCore core fun c => { c with relStatus := 0 },
    exec_onCore hcore rfl ?_, ?_, rfl, fun x hx => ?_, moved, ?_, rfl, rfl⟩
  · have hword : (BitVec.ofNat 64 area).toNat = area := Nat.mod_eq_of_lt harea
    unfold State.coreWrite State.coreRegWrite
    rw [hword, hrelaunch]
    rfl
  · rw [State.core_modCore_same]
  · rw [State.core_modCore_ne _ _ hj, State.core_modCore_ne _ _ hj, State.core_modCore_same, Core.unreside_queue,
      State.core_modCore_same] at hx
    simpa using (List.mem_filter.1 hx).2
  · rw [State.core_modCore_same, State.core_modCore_same]
    exact List.mem_append_right _ List.mem_cons_self

/-! ### The slice of a handle while its instances end -/

/-- The end of an entry leaves the slice that a handle names (R149). -/
theorem State.slotOf_disown (s : State) (owner area : Nat) (h : Word) : (s.disown owner area).slotOf h = s.slotOf h := by
  have hdie (d : Nat) : (s.disown owner area).die d = { s.die d with held := (s.die d).held.map (·.disown owner area) } :=
    Tbl.get_map (g := fun _ (v : Die) => { v with held := v.held.map (·.disown owner area) }) s.dies (fun _ => rfl) d
  have hmoved : (s.disown owner area).movedSlot h = s.movedSlot h := by
    unfold State.movedSlot State.disown
    rw [List.findSome?_map]
    rfl
  unfold State.slotOf
  simp only [hdie, hmoved]

theorem State.slotOf_dropEntry (s : State) (k : Nat) (e : QEntry) (h : Word) : (s.dropEntry k e).slotOf h = s.slotOf h :=
  State.slotOf_disown ..

/-- A slot with the same name and state as another. -/
def Slot.Alike (a b : Slot) : Prop :=
  b.live = a.live ∧ b.home = a.home ∧ b.seq = a.seq ∧ b.failed = a.failed ∧ b.finished = a.finished

/-- A slot that neither has failed nor is finished. -/
def Slot.Going (a : Slot) : Prop := a.live = true ∧ a.failed = false ∧ a.finished = false

/-- A slice of a handle that neither has failed nor is finished is in the slot that the handle names, or in one to which a fence has
moved it (R149, R170). -/
def State.HasSlice (s : State) (h : Word) : Prop :=
  (let t := (s.die (h.toNat / 2 ^ 12 % 16)).slots.get (h.toNat % 2 ^ 12)
   h.toNat / 2 ^ 48 = 0 ∧ t.Going ∧ t.home = none ∧ t.seq % 2 ^ 32 = h.toNat / 2 ^ 16) ∨
  ∃ p ∈ s.dies, ∃ q ∈ p.2.slots, q.2.Going ∧ q.2.home.isSome = true ∧ q.2.handle p.1 q.1 = h

theorem State.hasSlice_of_slotOf {s : State} {h : Word} {d i : Nat} {v : Slot} (hslot : s.slotOf h = some (d, i, v))
    (hfail : v.failed = false) (hfin : v.finished = false) : s.HasSlice h := by
  unfold State.slotOf at hslot
  dsimp only at hslot
  split at hslot
  · next hnamed =>
    obtain ⟨hhigh, hlive, hhome, hseq⟩ := hnamed
    obtain ⟨rfl, rfl, rfl⟩ : _ = d ∧ _ = i ∧ _ = v := by simpa using hslot
    exact .inl ⟨hhigh, ⟨hlive, hfail, hfin⟩, hhome, hseq⟩
  · obtain ⟨p, hp, hfound⟩ := List.exists_of_findSome?_eq_some hslot
    obtain ⟨q, hq, heq⟩ := Option.map_eq_some_iff.1 hfound
    obtain ⟨rfl, rfl⟩ : p.1 = d ∧ q = (i, v) := by simpa using heq
    have hmatch := List.find?_some hq
    simp only [Bool.and_eq_true, beq_iff_eq] at hmatch
    obtain ⟨⟨hlive, hhome⟩, hhandle⟩ := hmatch
    exact .inr ⟨p, hp, (i, v), List.mem_of_find?_eq_some hq, ⟨hlive, hfail, hfin⟩, hhome, hhandle⟩

theorem State.slotOf_of_hasSlice {s : State} {h : Word} (hs : s.HasSlice h) : ∃ r, s.slotOf h = some r := by
  unfold State.slotOf
  dsimp only
  split
  · exact ⟨_, rfl⟩
  · next hnot =>
    obtain ⟨hhigh, ⟨hlive, -⟩, hhome, hseq⟩ | ⟨p, hp, q, hq, ⟨hlive, -⟩, hhome, hhandle⟩ := hs
    · exact absurd ⟨hhigh, hlive, hhome, hseq⟩ hnot
    · refine Option.isSome_iff_exists.1 (List.findSome?_isSome_iff.2 ⟨p, hp, ?_⟩)
      rw [Option.isSome_map, List.find?_isSome]
      exact ⟨q, hq, by simp [hlive, hhome, hhandle]⟩

/-- A listed pair is still listed after a put, or is what the key had. -/
theorem Tbl.mem_put_of_mem {α : Type} [Inhabited α] {t : Tbl α} {p : Nat × α} (h : p ∈ t) (k : Nat) (w : α) :
    p ∈ t.put k w ∨ (p = (k, t.get k) ∧ (k, w) ∈ t.put k w) := by
  induction t with
  | nil => exact absurd h List.not_mem_nil
  | cons q t ih =>
    obtain ⟨j, v⟩ := q
    unfold Tbl.put
    by_cases hj : j = k
    · subst hj
      rw [if_pos rfl]
      obtain rfl | hp := List.mem_cons.1 h
      · exact .inr ⟨by simp [Tbl.get, Tbl.getD], List.mem_cons_self⟩
      · exact .inl (List.mem_cons_of_mem _ hp)
    · rw [if_neg hj]
      split
      · exact .inl (List.mem_cons_of_mem _ h)
      · obtain rfl | hp := List.mem_cons.1 h
        · exact .inl List.mem_cons_self
        · have hget : Tbl.get ((j, v) :: t) k = Tbl.get t k := by simp [Tbl.get, Tbl.getD, hj]
          rw [hget]
          exact (ih hp).imp (List.mem_cons_of_mem _) fun h => ⟨h.1, List.mem_cons_of_mem _ h.2⟩

/-- A change of a slot that keeps the names and states of slices that go on. -/
theorem State.hasSlice_modSlot {s : State} {h : Word} (hs : s.HasSlice h) (d i : Nat) {f : Slot → Slot}
    (hf : ((s.die d).slots.get i).Going → ((s.die d).slots.get i).Alike (f ((s.die d).slots.get i))) :
    (s.modSlot d i f).HasSlice h := by
  obtain ⟨hhigh, hgoing, hhome, hseq⟩ | ⟨p, hp, q, hq, hgoing, hhome, hhandle⟩ := hs
  · have halike : (let t := (s.die (h.toNat / 2 ^ 12 % 16)).slots.get (h.toNat % 2 ^ 12)
        t.Alike (((s.modSlot d i f).die (h.toNat / 2 ^ 12 % 16)).slots.get (h.toNat % 2 ^ 12))) := by
      generalize h.toNat / 2 ^ 12 % 16 = x at *
      generalize h.toNat % 2 ^ 12 = y at *
      by_cases hx : x = d
      · subst hx
        rw [State.modSlot, State.die_modDie_same]
        by_cases hy : y = i
        · subst hy
          simpa using hf hgoing
        · simp only [Tbl.get_mod_ne _ _ hy]
          exact ⟨rfl, rfl, rfl, rfl, rfl⟩
      · rw [State.modSlot, State.die_modDie_ne _ _ hx]
        exact ⟨rfl, rfl, rfl, rfl, rfl⟩
    obtain ⟨hlive, hhome', hseq', hfail, hfin⟩ := halike
    obtain ⟨hl, hfa, hfi⟩ := hgoing
    exact .inl ⟨hhigh, ⟨hlive.trans hl, hfail.trans hfa, hfin.trans hfi⟩, hhome'.trans hhome, by rw [hseq']; exact hseq⟩
  · refine .inr ?_
    obtain hkeep | ⟨rfl, hp'⟩ := Tbl.mem_put_of_mem hp d { s.die d with slots := (s.die d).slots.mod i f }
    · exact ⟨p, hkeep, q, hq, hgoing, hhome, hhandle⟩
    · refine ⟨_, hp', ?_⟩
      obtain hkeep | ⟨rfl, hq'⟩ := Tbl.mem_put_of_mem hq i (f ((s.die d).slots.get i))
      · exact ⟨q, hkeep, hgoing, hhome, hhandle⟩
      · obtain ⟨hlive, hhome', hseq', hfail, hfin⟩ := hf hgoing
        obtain ⟨hl, hfa, hfi⟩ := hgoing
        refine ⟨_, hq', ⟨hlive.trans hl, hfail.trans hfa, hfin.trans hfi⟩, ?_, ?_⟩
        · rw [hhome']
          exact hhome
        · unfold Slot.handle at hhandle ⊢
          rw [hhome', hseq']
          exact hhandle

/-- The slot of a slice that goes on is not freed (R152). -/
theorem State.hasSlice_freeSlot {s : State} {h : Word} (hs : s.HasSlice h) (d i : Nat) : (s.freeSlot d i).HasSlice h := by
  unfold State.freeSlot
  dsimp only
  split
  · next hover =>
    refine State.hasSlice_modSlot hs d i fun hgoing => ?_
    obtain ⟨-, hfail, hfin⟩ := hgoing
    simp [hfail, hfin] at hover
  · exact hs

/-- An entry that leaves a slice that goes on leaves the slice going on (R369). -/
theorem State.hasSlice_leaveSlice {s : State} {h : Word} (hs : s.HasSlice h) (e : QEntry) : (s.leaveSlice e false).HasSlice h := by
  unfold State.leaveSlice
  split
  · exact hs
  · simp only [Bool.false_and, Bool.false_eq_true, if_false]
    refine State.hasSlice_freeSlot (State.hasSlice_modSlot hs _ _ fun _ => ?_) _ _
    exact ⟨rfl, rfl, rfl, rfl, rfl⟩

/-! ### What dwindles while instances end -/

/-- Instances and contexts may have gone: the queues hold entries of before, no area has been taken, and predecessor counts are as
they were. -/
structure Dwindles (s t : State) : Prop where
  preds : ∀ d i, ((t.die d).slots.get i).preds = ((s.die d).slots.get i).preds
  queue : ∀ k, ∀ x ∈ (t.core k).queue, ∃ y ∈ (s.core k).queue, y.handle = x.handle ∧ y.area = x.area
  pools : ∀ o, ∀ a ∈ t.harbour.pools.get o, a ∈ s.harbour.pools.get o

namespace Dwindles

theorem refl (s : State) : Dwindles s s := ⟨fun _ _ => rfl, fun _ x hx => ⟨x, hx, rfl, rfl⟩, fun _ _ h => h⟩

theorem trans {s t u : State} (h : Dwindles s t) (g : Dwindles t u) : Dwindles s u := by
  refine ⟨fun d i => (g.preds d i).trans (h.preds d i), fun k x hx => ?_, fun o a ha => h.pools o a (g.pools o a ha)⟩
  obtain ⟨y, hy, hyx⟩ := g.queue k x hx
  obtain ⟨z, hz, hzy⟩ := h.queue k y hy
  exact ⟨z, hz, hzy.1.trans hyx.1, hzy.2.trans hyx.2⟩

theorem foldl {α : Type} {f : State → α → State} (hf : ∀ t a, Dwindles t (f t a)) (l : List α) (s : State) :
    Dwindles s (l.foldl f s) :=
  List.foldlRecOn (motive := Dwindles s) l f (refl s) fun t ht a _ => ht.trans (hf t a)

/-- Where dies, queues and pools are as they were. -/
theorem of_eq {s t : State} (hdies : t.dies = s.dies) (hqueue : ∀ k, (t.core k).queue = (s.core k).queue)
    (hpools : t.harbour.pools = s.harbour.pools) : Dwindles s t := by
  refine ⟨fun d i => ?_, fun k x hx => ⟨x, hqueue k ▸ hx, rfl, rfl⟩, fun o a ha => hpools ▸ ha⟩
  rw [State.die, hdies]
  rfl

theorem modCore (s : State) (k : Nat) {f : Core → Core}
    (hf : ∀ x ∈ (f (s.core k)).queue, ∃ y ∈ (s.core k).queue, y.handle = x.handle ∧ y.area = x.area) :
    Dwindles s (s.modCore k f) := by
  refine ⟨fun _ _ => rfl, fun j x hx => ?_, fun _ _ h => h⟩
  by_cases hj : j = k
  · subst hj
    rw [State.core_modCore_same] at hx
    exact hf x hx
  · rw [State.core_modCore_ne _ _ hj] at hx
    exact ⟨x, hx, rfl, rfl⟩

theorem withKept {s t : State} (h : Dwindles s t) (kept : List Kept) : Dwindles s { t with kept := kept } :=
  ⟨h.preds, h.queue, h.pools⟩

/-- A change of a core that leaves its queue. -/
theorem modCore_of_queue (s : State) (k : Nat) {f : Core → Core} (hf : ∀ c, (f c).queue = c.queue) :
    Dwindles s (s.modCore k f) :=
  modCore s k fun x hx => ⟨x, hf _ ▸ hx, rfl, rfl⟩

theorem modDie (s : State) (d : Nat) {f : Die → Die} (hf : ∀ v i, ((f v).slots.get i).preds = (v.slots.get i).preds) :
    Dwindles s (s.modDie d f) := by
  refine ⟨fun e i => ?_, fun _ x hx => ⟨x, hx, rfl, rfl⟩, fun _ _ h => h⟩
  by_cases he : e = d
  · subst he
    rw [State.die_modDie_same]
    exact hf _ i
  · rw [State.die_modDie_ne _ _ he]

theorem modSlot (s : State) (d i : Nat) {f : Slot → Slot} (hf : ∀ t, (f t).preds = t.preds) : Dwindles s (s.modSlot d i f) := by
  refine modDie s d fun v j => ?_
  dsimp only
  rw [Tbl.get_mod]
  split
  · next hj => rw [hf, hj]
  · rfl

end Dwindles

theorem OnlyStored.dwindles {s t : State} (h : OnlyStored s t) : Dwindles s t :=
  .of_eq h.dies (fun k => by rw [h.2 k]) (by rw [h.1])

/-! ### Saves and traps -/

theorem State.drainBlocks_onlyStored (area owner : Nat) (c : Nat × Nat × Nat) (bs : List Nat) (s : State) :
    OnlyStored s (s.drainBlocks area owner c bs).1 := by
  induction bs generalizing s with
  | nil => exact .refl s
  | cons b bs ih =>
    unfold State.drainBlocks
    dsimp only
    split
    · next h => exact (State.areaPut_onlyStored h).trans (ih _)
    · exact .refl s

theorem State.drainChunks_onlyStored (area owner : Nat) (cs : List (Nat × Nat × Nat)) (s : State) :
    OnlyStored s (s.drainChunks area owner cs).1 := by
  induction cs generalizing s with
  | nil => exact .refl s
  | cons c cs ih =>
    have hblocks := State.drainBlocks_onlyStored area owner c (areaBlocks c.1 c.2.1) s
    unfold State.drainChunks
    split
    · next h => rw [h] at hblocks; exact hblocks.trans (ih _)
    · next h => rw [h] at hblocks; exact hblocks

theorem Die.log_slots (v : Die) (e : LogEnt) : (v.log e).slots = v.slots := by
  unfold Die.log
  split <;> rfl

theorem Core.log_queue (c : Core) (e : LogEnt) : (c.log e).queue = c.queue := by
  unfold Core.log
  split <;> rfl

theorem State.drainStops_dwindles (s : State) (k : Nat) (g : Staging) (cause off mark : Nat) (rest : List (Nat × Nat × Nat)) :
    Dwindles s (s.drainStops k g cause off mark rest) := by
  have hslot : Dwindles s (s.modCore k fun c => { c with staging := some { g with held := true, progress := mark, chunks := rest } }) :=
    .modCore_of_queue s k fun _ => rfl
  unfold State.drainStops
  dsimp only
  refine Dwindles.trans ?_ (.modDie _ _ fun v i => by rw [Die.log_slots])
  split
  · next h => exact hslot.trans (State.areaPut_onlyStored h).dwindles
  · exact hslot

theorem State.drain_dwindles (s : State) (k : Nat) : Dwindles s (s.drain k) := by
  unfold State.drain
  split
  · exact .refl s
  · next g _ =>
    have hchunks := (State.drainChunks_onlyStored g.area g.owner g.chunks s).dwindles
    split
    · exact .refl s
    · split
      · next h =>
        rw [h] at hchunks
        split
        · exact hchunks.trans (.modCore_of_queue _ k fun _ => rfl)
        · split
          · next hput => exact (hchunks.trans (State.areaPut_onlyStored hput).dwindles).trans (.modCore_of_queue _ k fun _ => rfl)
          · exact hchunks.trans (State.drainStops_dwindles ..)
      · next h =>
        rw [h] at hchunks
        exact hchunks.trans (State.drainStops_dwindles ..)

theorem State.saveContext_dwindles {s u : State} {k : Nat} {pc : Word} (h : s.saveContext k pc = some u) : Dwindles s u := by
  have hlog : Dwindles (s.drain k) ((s.drain k).logBadCells k) :=
    .foldl (fun t _ => .modCore_of_queue t k fun c => c.log_queue _) ..
  unfold State.saveContext at h
  dsimp only at h
  split at h
  · cases h
  · obtain rfl := Option.some.inj h
    refine ((s.drain_dwindles k).trans hlog).trans (Dwindles.withKept ?_ _)
    exact .modCore_of_queue _ k fun _ => rfl

theorem State.trap_dwindles (s : State) (k : Nat) (t : Trap) : Dwindles s (s.trap k t) := by
  unfold State.trap
  split
  · split
    · exact .refl s
    · next h => exact (State.saveContext_dwindles h).trans (.modCore_of_queue _ k fun _ => rfl)
  · exact .modCore_of_queue s k fun _ => rfl

/-- A change of entries that keeps their handles and areas. -/
theorem Dwindles.modEntry (s : State) (k : Nat) (p : QEntry → Bool) {f : QEntry → QEntry}
    (hf : ∀ e, (f e).handle = e.handle ∧ (f e).area = e.area) : Dwindles s (s.modCore k fun c => c.modEntry p f) := by
  refine .modCore s k fun x hx => ?_
  obtain ⟨e, he, rfl⟩ := List.mem_map.1 hx
  refine ⟨e, he, ?_⟩
  split
  · exact ⟨(hf e).1.symm, (hf e).2.symm⟩
  · exact ⟨rfl, rfl⟩

theorem State.orphanTrap_dwindles (s : State) (k g : Nat) : Dwindles s (s.orphanTrap k g) := by
  have hdrain := s.drain_dwindles k
  unfold State.orphanTrap
  dsimp only
  split
  · exact hdrain
  · exact (hdrain.trans (State.trap_dwindles ..)).trans (.modEntry _ _ _ fun _ => ⟨rfl, rfl⟩)

/-! ### Instances and slices -/

theorem State.freeSlot_dwindles (s : State) (d i : Nat) : Dwindles s (s.freeSlot d i) := by
  unfold State.freeSlot
  dsimp only
  split
  · exact .modSlot s d i fun _ => rfl
  · exact .refl s

theorem State.leaveSlice_dwindles (s : State) (e : QEntry) : Dwindles s (s.leaveSlice e false) := by
  unfold State.leaveSlice
  split
  · exact .refl s
  · simp only [Bool.false_and, Bool.false_eq_true, if_false]
    refine Dwindles.trans ?_ (State.freeSlot_dwindles ..)
    exact .modSlot s _ _ fun _ => rfl

/-- A core after a context has ended: what it has under way is nobody's (R147). -/
def Core.disown (owner area : Nat) (c : Core) : Core :=
  { c with
    copies := c.copies.map fun x => (x.1, if x.2.owner == owner && x.2.area == area then { x.2 with area := 2 ^ 64 + area } else x.2)
    left := c.left.map fun l => if l.owner == owner && l.area == area then { l with area := 2 ^ 64 + area } else l }

theorem State.core_disown (s : State) (owner area k : Nat) : (s.disown owner area).core k = (s.core k).disown owner area :=
  State.core_of_map (g := fun _ => Core.disown owner area) rfl (fun _ => rfl) k

theorem State.disown_dwindles (s : State) (owner area : Nat) : Dwindles s (s.disown owner area) := by
  refine ⟨fun d i => ?_, fun k x hx => ⟨x, ?_, rfl, rfl⟩, fun _ _ h => h⟩
  · have hdie : (s.disown owner area).die d = { s.die d with held := (s.die d).held.map (·.disown owner area) } :=
      Tbl.get_map (g := fun _ (v : Die) => { v with held := v.held.map (·.disown owner area) }) s.dies (fun _ => rfl) d
    rw [hdie]
  · rw [State.core_disown] at hx
    exact hx

/-- A core that becomes idle, or not, as a context stops being resident keeps its queue (R194, R295). -/
theorem Core.unreside_idle_queue (c : Core) (area : Nat) (b : Bool) :
    (if b then (c.unreside area).idle else c.unreside area).queue = c.queue := by
  split <;> exact Core.unreside_queue ..

/-- The queue after an entry has been removed: what was there, without its area (R369). -/
theorem State.queue_dropEntry (s : State) (k : Nat) (e : QEntry) :
    ((s.dropEntry k e).core k).queue = (s.core k).queue.filter fun x => x.area != e.area := by
  unfold State.dropEntry
  dsimp only
  rw [State.core_disown, State.core_modCore_same]
  exact Core.unreside_idle_queue ..

theorem State.dropEntry_dwindles (s : State) (k : Nat) (e : QEntry) : Dwindles s (s.dropEntry k e) := by
  have hfree : Dwindles s (s.modHarbour (·.free e.owner e.area)) := by
    refine ⟨fun _ _ => rfl, fun _ x hx => ⟨x, hx, rfl, rfl⟩, fun o a ha => ?_⟩
    change a ∈ Tbl.get (Tbl.mod s.harbour.pools e.owner _) o at ha
    rw [Tbl.get_mod] at ha
    split at ha
    · next ho => exact ho ▸ List.mem_of_mem_filter ha
    · exact ha
  unfold State.dropEntry
  dsimp only
  refine (hfree.trans (.modCore _ k fun x hx => ⟨x, ?_, rfl, rfl⟩)).trans (State.disown_dwindles ..)
  rw [Core.unreside_idle_queue] at hx
  exact List.mem_of_mem_filter hx

/-- The area of an entry that has been removed is free (R158). -/
theorem State.dropEntry_frees (s : State) (k : Nat) (e : QEntry) : e.area ∉ (s.dropEntry k e).harbour.pools.get e.owner := by
  change e.area ∉ Tbl.get (Tbl.mod s.harbour.pools e.owner _) e.owner
  rw [Tbl.get_mod_same]
  simp

/-- The instances of a slice removed from the queues (R170). -/
def State.endMembers (s : State) (h : Word) (p : Nat × Core) : State :=
  p.2.queue.foldl (fun s e => if e.handle == h then (s.dropEntry p.1 e).leaveSlice e false else s) s

theorem State.endMember_dwindles (s : State) (k : Nat) (h : Word) (e : QEntry) :
    Dwindles s (if e.handle == h then (s.dropEntry k e).leaveSlice e false else s) := by
  split
  · exact (State.dropEntry_dwindles ..).trans (State.leaveSlice_dwindles ..)
  · exact .refl s

theorem State.endMembers_dwindles (s : State) (h : Word) (p : Nat × Core) : Dwindles s (s.endMembers h p) :=
  .foldl (fun t e => t.endMember_dwindles p.1 h e) _ s

/-- A step of a walk whose every step only lets things dwindle, and one of which does what it should for good. -/
theorem Dwindles.foldl_mem {α : Type} {f : State → α → State} {P : State → Prop} (hf : ∀ t a, Dwindles t (f t a))
    (hP : ∀ t u, Dwindles t u → P t → P u) {l : List α} {a : α} (ha : a ∈ l) (hdone : ∀ t, P (f t a)) (s : State) :
    P (l.foldl f s) := by
  obtain ⟨l₁, l₂, rfl⟩ := List.append_of_mem ha
  rw [List.foldl_append, List.foldl_cons]
  exact hP _ _ (.foldl hf l₂ _) (hdone _)

/-- Every entry of the slice that the cores held is gone once they are all removed (R170). -/
theorem State.endMembers_all (s : State) (h : Word) :
    ∀ k, ∀ x ∈ ((s.cores.foldl (fun t p => t.endMembers h p) s).core k).queue, x.handle ≠ h := by
  intro k x hx hhandle
  obtain ⟨y, hy, hyhandle, hyarea⟩ := (Dwindles.foldl (fun t p => t.endMembers_dwindles h p) s.cores s).queue k x hx
  have hcore : (k, s.core k) ∈ s.cores := Tbl.mem_of_get_ne_default fun hd => by
    rw [State.core, hd] at hy
    exact List.not_mem_nil hy
  let Gone (t : State) : Prop := ∀ z ∈ (t.core k).queue, z.area ≠ y.area
  have hkeep (t u : State) (hd : Dwindles t u) (ht : Gone t) : Gone u := fun z hz => by
    obtain ⟨w, hw, -, harea⟩ := hd.queue k z hz
    exact harea ▸ ht w hw
  have hgone : Gone (s.cores.foldl (fun t p => t.endMembers h p) s) := by
    refine Dwindles.foldl_mem (fun t p => t.endMembers_dwindles h p) hkeep hcore (fun t => ?_) s
    refine Dwindles.foldl_mem (fun t e => t.endMember_dwindles k h e) hkeep hy (fun t => ?_) t
    rw [if_pos (by simpa using hyhandle.trans hhandle)]
    refine hkeep _ _ (State.leaveSlice_dwindles ..) fun z hz => ?_
    rw [State.queue_dropEntry] at hz
    simpa using (List.mem_filter.1 hz).2
  exact hgone x hx hyarea.symm

/-- A slice that fails (R170, R369): no entry of it is left, its handle is reported, and nothing else grows. -/
theorem State.failSlice_ends {s : State} {h : Word} (hs : s.HasSlice h) :
    Dwindles s (s.failSlice h) ∧ h ∈ (s.failSlice h).harbour.failed ∧
      ∀ k, ∀ x ∈ ((s.failSlice h).core k).queue, x.handle ≠ h := by
  obtain ⟨⟨d, i, v⟩, hslot⟩ := State.slotOf_of_hasSlice hs
  let u := s.modSlot d i fun t => { t with failed := true }
  let w : State := match v.orphan with
    | some g => u.cores.foldl (fun (s : State) p => if p.2.atBarrier h then s.orphanTrap p.1 g else s) u
    | none => u
  let x := w.cores.foldl (fun t p => t.endMembers h p) w
  have hfail : s.failSlice h = (x.modHarbour fun b => { b with failed := b.failed ++ [h] }).freeSlot d i := by
    unfold State.failSlice
    rw [hslot]
    rfl
  have hw : Dwindles s w := by
    have hu : Dwindles s u := .modSlot s d i fun _ => rfl
    refine hu.trans ?_
    simp only [w]
    split
    · refine .foldl (fun t p => ?_) _ u
      split
      · exact t.orphanTrap_dwindles ..
      · exact .refl t
    · exact .refl u
  have hx : Dwindles w x := .foldl (fun t p => t.endMembers_dwindles h p) _ w
  have hreported : Dwindles x (x.modHarbour fun b => { b with failed := b.failed ++ [h] }) := .of_eq rfl (fun _ => rfl) rfl
  have hreport := hreported.trans (State.freeSlot_dwindles _ d i)
  rw [hfail]
  refine ⟨(hw.trans hx).trans hreport, ?_, fun k y hy => ?_⟩
  · have hfree : ((x.modHarbour fun b => { b with failed := b.failed ++ [h] }).freeSlot d i).harbour.failed = x.harbour.failed ++ [h] := by
      unfold State.freeSlot
      dsimp only
      split <;> rfl
    rw [hfree]
    exact List.mem_append_right _ List.mem_cons_self
  · obtain ⟨z, hz, hzy, -⟩ := hreport.queue k y hy
    exact hzy ▸ w.endMembers_all h k z hz

/-! ### Ending an entry -/

section
variable {s : State} {core area j : Nat} {e : QEntry} (hcore : core < 1536) (harea : area < 2 ^ 64)
  (hentry : s.entryOf area = some (j, e))
include hcore harea hentry

/-- The end register's write ends an entry that does not run outside a handler that has saved it (R369). -/
theorem endInstance_exec (hst : e.st ≠ .running ∨ ((s.hart j).handler = true ∧ (s.hart j).saved = true)) :
    exec (.endInstance core area) s = .next ((((s.dropEntry j e).leaveSlice e false).failSlice e.handle).modCore core
      fun c => { c with endStatus := 0 }) := by
  have hruns : (e.st == .running && !((s.hart j).handler && (s.hart j).saved)) = false := by
    obtain hst | ⟨hhandler, hsaved⟩ := hst
    · simp [hst]
    · simp [hhandler, hsaved]
  refine exec_onCore hcore rfl ?_
  have hword : (BitVec.ofNat 64 area).toNat = area := Nat.mod_eq_of_lt harea
  unfold State.coreWrite State.coreRegWrite
  rw [hword]
  simp only [State.endInstance, hentry, hruns]
  rfl

omit hcore harea hentry in
/-- The status of the end register is no entry's (R369). -/
theorem State.endStatus_dwindles (u : State) (k : Nat) : Dwindles u (u.modCore k fun c => { c with endStatus := 0 }) :=
  .modCore_of_queue u k fun _ => rfl

/-- An entry whose slice is gone ends alone (R369). -/
theorem endInstance_of_stale (hst : e.st ≠ .running) (hslot : s.slotOf e.handle = none) :
    Happens (.endInstance core area) s fun t => (t.core core).endStatus = 0 ∧ ∀ x ∈ (t.core j).queue, x.area ≠ e.area := by
  have hgone : (s.dropEntry j e).slotOf e.handle = none := (State.slotOf_dropEntry ..).trans hslot
  have hend : ((s.dropEntry j e).leaveSlice e false).failSlice e.handle = s.dropEntry j e := by
    simp only [State.leaveSlice, State.failSlice, hgone]
  refine ⟨_, endInstance_exec hcore harea hentry (.inl hst), by rw [State.core_modCore_same], fun x hx => ?_⟩
  rw [hend] at hx
  obtain ⟨y, hy, -, hyx⟩ := ((s.dropEntry j e).endStatus_dwindles core).queue j x hx
  rw [State.queue_dropEntry] at hy
  exact hyx ▸ (by simpa using (List.mem_filter.1 hy).2)

/-- An entry that is ended takes its slice with it (R170, R369). -/
theorem endInstance_fails {d i : Nat} {v : Slot} (hst : e.st ≠ .running ∨ ((s.hart j).handler = true ∧ (s.hart j).saved = true))
    (hslot : s.slotOf e.handle = some (d, i, v)) (hfail : v.failed = false) (hfin : v.finished = false) :
    Happens (.endInstance core area) s fun t => (t.core core).endStatus = 0 ∧ e.handle ∈ t.harbour.failed ∧
      (∀ k, ∀ x ∈ (t.core k).queue, x.handle ≠ e.handle) ∧ e.area ∉ t.harbour.pools.get e.owner ∧
      ∀ d i, ((t.die d).slots.get i).preds = ((s.die d).slots.get i).preds := by
  have hgoes : ((s.dropEntry j e).leaveSlice e false).HasSlice e.handle :=
    State.hasSlice_leaveSlice (State.hasSlice_of_slotOf ((State.slotOf_dropEntry ..).trans hslot) hfail hfin) e
  obtain ⟨hdwindles, hreported, hnone⟩ := State.failSlice_ends hgoes
  have hleft := (State.leaveSlice_dwindles (s.dropEntry j e) e).trans hdwindles
  have hall := (s.dropEntry_dwindles j e).trans hleft
  refine ⟨_, endInstance_exec hcore harea hentry hst, by rw [State.core_modCore_same], hreported, fun k x hx => ?_, ?_, hall.preds⟩
  · obtain ⟨y, hy, hyx, -⟩ := (State.endStatus_dwindles _ core).queue k x hx
    exact hyx ▸ hnone k y hy
  · exact fun hmem => s.dropEntry_frees j e (hleft.pools _ _ hmem)

end

end Sys2Proof.Machine
end

section
/-! SUPPORT. Words of a save area: what a store of some bytes makes of each block, and of each 64-bit word (R187). For O58. -/

namespace Sys2Proof.Machine

/-! ### Words of a block -/

theorem getLsbD_blkWord (b : BitVec 512) (o i : Nat) : (blkWord b o).getLsbD i = (decide (i < 64) && b.getLsbD (8 * o + i)) := by
  rw [blkWord, BitVec.getLsbD_ofNat, Nat.testBit_div_two_pow, Nat.add_comm]
  rfl

/-- The bytes of an area interval that lie in a block, in their place there. -/
def areaVal (off len val b : Nat) : BitVec 512 :=
  let lo := max off (64 * b)
  let hi := min (off + len) (64 * b + 64)
  BitVec.ofNat 512 (val / 2 ^ (8 * (lo - off)) % 2 ^ (8 * (hi - lo)) * 2 ^ (8 * (lo - 64 * b)))

/-- Which bytes of a block an area interval has. -/
def areaMask (off len b : Nat) : BitVec 512 :=
  byteMask (max off (64 * b) - 64 * b) (min (off + len) (64 * b + 64) - 64 * b)

/-- A word that an area interval holds whole is that of the value stored there. -/
theorem blkWord_patch_inside (w : BitVec 512) {off len b o : Nat} (val : Nat) (ho : o + 8 ≤ 64) (hlo : off ≤ 64 * b + o)
    (hhi : 64 * b + o + 8 ≤ off + len) : blkWord (patch w (areaVal off len val b) (areaMask off len b)) o =
      BitVec.ofNat 64 (val / 2 ^ (8 * (64 * b + o - off))) := by
  refine BitVec.eq_of_getLsbD_eq fun i hi => ?_
  have hmask : (areaMask off len b).getLsbD (8 * o + i) = true := by
    rw [areaMask, getLsbD_byteMask (by omega)]
    simp only [Bool.and_eq_true, decide_eq_true_eq]
    omega
  have hbit : (areaVal off len val b).getLsbD (8 * o + i) = val.testBit (8 * (64 * b + o - off) + i) := by
    have hpos : 8 * o + i - 8 * (max off (64 * b) - 64 * b) + 8 * (max off (64 * b) - off) = 8 * (64 * b + o - off) + i := by omega
    simp only [areaVal, BitVec.getLsbD_ofNat, Nat.testBit_mul_two_pow, Nat.testBit_mod_two_pow, Nat.testBit_div_two_pow, hpos]
    rw [decide_eq_true (by omega : 8 * o + i < 512), decide_eq_true (by omega : 8 * (max off (64 * b) - 64 * b) ≤ 8 * o + i),
      decide_eq_true (by omega : 8 * o + i - 8 * (max off (64 * b) - 64 * b) <
        8 * (min (off + len) (64 * b + 64) - max off (64 * b)))]
    simp
  rw [getLsbD_blkWord, patch_getLsbD, hmask, hbit, BitVec.getLsbD_ofNat, Nat.testBit_div_two_pow]
  simp [hi, Nat.add_comm]

/-- A word outside an area interval is as it was. -/
theorem blkWord_patch_outside (w : BitVec 512) {off len b o : Nat} (val : Nat) (ho : o + 8 ≤ 64)
    (hout : 64 * b + o + 8 ≤ off ∨ off + len ≤ 64 * b + o) :
    blkWord (patch w (areaVal off len val b) (areaMask off len b)) o = blkWord w o := by
  refine BitVec.eq_of_getLsbD_eq fun i hi => ?_
  have hmask : (areaMask off len b).getLsbD (8 * o + i) = false := by
    rw [areaMask, getLsbD_byteMask (by omega), Bool.and_eq_false_iff]
    simp only [decide_eq_false_iff_not]
    omega
  rw [getLsbD_blkWord, getLsbD_blkWord, patch_getLsbD, hmask]
  simp

/-! ### Blocks of an area -/

/-- A block of a save area in a die's memory, where nothing moves, and what it reads as. -/
structure AreaBlock (s : State) (area owner b : Nat) (w : BitVec 512) : Prop where
  moves : s.ranges.moves = []
  aligned : area % 64 = 0
  hbm : ∃ d, s.region (area + 64 * b) = .hbm d
  read : s.mem.read (area + 64 * b) (s.credOf (area + 64 * b) (areaOwner owner b) b) = .ok w

theorem State.resolve_still {s : State} (h : s.ranges.moves = []) (pa : Nat) : s.resolve pa = pa := by
  simp [State.resolve, h]

theorem State.seat_hbm {s : State} {q d : Nat} (h : s.region q = .hbm d) (owner tweak : Nat) :
    s.seat q owner tweak = .memory (s.credOf q owner tweak) := by
  simp [State.seat, h]

namespace AreaBlock

variable {s t : State} {area owner b : Nat} {w : BitVec 512}

theorem physRead (h : AreaBlock s area owner b w) : s.physRead (area + 64 * b) (areaOwner owner b) b = .ok w := by
  obtain ⟨d, hd⟩ := h.hbm
  rw [State.physRead_eq, State.resolve_still h.moves, State.seat_hbm hd]
  exact h.read

theorem of_physRead (hmoves : s.ranges.moves = []) (haligned : area % 64 = 0) (hhbm : ∃ d, s.region (area + 64 * b) = .hbm d)
    (hread : s.physRead (area + 64 * b) (areaOwner owner b) b = .ok w) : AreaBlock s area owner b w := by
  obtain ⟨d, hd⟩ := hhbm
  rw [State.physRead_eq, State.resolve_still hmoves, State.seat_hbm hd] at hread
  exact ⟨hmoves, haligned, ⟨d, hd⟩, hread⟩

/-- Where memory, the address map and the moves are as they were. -/
theorem congr (h : AreaBlock s area owner b w) (hmem : t.mem = s.mem) (hlink : t.link = s.link)
    (hmoves : t.ranges.moves = s.ranges.moves) : AreaBlock t area owner b w := by
  have hregion (q : Nat) : t.region q = s.region q := by rw [State.region, hlink]; rfl
  have hcred (q o k : Nat) : t.credOf q o k = s.credOf q o k := by rw [State.credOf, hregion, hlink]; rfl
  exact ⟨hmoves.trans h.moves, h.aligned, by rw [hregion]; exact h.hbm, by rw [hmem, hcred]; exact h.read⟩

/-- A word of the area. -/
theorem areaGet (h : AreaBlock s area owner b w) {o : Nat} (ho : o + 8 ≤ 64) :
    s.areaGet area owner (64 * b + o) 8 = (blkWord w o).toNat := by
  have hone : areaBlocks (64 * b + o) 8 = [b] := by
    have hlast : (64 * b + o + 8 + 63) / 64 - (64 * b + o) / 64 = 1 := by omega
    have hfirst : (64 * b + o) / 64 = b := by omega
    rw [areaBlocks, hlast, hfirst]
    rfl
  have hlo : max (64 * b + o) (64 * b) = 64 * b + o := by omega
  have hhi : min (64 * b + o + 8) (64 * b + 64) = 64 * b + o + 8 := by omega
  simp only [State.areaGet, hone, List.map_cons, List.map_nil, List.sum_cons, List.sum_nil, h.physRead, hlo, hhi, blkWord,
    BitVec.toNat_ofNat, Nat.add_sub_cancel_left, Nat.sub_self, Nat.mul_zero, Nat.pow_zero, Nat.mul_one, Nat.add_zero]

/-- A store to the block. -/
theorem write (h : AreaBlock s area owner b w) (val mask : BitVec 512) :
    ∃ t, s.physWrite (area + 64 * b) (areaOwner owner b) b val mask = .ok t ∧ AreaBlock t area owner b (patch w val mask) := by
  obtain ⟨d, hd⟩ := h.hbm
  have hwrite : ∃ m, s.mem.write (area + 64 * b) (s.credOf (area + 64 * b) (areaOwner owner b) b) val mask = .ok m := by
    have hread := h.read
    unfold Mem.read at hread
    unfold Mem.write
    split at hread
    · cases hread
    · exact ⟨_, rfl⟩
  obtain ⟨m, hm⟩ := hwrite
  refine ⟨{ s with mem := m }, ?_, h.moves, h.aligned, h.hbm, Mem.read_write_same hm h.read⟩
  rw [State.physWrite_eq, State.resolve_still h.moves, State.seat_hbm hd, State.seatWrite, hm]

/-- A store to another block. -/
theorem write_ne (h : AreaBlock s area owner b w) {c o k : Nat} {val mask : BitVec 512} (hne : c ≠ b)
    (hw : s.physWrite (area + 64 * c) o k val mask = .ok t) : AreaBlock t area owner b w := by
  have hal := h.aligned
  obtain ⟨cred, m, -, hm, rfl⟩ | ⟨j, off, d, -, -, rfl⟩ := State.physWrite_ok hw
  · rw [State.resolve_still h.moves] at hm
    refine ⟨h.moves, h.aligned, h.hbm, ?_⟩
    exact (Mem.read_write_ne hm (by omega) (by omega) (by omega) _).trans h.read
  · exact h.congr rfl rfl rfl

end AreaBlock

theorem mem_areaBlocks {off len b : Nat} : b ∈ areaBlocks off len ↔ off / 64 ≤ b ∧ b < (off + len + 63) / 64 := by
  simp only [areaBlocks, List.mem_map, List.mem_range]
  constructor
  · rintro ⟨i, hi, rfl⟩
    omega
  · rintro ⟨hlo, hhi⟩
    exact ⟨b - off / 64, by omega, by omega⟩

theorem areaBlocks_nodup (off len : Nat) : (areaBlocks off len).Nodup :=
  List.nodup_range.map fun _ _ h => Nat.add_left_cancel h

/-! ### Bytes stored in an area -/

/-- The part of a store of bytes that one block takes. -/
def State.areaPutBlock (s : State) (area owner off len val b : Nat) : Except Nat State :=
  s.physWrite (area + 64 * b) (areaOwner owner b) b (areaVal off len val b) (areaMask off len b)

/-- The blocks of a store of bytes one after another; the first error stops it. -/
def State.areaPutBlocks (s : State) (area owner off len val : Nat) : List Nat → Except Nat State
  | [] => .ok s
  | b :: bs => match s.areaPutBlock area owner off len val b with
    | .ok t => t.areaPutBlocks area owner off len val bs
    | .error e => .error e

theorem State.areaPut_eq (s : State) (area owner off len val : Nat) :
    s.areaPut area owner off len val = s.areaPutBlocks area owner off len val (areaBlocks off len) := by
  unfold State.areaPut
  generalize areaBlocks off len = bs
  induction bs generalizing s with
  | nil => rfl
  | cons b bs ih =>
    rw [List.foldl_cons, State.areaPutBlocks]
    change List.foldl _ (s.areaPutBlock area owner off len val b) bs = _
    cases s.areaPutBlock area owner off len val b with
    | ok t => exact ih t
    | error e =>
      refine List.foldlRecOn (motive := fun r : Except Nat State => r = .error e) bs _ rfl ?_
      rintro _ rfl c -
      rfl

section
variable {s t : State} {area owner : Nat}

/-- A store of bytes changes the block that it reaches by its part, and no other. -/
theorem State.areaPutBlocks_block {off len val b : Nat} {w : BitVec 512} {bs : List Nat} (hbs : bs.Nodup)
    (h : s.areaPutBlocks area owner off len val bs = .ok t) (hb : AreaBlock s area owner b w) :
    AreaBlock t area owner b (if b ∈ bs then patch w (areaVal off len val b) (areaMask off len b) else w) := by
  induction bs generalizing s w with
  | nil =>
    cases h
    exact hb
  | cons c bs ih =>
    obtain ⟨hc, hbs⟩ := List.nodup_cons.1 hbs
    rw [State.areaPutBlocks] at h
    split at h
    · next u hu =>
      by_cases hcb : c = b
      · subst hcb
        obtain ⟨v, hv, hblock⟩ := hb.write (areaVal off len val c) (areaMask off len c)
        obtain rfl : v = u := Except.ok.inj (hv.symm.trans hu)
        have hrest := ih hbs h hblock
        rw [if_neg hc] at hrest
        rw [if_pos List.mem_cons_self]
        exact hrest
      · have hrest := ih hbs h (hb.write_ne hcb hu)
        simpa only [List.mem_cons, show ¬b = c from fun hbc => hcb hbc.symm, false_or] using hrest
    · cases h

theorem State.areaPutBlocks_ok {off len val : Nat} {bs : List Nat} (hbs : bs.Nodup)
    (h : ∀ b ∈ bs, ∃ w, AreaBlock s area owner b w) : ∃ t, s.areaPutBlocks area owner off len val bs = .ok t := by
  induction bs generalizing s with
  | nil => exact ⟨s, rfl⟩
  | cons c bs ih =>
    obtain ⟨hc, hbs⟩ := List.nodup_cons.1 hbs
    obtain ⟨w, hw⟩ := h c List.mem_cons_self
    obtain ⟨u, hu, -⟩ := hw.write (areaVal off len val c) (areaMask off len c)
    obtain ⟨t, ht⟩ := ih hbs (s := u) fun b hb => by
      obtain ⟨x, hx⟩ := h b (List.mem_cons_of_mem _ hb)
      exact ⟨x, hx.write_ne (fun hcb => hc (by rw [hcb]; exact hb)) hu⟩
    exact ⟨t, by rw [State.areaPutBlocks, State.areaPutBlock, hu]; exact ht⟩

/-- A store of bytes changes the block that it reaches by its part, and no other (R187). -/
theorem State.areaPut_block {off len val b : Nat} {w : BitVec 512} (h : s.areaPut area owner off len val = .ok t)
    (hb : AreaBlock s area owner b w) : AreaBlock t area owner b
      (if b ∈ areaBlocks off len then patch w (areaVal off len val b) (areaMask off len b) else w) :=
  State.areaPutBlocks_block (areaBlocks_nodup off len) (s.areaPut_eq .. ▸ h) hb

/-- A store of bytes to blocks that can be read does not fail (R67). -/
theorem State.areaPut_ok {off len : Nat} (val : Nat) (h : ∀ b ∈ areaBlocks off len, ∃ w, AreaBlock s area owner b w) :
    ∃ t, s.areaPut area owner off len val = .ok t := by
  rw [State.areaPut_eq]
  exact State.areaPutBlocks_ok (areaBlocks_nodup off len) h

end

/-! ### Words of an area -/

/-- A 64-bit word of an area's block. -/
def AreaWord (s : State) (area owner b o : Nat) (x : Word) : Prop := ∃ w, AreaBlock s area owner b w ∧ blkWord w o = x

section
variable {s t : State} {area owner b o : Nat} {x : Word}

theorem AreaWord.areaGet (h : AreaWord s area owner b o x) (ho : o + 8 ≤ 64) : s.areaGet area owner (64 * b + o) 8 = x.toNat := by
  obtain ⟨w, hw, rfl⟩ := h
  exact hw.areaGet ho

/-- A word that a store of bytes holds whole. -/
theorem AreaWord.put_inside {off len val : Nat} {w : BitVec 512} (h : s.areaPut area owner off len val = .ok t)
    (hb : AreaBlock s area owner b w) (ho : o + 8 ≤ 64) (hlo : off ≤ 64 * b + o) (hhi : 64 * b + o + 8 ≤ off + len) :
    AreaWord t area owner b o (BitVec.ofNat 64 (val / 2 ^ (8 * (64 * b + o - off)))) := by
  have hmem : b ∈ areaBlocks off len := mem_areaBlocks.2 (by omega)
  have hblock := State.areaPut_block h hb
  rw [if_pos hmem] at hblock
  exact ⟨_, hblock, blkWord_patch_inside w val ho hlo hhi⟩

/-- A word outside a store of bytes. -/
theorem AreaWord.put_outside {off len val : Nat} (h : s.areaPut area owner off len val = .ok t) (hx : AreaWord s area owner b o x)
    (ho : o + 8 ≤ 64) (hout : 64 * b + o + 8 ≤ off ∨ off + len ≤ 64 * b + o) : AreaWord t area owner b o x := by
  obtain ⟨w, hb, rfl⟩ := hx
  refine ⟨_, State.areaPut_block h hb, ?_⟩
  split
  · exact blkWord_patch_outside w val ho hout
  · rfl

end

end Sys2Proof.Machine
end

section
/-! SUPPORT. What a bundle committed in absence leaves in its save area (R184, R189, R190). For O58. -/

namespace Sys2Proof.Machine

/-! ### Packed fields -/

theorem pack_append (l m : List (Nat × Nat)) : pack (l ++ m) = pack l + pack m := by
  induction l with
  | nil => exact (Nat.zero_add _).symm
  | cons p l ih => rw [List.cons_append, pack, pack, ih, Nat.add_assoc]

/-- Fields from a bit upwards. -/
theorem dvd_pack {n : Nat} {l : List (Nat × Nat)} (h : ∀ p ∈ l, n ≤ p.1) : 2 ^ n ∣ pack l := by
  induction l with
  | nil => exact Nat.dvd_zero _
  | cons p l ih =>
    have hp := h p List.mem_cons_self
    exact Nat.dvd_add (Dvd.dvd.mul_left (Nat.pow_dvd_pow 2 hp) _) (ih fun q hq => h q (List.mem_cons_of_mem _ hq))

/-- The first fields, and those from a bit upwards. -/
theorem pack_high (m n : Nat) {l : List (Nat × Nat)} (h : ∀ p ∈ l.drop m, n ≤ p.1) :
    ∃ k, pack l = pack (l.take m) + 2 ^ n * k := by
  obtain ⟨k, hk⟩ := dvd_pack h
  exact ⟨k, by rw [← hk, ← pack_append, List.take_append_drop]⟩

/-- Packed 64-bit words are the digits of their number. -/
theorem pack_words (f : Nat → Nat) (n : Nat) :
    pack ((List.range n).map fun i => (64 * i, f i)) = Nat.ofDigits (2 ^ 64) ((List.range n).map f) := by
  induction n with
  | zero => rfl
  | succ n ih =>
    rw [List.range_succ, List.map_append, List.map_append, pack_append, Nat.ofDigits_append, ih, List.length_map,
      List.length_range, List.map_singleton, List.map_singleton, Nat.ofDigits_singleton, ← Nat.pow_mul, Nat.mul_comm _ (f n)]
    rfl

/-- One of some packed 64-bit words. -/
theorem pack_words_get {f : Nat → Nat} (hf : ∀ i, f i < 2 ^ 64) {n k : Nat} (hk : k < n) :
    pack ((List.range n).map fun i => (64 * i, f i)) / 2 ^ (64 * k) % 2 ^ 64 = f k := by
  have hdigits : ∀ x ∈ (List.range n).map f, x < 2 ^ 64 := fun x hx => by
    obtain ⟨i, -, rfl⟩ := List.mem_map.1 hx
    exact hf i
  have hlen : k < ((List.range n).map f).length := by simpa using hk
  rw [pack_words, Nat.pow_mul, Nat.ofDigits_div_pow_eq_ofDigits_drop k (Nat.two_pow_pos 64) _ hdigits,
    Nat.ofDigits_mod_eq_head!, List.drop_eq_getElem_cons hlen, List.head!_cons, List.getElem_map, List.getElem_range,
    Nat.mod_eq_of_lt (hf k)]

/-! ### The words of an image -/

/-- PC in the header (R190). -/
theorem imageHeader_pc (h : Hart) (time : Nat) : BitVec.ofNat 64 (imageHeader h time / 2 ^ 64) = h.pc := by
  obtain ⟨k, hk⟩ : ∃ k, imageHeader h time =
      pack [(0, 1), (16, 1), (17, h.grid.h1.toNat), (18, h.ctl.qfmt.toNat / 256), (64, h.pc.toNat)] + 2 ^ 128 * k :=
    pack_high 5 128 (by simp)
  have hbit : h.grid.h1.toNat < 2 := Bool.toNat_lt _
  have hfmt : h.ctl.qfmt.toNat < 1024 := h.ctl.qfmt.isLt
  have hpc : h.pc.toNat < 2 ^ 64 := h.pc.isLt
  refine BitVec.eq_of_toNat_eq ?_
  simp only [hk, pack, BitVec.toNat_ofNat]
  omega

/-- FFLAGS in the control words (R189). -/
theorem imageControl_fflags (h : Hart) (alloc : Nat) : (BitVec.ofNat 64 (imageControl h alloc)).toNat = h.ctl.fflags.toNat := by
  have hsum (x y : Nat) : (∃ i, x = pack [(0, h.ctl.fflags.toNat)] + 2 ^ 64 * i) → 2 ^ 64 ∣ y →
      ∃ k, x + y = pack [(0, h.ctl.fflags.toNat)] + 2 ^ 64 * k := by
    rintro ⟨i, rfl⟩ ⟨j, rfl⟩
    exact ⟨i + j, by rw [Nat.mul_add, Nat.add_assoc]⟩
  obtain ⟨k, hk⟩ : ∃ k, imageControl h alloc = pack [(0, h.ctl.fflags.toNat)] + 2 ^ 64 * k := by
    refine hsum _ _ (pack_high 1 64 (by simp)) ?_
    split
    · exact dvd_pack (by simp)
    · exact Nat.dvd_zero _
  have hfl : h.ctl.fflags.toNat < 64 := h.ctl.fflags.isLt
  simp only [hk, pack, BitVec.toNat_ofNat]
  omega

/-- The scalar registers (R187). -/
theorem imageRegs (h : Hart) {r : Nat} (hr : 1 ≤ r) (hr' : r < 32) :
    BitVec.ofNat 64 (pack ((List.range 31).map fun i => (64 * (i + 1), (h.x.get (i + 1)).toNat)) / 2 ^ (64 * r)) = h.x.get r := by
  let f : Nat → Nat := fun i => if i = 0 then 0 else (h.x.get i).toNat
  have hf (i : Nat) : f i < 2 ^ 64 := by
    simp only [f]
    split
    · exact Nat.two_pow_pos 64
    · exact BitVec.isLt _
  have hpack : pack ((List.range 31).map fun i => (64 * (i + 1), (h.x.get (i + 1)).toNat)) =
      pack ((List.range 32).map fun i => (64 * i, f i)) := by
    rw [List.range_succ_eq_map (n := 31), List.map_cons, List.map_map, pack]
    exact (Nat.zero_add _).symm
  refine BitVec.eq_of_toNat_eq ?_
  rw [BitVec.toNat_ofNat, hpack, pack_words_get hf hr']
  exact if_neg (by omega)

/-- The chunks of an image in their order: header, registers, control words, and what lies behind them (R187). -/
theorem imageOf_eq (h : Hart) (alloc time count : Nat) : ∃ rest, (imageOf h alloc time count).filter (fun c => c.1 ≠ 57472) =
    (0, 128, imageHeader h time) ::
      (128, 256, pack ((List.range 31).map fun i => (64 * (i + 1), (h.x.get (i + 1)).toNat))) ::
      (384, 128, imageControl h alloc) :: rest ∧ ∀ c ∈ rest, 512 ≤ c.1 := by
  refine ⟨((imageOf h alloc time count).drop 3).filter (fun c => c.1 ≠ 57472), rfl, fun c hc => ?_⟩
  have hmem : c ∈ (imageOf h alloc time count).drop 3 := List.mem_of_mem_filter hc
  simp only [imageOf, List.cons_append, List.nil_append, List.drop_succ_cons, List.drop_zero, List.mem_cons, List.mem_append,
    List.mem_map, List.mem_nil_iff, or_false] at hmem
  obtain rfl | rfl | ((⟨i, -, rfl⟩ | ⟨i, -, rfl⟩) | ⟨i, -, rfl⟩) | rfl := hmem <;> dsimp only <;> omega

/-! ### Stores that are dropped where they fail -/

/-- Bytes of an area stored; an error drops them (R184). -/
def State.areaTry (s : State) (area owner off len val : Nat) : State :=
  match s.areaPut area owner off len val with
  | .ok t => t
  | .error _ => s

/-- The first eight blocks of an area can be read: header, scalar registers and control words. -/
def AreaHead (s : State) (area owner : Nat) : Prop := ∀ b < 8, ∃ w, AreaBlock s area owner b w

section
variable {s : State} {area owner : Nat}

theorem State.areaTry_onlyStored (s : State) (area owner off len val : Nat) : OnlyStored s (s.areaTry area owner off len val) := by
  unfold State.areaTry
  split
  · next h => exact State.areaPut_onlyStored h
  · exact .refl s

theorem AreaHead.areaTry (h : AreaHead s area owner) (off len val : Nat) : AreaHead (s.areaTry area owner off len val) area owner := by
  unfold State.areaTry
  split
  · next hput =>
    intro b hb
    obtain ⟨w, hw⟩ := h b hb
    exact ⟨_, State.areaPut_block hput hw⟩
  · exact h

/-- A word that a store in the first eight blocks holds whole. -/
theorem AreaHead.word_inside (h : AreaHead s area owner) {off len b o : Nat} (val : Nat) (hend : off + len ≤ 512) (ho : o + 8 ≤ 64)
    (hlo : off ≤ 64 * b + o) (hhi : 64 * b + o + 8 ≤ off + len) :
    AreaWord (s.areaTry area owner off len val) area owner b o (BitVec.ofNat 64 (val / 2 ^ (8 * (64 * b + o - off)))) := by
  obtain ⟨t, ht⟩ := State.areaPut_ok (off := off) (len := len) val fun b hb => h b (by have := mem_areaBlocks.1 hb; omega)
  obtain ⟨w, hw⟩ := h b (by omega)
  rw [State.areaTry, ht]
  exact AreaWord.put_inside ht hw ho hlo hhi

/-- A word outside a store. -/
theorem AreaWord.areaTry {b o : Nat} {x : Word} (h : AreaWord s area owner b o x) {off len : Nat} (val : Nat) (ho : o + 8 ≤ 64)
    (hout : 64 * b + o + 8 ≤ off ∨ off + len ≤ 64 * b + o) : AreaWord (s.areaTry area owner off len val) area owner b o x := by
  unfold State.areaTry
  split
  · next hput => exact AreaWord.put_outside hput h ho hout
  · exact h

/-- Chunks of an image stored one after another; one that fails is dropped (R184). -/
def State.areaTries (s : State) (area owner : Nat) (l : List (Nat × Nat × Nat)) : State :=
  l.foldl (fun t c => t.areaTry area owner c.1 c.2.1 c.2.2) s

theorem State.areaTries_cons (s : State) (area owner : Nat) (c : Nat × Nat × Nat) (l : List (Nat × Nat × Nat)) :
    s.areaTries area owner (c :: l) = (s.areaTry area owner c.1 c.2.1 c.2.2).areaTries area owner l := rfl

theorem State.areaTries_onlyStored (s : State) (area owner : Nat) (l : List (Nat × Nat × Nat)) :
    OnlyStored s (s.areaTries area owner l) :=
  .foldl (fun t _ => t.areaTry_onlyStored ..) l s

/-- A word that lies before every chunk. -/
theorem AreaWord.areaTries {b o : Nat} {x : Word} {l : List (Nat × Nat × Nat)} (h : AreaWord s area owner b o x) (ho : o + 8 ≤ 64)
    (hout : ∀ c ∈ l, 64 * b + o + 8 ≤ c.1) : AreaWord (s.areaTries area owner l) area owner b o x :=
  List.foldlRecOn (motive := fun t => AreaWord t area owner b o x) l _ h fun _ ht c hc => ht.areaTry _ ho (.inl (hout c hc))

/-- A store to the header is made in owner 0's name, whoever's the area is (R65, R187). -/
theorem State.areaTry_header (s : State) (area owner : Nat) {off len : Nat} (hend : off + len ≤ 128) (val : Nat) :
    s.areaTry area 0 off len val = s.areaTry area owner off len val := by
  have hblocks (bs : List Nat) (hbs : ∀ b ∈ bs, b < 2) (t : State) :
      t.areaPutBlocks area 0 off len val bs = t.areaPutBlocks area owner off len val bs := by
    induction bs generalizing t with
    | nil => rfl
    | cons b bs ih =>
      have hb : b < 2 := hbs b List.mem_cons_self
      have hblock : t.areaPutBlock area 0 off len val b = t.areaPutBlock area owner off len val b := by
        simp [State.areaPutBlock, areaOwner, hb]
      rw [State.areaPutBlocks, State.areaPutBlocks, hblock]
      split
      · exact ih (fun c hc => hbs c (List.mem_cons_of_mem _ hc)) _
      · rfl
  unfold State.areaTry
  rw [State.areaPut_eq, State.areaPut_eq, hblocks _ fun b hb => by have := mem_areaBlocks.1 hb; omega]

/-! ### A bundle that resolves -/

/-- The hart whose image goes into an area when its bundle has resolved: its rows are those that the bundle has changed (R184). -/
def absentImage (old new : Hart) : Hart :=
  { new.stopLong with grid := { new.stopLong.grid with dirty := rowBits (changedRows old.grid new.grid) } }

/-- What a resolved bundle stores: an image without the notices, and the record of the rows (R184). -/
theorem State.putAbsent_eq (s : State) (area alloc : Nat) (old new : Hart) : ∃ both, s.putAbsent area alloc old new =
    (s.areaTries area new.sup.owner.toNat ((imageOf (absentImage old new) alloc (s.areaGet area 0 48 8) s.count).filter
      fun c => c.1 ≠ 57472)).areaTry area 0 80 16 both :=
  ⟨_, rfl⟩

/-- The first three chunks of an image stored: header, registers and control words (R187). -/
def State.areaTryHead (s : State) (area owner : Nat) (g : Hart) (alloc time : Nat) : State :=
  ((s.areaTry area owner 0 128 (imageHeader g time)).areaTry area owner 128 256
    (pack ((List.range 31).map fun i => (64 * (i + 1), (g.x.get (i + 1)).toNat)))).areaTry area owner 384 128 (imageControl g alloc)

theorem State.areaTryHead_onlyStored (s : State) (area owner : Nat) (g : Hart) (alloc time : Nat) :
    OnlyStored s (s.areaTryHead area owner g alloc time) :=
  ((State.areaTry_onlyStored ..).trans (State.areaTry_onlyStored ..)).trans (State.areaTry_onlyStored ..)

theorem AreaHead.head_pc (h : AreaHead s area owner) (g : Hart) (alloc time : Nat) :
    AreaWord (s.areaTryHead area owner g alloc time) area owner 0 8 g.pc := by
  have hword := h.word_inside (b := 0) (o := 8) (off := 0) (len := 128) (imageHeader g time) (by decide) (by decide) (by decide)
    (by decide)
  rw [show 8 * (64 * 0 + 8 - 0) = 64 from rfl, imageHeader_pc] at hword
  exact (hword.areaTry _ (by decide) (.inl (by decide))).areaTry _ (by decide) (.inl (by decide))

theorem AreaHead.head_reg (h : AreaHead s area owner) (g : Hart) (alloc time : Nat) {r : Nat} (hr : 1 ≤ r) (hr' : r < 32) :
    AreaWord (s.areaTryHead area owner g alloc time) area owner (2 + r / 8) (8 * (r % 8)) (g.x.get r) := by
  have h₁ : AreaHead (s.areaTry area owner 0 128 (imageHeader g time)) area owner := h.areaTry _ _ _
  have hword := h₁.word_inside (b := 2 + r / 8) (o := 8 * (r % 8)) (off := 128) (len := 256)
    (pack ((List.range 31).map fun i => (64 * (i + 1), (g.x.get (i + 1)).toNat))) (by decide) (by omega) (by omega) (by omega)
  have hshift : 8 * (64 * (2 + r / 8) + 8 * (r % 8) - 128) = 64 * r := by omega
  rw [hshift, imageRegs g hr hr'] at hword
  exact hword.areaTry _ (by omega) (.inl (by omega))

theorem AreaHead.head_fflags (h : AreaHead s area owner) (g : Hart) (alloc time : Nat) :
    AreaWord (s.areaTryHead area owner g alloc time) area owner 6 0 (BitVec.ofNat 64 (imageControl g alloc)) := by
  have h₁ : AreaHead (s.areaTry area owner 0 128 (imageHeader g time)) area owner := h.areaTry _ _ _
  have hword := (h₁.areaTry 128 256 (pack ((List.range 31).map fun i => (64 * (i + 1), (g.x.get (i + 1)).toNat)))).word_inside
    (b := 6) (o := 0) (off := 384) (len := 128) (imageControl g alloc) (by decide) (by decide) (by decide) (by decide)
  rw [show 8 * (64 * 6 + 0 - 384) = 0 from rfl, Nat.pow_zero, Nat.div_one] at hword
  exact hword

/-- What a resolved bundle stores, in its order (R184). -/
theorem State.putAbsent_head (s : State) (area alloc : Nat) (old new : Hart) :
    ∃ rest both, (∀ c ∈ rest, 512 ≤ c.1) ∧ s.putAbsent area alloc old new =
      ((s.areaTryHead area new.sup.owner.toNat (absentImage old new) alloc (s.areaGet area 0 48 8)).areaTries area
        new.sup.owner.toNat rest).areaTry area new.sup.owner.toNat 80 16 both := by
  obtain ⟨both, hput⟩ := s.putAbsent_eq area alloc old new
  obtain ⟨rest, himg, hrest⟩ := imageOf_eq (absentImage old new) alloc (s.areaGet area 0 48 8) s.count
  rw [himg, State.areaTries_cons, State.areaTries_cons, State.areaTries_cons,
    State.areaTry_header _ area new.sup.owner.toNat (by decide)] at hput
  exact ⟨rest, both, hrest, hput⟩

/-- The first words of an area after the effects of a bundle have gone into it (R184). -/
theorem State.putAbsent_words {new : Hart} (h : AreaHead s area new.sup.owner.toNat) (alloc : Nat) (old : Hart) :
    let t := s.putAbsent area alloc old new
    OnlyStored s t ∧ t.areaGet area new.sup.owner.toNat 8 8 = new.pc.toNat ∧
      (∀ r : SReg, r ≠ 0 → t.areaGet area new.sup.owner.toNat (128 + 8 * r.toNat) 8 = (new.rx r).toNat) ∧
      t.areaGet area new.sup.owner.toNat 384 8 = new.ctl.fflags.toNat := by
  obtain ⟨rest, both, hrest, hput⟩ := s.putAbsent_head area alloc old new
  have hlast {b o : Nat} {x : Word} (ho : o + 8 ≤ 64) (hb : b < 8) (hout : 64 * b + o + 8 ≤ 80 ∨ 96 ≤ 64 * b + o)
      (hx : AreaWord (s.areaTryHead area new.sup.owner.toNat (absentImage old new) alloc (s.areaGet area 0 48 8)) area
        new.sup.owner.toNat b o x) :
      (s.putAbsent area alloc old new).areaGet area new.sup.owner.toNat (64 * b + o) 8 = x.toNat := by
    rw [hput]
    exact ((hx.areaTries ho fun c hc => by have := hrest c hc; omega).areaTry _ ho hout).areaGet ho
  refine ⟨?_, ?_, fun r hr => ?_, ?_⟩
  · rw [hput]
    exact ((State.areaTryHead_onlyStored ..).trans (State.areaTries_onlyStored ..)).trans (State.areaTry_onlyStored ..)
  · exact hlast (b := 0) (o := 8) (by decide) (by decide) (.inl (by decide)) (h.head_pc ..)
  · have hlt : r.toNat < 32 := r.isLt
    have hpos : 1 ≤ r.toNat := by
      have : r.toNat ≠ 0 := fun h0 => hr (BitVec.eq_of_toNat_eq h0)
      omega
    have hplace : 128 + 8 * r.toNat = 64 * (2 + r.toNat / 8) + 8 * (r.toNat % 8) := by omega
    rw [hplace, hlast (by omega) (by omega) (.inr (by omega)) (h.head_reg _ _ _ hpos hlt)]
    exact congrArg BitVec.toNat (if_neg hr).symm
  · exact (hlast (b := 6) (o := 0) (by decide) (by decide) (.inr (by decide)) (h.head_fflags ..)).trans (imageControl_fflags ..)

/-- The words in which an area records the trap that a bundle has met (R184, R189). -/
theorem State.putAbsentTrap_words {new : Hart} (h : AreaHead s area new.sup.owner.toNat) :
    let t := s.putAbsentTrap area new
    OnlyStored s t ∧ t.areaGet area new.sup.owner.toNat 488 8 = new.sup.trapaddr.toNat ∧
      t.areaGet area new.sup.owner.toNat 496 8 =
        new.sup.trapcause.toNat % 256 + new.sup.trapslot.toNat % 4 * 256 + 2 ^ 63 := by
  let w14 := new.sup.trapcause.toNat % 256 + new.sup.trapslot.toNat % 4 * 256 + 2 ^ 63
  let s₁ := s.areaTry area new.sup.owner.toNat 488 8 new.sup.trapaddr.toNat
  have hput : s.putAbsentTrap area new = s₁.areaTry area new.sup.owner.toNat 496 8 w14 := rfl
  have h₁ : AreaHead s₁ area new.sup.owner.toNat := h.areaTry _ _ _
  have haddr := h.word_inside (b := 7) (o := 40) (off := 488) (len := 8) new.sup.trapaddr.toNat (by decide) (by decide) (by decide)
    (by decide)
  have hcause := h₁.word_inside (b := 7) (o := 48) (off := 496) (len := 8) w14 (by decide) (by decide) (by decide) (by decide)
  rw [show 8 * (64 * 7 + 40 - 488) = 0 from rfl, Nat.pow_zero, Nat.div_one, BitVec.ofNat_toNat, BitVec.setWidth_eq] at haddr
  rw [show 8 * (64 * 7 + 48 - 496) = 0 from rfl, Nat.pow_zero, Nat.div_one] at hcause
  intro t
  rw [show t = _ from hput]
  refine ⟨(State.areaTry_onlyStored ..).trans (State.areaTry_onlyStored ..), ?_, ?_⟩
  · exact (haddr.areaTry w14 (by decide) (.inl (by decide))).areaGet (by decide)
  · refine (hcause.areaGet (by decide)).trans ?_
    rw [BitVec.toNat_ofNat]
    exact Nat.mod_eq_of_lt (by simp only [w14]; omega)

end

/-- The reply to a bundle committed in absence has arrived, and the save is stored: its effects go into the save area, or its trap
does (R184). -/
theorem absentBundleResolved_step {s : State} {n j : Nat} {a : Absent} {e : QEntry} (ha : s.absent[n]? = some a)
    (hans : a.hart.answered = true) (hentry : s.entryOf a.area = some (j, e)) (hstored : s.stored a.area = true) :
    let old := s.absentHart a.hart a.area
    let v : State := State.bundleTurn { s.modCore j (fun c => c.standIn a.area old) with cur := j } j
    let g := v.hart j
    let owner := g.sup.owner.toNat
    g.wait = .none → g.ewait = .none → v.ranges.moves = [] → a.area % 64 = 0 →
    (∀ b, b < 8 → (∃ d, v.region (a.area + 64 * b) = .hbm d) ∧
      ∃ w, v.physRead (a.area + 64 * b) (areaOwner owner b) b = .ok w) →
    Happens (.absentBundleResolved n) s fun t => t.absent = dropAt s.absent n ∧
      ((g.handler = true → old.handler = true) → t.areaGet a.area owner 8 8 = g.pc.toNat ∧
        (∀ r : SReg, r ≠ 0 → t.areaGet a.area owner (128 + 8 * r.toNat) 8 = (g.rx r).toNat) ∧
        t.areaGet a.area owner 384 8 = g.ctl.fflags.toNat) ∧
      (g.handler = true → old.handler = false → t.areaGet a.area owner 488 8 = g.sup.trapaddr.toNat ∧
        t.areaGet a.area owner 496 8 = g.sup.trapcause.toNat % 256 + g.sup.trapslot.toNat % 4 * 256 + 2 ^ 63) := by
  intro old v g owner hwait hewait hmoves haligned hblocks
  let back : State := { v.modCore j (fun c => { c.standBack (s.core j) with left := c.left ++ g.leftovers }) with
    cur := s.cur, absent := dropAt s.absent n }
  have hhead : AreaHead back a.area owner := fun b hb => by
    obtain ⟨hhbm, w, hw⟩ := hblocks b hb
    exact ⟨w, (AreaBlock.of_physRead hmoves haligned hhbm hw).congr rfl rfl rfl⟩
  have hstep : s.resolveAbsent n = if g.handler && !old.handler then back.putAbsentTrap a.area g
      else back.putAbsent a.area (s.areaGet a.area old.sup.owner.toNat 424 8) old g := by
    have hgoes : (g.wait != .none || g.ewait != .none) = false := by simp [hwait, hewait]
    have hrun : s.resolveAbsent n = s.runAbsent n a j := by
      simp only [State.resolveAbsent, ha, hans, hentry, hstored, Bool.not_true, Bool.false_eq_true, if_false, if_true]
    rw [hrun]
    unfold State.runAbsent
    exact if_neg (by rw [hgoes]; exact Bool.false_ne_true)
  by_cases htrap : (g.handler && !old.handler) = true
  · rw [if_pos htrap] at hstep
    obtain ⟨hgh, hoh⟩ : g.handler = true ∧ old.handler = false := by simpa using htrap
    obtain ⟨honly, haddr, hcause⟩ := State.putAbsentTrap_words hhead
    refine happens_of_eq rfl hstep ⟨by rw [honly.1], fun himp => ?_, fun _ _ => ⟨haddr, hcause⟩⟩
    exact absurd (himp hgh) (by rw [hoh]; exact Bool.false_ne_true)
  · rw [if_neg htrap] at hstep
    obtain ⟨honly, hpc, hregs, hflags⟩ := State.putAbsent_words hhead (s.areaGet a.area old.sup.owner.toNat 424 8) old
    refine happens_of_eq rfl hstep ⟨by rw [honly.1], fun _ => ⟨hpc, hregs, hflags⟩, fun hgh hoh => ?_⟩
    exact absurd (by simp [hgh, hoh]) htrap

end Sys2Proof.Machine
end

section
/-! SUPPORT. The steps of the distributors, the watchdog, the sheepdog and the harbourmaster together. Settles O58. -/

namespace Sys2Proof.Machine

/-- Settles O58: each clause is the lemma about its step; a step at a boundary goes through what a save or a trap leaves, a slice
that ends through what dwindles meanwhile, and an absent bundle through the words of its area. -/
theorem schedulingSteps : Obligations.SchedulingSteps := by
  unfold Obligations.SchedulingSteps
  intro s core die slot area c h u hcore hdie
  refine ⟨?placement, ?gangPlacement, ?switchOut, ?switchIn, ?staged, ?drain, ?restart, ?gone, ?resolved, ?clear, ?window,
    ?turn, ?turnEnd, ?deadline, ?notice, ?resumable, ?quiet, ?circle, ?heartbeat, ?takeover, ?relaunch, ?stale, ?fails,
    ?evictWaits, ?evictSaves⟩
  case placement => exact fun o a k e he hw hg ht hf ho ha hb => placement_step hdie he hw hg ht hf ho ha hb
  case gangPlacement =>
    exact fun o ks hw hg ht hf ho hks hareas hlen hres => gangPlacement_step hdie hw hg ht hf ho hks hareas hlen hres
  case switchOut =>
    rintro i (⟨rfl, hpre⟩ | ⟨rfl, hwaited, e, hrun, hblk⟩) hact hhandler hdue hst
    · exact switchOut_step hcore hact hpre hhandler hdue hst
    · exact blockSwitchOut_step hcore hact hwaited hrun hblk hhandler hst
  case switchIn => exact fun e hfree hnext hfresh hres => switchIn_step hcore hfree hnext hfresh hres
  case staged => exact fun e hnext hout hstaged hbusy => contextStaged_step hcore hnext hout hstaged hbusy
  case drain =>
    exact fun g u v hst hheld hchunks hsave habsent hput => saveDrain_step hcore hst hheld hchunks hsave habsent hput
  case restart => exact fun g hst harea => saveRestart_step hcore hst harea
  case gone => exact fun n a ha hans hgone => absentBundleResolved_of_gone ha hans hgone
  case resolved => exact fun n a j e ha hans hentry hstored => absentBundleResolved_step ha hans hentry hstored
  case clear =>
    rintro e hqueue rfl hwait hkind htime hinvals hbusy
    exact blockedCauseClear_step hcore hqueue hwait hkind htime hinvals hbusy
  case window => exact shareWindowStart_step hcore
  case turn => exact fun e howed hturn hfg => shareTurn_step hcore howed hturn hfg
  case turnEnd => exact fun e hrun hturn hran => shareTurnEnd_step hcore hrun hturn hran
  case deadline => exact fun hlive hfin hfail hlate hcls htime => sliceDeadlinePassed_step hdie hlive hfin hfail hlate hcls htime
  case notice =>
    exact fun n rest hact hnotices hhandler hdue hwaits => noticeTaken_step hcore hact hnotices hhandler hdue hwaits
  case resumable =>
    exact fun d hact hdue hres hslot hinval hway hsaving => resumableTrap_step hcore hact hdue hres hslot hinval hway hsaving
  case quiet => exact sheepdogSample_quiet
  case circle =>
    exact fun m rest e hdue hnow hsample htold he hhandle hidx hone =>
      sheepdogSample_circle hdue hnow hsample htold he hhandle hidx hone
  case heartbeat => exact heartbeat_step
  case takeover => exact deputyTakeoverComplete_does s
  case relaunch =>
    exact fun j e harea hentry hst hj hin hdin hallow hroom => relaunch_step hcore harea hentry hst hj hin hdin hallow hroom
  case stale => exact fun j e harea hentry hst hslot => endInstance_of_stale hcore harea hentry hst hslot
  case fails =>
    exact fun j e d i v harea hentry hst hslot hfail hfin => endInstance_fails hcore harea hentry hst hslot hfail hfin
  case evictWaits => exact eviction_waits hcore
  case evictSaves => exact eviction_saves hcore

end Sys2Proof.Machine
end

section
/-! SUPPORT. The return from a trap without a saved context (R175, R182, R188): what ERET leaves alone, the partial operations that
resume, and the fetches made again. Settles O44. -/

namespace Sys2Proof.Machine

/-! ### The hart that returns -/

/-- A hart has left the trap that another is in (R182): the level is PREV, the bundle at TRAPPC is next, and registers, control
words and trap words are as they were. -/
structure Hart.Left (h g : Hart) : Prop where
  level : g.level = levelOf (h.sup.trapcause.toNat / 2 ^ 8 % 4)
  handler : g.handler = false
  pc : g.pc = h.sup.trappc
  x : g.x = h.x
  ctl : g.ctl = h.ctl
  sup : g.sup = h.sup

/-- Partial operations that resume change the grid and the operations under way, and nothing else of the hart. -/
theorem Hart.resumePartial_eq (h : Hart) : h.resumePartial =
    { h with grid := h.resumePartial.grid, opas := h.resumePartial.opas, long := h.resumePartial.long,
             popa := h.resumePartial.popa, pvec := h.resumePartial.pvec } := by
  unfold Hart.resumePartial
  dsimp only
  split <;> split <;> rfl

/-- A hart that has left the trap has left it whether or not its partial operations resume. -/
theorem Hart.Left.resumePartial {h g : Hart} (hleft : h.Left g) (b : Bool) :
    h.Left (if b = true then g.resumePartial else g) := by
  split
  · rw [Hart.resumePartial_eq]
    exact ⟨hleft.level, hleft.handler, hleft.pc, hleft.x, hleft.ctl, hleft.sup⟩
  · exact hleft

theorem Hart.resumePartial_leave_left (h : Hart) : h.Left h.resumePartial.leave := by
  rw [Hart.resumePartial_eq]
  exact ⟨rfl, rfl, rfl, rfl, rfl, rfl⟩

/-! ### Partial operations that resume (R175, R188) -/

theorem Hart.resumePartial_popa (h : Hart) : h.resumePartial.popa = none := by
  unfold Hart.resumePartial
  cases h.pvec <;> cases ho : h.popa <;> simp [ho]

theorem Hart.resumePartial_pvec (h : Hart) : h.resumePartial.pvec = none := by
  unfold Hart.resumePartial
  cases hv : h.pvec <;> cases ho : h.popa <;> simp [hv, ho]

theorem Hart.resumePartial_opas {h : Hart} {o : OpaRun} (ho : h.popa = some o) : h.resumePartial.opas = h.opas ++ [o] := by
  unfold Hart.resumePartial
  cases hv : h.pvec <;> simp [hv, ho]

theorem Hart.resumePartial_long {h : Hart} {l : LongOp} (hl : h.pvec = some l) :
    h.resumePartial.long = some { l with src := h.readGrid, needs := [] } := by
  unfold Hart.resumePartial
  cases h.popa <;> simp [hl]

/-- Nothing resumes where no operation is partial. -/
theorem Hart.resumePartial_of_none {h : Hart} (ho : h.popa = none) (hv : h.pvec = none) : h.resumePartial = h := by
  unfold Hart.resumePartial
  simp [ho, hv]

/-- A return without a partial operation leaves the operations under way and the grid as they are. -/
theorem Hart.leave_of_none {h : Hart} (ho : h.popa = none) (hv : h.pvec = none) :
    h.leave.opas = h.opas ∧ h.leave.long = h.long ∧ h.leave.grid = h.grid := by
  simp [Hart.leave, ho, hv]

/-- What a hart holds of partial operations, and of the loops, when they have resumed and it has returned (R175, R182). -/
def Hart.Resumed (h g : Hart) : Prop :=
  g.loops = h.loops ∧ (∀ o, h.popa = some o → g.opas = h.opas ++ [o]) ∧
    (∀ l, h.pvec = some l → g.long = some { l with src := h.readGrid, needs := [] }) ∧ g.popa = none ∧ g.pvec = none ∧
    (h.popa = none → h.pvec = none → g.grid = h.grid ∧ g.opas = h.opas ∧ g.long = h.long)

theorem Hart.resumePartial_leave_resumed (h : Hart) : h.Resumed h.resumePartial.leave := by
  obtain ⟨hopas, hlong, hgrid⟩ := Hart.leave_of_none h.resumePartial_popa h.resumePartial_pvec
  refine ⟨?_, fun o ho => hopas.trans (Hart.resumePartial_opas ho), fun l hl => hlong.trans (Hart.resumePartial_long hl),
    rfl, rfl, fun ho hv => ?_⟩
  · rw [Hart.resumePartial_eq]
    rfl
  · rw [hgrid, hopas, hlong, Hart.resumePartial_of_none ho hv]
    exact ⟨rfl, rfl, rfl⟩

/-! ### The machine around it -/

/-- A bundle that changes nothing and transfers control: only its hart waits for nothing more, at the target (R172, R230). -/
theorem State.finishBundle_transfer (s : State) (target : Word) :
    let t := ({ s with raised := 0 } : State).finishBundle s.cur s.my.pc (some target) false
    OutsideKept s t ∧ CoreKept s.me t.me ∧
      ∃ n, t.my = { s.my with pc := target, wait := .none, ewait := .none, passed := none, interval := n } := by
  obtain ⟨n, u, heq⟩ := ({ s with raised := 0 } : State).finishBundle_eq s.cur s.my.pc (some target) false
  intro t
  have hme : t.me = { s.me.unblock with
      hart := { s.my with pc := target, wait := .none, ewait := .none, passed := none, interval := n } } := by
    have hcore : t.core s.cur = _ := (congrArg (·.core s.cur) heq).trans (State.core_setCore_same ..)
    rw [State.me, show t.cur = s.cur from State.finishBundle_cur .., hcore, Hart.modCtl_orFlags_zero]
    rfl
  refine ⟨?_, ?_, n, congrArg Core.hart hme⟩
  · show OutsideKept s (State.finishBundle ..)
    rw [heq]
    exact ⟨rfl, rfl, rfl, rfl, rfl, rfl, rfl, rfl, rfl, rfl, rfl, rfl, rfl, rfl, fun k hk => State.core_setCore_ne _ _ hk⟩
  · rw [hme]
    exact coreKept_unblock s.me _

theorem State.me_modMy (s : State) (f : Hart → Hart) : (s.modMy f).me = { s.me with hart := f s.my } :=
  State.core_modMy_cur f rfl

/-- Two changes of a hart are one. -/
theorem State.modHart_modHart (s : State) (k : Nat) (f g : Hart → Hart) :
    (s.modHart k f).modHart k g = s.modHart k fun h => g (f h) := by
  simp [State.modHart, State.modCore, State.setCore_setCore]

theorem OutsideKept.modMy {s t : State} (h : OutsideKept s t) (f : Hart → Hart) : OutsideKept s (t.modMy f) := by
  obtain ⟨hmem, hdies, hflights, habsent, hranges, hharbour, hlink, hptp, hmaster, hkept, hcur, hagenda, hdelay, hcount,
    hcores⟩ := h
  exact ⟨hmem, hdies, hflights, habsent, hranges, hharbour, hlink, hptp, hmaster, hkept, hcur, hagenda, hdelay, hcount,
    fun k hk => (State.core_modHart_ne t f (hcur ▸ hk)).trans (hcores k hk)⟩

theorem CoreKept.modMy {c : Core} {t : State} (h : CoreKept c t.me) (f : Hart → Hart) : CoreKept c (t.modMy f).me := by
  obtain ⟨hcore, hqueue⟩ := h
  rw [State.me_modMy]
  refine ⟨?_, hqueue⟩
  rw [hcore]

/-! ### ERET -/

/-- Fetches made again find loops and partial operations, and may let these resume: a hart that has left the trap stays so
(R188). -/
theorem State.recall_left (s : State) (k area : Nat) (due : List DueTrap) (h : Hart) :
    ∃ f, s.recall k area due = s.modHart k f ∧ ∀ g, h.Left g → h.Left (f g) := by
  unfold State.recall
  refine ⟨_, rfl, fun g hleft => ?_⟩
  refine Hart.Left.resumePartial ?_ _
  exact ⟨hleft.level, hleft.handler, hleft.pc, hleft.x, hleft.ctl, hleft.sup⟩

/-- A trap is left by a change of its hart; where nothing is to be fetched again, that is the return itself. -/
theorem State.leaveTrap_eq (s : State) :
    ∃ f, s.leaveTrap s.cur = s.modMy f ∧ s.my.Left (f s.my) ∧ (s.my.reread = false → f s.my = s.my.resumePartial.leave) := by
  unfold State.leaveTrap
  dsimp only
  split
  next hreread =>
    obtain ⟨f, heq, hf⟩ := State.recall_left
      (s.modMy fun h => { ({ h with popa := none, pvec := none } : Hart).leave with popa := h.popa, pvec := h.pvec })
      s.cur (s.hart s.cur).sup.saveptr.toNat [] s.my
    refine ⟨_, heq.trans (State.modHart_modHart ..), hf _ ⟨rfl, rfl, rfl, rfl, rfl, rfl⟩, fun h => ?_⟩
    exact absurd (hreread.symm.trans h) (by decide)
  next => exact ⟨_, rfl, s.my.resumePartial_leave_left, fun _ => rfl⟩

/-- What ERET leaves with SAVED = 0 (R182). -/
def Returned (s t : State) : Prop := s.my.Left t.my ∧ OutsideKept s t ∧ CoreKept s.me t.me

theorem opEret_trap {s : State} (oc : OpCtx)
    (h : s.my.level = .u ∨ (s.my.level = .s ∧ s.my.sup.trapcause.toNat / 2 ^ 8 % 4 = 2)) : opEret oc s = .trap 0x04 0 := by
  unfold opEret
  rw [if_pos]
  simpa using h

section
variable {s : State} (hlevel : s.my.level ≠ .u) (hprev : s.my.level = .s → s.my.sup.trapcause.toNat / 2 ^ 8 % 4 ≠ 2)
  (hsaved : s.my.sup.trapcause.getLsbD 10 = false)
include hlevel hprev hsaved

/-- ERET with SAVED = 0 where it is allowed: the return, unless a bundle to be fetched again is held up (R182, R188). -/
theorem opEret_unsaved (oc : OpCtx) : opEret oc s =
    if s.my.reread && s.my.recalls.any fun pc => (s.modMy (·.leave)).fetchHeld s.cur pc then .stall
    else .commit { run := id, next := some s.my.sup.trappc, after := fun t => t.leaveTrap t.cur } := by
  have hallowed : ¬ (s.my.level == .u || (s.my.level == .s && s.my.sup.trapcause.toNat / 256 % 4 == 2)) = true := by
    simpa using ⟨hlevel, hprev⟩
  have hunsaved : ¬ s.my.saved = true := by rw [Hart.saved, hsaved]; decide
  unfold opEret
  dsimp only
  rw [if_neg hallowed, if_neg hunsaved]

/-- An ERET that no held fetch stops returns (R182); where nothing is to be fetched again, partial operations resume (R175). -/
theorem eret_returns
    (hfree : (s.my.reread && s.my.recalls.any fun pc => (s.modMy (·.leave)).fetchHeld s.cur pc) = false) :
    Runs .eret s fun t => Returned s t ∧ (s.my.reread = false → s.my.Resumed t.my) := by
  intro hd
  have hop := (opEret_unsaved hlevel hprev hsaved ⟨s.my.pc, 0⟩).trans (if_neg (by simp [hfree]))
  have hexec : exec .eret s = s.runOne .eret opEret := rfl
  refine happens_of_eq (hexec.trans (State.runOne_commit hd (Hart.badRow_nil _) hop)) (State.commitAll_one ..) ?_
  dsimp only [id]
  obtain ⟨hout, hcore, n, hmy⟩ := s.finishBundle_transfer s.my.sup.trappc
  generalize ({ s with raised := 0 } : State).finishBundle s.cur s.my.pc (some s.my.sup.trappc) false = u at *
  obtain ⟨f, heq, hleft, hresumes⟩ := u.leaveTrap_eq
  rw [heq]
  unfold Returned
  rw [State.my_modMy]
  rw [hmy] at hleft hresumes ⊢
  refine ⟨⟨⟨hleft.level, hleft.handler, hleft.pc, hleft.x, hleft.ctl, hleft.sup⟩, hout.modMy f, hcore.modMy f⟩, fun hr => ?_⟩
  rw [hresumes hr]
  exact Hart.resumePartial_leave_resumed _

end

/-- Settles O44: an ERET that is allowed commits or waits, and what it commits is a change of its hart at the boundary. -/
theorem returnFromTrap : Obligations.ReturnFromTrap := by
  unfold Obligations.ReturnFromTrap
  intro s h prev
  have hrows : s.my.badRow (rowSrc s .eret) = none := Hart.badRow_nil _
  refine ⟨fun hdenied => ?denied, fun hlevel hprev hsaved => ?allowed⟩
  case denied => exact traps_of_trap rfl hrows (opEret_trap _ hdenied) (by decide) (by decide)
  case allowed =>
    intro back waits
    have hback : ∀ t, Returned s t → back t := fun t ⟨hleft, hout, hcore⟩ =>
      ⟨hleft.level, hleft.handler, hleft.pc, Hart.rx_congr hleft.x, hleft.ctl, hleft.sup, hout, hcore⟩
    refine ⟨fun hreread => ⟨fun hwaits => ?stalls, fun hfree => ?rereads⟩, fun hreread => ?resumes⟩
    case stalls =>
      refine stalls_of_stall rfl hrows ((opEret_unsaved hlevel hprev hsaved _).trans (if_pos ?_))
      exact Bool.and_eq_true_iff.2 ⟨hreread, hwaits⟩
    case rereads =>
      refine runs_mono (eret_returns hlevel hprev hsaved ?_) fun t ⟨hreturned, _⟩ => hback t hreturned
      exact (congrArg _ hfree).trans (Bool.and_false _)
    case resumes =>
      refine runs_mono (eret_returns hlevel hprev hsaved ?_) fun t ⟨hreturned, hresumed⟩ =>
        ⟨hback t hreturned, hresumed hreread⟩
      exact Bool.and_eq_false_iff.2 (.inl hreread)

end Sys2Proof.Machine
end

section
/-! SUPPORT. A word and its fields (R203 to R211): what the bits of an encoded word read at each place, and the codes of
operands as the fields that they fill. -/

namespace Sys2Proof.Machine

/-! ### A word and its fields -/

/-- A field at bit `lo` lies below bit `n`. -/
def FieldBelow (n lo v : Nat) : Prop := (v + 1) * 2 ^ lo ≤ 2 ^ n

/-- The fields of a word lie below bit `n`, each below the one before it. -/
def FieldsBelow : Nat → List (Nat × Nat) → Prop
  | _, [] => True
  | n, (lo, v) :: fs => FieldBelow n lo v ∧ FieldsBelow lo fs

@[simp] theorem fieldsBelow_nil (n : Nat) : FieldsBelow n [] := trivial

@[simp] theorem fieldsBelow_cons (n lo v : Nat) (fs : List (Nat × Nat)) :
    FieldsBelow n ((lo, v) :: fs) ↔ FieldBelow n lo v ∧ FieldsBelow lo fs := Iff.rfl

@[simp] theorem fieldBelow_toNat {n lo len : Nat} (v : BitVec len) (hn : lo + len ≤ n) : FieldBelow n lo v.toNat :=
  calc (v.toNat + 1) * 2 ^ lo
    _ ≤ 2 ^ len * 2 ^ lo := Nat.mul_le_mul_right _ v.isLt
    _ = 2 ^ (lo + len) := by ring
    _ ≤ 2 ^ n := Nat.pow_le_pow_right two_pos hn

theorem word_eq_add (base : Nat) (fs : List (Nat × Nat)) : word base fs = base + word 0 fs := by
  induction fs with
  | nil => rfl
  | cons f fs ih => rw [word, word, ih, Nat.add_assoc]

theorem word_lt_of_fieldsBelow {n : Nat} {fs : List (Nat × Nat)} (hfs : FieldsBelow n fs) : word 0 fs < 2 ^ n := by
  induction fs generalizing n with
  | nil => exact Nat.two_pow_pos n
  | cons f fs ih =>
    obtain ⟨hf, hfs⟩ := hfs
    calc word 0 fs + f.2 * 2 ^ f.1
      _ < 2 ^ f.1 + f.2 * 2 ^ f.1 := Nat.add_lt_add_right (ih hfs) _
      _ = (f.2 + 1) * 2 ^ f.1 := by ring
      _ ≤ 2 ^ n := hf

/-- What lies above the fields is read from the opcode. -/
theorem bits_word_above {base lo n : Nat} (len : Nat) {fs : List (Nat × Nat)} (hfs : FieldsBelow lo fs)
    (hbase : base % 2 ^ lo = 0) (hn : lo ≤ n) : bits (word base fs) n len = bits base n len := by
  obtain ⟨c, rfl⟩ := Nat.dvd_of_mod_eq_zero hbase
  obtain ⟨k, rfl⟩ := Nat.exists_eq_add_of_le hn
  simp only [bits, pow_add, ← Nat.div_div_eq_div_mul]
  rw [word_eq_add, Nat.mul_add_div (Nat.two_pow_pos lo), Nat.div_eq_of_lt (word_lt_of_fieldsBelow hfs), Nat.add_zero,
    Nat.mul_div_cancel_left _ (Nat.two_pow_pos lo)]

/-- A field does not depend on those above it. -/
@[simp] theorem bits_word_below {base lo len n v : Nat} {fs : List (Nat × Nat)} (hn : lo + len ≤ n) :
    bits (word base ((n, v) :: fs)) lo len = bits (word base fs) lo len := by
  obtain ⟨k, rfl⟩ := Nat.exists_eq_add_of_le hn
  rw [bits, bits, word, show v * 2 ^ (lo + len + k) = 2 ^ lo * (2 ^ len * (v * 2 ^ k)) by ring,
    Nat.add_mul_div_left _ _ (Nat.two_pow_pos lo), Nat.add_mul_mod_self_left]

/-- A field above all others reads zero. -/
theorem bits_word_gap {base lo len : Nat} {fs : List (Nat × Nat)} (hfs : FieldsBelow lo fs)
    (hbase : base % 2 ^ (lo + len) = 0) : bits (word base fs) lo len = 0 := by
  obtain ⟨c, rfl⟩ := Nat.dvd_of_mod_eq_zero hbase
  rw [bits, word_eq_add, pow_add, Nat.mul_assoc, Nat.mul_add_div (Nat.two_pow_pos lo),
    Nat.div_eq_of_lt (word_lt_of_fieldsBelow hfs), Nat.add_zero, Nat.mul_mod_right]

/-- The highest field reads its value. -/
@[simp] theorem bits_word_at {base lo len : Nat} (v : BitVec len) {fs : List (Nat × Nat)} (hfs : FieldsBelow lo fs)
    (hbase : base % 2 ^ (lo + len) = 0) : bits (word base ((lo, v.toNat) :: fs)) lo len = v.toNat := by
  obtain ⟨c, rfl⟩ := Nat.dvd_of_mod_eq_zero hbase
  rw [bits, word_eq_add, word, pow_add, Nat.mul_assoc, Nat.mul_add_div (Nat.two_pow_pos lo),
    Nat.add_mul_div_right _ _ (Nat.two_pow_pos lo), Nat.div_eq_of_lt (word_lt_of_fieldsBelow hfs), Nat.zero_add, Nat.mul_add_mod,
    Nat.mod_eq_of_lt v.isLt]

/-! ### The codes of operands as fields -/

/-- The low bits of an immediate that the extension byte continues (R200). -/
def immField {n : Nat} (imm : BitVec (n + 8)) : BitVec n := imm.setWidth n

/-- The code of a view as a field (R209). -/
def viewField (w : View) : BitVec 2 := .ofNat 2 (viewCode w)

/-- The code of a space as a field (R205). -/
def spaceField (p : Space) : BitVec 2 := .ofNat 2 (spaceCode p)

/-- The code of an atomic's sub-operation as a field (R205). -/
def amoField (op : AmoOp) : BitVec 4 := .ofNat 4 (amoCode op)

/-- The code of an atomic's ordering as a field (R205). -/
def ordField (o : AmoOrd) : BitVec 2 := .ofNat 2 (ordCode o)

/-- The code of a scope as a field (R104). -/
def scopeField (s : Scope) : BitVec 3 := .ofNat 3 (scopeCode s)

/-- The mask-enable bit as a field (R209). -/
def maskField (m : MaskUse) : BitVec 1 := .ofNat 1 (maskBit m)

theorem toNat_mod_eq_immField {n : Nat} (imm : BitVec (n + 8)) : imm.toNat % 2 ^ n = (immField imm).toNat :=
  (BitVec.toNat_setWidth ..).symm

/-! The same for the field widths of R200, as `simp` writes the powers of two. -/

@[simp] theorem toNat_mod_512 (imm : BitVec 17) : imm.toNat % 512 = (immField (n := 9) imm).toNat :=
  toNat_mod_eq_immField imm

@[simp] theorem toNat_mod_4096 (imm : BitVec 20) : imm.toNat % 4096 = (immField (n := 12) imm).toNat :=
  toNat_mod_eq_immField imm

@[simp] theorem toNat_mod_8192 (imm : BitVec 21) : imm.toNat % 8192 = (immField (n := 13) imm).toNat :=
  toNat_mod_eq_immField imm

@[simp] theorem toNat_mod_32768 (imm : BitVec 23) : imm.toNat % 32768 = (immField (n := 15) imm).toNat :=
  toNat_mod_eq_immField imm

@[simp] theorem toNat_mod_1048576 (imm : BitVec 28) : imm.toNat % 1048576 = (immField (n := 20) imm).toNat :=
  toNat_mod_eq_immField imm


@[simp] theorem viewCode_eq_field (w : View) : viewCode w = (viewField w).toNat := by cases w <;> rfl
@[simp] theorem spaceCode_eq_field (p : Space) : spaceCode p = (spaceField p).toNat := by cases p <;> rfl
@[simp] theorem amoCode_eq_field (op : AmoOp) : amoCode op = (amoField op).toNat := by cases op <;> rfl
@[simp] theorem ordCode_eq_field (o : AmoOrd) : ordCode o = (ordField o).toNat := by cases o <;> rfl
@[simp] theorem scopeCode_eq_field (s : Scope) : scopeCode s = (scopeField s).toNat := by cases s <;> rfl
@[simp] theorem maskBit_eq_field (m : MaskUse) : maskBit m = (maskField m).toNat := by cases m <;> rfl

@[simp] theorem viewOf_viewField (w : View) : viewOf (viewField w).toNat = .ok w := by cases w <;> rfl
@[simp] theorem spaceOf_spaceField (p : Space) : spaceOf (spaceField p).toNat = .ok p := by cases p <;> rfl
@[simp] theorem amoOf_amoField (op : AmoOp) : amoOf (amoField op).toNat = .ok op := by cases op <;> rfl
@[simp] theorem ordOf_ordField (o : AmoOrd) : ordOf (ordField o).toNat = .ok o := by cases o <;> rfl
@[simp] theorem scopeOf_scopeField (s : Scope) : scopeOf (scopeField s).toNat = .ok s := by cases s <;> rfl

end Sys2Proof.Machine
end

section
/-! SUPPORT. The header, the extension byte and the mask of an encoded operation (R199, R200). -/

namespace Sys2Proof.Machine

/-! ### What the header adds (R199, R200) -/

theorem extOf_of_header {i : Instr} (h : needsHeader i = true) : extOf i = some (headerMask i, encodeExt i) := by
  rw [extOf, if_pos h]

theorem extOf_of_noHeader {i : Instr} (h : needsHeader i = false) : extOf i = none := by
  rw [extOf, h]
  rfl

/-- Without a header the immediate fits its field. -/
theorem immFits_of_noHeader {i : Instr} (h : needsHeader i = false) : immFits i = true := by
  simp only [needsHeader, Bool.or_eq_false_iff, Bool.not_eq_false'] at h
  exact h.1

/-- The byte and the field together are the immediate. -/
theorem ofNat_ext_field {n : Nat} (imm : BitVec (n + 8)) :
    BitVec.ofNat (n + 8) (imm.toNat / 2 ^ n * 2 ^ n + (immField imm).toNat) = imm := by
  rw [← toNat_mod_eq_immField, Nat.div_add_mod', BitVec.ofNat_toNat, BitVec.setWidth_eq]

theorem immS_extOf {i : Instr} {n : Nat} {imm : BitVec (n + 8)} (hfit : immFits i = fitsS n imm)
    (hext : encodeExt i = imm.toNat / 2 ^ n) : immS (extOf i) n (immField imm).toNat = imm := by
  cases hh : needsHeader i with
  | true =>
    rw [extOf_of_header hh, immS, hext]
    exact ofNat_ext_field imm
  | false =>
    have hfits : fitsS n imm = true := hfit ▸ immFits_of_noHeader hh
    rw [extOf_of_noHeader hh, immS, BitVec.ofNat_toNat, BitVec.setWidth_eq]
    exact eq_of_beq hfits

theorem immU_extOf {i : Instr} {n : Nat} {imm : BitVec (n + 8)} (hfit : immFits i = fitsU n imm)
    (hext : encodeExt i = imm.toNat / 2 ^ n) : immU (extOf i) n (immField imm).toNat = imm := by
  cases hh : needsHeader i with
  | true =>
    rw [extOf_of_header hh, immU, hext]
    exact ofNat_ext_field imm
  | false =>
    have hfits : fitsU n imm = true := hfit ▸ immFits_of_noHeader hh
    have hhigh : imm.toNat / 2 ^ n = 0 := eq_of_beq hfits
    have himm := ofNat_ext_field imm
    rw [hhigh, Nat.zero_mul, Nat.zero_add] at himm
    rw [extOf_of_noHeader hh, immU, himm]

/-- The mask bit and the header say which mask an operation has, unless its mask is MSEL's and its immediate needs a header. -/
theorem maskOf_extOf {i : Instr} {m : MaskUse} (hmask : maskUse i = m) (hfit : m = .msel → immFits i = true) :
    maskOf (extOf i) (maskField m).toNat = m := by
  cases m with
  | off => rfl
  | msel =>
    have hh : needsHeader i = false := by simp [needsHeader, hmask, hfit rfl]
    rw [extOf_of_noHeader hh]
    rfl
  | hdr k =>
    have hh : needsHeader i = true := by simp [needsHeader, hmask]
    have hk : headerMask i = k := by simp [headerMask, hmask]
    rw [extOf_of_header hh, hk]
    rfl

end Sys2Proof.Machine
end

section
/-! SUPPORT. The classes of slots (R198), the decoder of each class, and the forms of the decoders' arms (R202 to R211). -/

namespace Sys2Proof.Machine

/-- The class of slots in which an operation stands (R198); none for NOP, whose slot is zero, and for the steps of other agents. -/
inductive SlotClass where
  | sa | sc | m | e | v | g | y | none

/-- The class that the top bits of an operation's word name: its decoder reads the word back (`readsBack`). -/
def slotClass : Instr → SlotClass
  | .add .. | .sub .. | .and .. | .or .. | .xor .. | .sll .. | .srl .. | .sra .. | .slt .. | .sltu .. | .min .. | .max ..
  | .minu .. | .maxu .. | .csel .. | .mul .. | .mulh .. | .mulhu .. | .div .. | .divu .. | .rem .. | .remu .. | .add32 ..
  | .clz .. | .ctz .. | .popc .. | .fshl .. | .fshr .. | .bext .. | .bins .. | .sext .. | .addi .. | .andi .. | .ori ..
  | .xori .. | .slli .. | .srli .. | .srai .. | .slti .. | .sltiu .. | .lui .. | .addpc .. | .fadd .. | .fsub .. | .fmul ..
  | .fdiv .. | .fsqrt .. | .fmin .. | .fmax .. | .fma .. | .fcvtif .. | .fcvtfi .. | .feq .. | .flt .. | .fle ..
  | .fclass .. | .fcvtbf .. | .fcvtfb .. => .sa
  | .beq .. | .bne .. | .blt .. | .bge .. | .bltu .. | .bgeu .. | .jal .. | .jalr .. | .loop .. | .vloop .. | .setvl ..
  | .getc .. | .setc .. | .setci .. => .sc
  | .ldb .. | .ldbu .. | .ldh .. | .ldhu .. | .ldw .. | .ldwu .. | .ldd .. | .stb .. | .sth .. | .stw .. | .std ..
  | .ldnb .. | .stva .. | .amo .. | .amos .. | .fence .. | .vld .. | .vlds .. | .vldx .. | .vst .. | .vsts .. | .vstx ..
  | .vstb .. | .vldc .. | .vspill .. | .vfill .. | .vstva .. => .m
  | .sbind .. | .sunbind .. | .sstat .. | .sskip .. | .sflush .. | .cpy .. | .cpyw .. | .cpyq .. | .cpyx .. | .rgprobe ..
  | .rgsplit .. | .rgmerge .. | .rginv .. | .rgtouch .. | .rgmove .. | .time .. | .twait .. | .tstat .. | .gbar ..
  | .jpost .. | .jyield | .jdone | .jwait .. | .jdec .. | .waita .. | .capq .. | .capr .. => .e
  | .vadd .. | .vsub .. | .vmul .. | .vfma .. | .vfms .. | .vmin .. | .vmax .. | .vabs .. | .vneg .. | .vdiv .. | .vand ..
  | .vor .. | .vxor .. | .vnot .. | .vsll .. | .vsrl .. | .vsra .. | .vfshl .. | .vfshr .. | .vcmp .. | .vsel .. | .vmv ..
  | .vbcast .. | .vadds .. | .vmuls .. | .vfmas .. | .vid .. | .vcvt .. | .vqnt .. | .vhad .. | .vsfu .. | .vredsum ..
  | .vredmax .. | .vredmin .. | .vredamax .. | .vsegsum .. | .vsegscan .. | .vscan .. | .vslideup .. | .vslidedn ..
  | .vperm .. | .vunpk .. | .vpack .. | .vlut .. | .vexpand .. | .vcompress .. | .vsparse .. | .vpop .. | .vpush ..
  | .vmand .. | .vmor .. | .vmxor .. | .vmnot .. | .vmpopc .. | .vmfirst .. | .vmfrom .. | .vmto .. | .vext .. | .vnrw ..
  | .vpopc .. | .vshrr .. | .vmulh .. | .vclz .. => .v
  | .tshape .. | .opa .. | .opz .. | .gmov .. | .gtrn .. | .gstat .. | .gsave .. | .gload .. | .gdirty .. | .gclr .. => .g
  | .svc .. | .brk .. | .eret | .wfi | .rcflush | .keysel .. | .halt | .errlog .. => .y
  | _ => .none

/-! ### The decoder of each class -/

theorem ne_zero_of_bits {w lo len c : Nat} (h : bits w lo len = c) (hc : c ≠ 0) : w ≠ 0 := by
  rintro rfl
  exact hc (h.symm.trans (by simp [bits]))

section
variable {x : Ext} {w : Nat}

theorem decodeWord_of_sa (h : bits w 29 3 = 0) (hop : bits w 22 7 ≠ 0) : decodeWord x w = decodeSA x w := by
  rw [decodeWord, if_neg (ne_zero_of_bits rfl hop), h]
  exact if_neg hop

theorem decodeWord_of_sc (h : bits w 29 3 = 1) : decodeWord x w = decodeSC x w := by
  rw [decodeWord, if_neg (ne_zero_of_bits h (by decide)), h]
  rfl

theorem decodeWord_of_m (h : bits w 29 3 = 2) : decodeWord x w = decodeM x w := by
  rw [decodeWord, if_neg (ne_zero_of_bits h (by decide)), h]
  rfl

theorem decodeWord_of_e (h : bits w 29 3 = 3) : decodeWord x w = decodeE x w := by
  rw [decodeWord, if_neg (ne_zero_of_bits h (by decide)), h]
  rfl

theorem decodeWord_of_v (h : bits w 30 2 = 2) : decodeWord x w = decodeV x w := by
  have hclass : bits w 29 3 = 4 ∨ bits w 29 3 = 5 := by
    simp only [bits] at h ⊢
    omega
  rw [decodeWord, if_neg (ne_zero_of_bits h (by decide))]
  rcases hclass with h | h
  · rw [h]
    rfl
  · rw [h]
    rfl

theorem decodeWord_of_g (h : bits w 29 3 = 6) : decodeWord x w = decodeG x w := by
  rw [decodeWord, if_neg (ne_zero_of_bits h (by decide)), h]
  rfl

theorem decodeWord_of_y (h : bits w 29 3 = 7) (hheader : bits w 28 1 = 0) : decodeWord x w = decodeY x w := by
  rw [decodeWord, if_neg (ne_zero_of_bits h (by decide)), h]
  exact if_pos hheader

end

/-! ### The forms of the decoders' arms -/

theorem zeros_eq {zs : List Nat} {i j : Instr} (hz : ∀ z ∈ zs, z = 0) (hi : i = j) : zeros zs i = .ok j := by
  rw [zeros, if_pos (by simpa using hz), hi]

theorem viewOf_bind {c : Nat} {w : View} {f : View → Except BadEncoding Instr} {i : Instr} (hc : c = (viewField w).toNat)
    (hf : f w = .ok i) : (viewOf c).bind f = .ok i := by
  rw [hc, viewOf_viewField]
  exact hf

theorem spaceOf_bind {c : Nat} {p : Space} {f : Space → Except BadEncoding Instr} {i : Instr} (hc : c = (spaceField p).toNat)
    (hf : f p = .ok i) : (spaceOf c).bind f = .ok i := by
  rw [hc, spaceOf_spaceField]
  exact hf

theorem viewRow_eq {c : Nat} {r : Except BadEncoding Instr} {i : Instr} (hc : c = 0) (hr : r = .ok i) : viewRow c r = .ok i :=
  (if_pos hc).trans hr

theorem spaceIs_eq {c want : Nat} {r : Except BadEncoding Instr} {i : Instr} (hc : c = want) (hr : r = .ok i) :
    spaceIs c want r = .ok i :=
  (if_pos hc).trans hr

theorem amoWidth_eq {op : AmoOp} {w : BitVec 1} {c : Nat} {r : Except BadEncoding Instr} {i : Instr} (h : amoWidthOk op w = true)
    (hc : c = w.toNat) (hr : r = .ok i) : amoWidth c op r = .ok i := by
  have hwidth : ¬(op = .fadd ∧ c = 1) := by
    rintro ⟨rfl, rfl⟩
    obtain rfl : w = 0 := by simpa [amoWidthOk] using h
    exact absurd hc (by decide)
  exact (if_neg hwidth).trans hr

theorem amo_bind {cop cord csc : Nat} {op : AmoOp} {ord : AmoOrd} {sc : Scope}
    {f : AmoOp → AmoOrd → Scope → Except BadEncoding Instr} {i : Instr} (hop : cop = (amoField op).toNat)
    (hord : cord = (ordField ord).toNat) (hsc : csc = (scopeField sc).toNat) (hf : f op ord sc = .ok i) :
    ((amoOf cop).bind fun op => (ordOf cord).bind fun ord => (scopeOf csc).bind fun sc => f op ord sc) = .ok i := by
  rw [hop, hord, hsc, amoOf_amoField, ordOf_ordField, scopeOf_scopeField]
  exact hf

theorem scopeOf_bind {c : Nat} {sc : Scope} {f : Scope → Except BadEncoding Instr} {i : Instr} (hc : c = (scopeField sc).toNat)
    (hf : f sc = .ok i) : (scopeOf c).bind f = .ok i := by
  rw [hc, scopeOf_scopeField]
  exact hf

/-- An immediate that stands beside MSEL's mask needs no header. -/
theorem immFits_of_mselFits {imm : BitVec 17} {m : MaskUse} (h : mselFits imm m = true) (hm : m = .msel) :
    fitsS 9 imm = true := by
  subst hm
  simpa [mselFits, fitsS] using h

end Sys2Proof.Machine
end

section
/-! SUPPORT. Every well-formed operation is read back from its word (R198 to R211). In each class the opcode selects the decoder's
arm, and `simp` reads each field of the arm from the word; it leaves the immediate and the mask, which the header completes. -/

namespace Sys2Proof.Machine

/-- The word of an operation fits a slot and decodes to the operation. -/
structure ReadsBack (i : Instr) : Prop where
  word_lt : encodeWord i < 2 ^ 32
  decodes : decodeWord (extOf i) (encodeWord i) = .ok i

/-- An operation reads back when its fields lie below its opcode, and the decoder, which finds the opcode's bits above them, answers
with it. -/
theorem readsBack_of_fields {i : Instr} {base : Nat} {fs : List (Nat × Nat)} (lo : Nat) (hword : encodeWord i = word base fs)
    (hfs : FieldsBelow lo fs) (hbase : base % 2 ^ lo = 0) (hlt : base < 2 ^ 32) (hlo : lo ≤ 32)
    (hread : ∀ w, w = word base fs → (∀ n len, lo ≤ n → bits w n len = bits base n len) →
      decodeWord (extOf i) w = .ok i) : ReadsBack i := by
  refine ⟨?_, hread _ hword fun n len hn => hword ▸ bits_word_above len hfs hbase hn⟩
  obtain ⟨c, rfl⟩ := Nat.dvd_of_mod_eq_zero hbase
  obtain ⟨k, hk⟩ := Nat.exists_eq_add_of_le hlo
  rw [hk, pow_add] at hlt ⊢
  have hc : c + 1 ≤ 2 ^ k := Nat.lt_of_mul_lt_mul_left hlt
  calc encodeWord i
    _ = 2 ^ lo * c + word 0 fs := hword.trans (word_eq_add ..)
    _ < 2 ^ lo * c + 2 ^ lo := Nat.add_lt_add_left (word_lt_of_fieldsBelow hfs) _
    _ = 2 ^ lo * (c + 1) := by ring
    _ ≤ 2 ^ lo * 2 ^ k := Nat.mul_le_mul_left _ hc

theorem readsBack_sa {i : Instr} (hclass : slotClass i = .sa) : ReadsBack i := by
  cases i <;> try contradiction
  all_goals
    refine readsBack_of_fields 22 rfl (by simp) rfl (by decide) (by decide) fun w hw hop => ?_
    rw [decodeWord_of_sa (hop 29 3 (by decide)) (hop 22 7 (by decide) ▸ by decide), decodeSA, hop 22 7 (by decide)]
    refine zeros_eq (by simp [hw, bits_word_gap]) ?_
    simp [hw]
  all_goals exact immS_extOf rfl rfl

theorem readsBack_sc {i : Instr} (hclass : slotClass i = .sc) : ReadsBack i := by
  cases i <;> try contradiction
  all_goals
    refine readsBack_of_fields 25 rfl (by simp) rfl (by decide) (by decide) fun w hw hop => ?_
    rw [decodeWord_of_sc (hop 29 3 (by decide)), decodeSC, hop 25 4 (by decide)]
    refine zeros_eq (by simp [hw, bits_word_gap]) ?_
    simp [hw]
  case loop | vloop | setci => exact immU_extOf rfl rfl
  all_goals exact immS_extOf rfl rfl

theorem readsBack_m {i : Instr} (hwf : i.wf = true) (hclass : slotClass i = .m) : ReadsBack i := by
  cases i <;> try contradiction
  case amo | amos =>
    refine readsBack_of_fields 22 rfl (by simp) rfl (by decide) (by decide) fun w hw hop => ?_
    rw [decodeWord_of_m (hop 29 3 (by decide)), decodeM, hop 24 5 (by decide)]
    refine spaceIs_eq (hop 22 2 (by decide)) ?_
    refine amo_bind (op := ‹AmoOp›) (ord := ‹AmoOrd›) (sc := ‹Scope›) (by simp [hw]) (by simp [hw]) (by simp [hw]) ?_
    refine amoWidth_eq hwf (by simp [hw]) (zeros_eq (by simp [hw, bits_word_gap]) ?_)
    simp [hw]
  all_goals
    refine readsBack_of_fields 24 rfl (by simp) rfl (by decide) (by decide) fun w hw hop => ?_
    rw [decodeWord_of_m (hop 29 3 (by decide)), decodeM, hop 24 5 (by decide)]
  case ldnb | stva =>
    refine spaceIs_eq (by simp [hw, bits_word_gap]) (zeros_eq (by simp [hw, bits_word_gap]) ?_)
    simp [hw]
  case vstva =>
    refine spaceIs_eq (by simp [hw, bits_word_gap]) (zeros_eq (by simp [hw, bits_word_gap]) ?_)
    simp [hw]
    exact maskOf_extOf rfl fun _ => rfl
  case fence =>
    refine scopeOf_bind (sc := ‹Scope›) (by simp [hw]) (zeros_eq (by simp [hw, bits_word_gap]) ?_)
    simp [hw]
  all_goals
    refine spaceOf_bind (p := ‹Space›) (by simp [hw]) (zeros_eq (by simp [hw, bits_word_gap]) ?_)
    simp [hw]
  case vld | vst => exact ⟨immS_extOf rfl rfl, maskOf_extOf rfl (immFits_of_mselFits hwf)⟩
  case vlds | vldx | vsts | vstx => exact maskOf_extOf rfl fun _ => rfl
  all_goals exact immS_extOf rfl rfl

theorem readsBack_e {i : Instr} (hclass : slotClass i = .e) : ReadsBack i := by
  cases i <;> try contradiction
  all_goals
    refine readsBack_of_fields 23 rfl (by simp) rfl (by decide) (by decide) fun w hw hop => ?_
    rw [decodeWord_of_e (hop 29 3 (by decide)), decodeE, hop 23 6 (by decide)]
    refine zeros_eq (by simp [hw, bits_word_gap]) ?_
    simp [hw]

theorem readsBack_v {i : Instr} (hclass : slotClass i = .v) : ReadsBack i := by
  cases i <;> try contradiction
  all_goals
    refine readsBack_of_fields 24 rfl (by simp) rfl (by decide) (by decide) fun w hw hop => ?_
    rw [decodeWord_of_v (hop 30 2 (by decide)), decodeV, hop 24 6 (by decide)]
  case vmand | vmor | vmxor | vmnot | vmpopc | vmfirst =>
    refine viewRow_eq (by simp [hw, bits_word_gap]) (zeros_eq (by simp [hw, bits_word_gap]) ?_)
    simp [hw]
  case vpush =>
    refine viewRow_eq (by simp [hw, bits_word_gap]) (zeros_eq (by simp [hw, bits_word_gap]) ?_)
    simp [hw]
    exact maskOf_extOf rfl fun _ => rfl
  all_goals
    refine viewOf_bind (w := ‹View›) (by simp [hw]) (zeros_eq (by simp [hw, bits_word_gap]) ?_)
    simp [hw]
    exact maskOf_extOf rfl fun _ => rfl

theorem readsBack_g {i : Instr} (hclass : slotClass i = .g) : ReadsBack i := by
  cases i <;> try contradiction
  all_goals
    refine readsBack_of_fields 24 rfl (by simp) rfl (by decide) (by decide) fun w hw hop => ?_
    rw [decodeWord_of_g (hop 29 3 (by decide)), decodeG, hop 24 5 (by decide)]
    refine zeros_eq (by simp [hw, bits_word_gap]) ?_
    simp [hw]

theorem readsBack_y {i : Instr} (hclass : slotClass i = .y) : ReadsBack i := by
  cases i <;> try contradiction
  all_goals
    refine readsBack_of_fields 22 rfl (by simp) rfl (by decide) (by decide) fun w hw hop => ?_
    rw [decodeWord_of_y (hop 29 3 (by decide)) (hop 28 1 (by decide)), decodeY, hop 22 6 (by decide)]
    refine zeros_eq (by simp [hw, bits_word_gap]) ?_
    simp [hw]

theorem slotClass_eq_none {i : Instr} (hstep : i.isStep = false) (hclass : slotClass i = .none) : i = .nop := by
  cases i <;> try contradiction
  rfl

/-- Every well-formed operation is read back from its word. -/
theorem readsBack {i : Instr} (hwf : i.wf = true) (hstep : i.isStep = false) : ReadsBack i := by
  cases hclass : slotClass i with
  | sa => exact readsBack_sa hclass
  | sc => exact readsBack_sc hclass
  | m => exact readsBack_m hwf hclass
  | e => exact readsBack_e hclass
  | v => exact readsBack_v hclass
  | g => exact readsBack_g hclass
  | y => exact readsBack_y hclass
  | none =>
    obtain rfl := slotClass_eq_none hstep hclass
    exact ⟨by decide, rfl⟩

end Sys2Proof.Machine
end

section
/-! SUPPORT. A bundle of one operation (R197 to R199, R214). Settles O48 and O49. -/

namespace Sys2Proof.Machine

theorem encodeExt_lt (i : Instr) : encodeExt i < 2 ^ 8 := by
  unfold encodeExt
  split <;> omega

/-- A nonzero extension byte stands over an extensible immediate (R199, R200). -/
theorem encodeExt_eq_zero_or (i : Instr) : encodeExt i = 0 ∨ extensible i = true := by
  unfold encodeExt
  split
  all_goals simp [extensible]

/-- A header's word in slot 0 is no operation (R198). -/
theorem decodeWord_of_header {x : Ext} {w : Nat} (h : bits w 28 4 = 15) : decodeWord x w = .error .headerSlot := by
  have hclass : bits w 29 3 = 7 := by
    simp only [bits] at h ⊢
    omega
  have hheader : bits w 28 1 ≠ 0 := by
    simp only [bits] at h ⊢
    omega
  rw [decodeWord, if_neg (ne_zero_of_bits hclass (by decide)), hclass]
  exact if_neg hheader

/-! ### Slots -/

theorem decodeSlot_encodeWord {i : Instr} (h : ReadsBack i) : decodeSlot (extOf i) (encodeWord i) = .ok i := by
  rw [decodeSlot, h.decodes]
  cases hh : needsHeader i with
  | true =>
    rw [extOf_of_header hh]
    exact if_pos (encodeExt_eq_zero_or i)
  | false =>
    rw [extOf_of_noHeader hh]

theorem decodeSlots_nops {b : Nat} {x : Nat → Ext} {is : List Nat}
    (h : ∀ j ∈ is, decodeSlot (x j) (slotWord b j) = .ok .nop) : decodeSlots b x is = .ok [] := by
  induction is with
  | nil => rfl
  | cons j is ih =>
    simp only [decodeSlots, h j List.mem_cons_self, ih fun k hk => h k (List.mem_cons_of_mem j hk), if_true]

/-- One operation in the first of the slots, and NOPs in the others. -/
theorem decodeSlots_one {b j : Nat} {x : Nat → Ext} {is : List Nat} {i : Instr} (hi : decodeSlot (x j) (slotWord b j) = .ok i)
    (h : ∀ k ∈ is, decodeSlot (x k) (slotWord b k) = .ok .nop) :
    decodeSlots b x (j :: is) = .ok (if i = .nop then [] else [(j, i)]) := by
  simp only [decodeSlots, hi, decodeSlots_nops h]

/-! ### Bundles of one operation -/

theorem slotWord_eq_zero {b n j : Nat} (hb : b < 2 ^ (32 * n)) (hj : n ≤ j) : slotWord b j = 0 := by
  have hlt : b < 2 ^ (32 * j) := hb.trans_le (Nat.pow_le_pow_right two_pos (Nat.mul_le_mul_left 32 hj))
  rw [slotWord, bits, Nat.div_eq_of_lt hlt, Nat.zero_mod]

theorem decodeBundle_encode_of_noHeader {i : Instr} (h : ReadsBack i) (hh : needsHeader i = false) :
    decodeBundle (encode i) = .ok ⟨false, if i = .nop then [] else [(0, i)]⟩ := by
  have hslot := decodeSlot_encodeWord h
  have hlt := h.word_lt
  have hheader : ¬bits (encodeWord i) 28 4 = 15 := fun hbits =>
    absurd ((decodeWord_of_header hbits).symm.trans h.decodes) (by simp)
  have hfirst : slotWord (encodeWord i) 0 = encodeWord i := by
    simp only [slotWord, bits]
    omega
  have hrest : ∀ j ∈ [1, 2, 3], decodeSlot none (slotWord (encodeWord i) j) = .ok .nop := fun j hj => by
    rw [slotWord_eq_zero (n := 1) hlt (List.forall_mem_cons.2 ⟨le_rfl, by decide⟩ j hj)]
    rfl
  rw [extOf_of_noHeader hh] at hslot
  rw [encode, hh, if_neg Bool.false_ne_true, decodeBundle, if_neg hheader, decodeSlots_one (hfirst.symm ▸ hslot) hrest]

/-- The words of a bundle that holds an operation in slot 1 under its header, and the header's fields (R197, R199). -/
theorem bits_header {i : Instr} {b w : Nat} (hb : b = headerWord i + w * 2 ^ 32) (hw : w < 2 ^ 32) :
    bits b 28 4 = 15 ∧ bits b 25 3 = (headerMask i).toNat ∧ bits b 24 1 = 0 ∧ bits b 0 8 = encodeExt i ∧ bits b 8 8 = 0 ∧
      bits b 16 8 = 0 ∧ slotWord b 1 = w ∧ ∀ j, 2 ≤ j → slotWord b j = 0 := by
  have hext := encodeExt_lt i
  have hmask := (headerMask i).isLt
  rw [headerWord] at hb
  have hlt : b < 2 ^ (32 * 2) := by omega
  refine ⟨?_, ?_, ?_, ?_, ?_, ?_, ?_, fun j => slotWord_eq_zero hlt⟩
  all_goals
    simp only [slotWord, bits]
    omega

theorem extensionBad_of_ok {x : Ext} {w : Nat} {i : Instr} (h : decodeSlot x w = .ok i) : extensionBad x w = false := by
  rw [extensionBad, h]

/-- A bundle with a header whose slots are all good (R199). -/
theorem decodeBundle_of_header {b : Nat} {k : MReg} {i : Instr} (hheader : bits b 28 4 = 15) (hmask : bits b 25 3 = k.toNat)
    (hzero : bits b 24 1 = 0) (hone : decodeSlot (some (k, bits b 0 8)) (slotWord b 1) = .ok i)
    (htwo : decodeSlot (some (k, bits b 8 8)) (slotWord b 2) = .ok .nop)
    (hthree : decodeSlot (some (k, bits b 16 8)) (slotWord b 3) = .ok .nop) :
    decodeBundle b = .ok ⟨true, if i = .nop then [] else [(1, i)]⟩ := by
  have hgood : ([1, 2, 3].any fun j => extensionBad (some (k, bits b (8 * (j - 1)) 8)) (slotWord b j)) = false := by
    simp [extensionBad_of_ok hone, extensionBad_of_ok htwo, extensionBad_of_ok hthree]
  have hrest : ∀ j ∈ [2, 3], decodeSlot (some (k, bits b (8 * (j - 1)) 8)) (slotWord b j) = .ok .nop := by
    simp [htwo, hthree]
  have hk : BitVec.ofNat 3 (bits b 25 3) = k := by rw [hmask, BitVec.ofNat_toNat, BitVec.setWidth_eq]
  rw [decodeBundle, if_pos hheader, hk, if_neg (by simp [hzero]), if_neg (by simp [hgood]),
    decodeSlots_one (j := 1) hone hrest]

theorem decodeBundle_encode_of_header {i : Instr} (h : ReadsBack i) (hh : needsHeader i = true) :
    decodeBundle (encode i) = .ok ⟨true, if i = .nop then [] else [(1, i)]⟩ := by
  have hslot := decodeSlot_encodeWord h
  rw [extOf_of_header hh] at hslot
  rw [encode, if_pos hh]
  obtain ⟨hheader, hmask, hzero, hone, htwo, hthree, hfirst, hrest⟩ := bits_header (i := i) rfl h.word_lt
  refine decodeBundle_of_header hheader hmask hzero ?_ ?_ ?_
  · rw [hone, hfirst, hslot]
  · rw [htwo, hrest 2 le_rfl]
    rfl
  · rw [hthree, hrest 3 (by decide)]
    rfl

/-- Settles O49: every operation is read back from its word, and its slot is the one in its bundle that is not a NOP. -/
theorem encodeThenDecode : Obligations.EncodeThenDecode := by
  unfold Obligations.EncodeThenDecode
  intro i hwf hstep
  have hread := readsBack hwf hstep
  cases hh : needsHeader i with
  | true => exact decodeBundle_encode_of_header hread hh
  | false => exact decodeBundle_encode_of_noHeader hread hh

/-- Settles O48: the decoder evaluated on each word. -/
theorem decodedWords : Obligations.DecodedWords := by
  unfold Obligations.DecodedWords
  decide

end Sys2Proof.Machine
end

section
/-! SUPPORT. A bundle of one operation that commits: what its end leaves as the operation has made it, and what follows (R172,
R233). -/

namespace Sys2Proof.Machine

/-- A bundle of one operation commits what its operation does to a state in which no flag has been raised (R172). -/
theorem State.runOne_congr {s : State} {i : Instr} {op : Op} {c d : Commit} (hr : s.my.badRow (rowSrc s i) = none)
    (ho : op ⟨s.my.pc, 0⟩ s = .commit c) (hcd : s.commitAll [c] = s.commitAll [d]) :
    s.runOne i op = s.runOne i fun _ _ => .commit d := by
  simp [State.runOne, State.runOps, State.answers, verdict_one, onRows_eq hr, ho, orderedCommits, commitsOf, hcd]

/-- The end of a bundle changes nothing outside the hart in hand but what CoreKept leaves open; the hart has its next bundle and
waits for nothing (R172, R233, R240). -/
theorem State.finishBundle_kept (u : State) (pc : Word) (next : Option Word) (cut : Bool) :
    let t := u.finishBundle u.cur pc next cut
    OutsideKept u t ∧ CoreKept u.me t.me ∧ t.my = { ((u.my.modCtl (·.orFlags u.raised)).advance pc next).1 with
      wait := .none, ewait := .none, passed := none, interval := t.my.interval } := by
  obtain ⟨n, v, heq⟩ := u.finishBundle_eq u.cur pc next cut
  intro t
  have hme : t.me = { u.me.unblock with hart := { ((u.my.modCtl (·.orFlags u.raised)).advance pc next).1 with
      wait := .none, ewait := .none, passed := none, interval := n } } := by
    have hcore : t.core u.cur = _ := (congrArg (·.core u.cur) heq).trans (State.core_setCore_same ..)
    rw [State.me, show t.cur = u.cur from State.finishBundle_cur .., hcore]
    rfl
  refine ⟨?_, ?_, ?_⟩
  · rw [show t = _ from heq]
    exact ⟨rfl, rfl, rfl, rfl, rfl, rfl, rfl, rfl, rfl, rfl, rfl, rfl, rfl, rfl, fun k hk => State.core_setCore_ne _ _ hk⟩
  · rw [hme]
    exact coreKept_unblock u.me _
  · rw [State.my, hme]

/-- A bundle of one operation commits: the operation's effect, the end of the bundle, and what follows the boundary (R172). -/
theorem runs_commitAll {i : Instr} {s : State} {op : Op} {c : Commit} {u : State} (he : exec i s = s.runOne i op)
    (hr : s.my.badRow (rowSrc s i) = none) (ho : op ⟨s.my.pc, 0⟩ s = .commit c) (hu : c.run { s with raised := 0 } = u)
    (hcur : u.cur = s.cur) :
    Runs i s fun t => ∃ v, t = c.after v ∧ OutsideKept u v ∧ CoreKept u.me v.me ∧
      v.my = { ((u.my.modCtl (·.orFlags u.raised)).advance s.my.pc c.next).1 with
        wait := .none, ewait := .none, passed := none, interval := v.my.interval } := by
  intro hd
  refine ⟨_, he.trans (State.runOne_commit hd hr ho), u.finishBundle s.cur s.my.pc c.next c.cut, ?_, ?_⟩
  · rw [State.commitAll_one, hu]
  · rw [← hcur]
    exact u.finishBundle_kept ..

theorem OutsideKept.refl (s : State) : OutsideKept s s :=
  ⟨rfl, rfl, rfl, rfl, rfl, rfl, rfl, rfl, rfl, rfl, rfl, rfl, rfl, rfl, fun _ _ => rfl⟩

/-- An operation without an effect of its own: its bundle ends, and what follows the boundary follows (R172). -/
theorem runs_idle {i : Instr} {s : State} {op : Op} {next : Option Word} {g : State → State} {cut : Bool}
    (he : exec i s = s.runOne i op) (hr : s.my.badRow (rowSrc s i) = none)
    (ho : op ⟨s.my.pc, 0⟩ s = .commit { run := id, next := next, after := g, cut := cut }) :
    Runs i s fun t => ∃ v, t = g v ∧ OutsideKept s v ∧ CoreKept s.me v.me ∧
      v.my = { (s.my.advance s.my.pc next).1 with
        wait := .none, ewait := .none, passed := none, interval := v.my.interval } := by
  refine runs_mono (runs_commitAll he hr ho rfl rfl) fun t ⟨v, ht, hout, hcore, hmy⟩ => ⟨v, ht, hout, hcore, ?_⟩
  exact (Hart.modCtl_orFlags_zero s.my) ▸ hmy

/-- An operation that changes nothing and transfers no control (R198, R230). -/
theorem changes_id {i : Instr} {s : State} {op : Op} (he : exec i s = s.runOne i op) (hr : s.my.badRow (rowSrc s i) = none)
    (ho : op ⟨s.my.pc, 0⟩ s = commits id) : Changes i s id 0 := by
  refine runs_mono (runs_idle he hr ho) fun t ⟨v, ht, hout, hcore, hmy⟩ => ?_
  subst ht
  exact ⟨hout, hcore, (Hart.modCtl_orFlags_zero s.my).symm ▸ hmy⟩

/-- The loop end changes the next bundle, the loop stack, VL and STRIP (R233). -/
theorem Hart.advance_frame (h : Hart) (pc : Word) :
    let a := (h.advance pc none).1
    a = { h with pc := a.pc, loops := a.loops, ctl := { h.ctl with vl := a.ctl.vl, strip := a.ctl.strip } } := by
  have hkept := advance_kept h 0 pc
  rw [Hart.modCtl_orFlags_zero] at hkept
  dsimp only at hkept ⊢
  rwa [show h.ctl.fflags ||| 0 = h.ctl.fflags from BitVec.or_zero] at hkept

/-- What the end of a bundle alone keeps of its hart (R233, R240). -/
theorem kept_of_advance {h g : Hart} (hg : g = { ((h.modCtl (·.orFlags 0)).advance h.pc none).1 with
      wait := .none, ewait := .none, passed := none, interval := g.interval }) :
    HartKept h g ∧ BundleEnds h g 0 ∧ g.x = h.x ∧ g.grid = h.grid ∧ g.ctl.srseed = h.ctl.srseed := by
  rw [advance_kept] at hg
  refine ⟨?_, ?_, ?_, ?_, ?_⟩
  · unfold HartKept
    rw [hg]
  · unfold BundleEnds
    rw [hg]
    exact ⟨rfl, rfl, rfl⟩
  all_goals rw [hg]

/-- What a bundle that does nothing keeps (R198, R233). -/
theorem Changes.past {i : Instr} {s : State} (h : Changes i s id 0) :
    Runs i s fun t => Past s t 0 ∧ t.my.x = s.my.x ∧ t.my.grid = s.my.grid ∧ t.my.ctl.srseed = s.my.ctl.srseed := by
  refine runs_mono h fun t ⟨hout, hcore, hmy⟩ => ?_
  obtain ⟨hhart, hend, hrest⟩ := kept_of_advance hmy
  exact ⟨⟨hout, hcore, hhart, hend⟩, hrest⟩

end Sys2Proof.Machine
end

section
/-! SUPPORT. The scalar integer operations (R221 to R225): the values that their tables name, as the model computes them.
For O1, O2 and O3. -/

namespace Sys2Proof.Machine

/-! ### Operations that write one register -/

/-- An operation that reads no row of the grid and writes one register (R221). -/
theorem gives_of_eq {i : Instr} {s : State} {op : Op} {d : SReg} {v w : Word} (he : exec i s = s.runOne i op)
    (hrows : rowSrc s i = []) (ho : op ⟨s.my.pc, 0⟩ s = writes d w) (hv : w = v) : Gives i s d v :=
  gives_of_writes he (hrows ▸ Hart.badRow_nil _) (hv ▸ ho)

/-! ### Words as numbers -/

theorem ofNat_toNat_add (x y : Word) : x + y = BitVec.ofNat 64 (x.toNat + y.toNat) := rfl

theorem ofInt_toNat_sub (x y : Word) : x - y = BitVec.ofInt 64 ((x.toNat : Int) - y.toNat) := by
  refine BitVec.eq_of_toNat_eq ?_
  rw [BitVec.toNat_sub, BitVec.toNat_ofInt]
  have := x.isLt
  have := y.isLt
  omega

theorem shiftLeft_eq_ofNat (x : Word) (n : Nat) : x <<< n = BitVec.ofNat 64 (x.toNat * 2 ^ n) := by
  refine BitVec.eq_of_toNat_eq ?_
  rw [BitVec.toNat_shiftLeft, BitVec.toNat_ofNat, Nat.shiftLeft_eq]

theorem ushiftRight_eq_ofNat (x : Word) (n : Nat) : x >>> n = BitVec.ofNat 64 (x.toNat / 2 ^ n) := by
  refine BitVec.eq_of_toNat_eq ?_
  rw [BitVec.toNat_ushiftRight, BitVec.toNat_ofNat, Nat.shiftRight_eq_div_pow,
    Nat.mod_eq_of_lt ((Nat.div_le_self ..).trans_lt x.isLt)]

theorem sshiftRight_eq_ofInt (x : Word) (n : Nat) : x.sshiftRight n = BitVec.ofInt 64 (x.toInt / 2 ^ n) := by
  rw [BitVec.sshiftRight, Int.shiftRight_eq_div_pow]
  norm_cast

theorem flag01_slt (x y : Word) : flag01 (x.slt y) = if x.toInt < y.toInt then 1 else 0 := by
  simp [flag01, BitVec.slt]

theorem flag01_ult (x y : Word) : flag01 (x.ult y) = if x.toNat < y.toNat then 1 else 0 := by
  simp [flag01, BitVec.ult]

theorem ite_slt_eq_min (x y : Word) : (if y.slt x then y else x) = BitVec.ofInt 64 (min x.toInt y.toInt) := by
  by_cases h : y.toInt < x.toInt
  · rw [if_pos (by simpa [BitVec.slt] using h), min_eq_right h.le, BitVec.ofInt_toInt]
  · rw [if_neg (by simpa [BitVec.slt] using h), min_eq_left (not_lt.1 h), BitVec.ofInt_toInt]

theorem ite_slt_eq_max (x y : Word) : (if x.slt y then y else x) = BitVec.ofInt 64 (max x.toInt y.toInt) := by
  by_cases h : x.toInt < y.toInt
  · rw [if_pos (by simpa [BitVec.slt] using h), max_eq_right h.le, BitVec.ofInt_toInt]
  · rw [if_neg (by simpa [BitVec.slt] using h), max_eq_left (not_lt.1 h), BitVec.ofInt_toInt]

theorem ite_ult_eq_min (x y : Word) : (if y.ult x then y else x) = BitVec.ofNat 64 (min x.toNat y.toNat) := by
  by_cases h : y.toNat < x.toNat
  · rw [if_pos (by simpa [BitVec.ult] using h), min_eq_right h.le, BitVec.ofNat_toNat, BitVec.setWidth_eq]
  · rw [if_neg (by simpa [BitVec.ult] using h), min_eq_left (not_lt.1 h), BitVec.ofNat_toNat, BitVec.setWidth_eq]

theorem ite_ult_eq_max (x y : Word) : (if x.ult y then y else x) = BitVec.ofNat 64 (max x.toNat y.toNat) := by
  by_cases h : x.toNat < y.toNat
  · rw [if_pos (by simpa [BitVec.ult] using h), max_eq_right h.le, BitVec.ofNat_toNat, BitVec.setWidth_eq]
  · rw [if_neg (by simpa [BitVec.ult] using h), max_eq_left (not_lt.1 h), BitVec.ofNat_toNat, BitVec.setWidth_eq]

theorem mul_eq_ofNat (x y : Word) : x * y = BitVec.ofNat 64 (x.toNat * y.toNat) := rfl

/-- The low bits of a word, sign-extended (R222, R224). -/
theorem sextLow_eq_signExtend {w : Nat} (hw : w ≤ 64) (v : Word) :
    sextLow w v = (v.setWidth w).signExtend 64 := by
  have hmod : v.toNat % 2 ^ w < 2 ^ w := Nat.mod_lt _ (Nat.two_pow_pos w)
  have hpow : 2 ^ w ≤ 2 ^ 64 := Nat.pow_le_pow_right two_pos hw
  have hmsb : (v.setWidth w).msb = (v.toNat % 2 ^ w).testBit (w - 1) := by
    rw [BitVec.msb_eq_getLsbD_last, ← BitVec.testBit_toNat, BitVec.toNat_setWidth]
  refine BitVec.eq_of_toNat_eq ?_
  rw [sextLow, BitVec.toNat_signExtend, hmsb, BitVec.toNat_setWidth_of_le hw, BitVec.toNat_setWidth]
  split
  · rw [BitVec.toNat_ofNat]
    omega
  · rw [BitVec.toNat_ofNat, Nat.mod_eq_of_lt (by omega), Nat.add_zero]

/-! ### Division -/

theorem toInt_eq_min_iff (x : Word) : x = 0x8000000000000000 ↔ x.toInt = -2 ^ 63 := by
  rw [← BitVec.toInt_inj]
  rfl

theorem toInt_eq_neg_one_iff (x : Word) : x = ~~~0 ↔ x.toInt = -1 := by
  rw [← BitVec.toInt_inj]
  rfl

/-- The truncated quotient, with its two saturations (R223). -/
theorem divSigned_eq (x y : Word) : divSigned x y =
    if y = 0 then (if 0 ≤ x.toInt then 0x7FFFFFFFFFFFFFFF else 0x8000000000000000)
    else if x.toInt = -2 ^ 63 ∧ y.toInt = -1 then 0x7FFFFFFFFFFFFFFF else BitVec.ofInt 64 (x.toInt.tdiv y.toInt) := by
  simp only [divSigned, toInt_eq_min_iff, toInt_eq_neg_one_iff, ← not_le, ite_not]

/-- The remainder with the dividend's sign; of the least number by -1 it is 0 (R223). -/
theorem remSigned_eq (x y : Word) : remSigned x y =
    if y = 0 then x else if x.toInt = -2 ^ 63 ∧ y.toInt = -1 then 0 else BitVec.ofInt 64 (x.toInt.tmod y.toInt) := by
  rw [remSigned]
  split
  · rfl
  · split
    · next h =>
      rw [h.1, h.2]
      rfl
    · rfl

/-- Settles O1: each operation is the function of its table, and writes one register. -/
theorem integerRegisterForms : Obligations.IntegerRegisterForms := by
  unfold Obligations.IntegerRegisterForms
  intro s d a b x y n
  refine ⟨?_, ?_, ?_, ?_, ?_, ?_, ?_, ?_, ?_, ?_, ?_, ?_, ?_, ?_, ?_, ?_, ?_, ?_, ?_, ?_, ?_, ?_⟩
  · exact gives_of_eq rfl rfl rfl (ofNat_toNat_add x y)
  · exact gives_of_eq rfl rfl rfl (ofInt_toNat_sub x y)
  · exact gives_of_eq rfl rfl rfl rfl
  · exact gives_of_eq rfl rfl rfl rfl
  · exact gives_of_eq rfl rfl rfl rfl
  · exact gives_of_eq rfl rfl rfl (shiftLeft_eq_ofNat x n)
  · exact gives_of_eq rfl rfl rfl (ushiftRight_eq_ofNat x n)
  · exact gives_of_eq rfl rfl rfl (sshiftRight_eq_ofInt x n)
  · exact gives_of_eq rfl rfl rfl (flag01_slt x y)
  · exact gives_of_eq rfl rfl rfl (flag01_ult x y)
  · exact gives_of_eq rfl rfl rfl (ite_slt_eq_min x y)
  · exact gives_of_eq rfl rfl rfl (ite_slt_eq_max x y)
  · exact gives_of_eq rfl rfl rfl (ite_ult_eq_min x y)
  · exact gives_of_eq rfl rfl rfl (ite_ult_eq_max x y)
  · exact gives_of_eq rfl rfl rfl (mul_eq_ofNat x y)
  · exact gives_of_eq rfl rfl rfl rfl
  · exact gives_of_eq rfl rfl rfl rfl
  · exact gives_of_eq rfl rfl rfl (sextLow_eq_signExtend (by decide) (x + y))
  · exact gives_of_eq rfl rfl rfl (divSigned_eq x y)
  · exact gives_of_eq rfl rfl rfl (remSigned_eq x y)
  · exact gives_of_eq rfl rfl rfl rfl
  · exact gives_of_eq rfl rfl rfl rfl

/-! ### Counts of bits -/

/-- Leading zeros: where the highest 1 bit of a nonzero number stands (R224). -/
theorem clz_bounds {n : Nat} (hn : n < 2 ^ 64) :
    clz 64 n ≤ 64 ∧ n < 2 ^ (64 - clz 64 n) ∧ (n ≠ 0 → 2 ^ (63 - clz 64 n) ≤ n) ∧ (n = 0 → clz 64 n = 64) := by
  by_cases h : n = 0
  · subst h
    decide
  · have hlog : n.log2 < 64 := (Nat.log2_lt h).2 hn
    have hclz : clz 64 n = 63 - n.log2 := if_neg h
    rw [hclz, show 64 - (63 - n.log2) = n.log2 + 1 by omega, show 63 - (63 - n.log2) = n.log2 by omega]
    exact ⟨by omega, Nat.lt_log2_self, fun _ => Nat.log2_self_le h, fun h0 => absurd h0 h⟩

/-- Trailing zeros: the power of 2 that divides a number, and the next one does not (R224). -/
theorem ctzFrom_bounds (k n : Nat) (hn : n < 2 ^ k) :
    ctzFrom n k ≤ k ∧ 2 ^ ctzFrom n k ∣ n ∧ (n ≠ 0 → ¬2 ^ (ctzFrom n k + 1) ∣ n) ∧ (n = 0 → ctzFrom n k = k) := by
  induction k generalizing n with
  | zero =>
    obtain rfl : n = 0 := by simpa using hn
    simp [ctzFrom]
  | succ k ih =>
    obtain ⟨hle, hdvd, hnot, hzero⟩ := ih (n / 2) (by omega)
    unfold ctzFrom
    split
    · next hodd => exact ⟨Nat.zero_le _, one_dvd n, fun _ h => by omega, fun h => by omega⟩
    · next heven =>
      obtain ⟨m, rfl⟩ : 2 ∣ n := by omega
      rw [Nat.mul_div_cancel_left m two_pos] at hle hdvd hnot hzero ⊢
      rw [Nat.add_comm 1, pow_succ', pow_succ' 2 (ctzFrom m k + 1), Nat.mul_dvd_mul_iff_left two_pos,
        Nat.mul_dvd_mul_iff_left two_pos]
      exact ⟨by omega, hdvd, fun h => hnot (by omega), fun h => by rw [hzero (by omega)]⟩

/-- The 1 bits of a number, counted (R224). -/
theorem popcount_eq_ones (n v : Nat) : popcount n v = Claim.ones v n := by
  induction n with
  | zero => rfl
  | succ n ih =>
    unfold popcount at ih ⊢
    rw [List.range_succ, List.filter_append, List.length_append, ih, Claim.ones, Nat.add_comm]
    congr 1
    cases h : v.testBit n <;> simp [h]

/-- Settles O2: each operation is the function of its table, and the counts are the model's own. -/
theorem bitManipulationForms : Obligations.BitManipulationForms := by
  unfold Obligations.BitManipulationForms
  intro s d a b c n x y pos len
  have hzero : x = 0 ↔ x.toNat = 0 := BitVec.toNat_inj.symm
  refine ⟨?_, ?_, ?_, ?_, ?_, ?_, ?_, ?_, ?_⟩
  · obtain ⟨hle, hlt, hge, h0⟩ := clz_bounds x.isLt
    exact ⟨_, gives_of_eq rfl rfl rfl rfl, hle, hlt, fun h => hge (hzero.not.1 h), fun h => h0 (hzero.1 h)⟩
  · obtain ⟨hle, hdvd, hnot, h0⟩ := ctzFrom_bounds 64 x.toNat x.isLt
    exact ⟨_, gives_of_eq rfl rfl rfl rfl, hle, hdvd, fun h => hnot (hzero.not.1 h), fun h => h0 (hzero.1 h)⟩
  · exact gives_of_eq rfl rfl rfl (congrArg _ (popcount_eq_ones 64 x.toNat))
  · exact gives_of_eq rfl rfl rfl rfl
  · exact gives_of_eq rfl rfl rfl rfl
  · exact gives_of_eq rfl rfl rfl rfl
  · exact gives_of_eq rfl rfl rfl (by rw [shiftLeft_eq_ofNat])
  · exact gives_of_eq rfl rfl rfl (sextLow_eq_signExtend n.isLt x)
  · exact gives_of_eq rfl rfl rfl (ite_not ..).symm

/-! ### Immediates -/

theorem imm64_toInt (i : BitVec 20) : (imm64 i).toInt = i.toInt := BitVec.toInt_signExtend_of_le (by decide)

theorem imm64_shiftLeft (i : BitVec 20) : imm64 i <<< 12 = BitVec.ofInt 64 (i.toInt * 4096) := by
  refine BitVec.eq_of_toInt_eq ?_
  rw [BitVec.toInt_shiftLeft, BitVec.toInt_ofInt, ← imm64_toInt, BitVec.toInt_eq_toNat_bmod, Nat.shiftLeft_eq]
  push_cast
  rw [Int.bmod_mul_bmod]

/-- NOP leaves every register as it is (R198). -/
theorem gives_nop (s : State) : Gives .nop s 0 0 := by
  have hid : Changes .nop s id 0 := changes_id rfl (Hart.badRow_nil _) rfl
  exact runs_mono hid.past fun t ⟨hpast, hx, hgrid, hseed⟩ =>
    ⟨⟨rfl, fun r _ => Hart.rx_congr hx r⟩, hgrid, hseed, hpast⟩

/-- Settles O3: each operation is the function of its table on the decoded immediate. -/
theorem immediateForms : Obligations.ImmediateForms := by
  unfold Obligations.ImmediateForms
  intro s d a imm n x i
  refine ⟨?_, ?_, ?_, ?_, ?_, ?_, ?_, ?_, ?_, ?_, ?_, ?_⟩
  · exact gives_of_eq rfl rfl rfl rfl
  · exact gives_of_eq rfl rfl rfl rfl
  · exact gives_of_eq rfl rfl rfl rfl
  · exact gives_of_eq rfl rfl rfl rfl
  · exact gives_of_eq rfl rfl rfl ((flag01_slt x (imm64 imm)).trans (by rw [imm64_toInt]))
  · exact gives_of_eq rfl rfl rfl (flag01_ult x i)
  · exact gives_of_eq rfl rfl rfl (shiftLeft_eq_ofNat x n.toNat)
  · exact gives_of_eq rfl rfl rfl (ushiftRight_eq_ofNat x n.toNat)
  · exact gives_of_eq rfl rfl rfl (sshiftRight_eq_ofInt x n.toNat)
  · exact gives_of_eq rfl rfl rfl (imm64_shiftLeft imm)
  · exact gives_of_eq rfl rfl rfl rfl
  · exact gives_nop s

end Sys2Proof.Machine
end

section
/-! SUPPORT. Scalar FP32 (R226 to R229): what a floating-point operation writes and raises. For O4. -/

namespace Sys2Proof.Machine

/-! ### The commit of a floating-point result -/

/-- A floating-point result of the hart in hand: its register and the generator's next state (R226, R76). -/
def Hart.putFloat (d : SReg) (r : Nat × FState) (h : Hart) : Hart :=
  (h.modCtl fun c => { c with srseed := r.2.seed }).wx d (BitVec.ofNat 64 r.1)

theorem keepsRest_putFloat (d : SReg) (r : Nat × FState) : KeepsRest (Hart.putFloat d r) := by
  intro h
  unfold Hart.putFloat Hart.wx
  split <;> rfl

theorem Hart.putFloat_onlyReg (h : Hart) (d : SReg) (r : Nat × FState) : OnlyReg h (h.putFloat d r) d (BitVec.ofNat 64 r.1) :=
  ⟨Hart.rx_wx_same .., fun q hq => (Hart.rx_wx_ne _ _ hq).trans (Hart.rx_congr rfl q)⟩

theorem OnlyReg.congr {h g k : Hart} {d : SReg} {v : Word} (hg : OnlyReg h g d v) (hx : k.x = g.x) : OnlyReg h k d v :=
  ⟨(Hart.rx_congr hx d).trans hg.1, fun r hr => (Hart.rx_congr hx r).trans (hg.2 r hr)⟩

/-- A floating-point operation completes with the value and the flags of its function (R226, R240). -/
theorem floats_of_fpCommit {i : Instr} {s : State} {op : Op} {d : SReg} {f : FState → Nat × FState}
    (he : exec i s = s.runOne i op) (hrows : rowSrc s i = []) (ho : op ⟨s.my.pc, 0⟩ s = fpCommit d f) :
    Claim.Floats i s d f := by
  have hr : s.my.badRow (rowSrc s i) = none := hrows ▸ Hart.badRow_nil _
  let r := f { seed := s.my.ctl.srseed }
  have hexec : exec i s = s.runOne i fun _ _ => .commit { run := fun t => (t.modMy (Hart.putFloat d r)).raise r.2.flags } := by
    refine he.trans (State.runOne_congr hr ho ?_)
    rw [State.commitAll_one, State.commitAll_one]
    rfl
  refine runs_mono (runs_modMy hexec hr rfl (keepsRest_putFloat d r)) fun t ⟨hpast, hx, hgrid, hseed⟩ => ?_
  exact ⟨(s.my.putFloat_onlyReg d r).congr hx, hseed.trans (by simp [Hart.putFloat, r]),
    hgrid.trans (by simp [Hart.putFloat, Hart.modCtl]), hpast⟩

/-! ### Rounding codes -/

theorem withRounding_eq {s : State} {rm : BitVec 3} (hrm : rm ≠ 7) (f : Nat → Res) :
    withRounding s rm f = f (if rm = 0 then s.my.ctl.frm.toNat else rm.toNat) := by
  rw [withRounding, if_neg hrm, Ctl.rounding]
  simp only [← BitVec.toNat_inj (x := rm)]
  rfl

/-- A floating-point operation that rounds, under a rounding code other than 7 (R226, R75). -/
theorem floats_of_rounding {i : Instr} {s : State} {op : Op} {d : SReg} {rm : BitVec 3} {g : Nat → FState → Nat × FState}
    (hrm : rm ≠ 7) (he : exec i s = s.runOne i op) (hrows : rowSrc s i = [])
    (ho : op ⟨s.my.pc, 0⟩ s = withRounding s rm fun r => fpCommit d (g r)) :
    Claim.Floats i s d (g (if rm = 0 then s.my.ctl.frm.toNat else rm.toNat)) :=
  floats_of_fpCommit he hrows (ho.trans (withRounding_eq hrm _))

theorem roundedFloatForms : Claim.RoundedFloatForms := by
  intro s d a b rm hrm x y z r round
  refine ⟨?_, ?_, ?_, ?_, ?_, ?_, ?_, ?_, ?_⟩
  · exact floats_of_rounding (g := fun r f => fp32.round r false (x.add r y f).1 (x.add r y f).2) hrm rfl rfl rfl
  · exact floats_of_rounding (g := fun r f => fp32.round r false (x.add r y.negate f).1 (x.add r y.negate f).2) hrm rfl rfl rfl
  · exact floats_of_rounding (g := fun r f => fp32.round r false (x.mul y f).1 (x.mul y f).2) hrm rfl rfl rfl
  · exact floats_of_rounding (g := fun r f => fp32.round r false (x.div y f).1 (x.div y f).2) hrm rfl rfl rfl
  · exact floats_of_rounding (g := fun r f => fp32.round r false (x.sqrt f).1 (x.sqrt f).2) hrm rfl rfl rfl
  · exact floats_of_rounding (g := fun r f => fp32.round r false (Num.fma r x y z f).1 (Num.fma r x y z f).2) hrm rfl rfl rfl
  · exact floats_of_rounding (g := fun r f => fp32.round r false (Num.ofInt (s.my.rx a).toInt) f) hrm rfl rfl rfl
  · exact floats_of_rounding (g := fun r f => (⟨64, true⟩ : IntFmt).convert r true false true x f) hrm rfl rfl rfl
  · exact floats_of_rounding (g := fun r f => bf16.round r false x f) hrm rfl rfl rfl

/-- An operation that reads no row of the grid answers a precise trap that saves nothing (R178). -/
theorem traps_of_eq {i : Instr} {s : State} {op : Op} {cause : Nat} {a : Word} (he : exec i s = s.runOne i op)
    (hrows : rowSrc s i = []) (hc : cause < 256) (hn : cause ≠ 0x13) (ho : op ⟨s.my.pc, 0⟩ s = .trap cause a false) :
    Traps i s cause a 4 :=
  traps_of_trap he (hrows ▸ Hart.badRow_nil _) ho hc hn

theorem roundingCodeSevenTraps : Claim.RoundingCodeSevenTraps := by
  intro s d a b i hi
  simp only [List.mem_cons, List.not_mem_nil, or_false] at hi
  obtain rfl | rfl | rfl | rfl | rfl | rfl | rfl | rfl | rfl := hi <;>
    exact traps_of_eq rfl rfl (by decide) (by decide) rfl

/-- Settles O4: the exact result of each operation is rounded once, in the mode that the code or FRM names. -/
theorem roundingForms : Obligations.RoundingForms := ⟨roundedFloatForms, roundingCodeSevenTraps⟩

end Sys2Proof.Machine
end

section
/-! SUPPORT. The FP32 operations that do not round (R228): a value of the format rounds to itself, and which of two numbers FMIN
and FMAX give. For O5. -/

namespace Sys2Proof.Machine

/-! ### A value of FP32 and its encoding -/

/-- The value of an FP32 encoding by its fields (R72). -/
theorem fp32_decode (b : Nat) : fp32.decode b =
    if b / 2 ^ 23 % 256 = 255 then if b % 2 ^ 23 = 0 then .inf (b.testBit 31) else .nan (!(b % 2 ^ 23).testBit 22)
    else if b / 2 ^ 23 % 256 = 0 then .fin (b.testBit 31) (b % 2 ^ 23) (-149)
    else .fin (b.testBit 31) (2 ^ 23 + b % 2 ^ 23) ((b / 2 ^ 23 % 256 : Nat) - 150) := by
  have hexp (e : Int) : e - 127 - 23 = e - 150 := by omega
  simp [Fp.decode, fp32, Fp.emax, hexp]
  rfl

theorem fp32_fields {b : Nat} (hb : b < 2 ^ 32) : b = b % 2 ^ 23 + b / 2 ^ 23 % 256 * 2 ^ 23 + (b.testBit 31).toNat * 2 ^ 31 := by
  rw [Nat.toNat_testBit]
  omega

/-- A magnitude whose quantum is its own exponent is not rounded (R75). -/
theorem fp32_roundMag {m : Nat} {e : Int} (hq : max ((m.log2 : Int) + e) (-126) - 23 = e) (rm : Nat) (neg : Bool) :
    fp32.roundMag rm neg m e = (m + (e + 149).toNat * 2 ^ 23, 0) := by
  have hq' : max ((m.log2 : Int) + e) (1 - (fp32.bias : Int)) - fp32.mbits = e := hq
  have hcut : cut m e e = (m, 0, 0) := by simp [cut]
  have hpack : fp32.pack m e = m + (e + 149).toNat * 2 ^ 23 := by
    have hmin : e - (1 - (fp32.bias : Int) - fp32.mbits) = e + 149 := by
      simp only [fp32]
      omega
    rw [Fp.pack, hmin]
    rfl
  simp [Fp.roundMag, hq', hcut, roundsUp, hpack]

theorem fp32_round_fin {m : Nat} {e : Int} (hm : m ≠ 0) (hq : max ((m.log2 : Int) + e) (-126) - 23 = e)
    (hmax : m + (e + 149).toNat * 2 ^ 23 < 255 * 2 ^ 23) (neg : Bool) (f : FState) :
    fp32.round 1 false (.fin neg m e) f = (m + (e + 149).toNat * 2 ^ 23 + neg.toNat * 2 ^ 31, f) := by
  rw [Fp.round_fin fp32 (by decide) false neg hm e f, fp32_roundMag hq]
  have htop : ¬fp32.maxBits < m + (e + 149).toNat * 2 ^ 23 := by
    have : fp32.maxBits = 255 * 2 ^ 23 - 1 := by decide
    omega
  rw [if_neg htop, FState.raise_zero]
  rfl

/-- A number that FP32 holds rounds to its own encoding, and raises nothing (R75, R77). -/
theorem fp32_round_decode {b : Nat} (hb : b < 2 ^ 32) (hnum : (fp32.decode b).isNan = false) (f : FState) :
    fp32.round 1 false (fp32.decode b) f = (b, f) := by
  have hfields := fp32_fields hb
  rw [fp32_decode] at hnum ⊢
  generalize hneg : b.testBit 31 = neg at *
  generalize hf : b % 2 ^ 23 = m at *
  generalize he : b / 2 ^ 23 % 256 = e at *
  have hm : m < 2 ^ 23 := hf ▸ Nat.mod_lt _ (by decide)
  have he' : e < 256 := he ▸ Nat.mod_lt _ (by decide)
  split at hnum
  · next htop =>
    rw [if_pos htop]
    split at hnum
    · next hinf =>
      rw [if_pos hinf, hfields, hinf, htop, Nat.zero_add]
      rfl
    · cases hnum
  · next htop =>
    rw [if_neg htop]
    split
    · next hsub =>
      rw [hsub, Nat.zero_mul, Nat.add_zero] at hfields
      by_cases h0 : m = 0
      · rw [hfields, h0, Nat.zero_add]
        rfl
      · have hlog : m.log2 < 23 := (Nat.log2_lt h0).2 hm
        rw [fp32_round_fin h0 (by omega) (by simpa using by omega), hfields]
        rfl
    · next hsub =>
      have hlog : (2 ^ 23 + m).log2 = 23 := (Nat.log2_eq_iff (by omega)).2 ⟨by omega, by omega⟩
      have hexp : ((e : Int) - 150 + 149).toNat = e - 1 := by omega
      rw [fp32_round_fin (by omega) (by rw [hlog]; omega) (by rw [hexp]; omega), hexp]
      refine Prod.ext ?_ rfl
      dsimp only
      omega

/-! ### The lesser and the greater of two numbers -/

theorem Num.lt_asymm {a b : Num} (h : a.lt b = true) : b.lt a = false := by
  cases a <;> cases b <;> simp_all [Num.lt, Int.min_comm, Int.le_of_lt]

theorem Num.eq_of_lt {a b : Num} (h : a.lt b = true) : a.eq b = false := by simp [Num.eq, h]

theorem Num.eq_of_gt {a b : Num} (h : b.lt a = true) : a.eq b = false := by simp [Num.eq, h]

theorem Num.lt_zeros (p q : Bool) (e k : Int) : (Num.fin p 0 e).lt (.fin q 0 k) = false := by simp [Num.lt, Num.scaled]

/-- Which of two values FMIN or FMAX gives (R228). -/
def numPick (greater : Bool) (x y : Num) : Num :=
  if x.isNan then if y.isNan then .nan false else y
  else if y.isNan then x
  else if (x.lt y || (x.eq y && x.neg)) == greater then y else x

theorem numMin_eq (greater : Bool) (x y : Num) (f : FState) :
    numMin greater x y f = (numPick greater x y, f.raise (if x.isSig || y.isSig then flagNV else 0)) := by
  rw [numMin, numPick, FState.raiseIf_eq]
  split
  · rfl
  · split <;> rfl

/-- The value that FMIN or FMAX writes, in the terms of R228. -/
def Picks (greater : Bool) (x y : Num) (v : Word) : Prop :=
  (x.isNan = false → y.isNan = false → fp32.decode v.toNat = x ∨ fp32.decode v.toNat = y) ∧
  (x.isNan = false → y.isNan = false → (if greater then y.lt x else x.lt y) = true → fp32.decode v.toNat = x) ∧
  (x.isNan = false → y.isNan = false → (if greater then x.lt y else y.lt x) = true → fp32.decode v.toNat = y) ∧
  (∀ e k, x = .fin true 0 e → y = .fin false 0 k → fp32.decode v.toNat = if greater then y else x) ∧
  (∀ e k, x = .fin false 0 e → y = .fin true 0 k → fp32.decode v.toNat = if greater then x else y) ∧
  (x.isNan = true → y.isNan = true → v = 0x7FC00000) ∧
  (x.isNan = true → y.isNan = false → fp32.decode v.toNat = y) ∧
  (x.isNan = false → y.isNan = true → fp32.decode v.toNat = x)

theorem picks_of_decode {greater : Bool} {x y : Num} {v : Word} (hv : fp32.decode v.toNat = numPick greater x y)
    (hnan : x.isNan = true → y.isNan = true → v = 0x7FC00000) : Picks greater x y v := by
  unfold Picks
  rw [hv, numPick]
  refine ⟨fun hx hy => ?_, fun hx hy hlt => ?_, fun hx hy hlt => ?_, ?_, ?_, hnan, fun hx hy => ?_, fun hx hy => ?_⟩
  · simp only [hx, hy, Bool.false_eq_true, if_false]
    split
    · exact .inr rfl
    · exact .inl rfl
  · cases greater
    · simp_all
    · simp_all [Num.lt_asymm hlt, Num.eq_of_gt hlt]
  · cases greater
    · simp_all [Num.lt_asymm hlt, Num.eq_of_gt hlt]
    · simp_all
  · rintro e k rfl rfl
    cases greater <;> simp [Num.isNan, Num.eq, Num.lt_zeros, Num.neg]
  · rintro e k rfl rfl
    cases greater <;> simp [Num.isNan, Num.eq, Num.lt_zeros, Num.neg]
  · simp [hx, hy]
  · simp [hx, hy]

/-- The encoding of the value picked: that of the operand, or the canonical NaN; no flag is raised by it (R228). -/
theorem round_numPick (greater : Bool) {b c : Nat} (hb : b < 2 ^ 32) (hc : c < 2 ^ 32) :
    ∃ n < 2 ^ 32, fp32.decode n = numPick greater (fp32.decode b) (fp32.decode c) ∧
      (∀ f, fp32.round 1 false (numPick greater (fp32.decode b) (fp32.decode c)) f = (n, f)) ∧
      ((fp32.decode b).isNan = true → (fp32.decode c).isNan = true → n = 0x7FC00000) := by
  rw [numPick]
  by_cases hx : (fp32.decode b).isNan = true <;> by_cases hy : (fp32.decode c).isNan = true
  · rw [if_pos hx, if_pos hy]
    exact ⟨0x7FC00000, by decide, by decide, fun f => rfl, fun _ _ => rfl⟩
  · rw [if_pos hx, if_neg hy]
    exact ⟨c, hc, rfl, fp32_round_decode hc (by simpa using hy), fun _ h => absurd h hy⟩
  · rw [if_neg hx, if_pos hy]
    exact ⟨b, hb, rfl, fp32_round_decode hb (by simpa using hx), fun h => absurd h hx⟩
  · rw [if_neg hx, if_neg hy]
    split
    · exact ⟨c, hc, rfl, fp32_round_decode hc (by simpa using hy), fun _ h => absurd h hy⟩
    · exact ⟨b, hb, rfl, fp32_round_decode hb (by simpa using hx), fun h => absurd h hx⟩

/-- FMIN and FMAX (R228). -/
theorem runs_numMin {i : Instr} {s : State} {op : Op} {d a b : SReg} {greater : Bool} (he : exec i s = s.runOne i op)
    (hrows : rowSrc s i = []) (ho : op ⟨s.my.pc, 0⟩ s = fpCommit d fun f =>
      fp32.round 1 false (numMin greater (s.fp a) (s.fp b) f).1 (numMin greater (s.fp a) (s.fp b) f).2) :
    ∃ v : Word, Runs i s fun t => OnlyReg s.my t.my d v ∧ t.my.ctl.srseed = s.my.ctl.srseed ∧
      Past s t (if (s.fp a).isSig || (s.fp b).isSig then flagNV else 0) ∧ Picks greater (s.fp a) (s.fp b) v := by
  obtain ⟨n, hn, hdecode, hround, hnan⟩ := round_numPick greater (Nat.mod_lt (s.my.rx a).toNat (Nat.two_pow_pos 32))
    (Nat.mod_lt (s.my.rx b).toNat (Nat.two_pow_pos 32))
  have hresult (f : FState) : fp32.round 1 false (numMin greater (s.fp a) (s.fp b) f).1 (numMin greater (s.fp a) (s.fp b) f).2 =
      (n, f.raise (if (s.fp a).isSig || (s.fp b).isSig then flagNV else 0)) := by
    rw [numMin_eq]
    exact hround _
  have hword : (BitVec.ofNat 64 n).toNat = n := Nat.mod_eq_of_lt (by omega)
  refine ⟨BitVec.ofNat 64 n, runs_mono (floats_of_fpCommit he hrows ho) fun t ⟨hreg, hseed, _, hpast⟩ => ?_⟩
  simp only [hresult] at hreg hseed hpast
  refine ⟨hreg, hseed, by simpa [FState.raise] using hpast, picks_of_decode (by rw [hword]; exact hdecode) fun hx hy => ?_⟩
  rw [hnan hx hy]
  rfl

/-! ### Comparisons and classes -/

/-- A comparison writes 0 or 1 (R228). -/
theorem runs_compare {i : Instr} {s : State} {op : Op} {d : SReg} {v bad : Bool} (he : exec i s = s.runOne i op)
    (hrows : rowSrc s i = []) (ho : op ⟨s.my.pc, 0⟩ s = fpCommit d fun f => (v.toNat, f.raiseIf bad flagNV)) :
    Runs i s fun t => OnlyReg s.my t.my d (if v then 1 else 0) ∧ t.my.ctl.srseed = s.my.ctl.srseed ∧
      Past s t (if bad then flagNV else 0) := by
  refine runs_mono (floats_of_fpCommit he hrows ho) fun t ⟨hreg, hseed, _, hpast⟩ => ?_
  simp only [FState.raiseIf_eq] at hreg hseed hpast
  refine ⟨?_, hseed, by simpa [FState.raise] using hpast⟩
  cases v <;> exact hreg

theorem fp32_fin_subnormal {b : Nat} {neg : Bool} {m : Nat} {e : Int} (h : fp32.decode b = .fin neg m e) :
    m < 2 ^ 23 ↔ b / 2 ^ 23 % 256 = 0 := by
  rw [fp32_decode] at h
  split at h
  · split at h <;> cases h
  · split at h
    · next h0 =>
      obtain ⟨-, rfl, -⟩ := Num.fin.inj h
      exact ⟨fun _ => h0, fun _ => Nat.mod_lt _ (by decide)⟩
    · next h0 =>
      obtain ⟨-, rfl, -⟩ := Num.fin.inj h
      exact ⟨fun hm => by omega, fun h => absurd h h0⟩

/-- The class of a finite number (R228). -/
theorem fpClass_fin {b : Nat} {neg : Bool} {m : Nat} {e : Int} (h : fp32.decode b = .fin neg m e) :
    fpClass b = if m = 0 then (if neg then 5 else 6) else if m < 2 ^ 23 then (if neg then 4 else 7)
      else if neg then 3 else 8 := by
  simp only [fpClass, h, fp32_fin_subnormal h]

theorem fpClass_fin_range {b : Nat} {neg : Bool} {m : Nat} {e : Int} (h : fp32.decode b = .fin neg m e) :
    3 ≤ fpClass b ∧ fpClass b ≤ 8 := by
  rw [fpClass_fin h]
  cases neg <;> split_ifs <;> decide

theorem fpClass_bounds (b : Nat) : fpClass b < 10 ∧ (fpClass b = 0 ↔ fp32.decode b = .nan false) ∧
    (fpClass b = 1 ↔ fp32.decode b = .nan true) ∧ (fpClass b = 2 ↔ fp32.decode b = .inf true) ∧
    (fpClass b = 9 ↔ fp32.decode b = .inf false) := by
  cases h : fp32.decode b with
  | nan sig => cases sig <;> simp [fpClass, h]
  | inf neg => cases neg <;> simp [fpClass, h]
  | fin neg m e =>
    have hrange := fpClass_fin_range h
    simp only [reduceCtorEq, iff_false]
    omega

/-- Settles O5: a number of FP32 rounds to itself, so FMIN and FMAX write the operand that they pick. -/
theorem unroundedFloatForms : Obligations.UnroundedFloatForms := by
  unfold Obligations.UnroundedFloatForms
  intro s d a b x y sig nan num cmp
  refine ⟨runs_numMin rfl rfl rfl, runs_numMin rfl rfl rfl, runs_compare rfl rfl rfl, runs_compare rfl rfl rfl,
    runs_compare rfl rfl rfl, ?_, floats_of_fpCommit rfl rfl rfl⟩
  obtain ⟨hlt, h0, h1, h2, h9⟩ := fpClass_bounds ((s.my.rx a).toNat % 2 ^ 32)
  exact ⟨_, hlt, gives_of_eq rfl rfl rfl rfl, h0, h1, h2, h9, fun neg m e h => fpClass_fin h⟩

end Sys2Proof.Machine
end

section
/-! SUPPORT. Branches and jumps (R230, R231, R234): where they go and which loop entries they pop. For O6. -/

namespace Sys2Proof.Machine

/-! ### Targets -/

/-- The target of a relative transfer (R230, R231). -/
theorem relative_target (pc : Word) {n : Nat} (o : BitVec n) :
    pc + o.signExtend 64 * 16 = BitVec.ofInt 64 (pc.toNat + 16 * o.toInt) := by
  rw [BitVec.ofInt_add, BitVec.ofInt_mul, mul_comm]
  simp [BitVec.signExtend]

/-- An address with its low four bits clear (R231). -/
theorem and_not_fifteen (x : Word) : x &&& ~~~15 = BitVec.ofNat 64 (x.toNat / 16 * 16) := by
  refine BitVec.eq_of_toNat_eq ?_
  have hmask : x &&& BitVec.allOnes 64 <<< 4 = x >>> 4 <<< 4 := by
    refine BitVec.eq_of_getLsbD_eq fun i hi => ?_
    rw [BitVec.getLsbD_and, BitVec.getLsbD_shiftLeft, BitVec.getLsbD_shiftLeft, BitVec.getLsbD_allOnes,
      BitVec.getLsbD_ushiftRight]
    by_cases h4 : 4 ≤ i
    · simp [hi, Nat.add_sub_cancel' h4, not_lt.2 h4, show i - 4 < 64 by omega]
    · simp [not_le.1 h4]
  rw [show (~~~15 : Word) = BitVec.allOnes 64 <<< 4 from rfl, hmask, BitVec.toNat_shiftLeft, BitVec.toNat_ushiftRight, Nat.shiftLeft_eq, Nat.shiftRight_eq_div_pow, BitVec.toNat_ofNat]

/-! ### The loops that a transfer leaves -/

/-- The entries popped are the innermost ones whose body the transfer leaves, up to the first that it does not (R234). -/
theorem popped_popLeft (pc target : Word) (ls : List LoopEnt) : Popped ls (popLeft pc target ls) pc target := by
  unfold Popped
  induction ls with
  | nil => exact ⟨[], rfl, by simp, by simp [popLeft]⟩
  | cons e rest ih =>
    obtain ⟨out, hout, hleft, hlast⟩ := ih
    rw [popLeft]
    split
    next hnil =>
      rw [hnil, List.nil_append] at hout
      subst hout
      split
      next hleaves => exact ⟨e :: rest, rfl, by simpa using ⟨by simpa using hleaves, fun a ha => hleft a ha⟩, by simp⟩
      next hstays => exact ⟨rest, rfl, hleft, by simpa using hstays⟩
    next hne =>
      refine ⟨out, by rw [List.cons_append, ← hout], hleft, ?_⟩
      rwa [List.getLast?_cons_of_ne_nil hne]

/-! ### Transfers -/

/-- What a taken transfer that changes only registers and loops of its hart leaves as it was (R230, R231). -/
theorem transfers_of_goesTo {i : Instr} {s : State} {f : Hart → Hart} {target : Word} (h : GoesTo i s f target)
    (hf : f s.my = { s.my with x := (f s.my).x, loops := (f s.my).loops }) :
    Runs i s fun t => Transfers s t target t.my.loops ∧ t.my.x = (f s.my).x ∧ t.my.loops = (f s.my).loops := by
  refine runs_mono h fun t ⟨hout, hcore, hmy⟩ => ?_
  rw [hf] at hmy
  refine ⟨⟨hout, hcore, ?_, ?_, rfl, ?_, ?_⟩, ?_, ?_⟩
  · unfold HartKept
    rw [hmy]
  all_goals rw [hmy]

/-- The loops that a transfer leaves popped (R234). -/
def Hart.popLoops (pc target : Word) (h : Hart) : Hart := { h with loops := popLeft pc target h.loops }

/-- A transfer without a link (R230, R234). -/
theorem runs_transfer {i : Instr} {s : State} {op : Op} {target : Word} (he : exec i s = s.runOne i op)
    (hrows : rowSrc s i = []) (ho : op ⟨s.my.pc, 0⟩ s = transfer s.my.pc target id) :
    Runs i s fun t => Transfers s t target t.my.loops ∧ t.my.x = s.my.x ∧ Popped s.my.loops t.my.loops s.my.pc target := by
  have hgoes : GoesTo i s (Hart.popLoops s.my.pc target) target := goesTo_of_commit he (hrows ▸ Hart.badRow_nil _) ho
  refine runs_mono (transfers_of_goesTo hgoes rfl) fun t ⟨htransfers, hx, hloops⟩ => ⟨htransfers, hx, ?_⟩
  rw [hloops]
  exact popped_popLeft ..

/-- A branch, by its condition (R230). -/
theorem runs_branch {i : Instr} {s : State} {p : Word → Word → Bool} {a b : SReg} {o : BitVec 23} {c : Prop}
    (he : exec i s = s.runOne i (branch p a b o)) (hrows : rowSrc s i = []) (hp : p (s.my.rx a) (s.my.rx b) = true ↔ c) :
    let target : Word := BitVec.ofInt 64 (s.my.pc.toNat + 16 * o.toInt)
    (c → Runs i s fun t => Transfers s t target t.my.loops ∧ RegsKept s.my t.my ∧
      Popped s.my.loops t.my.loops s.my.pc target) ∧ (¬c → Changes i s id 0) := by
  refine ⟨fun hc => ?_, fun hc => ?_⟩
  · have hop : branch p a b o ⟨s.my.pc, 0⟩ s = transfer s.my.pc (BitVec.ofInt 64 (s.my.pc.toNat + 16 * o.toInt)) id := by
      rw [branch, if_pos (hp.2 hc), relative_target]
    exact runs_mono (runs_transfer he hrows hop) fun t ⟨htransfers, hx, hpopped⟩ => ⟨htransfers, Hart.rx_congr hx, hpopped⟩
  · have hop : branch p a b o ⟨s.my.pc, 0⟩ s = commits id := by
      rw [branch, if_neg (hp.not.2 hc)]
    exact changes_id he (hrows ▸ Hart.badRow_nil _) hop

theorem branchForms : Claim.BranchForms := by
  intro s a b o x y target branch
  refine ⟨?_, ?_, ?_, ?_, ?_, ?_⟩
  · exact runs_branch rfl rfl beq_iff_eq
  · exact runs_branch rfl rfl bne_iff_ne
  · exact runs_branch rfl rfl (by simp [BitVec.slt, x, y])
  · exact runs_branch rfl rfl (by simp [BitVec.slt, x, y])
  · exact runs_branch rfl rfl (by simp [BitVec.ult, x, y])
  · exact runs_branch rfl rfl (by simp [BitVec.ult, x, y])

/-- A jump, with a link or without (R231, R234). -/
theorem runs_jump {i : Instr} {s : State} {op : Op} {d : SReg} {target : Word} (he : exec i s = s.runOne i op)
    (hrows : rowSrc s i = []) (ho : op ⟨s.my.pc, 0⟩ s = jump d s.my.pc target) :
    Runs i s fun t => Transfers s t target t.my.loops ∧ OnlyReg s.my t.my d (s.my.pc + 16) ∧
      (d = 0 → Popped s.my.loops t.my.loops s.my.pc target) ∧ (d ≠ 0 → t.my.loops = s.my.loops) := by
  by_cases hd : d = 0
  · subst hd
    exact runs_mono (runs_transfer he hrows ho) fun t ⟨htransfers, hx, hpopped⟩ =>
      ⟨htransfers, ⟨rfl, fun r _ => Hart.rx_congr hx r⟩, fun _ => hpopped, fun h => absurd rfl h⟩
  · have hgoes : GoesTo i s (·.wx d (s.my.pc + 16)) target :=
      goesTo_of_commit he (hrows ▸ Hart.badRow_nil _) (ho.trans (if_neg hd))
    refine runs_mono (transfers_of_goesTo hgoes (by rw [Hart.wx, if_neg hd])) fun t ⟨htransfers, hx, hloops⟩ => ?_
    refine ⟨htransfers, ?_, fun h => absurd h hd, fun _ => hloops.trans (Hart.wx_loops ..)⟩
    exact OnlyReg.congr ⟨Hart.rx_wx_same .., fun r hr => Hart.rx_wx_ne _ _ hr⟩ hx

theorem jumpForms : Claim.JumpForms := by
  intro s d a o imm jump
  refine ⟨?_, fun himm => ?_, fun himm => ?_⟩
  · refine runs_jump rfl rfl ?_
    show Machine.jump .. = _
    rw [relative_target]
  · refine runs_jump rfl rfl ((if_neg (not_not.2 himm)).trans ?_)
    rw [and_not_fifteen, BitVec.toNat_add]
  · exact traps_of_eq rfl rfl (by decide) (by decide) (if_pos himm)

/-- Settles O6: a taken transfer pops the innermost loops whose body it leaves, but a call. -/
theorem transferForms : Obligations.TransferForms := ⟨branchForms, jumpForms⟩

end Sys2Proof.Machine
end

section
/-! SUPPORT. The loop end and the loops (R140, R232, R233, R235), and SETVL (R236). For O7, O8 and O9. -/

namespace Sys2Proof.Machine

/-! ### The loop end -/

theorem loopEnd_nil (v : Nat) (pc : Word) (n : Nat) (c : Ctl) : loopEnd v pc (n + 1) [] c = ([], c, pc + 16, false) := rfl

/-- The loop end by the innermost entry (R233, R140). -/
theorem loopEnd_concat (v : Nat) (pc : Word) (n : Nat) (below : List LoopEnt) (e : LoopEnt) (c : Ctl) :
    loopEnd v pc (n + 1) (below ++ [e]) c =
      if e.last ≠ pc then (below ++ [e], c, pc + 16, false)
      else if e.vloop then
        let left := c.strip - BitVec.ofNat 64 (min c.vl c.strip.toNat)
        if left ≠ 0 then (below ++ [e], { c with strip := left, vl := min left.toNat v }, e.start + 16, true)
        else loopEnd v pc n below { c with strip := left }
      else if e.count - 1 ≠ 0 then (below ++ [{ e with count := e.count - 1 }], c, e.start + 16, false)
      else loopEnd v pc n below c := by
  simp only [loopEnd, List.reverse_append, List.reverse_cons, List.reverse_nil, List.nil_append, List.singleton_append,
    List.reverse_reverse]

section
variable {h : Hart} {pc : Word} {below : List LoopEnt} {e : LoopEnt}

theorem Hart.advance_noLoop (hl : h.loops = []) : (h.advance pc none).1 = { h with pc := pc + 16 } := by
  simp only [Hart.advance, hl, List.length_nil, loopEnd_nil]

variable (hl : h.loops = below ++ [e])
include hl

theorem Hart.advance_away (hlast : e.last ≠ pc) : (h.advance pc none).1 = { h with pc := pc + 16 } := by
  simp only [Hart.advance, hl, loopEnd_concat, if_pos hlast]

variable (hlast : e.last = pc)
include hlast

theorem Hart.advance_again (hloop : e.vloop = false) (hcount : e.count ≠ 1) :
    (h.advance pc none).1 = { h with pc := e.start + 16, loops := below ++ [{ e with count := e.count - 1 }] } := by
  simp only [Hart.advance, hl, loopEnd_concat, hlast, hloop, ne_eq, not_true, if_false, Bool.false_eq_true, sub_eq_zero,
    hcount, not_false_eq_true, if_true]

/-- The last pass of a LOOP: the end of the bundle is that of the stack below (R233). -/
theorem Hart.advance_popped (hloop : e.vloop = false) (hcount : e.count = 1) :
    (h.advance pc none).1 = (({ h with loops := below } : Hart).advance pc none).1 := by
  simp only [Hart.advance, hl, loopEnd_concat, hlast, hloop, ne_eq, not_true, if_false, Bool.false_eq_true, sub_eq_zero,
    hcount, List.length_append, List.length_singleton]
  rfl

/-- Elements of a VLOOP that are left go into another pass (R140). -/
theorem Hart.advance_stripped (hloop : e.vloop = true)
    (hleft : h.ctl.strip - BitVec.ofNat 64 (min h.ctl.vl h.ctl.strip.toNat) ≠ 0) :
    let left := h.ctl.strip - BitVec.ofNat 64 (min h.ctl.vl h.ctl.strip.toNat)
    (h.advance pc none).1 =
      { h with pc := e.start + 16, ctl := { h.ctl with strip := left, vl := min left.toNat h.vlLimit } } := by
  simp only [Hart.advance, hl, loopEnd_concat, hlast, hloop, ne_eq, not_true, if_false, if_true, hleft, not_false_eq_true]

/-- The last pass of a VLOOP: the end of the bundle is that of the stack below, with STRIP 0 (R140). -/
theorem Hart.advance_emptied (hloop : e.vloop = true)
    (hleft : h.ctl.strip - BitVec.ofNat 64 (min h.ctl.vl h.ctl.strip.toNat) = 0) :
    (h.advance pc none).1 =
      (({ h with loops := below, ctl := { h.ctl with strip := 0 } } : Hart).advance pc none).1 := by
  simp only [Hart.advance, hl, loopEnd_concat, hlast, hloop, ne_eq, not_true, if_false, if_true, hleft,
    List.length_append, List.length_singleton]
  rfl

end

/-! ### LOOP and VLOOP -/

/-- A bundle that changes its hart and may then be the last of a loop: the hart, where the end of the bundle is known (R233). -/
theorem Changes.ends {i : Instr} {s : State} {f : Hart → Hart} {g : Hart} (h : Changes i s f 0)
    (hg : ((f s.my).advance s.my.pc none).1 = g) :
    Runs i s fun t => OutsideKept s t ∧ CoreKept s.me t.me ∧
      t.my = { g with wait := .none, ewait := .none, passed := none, interval := t.my.interval } := by
  refine runs_mono h fun t ⟨hout, hcore, hmy⟩ => ⟨hout, hcore, ?_⟩
  rwa [Hart.modCtl_orFlags_zero, hg] at hmy

/-- A bundle whose end is known to change no more than the pc, the loop stack and control words (R233). -/
theorem Changes.ends_with {i : Instr} {s : State} {f : Hart → Hart} {pc : Word} {ls : List LoopEnt} {ctl : Ctl}
    (h : Changes i s f 0)
    (hg : ((f s.my).advance s.my.pc none).1 = { s.my with pc := pc, loops := ls, ctl := ctl }) :
    Runs i s fun t => OutsideKept s t ∧ CoreKept s.me t.me ∧ HartKept s.my t.my ∧ RegsKept s.my t.my ∧
      t.my.grid = s.my.grid ∧ t.my.pc = pc ∧ t.my.loops = ls ∧ t.my.ctl = ctl := by
  refine runs_mono (h.ends hg) fun t ⟨hout, hcore, hmy⟩ => ⟨hout, hcore, ?_, Hart.rx_congr ?_, ?_, ?_, ?_, ?_⟩
  · unfold HartKept
    rw [hmy]
  all_goals rw [hmy]

theorem loop_last (pc : Word) (o : BitVec 23) : pc + o.setWidth 64 * 16 = pc + BitVec.ofNat 64 (16 * o.toNat) := by
  congr 1
  refine BitVec.eq_of_toNat_eq ?_
  simp [mul_comm]

/-- The last bundle of a body is not the one that pushes it (R232). -/
theorem loop_last_ne (pc : Word) {o : BitVec 23} (ho : o ≠ 0) : pc + BitVec.ofNat 64 (16 * o.toNat) ≠ pc := by
  have hlt := o.isLt
  have hpos : o.toNat ≠ 0 := fun h => ho (BitVec.eq_of_toNat_eq h)
  rw [ne_eq, add_eq_left, ← BitVec.toNat_inj, BitVec.toNat_ofNat]
  show ¬16 * o.toNat % 2 ^ 64 = 0
  omega

/-- A loop skipped: past its last bundle (R232, R235). -/
theorem goesTo_id {i : Instr} {s : State} {op : Op} {target : Word} (he : exec i s = s.runOne i op)
    (hr : s.my.badRow (rowSrc s i) = none) (ho : op ⟨s.my.pc, 0⟩ s = .commit { run := id, next := some target }) :
    GoesTo i s id target := by
  refine runs_mono (runs_idle he hr ho) fun t ⟨v, ht, hout, hcore, hmy⟩ => ?_
  subst ht
  exact ⟨hout, hcore, hmy⟩

/-- The entry that LOOP pushes (R232). -/
def Hart.pushLoop (n pc last : Word) (h : Hart) : Hart :=
  { h with loops := h.loops ++ [{ vloop := false, count := n, start := pc, last := last }] }

/-- The entry that VLOOP pushes, with STRIP and VL of its first pass (R235). -/
def Hart.pushVloop (n pc last : Word) (h : Hart) : Hart :=
  { h.modCtl (fun w => { w with strip := n, vl := min n.toNat h.vlLimit }) with
    loops := h.loops ++ [{ vloop := true, count := 0, start := pc, last := last }] }

theorem opLoop_eq (a : SReg) (o : BitVec 23) (c : OpCtx) (s : State) :
    let last := c.pc + BitVec.ofNat 64 (16 * o.toNat)
    opLoop a o c s = if o = 0 ∨ (s.my.rx a ≠ 0 ∧ 4 ≤ s.my.loops.length) then .trap 0x03 0
      else if s.my.rx a = 0 then .commit { run := id, next := some (last + 16) }
      else commits fun t => t.modMy (Hart.pushLoop (s.my.rx a) c.pc last) := by
  rw [opLoop, loop_last]
  rfl

theorem opVloop_eq (a : SReg) (o : BitVec 23) (c : OpCtx) (s : State) :
    let last := c.pc + BitVec.ofNat 64 (16 * o.toNat)
    opVloop a o c s =
      if o = 0 ∨ s.my.loops.any (·.vloop) ∨ (s.my.rx a ≠ 0 ∧ 4 ≤ s.my.loops.length) then .trap 0x03 0
      else if s.my.rx a = 0 then .commit
        { run := fun t => t.modMy fun h => h.modCtl fun w => { w with strip := 0, vl := 0 }, next := some (last + 16) }
      else .commit { run := fun t => t.modMy (Hart.pushVloop (s.my.rx a) c.pc last), cut := true } := by
  rw [opVloop, loop_last]
  rfl

theorem loopPushes : Claim.LoopPushes := by
  intro s a o n last
  have hop := opLoop_eq a o ⟨s.my.pc, 0⟩ s
  dsimp only at hop
  refine ⟨fun ho => ?_, fun hn hfull => ?_, fun ho hn => ?_, fun ho hn hroom => ?_⟩
  · exact traps_of_eq rfl rfl (by decide) (by decide) (hop.trans (if_pos (.inl ho)))
  · exact traps_of_eq rfl rfl (by decide) (by decide) (hop.trans (if_pos (.inr ⟨hn, hfull⟩)))
  · rw [if_neg (not_or.2 ⟨ho, fun h => h.1 hn⟩), if_pos hn] at hop
    exact goesTo_id rfl (Hart.badRow_nil _) hop
  · rw [if_neg (not_or.2 ⟨ho, fun h => absurd h.2 (not_le.2 hroom)⟩), if_neg hn] at hop
    have hpush : Changes (.loop a o) s (Hart.pushLoop n s.my.pc last) 0 := changes_of_commits rfl (Hart.badRow_nil _) hop
    have hend : ((s.my.pushLoop n s.my.pc last).advance s.my.pc none).1 = { s.my with
        pc := s.my.pc + 16, loops := s.my.loops ++ [⟨false, n, s.my.pc, last⟩], ctl := s.my.ctl } :=
      Hart.advance_away rfl (loop_last_ne _ ho)
    exact runs_mono (hpush.ends_with hend) fun t ⟨hout, hcore, hhart, hregs, hgrid, hpc, hloops, hctl⟩ =>
      ⟨⟨hout, hcore, hhart, hpc, hloops, hctl, hgrid⟩, hregs⟩

theorem vloopPushes : Claim.VloopPushes := by
  intro s a o n last
  have hop := opVloop_eq a o ⟨s.my.pc, 0⟩ s
  dsimp only at hop
  have hany : s.my.loops.any (·.vloop) = true ↔ ∃ e ∈ s.my.loops, e.vloop = true := List.any_eq_true
  have hnone (h : ∀ e ∈ s.my.loops, e.vloop = false) : ¬s.my.loops.any (·.vloop) = true := by simpa using h
  refine ⟨fun hbad => ?_, fun ho hv hn => ?_, fun ho hv hn hroom => ?_⟩
  · rw [← hany] at hbad
    exact traps_of_eq rfl rfl (by decide) (by decide) (hop.trans (if_pos hbad))
  · rw [if_neg (not_or.2 ⟨ho, not_or.2 ⟨hnone hv, fun h => h.1 hn⟩⟩), if_pos hn] at hop
    exact goesTo_of_commit rfl (Hart.badRow_nil _) hop
  · rw [if_neg (not_or.2 ⟨ho, not_or.2 ⟨hnone hv, fun h => absurd h.2 (not_le.2 hroom)⟩⟩), if_neg hn] at hop
    have hpush : Changes (.vloop a o) s (Hart.pushVloop n s.my.pc last) 0 := changes_of_commits rfl (Hart.badRow_nil _) hop
    have hend : ((s.my.pushVloop n s.my.pc last).advance s.my.pc none).1 = { s.my with
        pc := s.my.pc + 16, loops := s.my.loops ++ [⟨true, 0, s.my.pc, last⟩],
        ctl := { s.my.ctl with strip := n, vl := min n.toNat s.my.vlLimit } } :=
      Hart.advance_away rfl (loop_last_ne _ ho)
    exact hpush.ends_with hend

/-- Settles O7: the entry pushed is not at its own last bundle, so that the body begins with the next one. -/
theorem loopForms : Obligations.LoopForms := ⟨loopPushes, vloopPushes⟩

/-! ### A bundle that does nothing, at the end of a loop -/

theorem State.who_modMy (s : State) {f : Hart → Hart} (hsup : (f s.my).sup = s.my.sup) (hlevel : (f s.my).level = s.my.level) :
    (s.modMy f).who (s.modMy f).cur = s.who s.cur := by
  have hhart : (s.modMy f).hart s.cur = f s.my := State.my_modMy ..
  have hmy : s.hart s.cur = s.my := rfl
  simp only [State.who, hhart, hmy, hsup, hlevel, State.modMy_cur]

theorem State.decoding_modMy (s : State) {f : Hart → Hart} (hsup : (f s.my).sup = s.my.sup)
    (hlevel : (f s.my).level = s.my.level) : (s.modMy f).decoding = s.decoding := by
  simp only [State.decoding, State.who_modMy s hsup hlevel, State.modMy_flights]

/-- Where no VLDC has still to decode, no bundle waits for one (R263). -/
theorem State.awaitsDecode_of_none {s : State} (h : s.decoding = []) (is : List Instr) : s.awaitsDecode is = false := by
  simp [State.awaitsDecode, h]

/-- NOP where the end of its bundle is known (R198, R233). -/
theorem nop_ends {s : State} {g : Hart} (hg : (s.my.advance s.my.pc none).1 = g) :
    Runs .nop s fun t => OutsideKept s t ∧ CoreKept s.me t.me ∧
      t.my = { g with wait := .none, ewait := .none, passed := none, interval := t.my.interval } := by
  have hid : Changes .nop s id 0 := changes_id rfl (Hart.badRow_nil _) rfl
  exact hid.ends hg

/-- NOP ends as it does with another stack and other control words (R233). -/
theorem nop_ends_as {s : State} {g : Hart} (hsup : g.sup = s.my.sup) (hlevel : g.level = s.my.level) (hpc : g.pc = s.my.pc)
    (hg : (s.my.advance s.my.pc none).1 = (g.advance s.my.pc none).1) (hdec : s.decoding = []) :
    ∃ t u, exec .nop s = .next t ∧ exec .nop (s.modMy fun _ => g) = .next u ∧
      t.my.pc = u.my.pc ∧ t.my.loops = u.my.loops ∧ t.my.ctl = u.my.ctl := by
  have hmy : (s.modMy fun _ => g).my = g := State.my_modMy ..
  have hdec' : (s.modMy fun _ => g).decoding = [] := (State.decoding_modMy s hsup hlevel).trans hdec
  obtain ⟨t, ht, -, -, htmy⟩ := nop_ends hg (State.awaitsDecode_of_none hdec _)
  obtain ⟨u, hu, -, -, humy⟩ := nop_ends rfl (State.awaitsDecode_of_none hdec' _)
  rw [hmy, hpc] at humy
  refine ⟨t, u, ht, hu, ?_, ?_, ?_⟩ <;> rw [htmy, humy]

/-- Settles O8: NOP ends as the loop end does on the innermost entry. -/
theorem loopEndOfABundle : Obligations.LoopEndOfABundle := by
  unfold Obligations.LoopEndOfABundle
  intro s below e under left ends asBelow
  have hnop : Changes .nop s id 0 := changes_id rfl (Hart.badRow_nil _) rfl
  refine ⟨fun hnone => ?_, fun hls => ⟨fun hlast => ?_, fun hlast hloop hcount => ?_, fun hlast hloop hcount => ?_,
    fun hlast hloop hleft => ?_, fun hlast hloop hleft => ?_⟩⟩
  · exact hnop.ends_with ((Hart.advance_noLoop hnone).trans (by rw [← hnone]))
  · exact hnop.ends_with (Hart.advance_away hls hlast)
  · exact hnop.ends_with (Hart.advance_again hls hlast hloop hcount)
  · exact nop_ends_as rfl rfl rfl (Hart.advance_popped hls hlast hloop hcount)
  · exact hnop.ends_with (Hart.advance_stripped hls hlast hloop hleft)
  · exact nop_ends_as rfl rfl rfl (Hart.advance_emptied hls hlast hloop hleft)

/-! ### SETVL -/

/-- Only what becomes of the hart in hand counts. -/
theorem Changes.congr {i : Instr} {s : State} {f g : Hart → Hart} {fl : BitVec 6} (h : Changes i s f fl) (hfg : f s.my = g s.my) :
    Changes i s g fl := by
  unfold Changes at h ⊢
  rwa [← hfg]

/-- g × VLMAX by the fields of VTYPE (R137, R138). -/
theorem vlLimit_eq (h : Hart) {e : BitVec 3} {g : BitVec 2} (hv : h.ctl.vtype = g ++ e) :
    h.vlLimit = Claim.groupLength h.sup.vlcap.toNat e g := by
  have he := e.isLt
  have hvtype : (g ++ e).toNat = 8 * g.toNat + e.toNat := by
    rw [BitVec.toNat_append, ← Nat.shiftLeft_add_eq_or_of_lt he, Nat.shiftLeft_eq, Nat.mul_comm]
  rw [Hart.vlLimit, hv, Claim.groupLength, groupOf, vlmaxOf, hvtype, show (8 * g.toNat + e.toNat) / 8 = g.toNat by omega,
    show (8 * g.toNat + e.toNat) % 8 = e.toNat by omega]

/-- Settles O9: VL is bounded under the new type. -/
theorem setvlForms : Obligations.SetvlForms := by
  unfold Obligations.SetvlForms
  intro s d a e g vl
  refine ⟨fun he => ?_, fun he => traps_of_eq rfl rfl (by decide) (by decide) (if_pos he)⟩
  refine (changes_of_commits rfl (Hart.badRow_nil _) (if_neg (not_lt.2 he))).congr ?_
  have hlimit := vlLimit_eq (s.my.modCtl fun c => { c with vtype := g ++ e }) rfl
  dsimp only
  rw [hlimit]
  rfl

end Sys2Proof.Machine
end

section
/-! SUPPORT. GETC, SETC and SETCI (R212, R237 to R239): the gate of the control words, and which values they take. For O10. -/

namespace Sys2Proof.Machine

/-! ### The gate -/

theorem ctlPrivileged_iff (n : Nat) : ctlPrivileged n = true ↔ 0x100 ≤ n ∧ n ≤ 0x10A := by simp [ctlPrivileged]

theorem Hart.flagsPending_iff (h : Hart) : h.flagsPending = true ↔ h.opas ≠ [] ∨ h.long ≠ none := by
  simp [Hart.flagsPending, Option.isSome_iff_ne_none]

/-- A word of S and F at level U (R212). -/
theorem ctlGate_privileged {s : State} {n : Nat} (hn : 0x100 ≤ n ∧ n ≤ 0x10A) (hlevel : s.my.level = .u) (r : Res) :
    ctlGate s n r = .trap 0x04 0 := by
  unfold ctlGate
  rw [if_pos (by simp [(ctlPrivileged_iff n).2 hn, hlevel])]

section
variable {s : State} {n : Nat} (hopen : s.my.level ≠ .u ∨ n < 0x100 ∨ 0x10A < n)
include hopen

theorem not_privileged : ¬(ctlPrivileged n && s.my.level == .u) = true := by
  simp only [Bool.and_eq_true, ctlPrivileged_iff, beq_iff_eq, not_and]
  exact fun hn hlevel => hopen.elim (· hlevel) fun h => by omega

theorem ctlGate_trap : ctlGate s n (.trap 0x03 0) = .trap 0x03 0 := by
  rw [ctlGate, if_neg (not_privileged hopen)]

theorem ctlGate_commit (hready : n = 5 → s.my.opas = [] ∧ s.my.long = none) (c : Commit) : ctlGate s n (.commit c) = .commit c := by
  have hpending : ¬(n = 5 ∧ s.my.flagsPending = true) := fun ⟨hn, hp⟩ => by
    obtain ⟨hopas, hlong⟩ := hready hn
    exact ((s.my.flagsPending_iff).1 hp).elim (· hopas) (· hlong)
  simp only [ctlGate, if_neg (not_privileged hopen), if_neg hpending]

omit hopen in
/-- FFLAGS waits for the flags of earlier operations (R237). -/
theorem ctlGate_pending (hpending : s.my.opas ≠ [] ∨ s.my.long ≠ none) (c : Commit) : ctlGate s 5 (.commit c) = .stall := by
  simp only [ctlGate, if_neg (not_privileged (s := s) (n := 5) (.inr (.inl (by decide)))), (s.my.flagsPending_iff).2 hpending,
    and_self, if_true]

end

/-! ### GETC -/

theorem gives_getc {s : State} {n : Nat} {v : Word} (d : SReg) (hn : n < 2 ^ 12)
    (hopen : s.my.level ≠ .u ∨ n < 0x100 ∨ 0x10A < n) (hready : n = 5 → s.my.opas = [] ∧ s.my.long = none)
    (hread : s.ctlRead s.cur n = some v) : Gives (.getc d (BitVec.ofNat 12 n)) s d v := by
  have htoNat : (BitVec.ofNat 12 n).toNat = n := Nat.mod_eq_of_lt hn
  refine gives_of_eq (op := opGetc d (BitVec.ofNat 12 n)) rfl rfl ?_ rfl
  rw [opGetc, htoNat, hread]
  exact ctlGate_commit hopen hready _

/-- A word that stands at every level and that no operation is still to change (R238). -/
theorem gives_getc_user {s : State} {n : Nat} {v : Word} (d : SReg) (hn : n < 0x100 ∧ n ≠ 5)
    (hread : s.ctlRead s.cur n = some v) : Gives (.getc d (BitVec.ofNat 12 n)) s d v :=
  gives_getc d (by omega) (.inr (.inl hn.1)) (fun h => absurd h hn.2) hread

/-- A word of S and F (R239). -/
theorem gives_getc_system {s : State} {n : Nat} {v : Word} (d : SReg) (hlevel : s.my.level ≠ .u) (hn : 5 < n ∧ n < 2 ^ 12)
    (hread : s.ctlRead s.cur n = some v) : Gives (.getc d (BitVec.ofNat 12 n)) s d v :=
  gives_getc d hn.2 (.inl hlevel) (fun h => by omega) hread

/-- A number that neither table lists (R237). -/
theorem ctlRead_unlisted (s : State) (k : Nat) {n : Nat}
    (hn : (0x009 ≤ n ∧ n < 0x010) ∨ (0x012 ≤ n ∧ n < 0x020) ∨ (0x023 ≤ n ∧ n < 0x030) ∨ (0x035 ≤ n ∧ n < 0x040) ∨
      (0x042 ≤ n ∧ n < 0x050) ∨ (0x052 ≤ n ∧ n < 0x100) ∨ 0x10B ≤ n) : s.ctlRead k n = none := by
  unfold State.ctlRead
  dsimp only
  split <;> simp only [reduceCtorEq] <;> omega

theorem getcForms : Claim.GetcForms := by
  intro s d h c p reads
  refine ⟨?_, ?_, ?_, ?_, ?_, ?_, ?_, ?_, ?_, ?_, ?_, ?_, ?_, ?_, ?_, ?_, ?_, ?_, ?_, ?_, ?_, ?_, fun hopas hlong => ?_,
    fun hpending => ?_, fun hlevel => ?_, fun n => ⟨fun hlevel hlo hhi => ?_, fun hn => ?_⟩⟩
  case refine_11 => exact gives_getc_user d (by decide) (congrArg some (BitVec.ofNat_toNat ..))
  case refine_23 => exact gives_getc d (by decide) (.inr (.inl (by decide))) (fun _ => ⟨hopas, hlong⟩) rfl
  case refine_24 => exact stalls_of_stall rfl (Hart.badRow_nil _) (ctlGate_pending hpending _)
  case refine_25 => and_intros <;> exact gives_getc_system d hlevel (by decide) rfl
  case refine_26 => exact traps_of_eq rfl rfl (by decide) (by decide) (ctlGate_privileged ⟨hlo, hhi⟩ hlevel _)
  case refine_27 =>
    refine traps_of_eq (op := opGetc d n) rfl rfl (by decide) (by decide) ?_
    rw [opGetc, ctlRead_unlisted s s.cur hn]
    exact ctlGate_trap (by omega)
  all_goals exact gives_getc_user d (by decide) rfl

/-! ### SETC and SETCI -/

/-- The effect of a write agrees with what is accepted and written for a number. -/
def Takes (p : Option (Prop × (Hart → Hart))) (r : Option (Hart → Hart)) : Prop :=
  (p = none → r = none) ∧ ∀ ok f, p = some (ok, f) → (¬ok → r = none) ∧ (ok → r = some f)

theorem takes_none : Takes none none := ⟨fun _ => rfl, fun _ _ h => nomatch h⟩

theorem takes_some (f : Hart → Hart) : Takes (some (True, f)) (some f) := by
  refine ⟨fun h => (nomatch h), fun ok g h => ?_⟩
  obtain ⟨rfl, rfl⟩ := Prod.mk.inj (Option.some.inj h)
  exact ⟨fun h => absurd trivial h, fun _ => rfl⟩

theorem takes_accept {b : Bool} {ok : Prop} {f g : Hart → Hart} (hb : b = true ↔ ok) (hf : f = g) :
    Takes (some (ok, g)) (accept b f) := by
  refine ⟨fun h => (nomatch h), fun ok' g' h => ?_⟩
  obtain ⟨rfl, rfl⟩ := Prod.mk.inj (Option.some.inj h)
  exact ⟨fun hok => if_neg (hb.not.2 hok), fun hok => (if_pos (hb.2 hok)).trans (congrArg some hf)⟩

/-- The model writes what R237 to R239 accept. -/
theorem takes_ctlWrite (n : Nat) (w : Word) : Takes (Claim.writable n w.toNat) (ctlWrite n w) := by
  unfold Claim.writable ctlWrite
  simp only [BitVec.ofNat_toNat, BitVec.setWidth_eq]
  split
  case h_1 => exact takes_accept (by simp [vtypeOk, Nat.lt_succ_iff, and_comm]) rfl
  case h_4 | h_6 | h_14 | h_15 => exact takes_some _
  case h_8 => exact takes_accept (by simp [vlcapOk, or_assoc]) rfl
  case h_18 => exact takes_none
  all_goals exact takes_accept (by simp) rfl

/-- SRSEED has no part in the end of a bundle (R233, R240). -/
theorem Hart.advance_srseed (h : Hart) (x pc : Word) :
    ((h.modCtl fun c => { c with srseed := x }).advance pc none).1 = (h.advance pc none).1.modCtl fun c => { c with srseed := x } := by
  have hframe := Hart.advance_frame h pc
  have hframe' := Hart.advance_frame (h.modCtl fun c => { c with srseed := x }) pc
  obtain ⟨hpc, hloops, hvl, hstrip⟩ := advance_rest h (h.modCtl fun c => { c with srseed := x }) pc rfl rfl rfl
  dsimp only at hframe hframe'
  rw [hframe', hframe, hpc, hloops, hvl, hstrip]
  rfl

/-- SRSEED is written after the bundle's other operations, which comes to the same (R240). -/
theorem changes_srseed {i : Instr} {s : State} {op : Op} {x : Word} (he : exec i s = s.runOne i op) (hrows : rowSrc s i = [])
    (ho : op ⟨s.my.pc, 0⟩ s = .commit { run := id, after := fun t => t.modMy (·.modCtl fun c => { c with srseed := x }) }) :
    Changes i s (·.modCtl fun c => { c with srseed := x }) 0 := by
  refine runs_mono (runs_idle he (hrows ▸ Hart.badRow_nil _) ho) fun t ⟨v, ht, hout, hcore, hmy⟩ => ?_
  subst ht
  refine ⟨hout.modMy _, hcore.modMy _, ?_⟩
  rw [State.my_modMy, Hart.modCtl_orFlags_zero, Hart.advance_srseed, hmy]
  rfl

section
variable {i : Instr} {s : State} {op : Op} {n : BitVec 12} {w : Word} (he : exec i s = s.runOne i op)
  (hrows : rowSrc s i = []) (ho : op ⟨s.my.pc, 0⟩ s = ctlStore s n.toNat w)
include he hrows ho

theorem store_privileged (hlevel : s.my.level = .u) (hn : 0x100 ≤ n.toNat ∧ n.toNat ≤ 0x10A) : Traps i s 0x04 0 4 :=
  traps_of_eq he hrows (by decide) (by decide) (ho.trans (ctlGate_privileged hn hlevel _))

theorem store_refused (hopen : s.my.level ≠ .u ∨ n.toNat < 0x100 ∨ 0x10A < n.toNat) (hw : ctlWrite n.toNat w = none) :
    Traps i s 0x03 0 4 := by
  refine traps_of_eq he hrows (by decide) (by decide) (ho.trans ?_)
  rw [ctlStore, hw]
  exact ctlGate_trap hopen

theorem store_changes (hopen : s.my.level ≠ .u ∨ n.toNat < 0x100 ∨ 0x10A < n.toNat)
    (hready : n = 5 → s.my.opas = [] ∧ s.my.long = none) {f : Hart → Hart} (hw : ctlWrite n.toNat w = some f) :
    Changes i s f 0 := by
  have hready' : n.toNat = 5 → s.my.opas = [] ∧ s.my.long = none := fun h => hready (BitVec.eq_of_toNat_eq h)
  by_cases hseed : n.toNat = 7
  · rw [hseed] at hw
    obtain rfl := Option.some.inj hw
    refine changes_srseed he hrows (ho.trans ?_)
    rw [ctlStore, hseed]
    exact ctlGate_commit (.inr (.inl (by decide))) (fun h => absurd h (by decide)) _
  · refine changes_of_commits (cut := false) he (hrows ▸ Hart.badRow_nil _) (ho.trans ?_)
    rw [ctlStore, hw]
    dsimp only
    rw [if_neg hseed]
    exact ctlGate_commit hopen hready' _

theorem store_stalls (hn : n = 5) (hpending : s.my.opas ≠ [] ∨ s.my.long ≠ none) : Stalls i s := by
  subst hn
  exact stalls_of_stall he (hrows ▸ Hart.badRow_nil _) (ho.trans (ctlGate_pending hpending _))

end

theorem setcForms : Claim.SetcForms := by
  intro s a n imm sets
  have hsets {i : Instr} {op : Op} {w : Word} (he : exec i s = s.runOne i op) (hrows : rowSrc s i = [])
      (ho : op ⟨s.my.pc, 0⟩ s = ctlStore s n.toNat w) : sets i w.toNat := by
    refine ⟨fun hlevel hlo hhi => store_privileged he hrows ho hlevel ⟨hlo, hhi⟩, fun hopen => ?_⟩
    obtain ⟨hnone, hsome⟩ := takes_ctlWrite n.toNat w
    split
    next hw => exact store_refused he hrows ho hopen (hnone hw)
    next ok f hw =>
      obtain ⟨hbad, hok⟩ := hsome ok f hw
      exact ⟨fun h => store_refused he hrows ho hopen (hbad h),
        fun h hready => store_changes he hrows ho hopen hready (hok h), store_stalls he hrows ho⟩
  refine ⟨hsets rfl rfl rfl, ?_⟩
  have himm : (imm.setWidth 64).toNat = imm.toNat := BitVec.toNat_setWidth_of_le (by decide)
  rw [← himm]
  exact hsets rfl rfl rfl

/-- Settles O10: the words read as the tables list them, and the model's writes are those that the tables accept. -/
theorem controlWordForms : Obligations.ControlWordForms := ⟨getcForms, setcForms⟩

end Sys2Proof.Machine
end

section
/-! SUPPORT. SVC and BRK (R241), WFI, RCFLUSH, ERRLOG and KEYSEL (R242 to R244, R246). For O43 and O46. -/

namespace Sys2Proof.Machine

/-! ### SVC and BRK -/

/-- The trap of SVC, which names the next bundle (R241). -/
def svcTrap (pc : Word) : Trap := { cause := 0x18, addr := 0, slot := some 0, pc := pc, save := false }

/-- Settles O43: SVC's trap is taken by the hart at its next bundle. -/
theorem callAndBreakpoint : Obligations.CallAndBreakpoint := by
  unfold Obligations.CallAndBreakpoint
  intro s c h next
  refine ⟨traps_of_eq rfl rfl (by decide) (by decide) rfl, ?_⟩
  refine runs_mono (runs_idle (op := opSvc c) rfl (Hart.badRow_nil _) rfl) fun t ⟨v, ht, hout, hcore, hmy⟩ => ?_
  have htrap : t = v.modMy (·.enter (svcTrap v.my.pc) false) := ht.trans (State.trap_plain _ _ rfl)
  have hmine : t.my = v.my.enter (svcTrap v.my.pc) false := by rw [htrap, State.my_modMy]
  have hcause : t.my.sup.trapcause.toNat = 0x18 + 2 ^ 8 * levelCode v.my.level :=
    (congrArg (·.sup.trapcause.toNat) hmine).trans (Hart.enter_trapcause (t := svcTrap v.my.pc) (show 0x18 < 256 by decide) false)
  refine ⟨?_, ?_, ?_, ?_, ?_, ?_, ?_, Hart.rx_congr ?_, ?_, ?_, ?_, ?_, htrap ▸ hout.modMy _, htrap ▸ hcore.modMy _⟩
  case refine_1 =>
    rw [hcause, hmy]
    rfl
  all_goals
    rw [hmine, hmy]
    rfl

/-! ### A change of the core in hand -/

theorem OutsideKept.trans {s t u : State} (h : OutsideKept s t) (g : OutsideKept t u) : OutsideKept s u := by
  obtain ⟨hmem, hdies, hflights, habsent, hranges, hharbour, hlink, hptp, hmaster, hkept, hcur, hagenda, hdelay, hcount,
    hcores⟩ := h
  obtain ⟨gmem, gdies, gflights, gabsent, granges, gharbour, glink, gptp, gmaster, gkept, gcur, gagenda, gdelay, gcount,
    gcores⟩ := g
  exact ⟨gmem.trans hmem, gdies.trans hdies, gflights.trans hflights, gabsent.trans habsent, granges.trans hranges,
    gharbour.trans hharbour, glink.trans hlink, gptp.trans hptp, gmaster.trans hmaster, gkept.trans hkept, gcur.trans hcur,
    gagenda.trans hagenda, gdelay.trans hdelay, gcount.trans hcount,
    fun k hk => (gcores k (hcur ▸ hk)).trans (hcores k hk)⟩

theorem OutsideKept.modCore_cur (s : State) (f : Core → Core) : OutsideKept s (s.modCore s.cur f) :=
  ⟨rfl, rfl, rfl, rfl, rfl, rfl, rfl, rfl, rfl, rfl, rfl, rfl, rfl, rfl, fun _ hk => State.core_modCore_ne _ _ hk⟩

/-- Where all outside the core in hand is as it was, the end of a bundle is what R172 and R233 say of the core and its hart. -/
theorem ends_of_outsideKept {s t : State} {f : Hart → Hart} {core : Core → Core} (hout : OutsideKept s t)
    (hcore : CoreKept (core s.me) t.me)
    (hmy : t.my = { ((f s.my).advance s.my.pc none).1 with
      wait := .none, ewait := .none, passed := none, interval := t.my.interval }) :
    OutsideKept s t ∧ Claim.Ends s t f core := by
  have hkept := hout
  obtain ⟨hmem, -, hflights, -, -, -, hlink, hptp, hmaster, hkept', hcur, -, -, -, hcores⟩ := hkept
  exact ⟨hout, hmem, hflights, hlink, hptp, hmaster, hkept', hcur, hcores, hcore, hmy⟩

/-- An operation whose whole effect is a change of its core (R172). -/
theorem ends_of_modCore {i : Instr} {s : State} {op : Op} {f : Hart → Hart} {core : Core → Core} {g : State → State}
    {c : Core} (he : exec i s = s.runOne i op) (hrows : rowSrc s i = []) (ho : op ⟨s.my.pc, 0⟩ s = commits g)
    (hg : g { s with raised := 0 } = ({ s with raised := 0 } : State).modCore s.cur fun _ => c)
    (hc : c = { core s.me with hart := f s.my }) : Runs i s fun t => OutsideKept s t ∧ Claim.Ends s t f core := by
  refine runs_mono (runs_commitAll he (hrows ▸ Hart.badRow_nil _) ho hg rfl) fun t ⟨v, ht, hout, hcore, hmy⟩ => ?_
  subst ht hc
  have hme : (({ s with raised := 0 } : State).modCore s.cur fun _ => { core s.me with hart := f s.my }).me =
      { core s.me with hart := f s.my } := State.core_modCore_same ..
  have hmy' : (({ s with raised := 0 } : State).modCore s.cur fun _ => { core s.me with hart := f s.my }).my = f s.my :=
    congrArg Core.hart hme
  have hraised : (({ s with raised := 0 } : State).modCore s.cur fun _ => { core s.me with hart := f s.my }).raised = 0 := rfl
  rw [hme] at hcore
  rw [hmy', hraised, Hart.modCtl_orFlags_zero] at hmy
  exact ends_of_outsideKept ((OutsideKept.modCore_cur { s with raised := 0 } _).trans hout) hcore hmy

theorem ends_wfi (s : State) :
    Runs .wfi s fun t => OutsideKept s t ∧ Claim.Ends s t id fun c => { c with wfi := true, waited := 0 } := by
  refine runs_mono (runs_idle (op := opWfi) rfl (Hart.badRow_nil _) rfl) fun t ⟨v, ht, hout, hcore, hmy⟩ => ?_
  subst ht
  have hme : (v.modCore v.cur fun c => { c with wfi := true, waited := 0 }).me = { v.me with wfi := true, waited := 0 } :=
    State.core_modCore_same ..
  have hmy' : (v.modCore v.cur fun c => { c with wfi := true, waited := 0 }).my = v.my :=
    (congrArg Core.hart hme).trans rfl
  obtain ⟨hcore, hqueue⟩ := hcore
  refine ends_of_outsideKept (hout.trans (OutsideKept.modCore_cur v _)) ?_ (by rw [hmy']; exact hmy)
  rw [hme]
  exact ⟨by rw [hcore], hqueue⟩

theorem ends_rcflush (s : State) : Runs .rcflush s fun t => OutsideKept s t ∧ Claim.Ends s t id fun c => { c with cache := [] } :=
  ends_of_modCore rfl rfl rfl rfl rfl

/-! ### ERRLOG -/

/-- A number written bit by bit. -/
theorem bitSum_bits (b : Nat → Bool) (n : Nat) :
    ((List.range n).map fun i => if b i then 2 ^ i else 0).sum < 2 ^ n ∧
      ∀ j, j < n → ((List.range n).map fun i => if b i then 2 ^ i else 0).sum.testBit j = b j := by
  induction n with
  | zero => simp
  | succ n ih =>
    obtain ⟨hlt, hbit⟩ := ih
    rw [List.range_succ, List.map_append, List.sum_append, List.map_singleton, List.sum_singleton]
    generalize ((List.range n).map fun i => if b i then 2 ^ i else 0).sum = x at hlt hbit
    cases hb : b n
    · refine ⟨by simp only [Bool.false_eq_true, if_false]; omega, fun j hj => ?_⟩
      obtain hj | rfl := Nat.lt_succ_iff_lt_or_eq.1 hj
      · simpa using hbit j hj
      · simpa [hb] using Nat.testBit_lt_two_pow hlt
    · refine ⟨by simp only [if_true]; omega, fun j hj => ?_⟩
      rw [if_pos rfl, Nat.add_comm]
      obtain hj | rfl := Nat.lt_succ_iff_lt_or_eq.1 hj
      · rw [Nat.testBit_two_pow_add_gt hj, hbit j hj]
      · rw [Nat.testBit_two_pow_add_eq, Nat.testBit_lt_two_pow hlt, hb]
        rfl

/-- The status word of the error log: a bit for each entry, and the count of errors lost (R246). -/
theorem logWord_status (c : Core) {a : Word} (ha : a.getLsbD 7 = true) :
    (∀ j, j < 16 → (c.logWord a).getLsbD j = (c.errlog.get j).info.getLsbD 63) ∧
      (c.logWord a).toNat / 2 ^ 16 = c.logOver.toNat := by
  obtain ⟨hlt, hbit⟩ := bitSum_bits (fun i => (c.errlog.get i).info.getLsbD 63) 16
  have hover := c.logOver.isLt
  have hword : (c.logWord a).toNat =
      2 ^ 16 * c.logOver.toNat + ((List.range 16).map fun i => if (c.errlog.get i).info.getLsbD 63 then 2 ^ i else 0).sum := by
    rw [Core.logWord, if_pos ha, BitVec.toNat_ofNat]
    simp only [pack]
    omega
  refine ⟨fun j hj => ?_, by omega⟩
  rw [← BitVec.testBit_toNat, hword, Nat.testBit_two_pow_mul_add _ hlt, if_pos hj, hbit j hj]

/-- A word of an entry, where the entry is in use (R246). -/
theorem logWord_entry (c : Core) {a : Word} (ha : a.getLsbD 7 = false) {e : LogEnt} (he : c.errlog.get (a.toNat % 16) = e) :
    c.logWord a = if e.info.getLsbD 63 then [e.addr, e.time, e.info, e.pc].getD (a.toNat / 16 % 4) 0 else 0 := by
  have hlt : a.toNat / 16 % 4 < 4 := Nat.mod_lt _ (by decide)
  rw [Core.logWord, ha, if_neg Bool.false_ne_true, he]
  generalize a.toNat / 16 % 4 = m at hlt ⊢
  cases e.info.getLsbD 63
  · rfl
  · match m, hlt with
    | 0, _ => rfl
    | 1, _ => rfl
    | 2, _ => rfl
    | 3, _ => rfl

theorem logFree_hart (c : Core) (a : Word) : (c.logFree a).hart = c.hart := by
  unfold Core.logFree
  split
  · rfl
  · split <;> rfl

/-- ERRLOG where its operand is one (R246). -/
theorem ends_errlog {s : State} {d a : SReg} {core : Core → Core}
    (hok : ¬(256 ≤ (s.my.rx a).toNat ∨ ((s.my.rx a).getLsbD 7 = true ∧ (s.my.rx a).toNat % 64 ≠ 0)))
    (hfree : s.me.logFree (s.my.rx a) = core s.me) :
    Runs (.errlog d a) s fun t => OutsideKept s t ∧ Claim.Ends s t (·.wx d (s.me.logWord (s.my.rx a))) core := by
  refine ends_of_modCore (op := opErrlog d a) rfl rfl (if_neg hok) rfl ?_
  change { s.me.logFree (s.my.rx a) with
    hart := (s.me.logFree (s.my.rx a)).hart.wx d (s.me.logWord (s.my.rx a)) } = _
  rw [logFree_hart, hfree]
  rfl

/-! ### KEYSEL -/

/-- The key that a block holds is installed for an owner (R244). -/
theorem State.installKey_eq {s : State} {pa : Nat} {b : BitVec 512} (owner : Nat) (hread : s.physRead pa 0 0 = .ok b) :
    s.installKey owner pa = s.modLink fun l => { l with keys := l.keys.put owner (b.toNat + 1) } := by
  simp only [State.installKey, hread]
  rfl

theorem opKeysel_eq {s : State} {a b : SReg} (oc : OpCtx) (hlevel : s.my.level = .f) (howner : (s.my.rx a).toNat ≠ 0)
    (hmax : (s.my.rx a).toNat ≤ 4095) (hal : (s.my.rx b).toNat % 64 = 0) :
    opKeysel a b oc s = commits fun t => t.installKey (s.my.rx a).toNat (s.my.rx b).toNat := by
  simp only [opKeysel, hlevel, bne_self_eq_false, Bool.false_eq_true, if_false, howner, not_lt.2 hmax, hal, ne_eq, not_true,
    or_self]

/-- KEYSEL changes nothing but the keys (R244). -/
theorem runs_keysel {s : State} {a b : SReg} {blk : BitVec 512} (hlevel : s.my.level = .f) (howner : (s.my.rx a).toNat ≠ 0)
    (hmax : (s.my.rx a).toNat ≤ 4095) (hal : (s.my.rx b).toNat % 64 = 0)
    (hread : s.physRead (s.my.rx b).toNat 0 0 = .ok blk) :
    Runs (.keysel a b) s fun t => RegsKept s.my t.my ∧ t.mem = s.mem ∧ t.dies = s.dies ∧ CoreKept s.me t.me ∧
      BundleEnds s.my t.my 0 ∧
      t.link = { s.link with keys := s.link.keys.put (s.my.rx a).toNat (blk.toNat + 1) } := by
  have hrun : ({ s with raised := 0 } : State).installKey (s.my.rx a).toNat (s.my.rx b).toNat =
      ({ s with raised := 0 } : State).modLink fun l => { l with keys := l.keys.put (s.my.rx a).toNat (blk.toNat + 1) } :=
    State.installKey_eq (s := { s with raised := 0 }) _ hread
  refine runs_mono (runs_commitAll (op := opKeysel a b) rfl (Hart.badRow_nil _) (opKeysel_eq _ hlevel howner hmax hal) hrun
    rfl) fun t ⟨v, ht, hout, hcore, hmy⟩ => ?_
  subst ht
  obtain ⟨hmem, hdies, -, -, -, -, hlink, -⟩ := hout
  obtain ⟨-, hend, hx, -, -⟩ := kept_of_advance (h := s.my) hmy
  exact ⟨Hart.rx_congr hx, hmem, hdies, hcore, hend, hlink⟩

/-- Settles O46: each operation's effect is its own, and the end of the bundle adds nothing outside the hart. -/
theorem coreServiceForms : Obligations.CoreServiceForms := by
  unfold Obligations.CoreServiceForms
  intro s d a b h v i e ends
  refine ⟨ends_wfi s, ends_rcflush s, fun hbad => ?_, fun hv => ?_, fun hv => ?_, fun hlevel => ?_, fun hlevel hbad => ?_,
    fun blk hlevel howner hmax hal hread => ?_⟩
  · exact traps_of_eq (op := opErrlog d a) rfl rfl (by decide) (by decide) (if_pos hbad)
  · have h7 : v.getLsbD 7 = false := Nat.testBit_lt_two_pow hv
    have hends := ends_errlog (s := s) (d := d) (a := a)
      (core := fun c => if v.getLsbD 6 then
        { c with errlog := c.errlog.mod i fun e => { e with info := e.info &&& ~~~(BitVec.twoPow 64 63) } } else c)
      (not_or.2 ⟨not_le.2 (hv.trans (by decide)), fun h => absurd (h7.symm.trans h.1) (by decide)⟩) ?_
    · rwa [logWord_entry s.me h7 rfl] at hends
    · have h6 : s.me.logFree v = if v.getLsbD 6 then
          { s.me with errlog := s.me.errlog.mod i fun e => { e with info := e.info &&& ~~~(BitVec.twoPow 64 63) } } else s.me := by
        unfold Core.logFree
        rw [h7]
        cases v.getLsbD 6 <;> rfl
      exact h6
  · have hbits : v.getLsbD 7 = true ∧ v.toNat % 64 = 0 ∧ v.getLsbD 6 = decide (v.toNat = 192) := by
      obtain hv | hv := hv
      · rw [show v = 128 from BitVec.eq_of_toNat_eq hv]
        decide
      · rw [show v = 192 from BitVec.eq_of_toNat_eq hv]
        decide
    obtain ⟨h7, hlow, h6⟩ := hbits
    have hsmall : v.toNat < 256 := by omega
    obtain ⟨hentries, hover⟩ := logWord_status s.me h7
    refine ⟨s.me.logWord v, hentries, hover, ends_errlog (not_or.2 ⟨not_le.2 hsmall, fun h => h.2 hlow⟩) ?_⟩
    unfold Core.logFree
    rw [show (s.my.rx a).getLsbD 6 = _ from h6, show (s.my.rx a).getLsbD 7 = _ from h7]
    by_cases hfree : v.toNat = 192
    · simp [hfree]
    · simp [hfree]
  · exact traps_of_eq (op := opKeysel a b) rfl rfl (by decide) (by decide) (if_pos (by simpa using hlevel))
  · refine traps_of_eq (op := opKeysel a b) rfl rfl (by decide) (by decide) ?_
    exact (if_neg (by simpa using hlevel)).trans (if_pos hbad)
  · refine runs_mono (runs_keysel hlevel howner hmax hal hread) fun t ⟨hregs, hmem, hdies, hcore, hend, hlink⟩ => ?_
    rw [hlink]
    exact ⟨hregs, hmem, hdies, hcore, hend, rfl, Tbl.get_put_same .., fun o ho => Tbl.get_put_ne _ _ ho⟩

end Sys2Proof.Machine
end

section
/-! SUPPORT. The state after reset (R51, R55, R100, R238, R239, R366). For O53. -/

namespace Sys2Proof.Machine

/-- After reset the firmware's core stands as R366 leaves it, and every other one has no hart (log 1). -/
theorem State.core_reset (k : Nat) : State.reset.core k = if k = 0 then Core.boot else {} := by
  by_cases h : k = 0
  · rw [if_pos h, h]
    rfl
  · rw [if_neg h]
    show Tbl.getD [(0, Core.boot)] k default = _
    unfold Tbl.getD
    rw [if_neg (Ne.symm h)]
    rfl

theorem State.die_reset (d : Nat) : State.reset.die d = {} := rfl

/-- Settles O53: a core after reset is one of two, and a die is the one that no table lists. -/
theorem resetState : Obligations.ResetState := by
  unfold Obligations.ResetState
  intro s
  refine ⟨State.reset_mem_wf, rfl, rfl, rfl, fun d => ?_, fun k => ?_⟩
  · rw [show s.die d = {} from State.die_reset d]
    decide
  · rw [show s.core k = _ from State.core_reset k]
    have hlog : (default : LogEnt).info.getLsbD 63 = false := by decide
    split
    all_goals exact ⟨rfl, rfl, rfl, rfl, rfl, fun _ => hlog, fun _ => rfl, rfl, rfl, rfl, rfl, rfl, rfl, rfl, rfl, rfl, rfl, rfl,
      rfl, rfl, rfl, rfl, rfl, rfl, rfl, rfl, rfl, rfl, fun _ => rfl⟩

end Sys2Proof.Machine
end

section
/-! SUPPORT. A core that HALT takes out of service (R245, R170). For O47. -/

namespace Sys2Proof.Machine

/-! ### Which cores are in service -/

/-- The same cores are in service. -/
structure StaysIn (s t : State) : Prop where
  core : ∀ k, (t.core k).inService = (s.core k).inService

namespace StaysIn

theorem refl (s : State) : StaysIn s s := ⟨fun _ => rfl⟩

theorem trans {s t u : State} (h : StaysIn s t) (g : StaysIn t u) : StaysIn s u :=
  ⟨fun k => (g.core k).trans (h.core k)⟩

theorem foldl {α : Type} {f : State → α → State} (hf : ∀ t a, StaysIn t (f t a)) (l : List α) (s : State) :
    StaysIn s (l.foldl f s) :=
  List.foldlRecOn (motive := StaysIn s) l f (refl s) fun t ht a _ => ht.trans (hf t a)

theorem modDie (s : State) (d : Nat) (f : Die → Die) : StaysIn s (s.modDie d f) := ⟨fun _ => rfl⟩

theorem modHarbour (s : State) (f : Harbour → Harbour) : StaysIn s (s.modHarbour f) := ⟨fun _ => rfl⟩

theorem modCore (s : State) (k : Nat) {f : Core → Core} (hf : ∀ c, (f c).inService = c.inService) :
    StaysIn s (s.modCore k f) := by
  refine ⟨fun j => ?_⟩
  by_cases hj : j = k
  · subst hj
    rw [State.core_modCore_same, hf]
  · rw [State.core_modCore_ne _ _ hj]

theorem withKept {s t : State} (h : StaysIn s t) (kept : List Kept) : StaysIn s { t with kept := kept } := ⟨h.core⟩

end StaysIn

/-! ### What a context's data may leave behind -/

/-- Data of contexts may have been stored; of a core its scratchpad, its staging slot and its resident context may differ, and a
die's management log. -/
structure Stows (s t : State) : Prop where
  harbour : t.harbour = s.harbour
  dieIn : ∀ d, (t.die d).inService = (s.die d).inService
  core : ∀ k, t.core k = { s.core k with
    scr := (t.core k).scr, scrMarks := (t.core k).scrMarks, staging := (t.core k).staging, resident := (t.core k).resident }

namespace Stows

theorem refl (s : State) : Stows s s := ⟨rfl, fun _ => rfl, fun _ => rfl⟩

theorem trans {s t u : State} (h : Stows s t) (g : Stows t u) : Stows s u :=
  ⟨g.harbour.trans h.harbour, fun d => (g.dieIn d).trans (h.dieIn d), fun k => by rw [g.core k, h.core k]⟩

theorem staysIn {s t : State} (h : Stows s t) : StaysIn s t := ⟨fun k => by rw [h.core k]⟩

theorem modCore (s : State) (k : Nat) {f : Core → Core}
    (hf : ∀ c, f c = { c with staging := (f c).staging, resident := (f c).resident }) : Stows s (s.modCore k f) := by
  refine ⟨rfl, fun _ => rfl, fun j => ?_⟩
  by_cases hj : j = k
  · subst hj
    rw [State.core_modCore_same, hf]
  · rw [State.core_modCore_ne _ _ hj]

end Stows

theorem OnlyStored.stows {s t : State} (h : OnlyStored s t) : Stows s t :=
  ⟨by rw [h.1], h.sameService.inService, fun k => by rw [h.2 k]⟩

theorem State.drainStops_stows (s : State) (k : Nat) (g : Staging) (cause off mark : Nat) (rest : List (Nat × Nat × Nat)) :
    Stows s (s.drainStops k g cause off mark rest) := by
  have hheld : Stows s (s.modCore k fun c => { c with staging := some { g with held := true, progress := mark, chunks := rest } }) :=
    .modCore s k fun _ => rfl
  have hlog (t : State) (e : LogEnt) : Stows t (t.modDie (dieOf k) (·.log e)) :=
    ⟨rfl, (SameService.modDie _ _ fun v => v.log_inService _).inService, fun _ => rfl⟩
  unfold State.drainStops
  dsimp only
  refine Stows.trans ?_ (hlog ..)
  split
  · next h => exact hheld.trans (State.areaPut_onlyStored h).stows
  · exact hheld

/-- The drain of a staging slot (R192). -/
theorem State.drain_stows (s : State) (k : Nat) : Stows s (s.drain k) := by
  unfold State.drain
  split
  · exact .refl s
  · next g _ =>
    have hchunks := (State.drainChunks_onlyStored g.area g.owner g.chunks s).stows
    split
    · exact .refl s
    · split
      · next h =>
        rw [h] at hchunks
        split
        · exact hchunks.trans (.modCore _ k fun _ => rfl)
        · split
          · next hput => exact (hchunks.trans (State.areaPut_onlyStored hput).stows).trans (.modCore _ k fun _ => rfl)
          · exact hchunks.trans (State.drainStops_stows ..)
      · next h =>
        rw [h] at hchunks
        exact hchunks.trans (State.drainStops_stows ..)

/-- The resident context's segments written back (R194): none is resident then. -/
theorem State.evictScratch_stows (s : State) (k : Nat) :
    Stows s (s.evictScratch k) ∧ ((s.evictScratch k).core k).resident = none := by
  obtain ⟨u, r, hu, heq⟩ := s.swapScratch_stores k 0 0 0 true
  unfold State.evictScratch
  rw [heq]
  exact ⟨(hu.stows.trans (.modCore u k fun _ => rfl)).trans (.modCore _ k fun _ => rfl), by rw [State.core_modCore_same]⟩

/-! ### The loss of an entry takes no core out of service -/

theorem Core.log_inService (c : Core) (e : LogEnt) : (c.log e).inService = c.inService := by
  unfold Core.log
  split <;> rfl

theorem State.saveContext_staysIn {s u : State} {k : Nat} {pc : Word} (h : s.saveContext k pc = some u) : StaysIn s u := by
  have hlog : StaysIn (s.drain k) ((s.drain k).logBadCells k) := .foldl (fun t _ => .modCore t k fun c => c.log_inService _) ..
  unfold State.saveContext at h
  dsimp only at h
  split at h
  · cases h
  · obtain rfl := Option.some.inj h
    refine ((s.drain_stows k).staysIn.trans hlog).trans (StaysIn.withKept ?_ _)
    exact .modCore _ k fun _ => rfl

theorem State.trap_staysIn (s : State) (k : Nat) (t : Trap) : StaysIn s (s.trap k t) := by
  unfold State.trap
  split
  · split
    · exact .refl s
    · next h => exact (State.saveContext_staysIn h).trans (.modCore _ k fun _ => rfl)
  · exact .modCore s k fun _ => rfl

theorem State.orphanTrap_staysIn (s : State) (k g : Nat) : StaysIn s (s.orphanTrap k g) := by
  have hdrain := (s.drain_stows k).staysIn
  unfold State.orphanTrap
  dsimp only
  split
  · exact hdrain
  · exact (hdrain.trans (State.trap_staysIn ..)).trans (.modCore _ k fun _ => rfl)

theorem State.freeSlot_staysIn (s : State) (d i : Nat) : StaysIn s (s.freeSlot d i) := by
  unfold State.freeSlot
  dsimp only
  split
  · exact .modDie ..
  · exact .refl s

theorem State.decrement_staysIn (s : State) (h : Word) : StaysIn s (s.decrement h) := by
  unfold State.decrement
  split
  · split
    · exact .modDie ..
    · exact .modDie ..
  · exact .modDie ..

theorem State.finishSlice_staysIn (s : State) (d i : Nat) : StaysIn s (s.finishSlice d i) :=
  ((StaysIn.foldl State.decrement_staysIn _ s).trans (.modDie ..)).trans (State.freeSlot_staysIn ..)

theorem State.leaveSlice_staysIn (s : State) (e : QEntry) (finished : Bool) : StaysIn s (s.leaveSlice e finished) := by
  unfold State.leaveSlice
  split
  · exact .refl s
  · dsimp only
    split
    · exact (StaysIn.modDie ..).trans (State.finishSlice_staysIn ..)
    · exact (StaysIn.modDie ..).trans (State.freeSlot_staysIn ..)

theorem State.dropEntry_staysIn (s : State) (k : Nat) (e : QEntry) : StaysIn s (s.dropEntry k e) := by
  have hdisown (t : State) : StaysIn t (t.disown e.owner e.area) := ⟨fun j => by rw [State.core_disown]; rfl⟩
  have hunreside (c : Core) : (c.unreside e.area).inService = c.inService := by
    unfold Core.unreside
    split
    · split <;> rfl
    · rfl
  unfold State.dropEntry
  dsimp only
  refine StaysIn.trans (StaysIn.trans (.modHarbour s (·.free e.owner e.area)) ?_) (hdisown _)
  refine .modCore _ k fun c => ?_
  split
  · exact hunreside _
  · exact hunreside _

theorem State.failSlice_staysIn (s : State) (h : Word) : StaysIn s (s.failSlice h) := by
  unfold State.failSlice
  split
  · exact .refl s
  · dsimp only
    refine StaysIn.trans (StaysIn.trans ?_ (.modHarbour ..)) (State.freeSlot_staysIn ..)
    refine StaysIn.trans ?_ (.foldl (fun t p => .foldl (fun t e => ?_) ..) ..)
    · split
      · refine StaysIn.trans (.modDie ..) (.foldl (fun t p => ?_) ..)
        split
        · exact State.orphanTrap_staysIn ..
        · exact .refl t
      · exact .modDie ..
    · split
      · exact (State.dropEntry_staysIn ..).trans (State.leaveSlice_staysIn ..)
      · exact .refl t

theorem State.dropMembers_staysIn (s : State) (h : Word) : StaysIn s (s.dropMembers h) :=
  .foldl (fun t p => .foldl (fun t e => by split; exacts [State.dropEntry_staysIn .., .refl t]) _ t) ..

theorem State.loseInstance_staysIn (s : State) (k : Nat) (e : QEntry) : StaysIn s (s.loseInstance k e) := by
  have hdrop := State.dropEntry_staysIn s k e
  unfold State.loseInstance
  split
  · exact hdrop
  · split
    · exact hdrop.trans (State.leaveSlice_staysIn ..)
    · split
      · exact hdrop.trans (State.leaveSlice_staysIn ..)
      · split
        · split
          · exact (State.dropMembers_staysIn ..).trans (.modDie ..)
          · exact hdrop.trans (.modDie ..)
        · exact (hdrop.trans (State.leaveSlice_staysIn ..)).trans (State.failSlice_staysIn ..)

/-! ### The entries of the core's queue -/

/-- Entries may have moved among the queues. -/
structure Shuffles (s t : State) : Prop where
  harbour : t.harbour = s.harbour
  core : ∀ k, t.core k = { s.core k with queue := (t.core k).queue, preempt := (t.core k).preempt }

namespace Shuffles

theorem refl (s : State) : Shuffles s s := ⟨rfl, fun _ => rfl⟩

theorem trans {s t u : State} (h : Shuffles s t) (g : Shuffles t u) : Shuffles s u :=
  ⟨g.harbour.trans h.harbour, fun k => by rw [g.core k, h.core k]⟩

theorem modCore (s : State) (k : Nat) {f : Core → Core}
    (hf : ∀ c, f c = { c with queue := (f c).queue, preempt := (f c).preempt }) : Shuffles s (s.modCore k f) := by
  refine ⟨rfl, fun j => ?_⟩
  by_cases hj : j = k
  · subst hj
    rw [State.core_modCore_same, hf]
  · rw [State.core_modCore_ne _ _ hj]

end Shuffles

/-- An entry that joins another core's queue leaves its own (R245). -/
def State.moveEntry (s : State) (k j : Nat) (e : QEntry) : State :=
  (s.modCore k fun c => { c with queue := c.queue.filter fun x => x.area != e.area }).modCore j fun c =>
    { c with queue := c.queue ++ [{ e with staged := false }] }.rerank

theorem State.moveEntry_shuffles (s : State) (k j : Nat) (e : QEntry) : Shuffles s (s.moveEntry k j e) := by
  refine Shuffles.trans ?_ (.modCore _ j fun c => ?_)
  · exact .modCore s k fun _ => rfl
  · obtain ⟨b, hb⟩ := Core.rerank_eq { c with queue := c.queue ++ [{ e with staged := false }] }
    rw [hb]

theorem State.moveEntries_shuffles (s : State) (k : Nat) : Shuffles s (s.moveEntries k) := by
  unfold State.moveEntries
  have hout : Shuffles s (s.modCore k fun c => c.modEntry (·.st == .running) fun e => { e with st := .out }) :=
    .modCore s k fun _ => rfl
  refine hout.trans ?_
  refine List.foldlRecOn (motive := Shuffles _) _ _ (.refl _) fun t ht e _ => ?_
  dsimp only
  split
  · next j _ => exact ht.trans (t.moveEntry_shuffles k j e)
  · exact ht

/-! ### The core that takes an entry -/

/-- The choice between the best core so far, with its entries at or above an entry, and one more (R157). -/
def State.better (s : State) (e : QEntry) (b : Option (Nat × Nat)) (k : Nat) : Option (Nat × Nat) :=
  if s.fits e k then
    match b with
    | none => some ((s.core k).above e, k)
    | some (m, j) => if (s.core k).above e < m then some ((s.core k).above e, k) else some (m, j)
  else b

theorem State.bestFor_eq (s : State) (e : QEntry) (ks : List Nat) : s.bestFor e ks = (ks.foldl (s.better e) none).map (·.2) := rfl

theorem State.better_of_fits {s : State} {e : QEntry} {k : Nat} (h : s.fits e k = true) (b : Option (Nat × Nat)) :
    ∃ p, s.better e b k = some p ∧ (p.2 = k ∨ b = some p) := by
  unfold State.better
  rw [if_pos h]
  split
  · exact ⟨_, rfl, .inl rfl⟩
  · split
    · exact ⟨_, rfl, .inl rfl⟩
    · exact ⟨_, rfl, .inr rfl⟩

theorem State.better_of_not_fits {s : State} {e : QEntry} {k : Nat} (h : ¬ s.fits e k = true) (b : Option (Nat × Nat)) :
    s.better e b k = b := if_neg h

theorem State.foldl_better {s : State} {e : QEntry} {P : Nat → Prop} {ks : List Nat}
    (hP : ∀ k ∈ ks, s.fits e k = true → P k) {b : Option (Nat × Nat)} (hb : ∀ p, b = some p → P p.2)
    (hsome : (∃ p, b = some p) ∨ ∃ j ∈ ks, s.fits e j = true) : ∃ p, ks.foldl (s.better e) b = some p ∧ P p.2 := by
  induction ks generalizing b with
  | nil =>
    obtain ⟨p, hp⟩ | ⟨j, hj, -⟩ := hsome
    · exact ⟨p, hp, hb p hp⟩
    · exact absurd hj List.not_mem_nil
  | cons k ks ih =>
    rw [List.foldl_cons]
    have hrest : ∀ j ∈ ks, s.fits e j = true → P j := fun j hj => hP j (List.mem_cons_of_mem _ hj)
    by_cases hk : s.fits e k = true
    · obtain ⟨p, hp, hwhich⟩ := State.better_of_fits hk b
      refine ih hrest (fun q hq => ?_) (.inl ⟨p, hp⟩)
      obtain rfl : p = q := Option.some.inj (hp.symm.trans hq)
      obtain rfl | hold := hwhich
      · exact hP _ List.mem_cons_self hk
      · exact hb p hold
    · rw [State.better_of_not_fits hk]
      refine ih hrest hb (hsome.imp_right ?_)
      rintro ⟨j, hj, hfits⟩
      obtain rfl | hj := List.mem_cons.1 hj
      · exact absurd hfits hk
      · exact ⟨j, hj, hfits⟩

/-- Where a core of some fits an entry, one of them that fits it is chosen (R157). -/
theorem State.bestFor_fits {s : State} {e : QEntry} {ks : List Nat} {j : Nat} (hj : j ∈ ks) (hfits : s.fits e j = true) :
    ∃ k ∈ ks, s.bestFor e ks = some k ∧ s.fits e k = true := by
  obtain ⟨p, hp, hmem, hfit⟩ := State.foldl_better (P := fun k => k ∈ ks ∧ s.fits e k = true) (b := none)
    (fun k hk hfit => ⟨hk, hfit⟩) (fun p hp => nomatch hp) (.inr ⟨j, hj, hfits⟩)
  exact ⟨p.2, hmem, by rw [State.bestFor_eq, hp]; rfl, hfit⟩

/-- The cores of a core's die, as the moves of its entries search them (R245). -/
theorem mem_dieCores {j k : Nat} : j ∈ (List.range 96).map (96 * dieOf k + ·) ↔ j / 96 = k / 96 := by
  rw [List.mem_map]
  unfold dieOf
  constructor
  · rintro ⟨i, hi, rfl⟩
    have := List.mem_range.1 hi
    omega
  · exact fun h => ⟨j % 96, List.mem_range.2 (by omega), by omega⟩

/-- One entry that waits on a core out of service joins the queue of a core of the die that fits it, and leaves its own (R245). -/
theorem State.moveEntries_one {s : State} {k j : Nat} {y : QEntry} (hqueue : (s.core k).queue = [y]) (hst : y.st ≠ .running)
    (hout : (s.core k).inService = false) (hj : j / 96 = k / 96) (hfits : s.fits y j = true) :
    ((s.moveEntries k).core k).queue = [] ∧
      ∃ i, i / 96 = k / 96 ∧ ∃ z ∈ ((s.moveEntries k).core i).queue, z.area = y.area ∧ z.handle = y.handle := by
  let u := s.modCore k fun c => c.modEntry (·.st == .running) fun e => { e with st := .out }
  have hcore (i : Nat) : u.core i = s.core i := by
    by_cases hi : i = k
    · subst hi
      have hmap : (s.core i).queue.map (fun e => if e.st == .running then { e with st := .out } else e) = (s.core i).queue := by
        simp [hqueue, hst]
      rw [State.core_modCore_same, Core.modEntry, hmap]
    · exact State.core_modCore_ne _ _ hi
  have hfitsEq (i : Nat) : u.fits y i = s.fits y i := by
    unfold State.fits
    rw [hcore]
    rfl
  obtain ⟨i, hi, hbest, hfit⟩ := State.bestFor_fits (mem_dieCores.2 hj) ((hfitsEq j).trans hfits)
  have hik : i ≠ k := by
    rintro rfl
    simp [State.fits, hcore, hout] at hfit
  have hmoves : s.moveEntries k = u.moveEntry k i y := by
    unfold State.moveEntries
    change (u.core k).queue.foldl _ u = _
    rw [hcore, hqueue, List.foldl_cons, List.foldl_nil, hbest]
    rfl
  obtain ⟨b, hb⟩ := Core.rerank_eq { u.core i with queue := (u.core i).queue ++ [{ y with staged := false }] }
  rw [hmoves, State.moveEntry]
  refine ⟨?_, i, mem_dieCores.1 hi, { y with staged := false }, ?_, rfl, rfl⟩
  · rw [State.core_modCore_ne _ _ hik.symm, State.core_modCore_same, hcore, hqueue]
    simp
  · rw [State.core_modCore_same, State.core_modCore_ne _ _ hik, hb]
    exact List.mem_append_right _ List.mem_cons_self

/-! ### HALT -/

/-- A core out of service, with the running entry lost unless its handler has saved it (R170, R245). -/
def State.haltLoss (s : State) (k : Nat) : State :=
  let t := s.modCore k fun c => { c with inService := false }
  match (t.core k).running with
  | some e => if (s.hart k).handler && (s.hart k).saved then t else t.loseInstance k e
  | none => t

/-- What HALT leaves of a core before its entries move (R245). -/
def State.haltCore (s : State) (k : Nat) : State := (((s.haltLoss k).drain k).evictScratch k).modCore k Core.idle

theorem State.halt_eq (s : State) (k : Nat) : s.halt k = (s.haltCore k).moveEntries k := rfl

theorem State.haltCore_idle (s : State) (k : Nat) :
    ((s.haltCore k).core k).active = false ∧ ((s.haltCore k).core k).resident = none := by
  rw [State.haltCore, State.core_modCore_same]
  exact ⟨rfl, (State.evictScratch_stows ..).2⟩

/-- The save and the eviction of a core that has lost its entry leave the rest (R192, R194). -/
theorem State.stows_haltLoss (s : State) (k : Nat) : Stows (s.haltLoss k) (((s.haltLoss k).drain k).evictScratch k) :=
  ((s.haltLoss k).drain_stows k).trans (State.evictScratch_stows ..).1

theorem State.haltLoss_staysIn (s : State) (k : Nat) :
    StaysIn (s.modCore k fun c => { c with inService := false }) (s.haltLoss k) := by
  unfold State.haltLoss
  dsimp only
  split
  · split
    · exact .refl _
    · exact State.loseInstance_staysIn ..
  · exact .refl _

theorem State.haltCore_staysIn (s : State) (k : Nat) :
    StaysIn (s.modCore k fun c => { c with inService := false }) (s.haltCore k) :=
  ((s.haltLoss_staysIn k).trans (s.stows_haltLoss k).staysIn).trans (.modCore _ k fun _ => rfl)

/-- A core that HALT has taken out of service (R245). -/
theorem State.halt_core (s : State) (k : Nat) :
    ((s.halt k).core k).active = false ∧ ((s.halt k).core k).resident = none ∧
      ∀ j, ((s.halt k).core j).inService = if j = k then false else (s.core j).inService := by
  have hmoves := ((s.haltCore k).moveEntries_shuffles k).core
  obtain ⟨hactive, hresident⟩ := s.haltCore_idle k
  rw [State.halt_eq]
  refine ⟨by rw [hmoves]; exact hactive, by rw [hmoves]; exact hresident, fun j => ?_⟩
  rw [hmoves j]
  refine ((s.haltCore_staysIn k).core j).trans ?_
  split
  · next hj => rw [hj, State.core_modCore_same]
  · next hj => rw [State.core_modCore_ne _ _ hj]

/-- The slice of an entry that HALT has stopped fails, unless it is placed anew (R170). -/
theorem State.halt_fails {s : State} {k d i : Nat} {e : QEntry} {v : Slot} (hrun : (s.core k).running = some e)
    (hhandler : (s.hart k).handler = false) (hslot : s.slotOf e.handle = some (d, i, v)) (hfail : v.failed = false)
    (hfin : v.finished = false) (hre : v.reissue = false) : e.handle ∈ (s.halt k).harbour.failed := by
  let t := s.modCore k fun c => { c with inService := false }
  have hst : e.st = .running := by simpa using List.find?_some hrun
  have hrun' : (t.core k).running = some e := (congrArg Core.running (State.core_modCore_same ..)).trans hrun
  have hslot' : t.slotOf e.handle = some (d, i, v) := hslot
  have hloss : s.haltLoss k = ((t.dropEntry k e).leaveSlice e false).failSlice e.handle := by
    have hlose : s.haltLoss k = t.loseInstance k e := by
      simp only [State.haltLoss, hhandler]
      rw [show ((s.modCore k fun c => { c with inService := false }).core k).running = some e from hrun']
      rfl
    rw [hlose, State.loseInstance, hslot']
    simp [hst, hfail, hre]
  have hgoes : ((t.dropEntry k e).leaveSlice e false).HasSlice e.handle :=
    State.hasSlice_leaveSlice (State.hasSlice_of_slotOf ((State.slotOf_dropEntry ..).trans hslot') hfail hfin) e
  obtain ⟨-, hreported, -⟩ := State.failSlice_ends hgoes
  have hharbour : (s.halt k).harbour = (s.haltLoss k).harbour :=
    (State.moveEntries_shuffles ..).harbour.trans (s.stows_haltLoss k).harbour
  rw [hharbour, hloss]
  exact hreported

/-- An entry that waits on a core that HALT takes out of service moves to one of its die that fits it (R245). -/
theorem State.halt_moves {s : State} {k j : Nat} {y : QEntry} (hqueue : (s.core k).queue = [y]) (hst : y.st ≠ .running)
    (hjk : j ≠ k) (hj : j / 96 = k / 96) (hfits : s.fits y j = true) :
    ((s.halt k).core k).queue = [] ∧
      ∃ i, i / 96 = k / 96 ∧ ∃ z ∈ ((s.halt k).core i).queue, z.area = y.area ∧ z.handle = y.handle := by
  let t := s.modCore k fun c => { c with inService := false }
  have hidle : (t.core k).running = none := by
    rw [State.core_modCore_same, Core.running]
    simp [hqueue, hst]
  have hloss : s.haltLoss k = t := by
    unfold State.haltLoss
    dsimp only
    rw [hidle]
  have hstows := s.stows_haltLoss k
  have hmine : ((s.haltCore k).core k).queue = [y] := by
    rw [State.haltCore, State.core_modCore_same, hstows.core, hloss, State.core_modCore_same]
    exact hqueue
  have hout : ((s.haltCore k).core k).inService = false := by
    rw [(s.haltCore_staysIn k).core, State.core_modCore_same]
  have hfits' : (s.haltCore k).fits y j = s.fits y j := by
    have hcore : (s.haltCore k).core j = _ := (State.core_modCore_ne _ Core.idle hjk).trans (hstows.core j)
    have hdie : ((s.haltCore k).die (dieOf j)).inService = (s.die (dieOf j)).inService :=
      (hstows.dieIn (dieOf j)).trans (by rw [hloss]; rfl)
    unfold State.fits
    rw [hdie, hcore, hloss, State.core_modCore_ne _ _ hjk]
    rfl
  exact State.moveEntries_one hmine hst hout hj (hfits'.trans hfits)

/-! ### The core that ends the bundle of a HALT -/

/-- The records of blocks do not tell which entry runs (R163). -/
theorem CoreKept.running {c d : Core} (h : CoreKept c d) :
    d.running.map (fun e => { e with blk := {} }) = c.running.map fun e => { e with blk := {} } := by
  have hfind (q : List QEntry) : (q.find? (·.st == .running)).map (fun e => { e with blk := {} }) =
      (q.map fun e => { e with blk := {} }).find? (·.st == .running) := by
    rw [List.find?_map]
    rfl
  unfold Core.running
  rw [hfind, hfind, h.2]

/-- Entries that differ in the records of their blocks alone. -/
theorem QEntry.eq_of_blk {x y : QEntry} (h : { y with blk := {} } = { x with blk := {} }) :
    y.handle = x.handle ∧ y.area = x.area ∧ y.st = x.st :=
  ⟨(congrArg QEntry.handle h :), (congrArg QEntry.area h :), (congrArg QEntry.st h :)⟩

/-- The bundle of a HALT ends, and then its core is halted (R245). -/
theorem runs_halt {s : State} (hlevel : s.my.level ≠ .u) : Runs .halt s fun t => ∃ v : State, t = v.halt s.cur ∧ v.cur = s.cur ∧
    v.dies = s.dies ∧ (∀ k, k ≠ s.cur → v.core k = s.core k) ∧ CoreKept s.me (v.core s.cur) ∧
    (v.hart s.cur).handler = s.my.handler := by
  have hop : opHalt ⟨s.my.pc, 0⟩ s = .commit { run := id, after := fun t => t.halt t.cur } := if_neg (by simpa using hlevel)
  refine runs_mono (runs_idle rfl (Hart.badRow_nil _) hop) fun t ⟨v, ht, hout, hcore, hmy⟩ => ?_
  obtain ⟨-, hdies, -, -, -, -, -, -, -, -, hcur, -, -, -, hcores⟩ := hout
  have hhandler : v.my.handler = s.my.handler := by
    rw [hmy]
    rfl
  have hme : v.me = v.core s.cur := congrArg v.core hcur
  exact ⟨v, hcur ▸ ht, hcur, hdies, hcores, hme ▸ hcore, (congrArg (·.hart.handler) hme).symm.trans hhandler⟩

/-- The core in hand after a HALT. -/
theorem State.halt_me {v : State} {k : Nat} (hcur : v.cur = k) : (v.halt k).me = (v.halt k).core k := by
  rw [State.me, State.halt_cur, hcur]

theorem State.slotOf_of_dies {s t : State} (h : t.dies = s.dies) (x : Word) : t.slotOf x = s.slotOf x := by
  unfold State.slotOf State.movedSlot State.die
  rw [h]

/-- Settles O47: what HALT does to a core, case by case, of the state that the end of its bundle leaves. -/
theorem haltForm : Obligations.HaltForm := by
  unfold Obligations.HaltForm
  intro s
  refine ⟨fun hu => ?_, fun hlevel => ⟨?_, ?_, ?_⟩⟩
  · exact traps_of_eq rfl rfl (by decide) (by decide) (if_pos (by simpa using hu))
  · refine runs_mono (runs_halt hlevel) fun t ⟨v, ht, hcur, _, hcores, _, _⟩ => ?_
    obtain ⟨hactive, hresident, hservice⟩ := v.halt_core s.cur
    rw [ht, State.halt_me hcur]
    refine ⟨by rw [hservice, if_pos rfl], hactive, hresident, fun k => ?_⟩
    rw [hservice]
    by_cases hk : k = s.cur
    · simp [hk]
    · rw [if_neg hk, hcores k hk]
      exact (and_iff_right hk).symm
  · intro e d i u hrun hhandler hslot _ hfail hfin hre
    refine runs_mono (runs_halt hlevel) fun t ⟨v, ht, _, hdies, _, hcore, hmy⟩ => ?_
    have hblk := hcore.running
    rw [hrun] at hblk
    obtain ⟨y, hy, hye⟩ := Option.map_eq_some_iff.1 hblk
    obtain ⟨hhandle, -, -⟩ := QEntry.eq_of_blk hye
    have hyslot : v.slotOf y.handle = some (d, i, u) := by rw [hhandle, State.slotOf_of_dies hdies, hslot]
    rw [ht, ← hhandle]
    exact State.halt_fails hy (hmy.trans hhandler) hyslot hfail hfin hre
  · intro x j hqueue hst hj hdie hfits
    refine runs_mono (runs_halt hlevel) fun t ⟨v, ht, hcur, hdies, hcores, ⟨_, hentries⟩, _⟩ => ?_
    rw [hqueue] at hentries
    obtain ⟨y, hy, hyx⟩ := List.map_eq_singleton_iff.1 hentries
    have hfits' : v.fits y j = true := by
      have hkeep : v.fits { y with blk := {} } j = s.fits { x with blk := {} } j := by
        unfold State.fits State.die
        rw [hyx, hcores j hj, hdies]
      exact hkeep.trans hfits
    obtain ⟨hhandle, harea, hyst⟩ := QEntry.eq_of_blk hyx
    obtain ⟨hnone, k, hk, z, hz, hzarea, hzhandle⟩ := State.halt_moves hy (hyst ▸ hst) hj hdie hfits'
    rw [ht, State.halt_me hcur]
    exact ⟨hnone, k, hk, z, hz, hzarea.trans harea, hzhandle.trans hhandle⟩

end Sys2Proof.Machine
end
